-- ==== Sys2Proof/Word.lean ====
section
/-!
DEFINITION. The data units of the LN-1716 (R8 to R10) as bit vectors, and the identifiers that its rules
number: threads, locks, quays, domains, bollards. Plain types only; the operations on them stand under
Sys2Proof/Machine.
-/
namespace Sys2Proof

/-- A nonet: an octet in bits 7:0 and a mark in bit 8 (data units table of 00_scope.md). -/
abbrev Nonet := BitVec 9
/-- A cell, the native word (18 bits). -/
abbrev Cell := BitVec 18
/-- A double: two cells, 36 bits. -/
abbrev Dbl := BitVec 36
/-- A data address: a 28-bit nonet address (R9). -/
abbrev DAddr := BitVec 28
/-- A code address: a 20-bit syllable address (R9). -/
abbrev CAddr := BitVec 20
/-- A physical thread ID (R10): physical lock in bits 11:7, core in bits 6:3, thread in bits 2:0. Lock 31
names the tollkeepers, core 0 for TK-A and core 1 for TK-B (R149). -/
abbrev Tid := BitVec 12
/-- A quay number, ingress or egress (16 at Stag, R4). -/
abbrev Quay := Fin 16
/-- A logical lock L0 to L15. -/
abbrev LLock := Fin 16
/-- A physical lock P0 to P16. -/
abbrev PLock := Fin 17
/-- A bollard number (R119 and the section Bollards: 4,096 bollards). -/
abbrev Bol := BitVec 12
/-- A core by one number: 16 × P + core for a lock core, 272 for TK-A and 273 for TK-B; the numbering of
the terminals of R464. -/
abbrev CoreRef := Fin 274
/-- Sparse data by key: keys strictly rising, no entry equal to what an unlisted key reads as. -/
abbrev Map (α : Type) := List (Nat × α)

end Sys2Proof
end

