-- ==== Sys2Proof/Syntax.lean ====
section
/-!
DEFINITION. The commands of the LN-1716: one constructor for each row of spec/opcode_table.json, with the
operands the row's rule gives it. A command names the thread, quay, lock, core or register it acts on, and the
master that issues it where a rule judges the issuer.
-/
namespace Sys2Proof

/-- Who issues a register access (R149, R354, R454): a thread, the host's target port, or the debug bus
master. -/
inductive Master where
  | thread (t : Tid)
  | host
  | debug
  deriving DecidableEq, Repr

/-- An event controller: that of a physical lock (R244), or the tollkeepers' (R270). -/
inductive Ctl where
  | lock (p : PLock)
  | tk
  deriving DecidableEq, Repr

/-- How a run command arrives: by a RUN packet of the session on the wire, or by a write of DBG_RUN (R456). -/
inductive RunVia where
  | wire (crc : BitVec 8)
  | reg (m : Master)
  deriving DecidableEq, Repr

/-- One ingress beat with its sidebands as the quay samples them (R341 to R346). `overrun` says that the
beat was presented at an edge at which R343 allows none, which the boundary's timing decides. -/
structure Beat where
  data : BitVec 144
  par : BitVec 4
  sof : Bool
  eof : Bool
  cnt : BitVec 5
  kind : BitVec 4
  ts : BitVec 32
  tsv : Bool
  err : Bool
  overrun : Bool
  deriving DecidableEq, Repr

/-- An item that ages while it waits (R116). -/
inductive AgeItem where
  | manifest (p : PLock) (index : Nat)
  | thread (t : Tid)
  | ticket (t : Tid) (slot : BitVec 2)
  | load (t : Tid) (index : Nat)
  | store (t : Tid) (index : Nat)
  | flit (port : Fin 30) (resp : Bool) (index : Nat)
  deriving DecidableEq, Repr

/-- The canal's virtual channels (R22). -/
inductive Channel where
  | flyboat
  | normal
  | towpath
  deriving DecidableEq, Repr

/-- A canal link by its receiver port and its credit pool, requests or responses (R22, R23). Ports 0–16 are
the physical locks, 17 ingress and 18 egress distributors, 19 waybill, 20 seal, 21 sluice, 22 timebase,
23 gauger, 24 keep controller, 25 host target, 26 host initiator, 27 debug bus master, 28 TK-A, 29 TK-B. -/
structure LinkId where
  port : Fin 30
  resp : Bool
  deriving DecidableEq, Repr

/-- What a failed march run reports (R325): a basin bank and row, or a core and stowage word. -/
structure MarchFail where
  stow : Bool
  core : BitVec 4
  bank : BitVec 5
  row : BitVec 14
  deriving DecidableEq, Repr

/-- A beat of a host port with its parity and LAST (R341, R342, R351). -/
structure HostBeat where
  data : BitVec 72
  par : BitVec 8
  last : Bool
  deriving DecidableEq, Repr

/-- A host channel descriptor as the block reads it from host memory (R361). -/
structure Desc where
  buf : BitVec 48
  len : BitVec 14
  deriving DecidableEq, Repr

/-- The commands, in the order of spec/opcode_table.json. -/
inductive Instr where
  /-- NOP: R186. -/
  | nop (t : Tid)
  /-- DROP: R186. -/
  | drop (t : Tid)
  /-- DUP: R186. -/
  | dup (t : Tid)
  /-- SWAP: R186. -/
  | swap (t : Tid)
  /-- OVER: R186. -/
  | over (t : Tid)
  /-- ROT: R186. -/
  | rot (t : Tid)
  /-- MINUS_ROT: R186. -/
  | minusRot (t : Tid)
  /-- NIP: R186. -/
  | nip (t : Tid)
  /-- TUCK: R186. -/
  | tuck (t : Tid)
  /-- PICK: R186. -/
  | pick (t : Tid)
  /-- TWO_DROP: R186. -/
  | twoDrop (t : Tid)
  /-- TWO_DUP: R186. -/
  | twoDup (t : Tid)
  /-- TWO_SWAP: R186. -/
  | twoSwap (t : Tid)
  /-- TWO_OVER: R186. -/
  | twoOver (t : Tid)
  /-- LIT: R186. -/
  | lit (t : Tid) (x : Cell)
  /-- LIT_D: R186. -/
  | litD (t : Tid) (d : Dbl)
  /-- SHORT_LITERAL: R180. -/
  | shortLiteral (t : Tid) (n : BitVec 6)
  /-- TO_R: R186. -/
  | toR (t : Tid)
  /-- R_FROM: R186. -/
  | rFrom (t : Tid)
  /-- R_FETCH: R186. -/
  | rFetch (t : Tid)
  /-- RDROP: R186. -/
  | rdrop (t : Tid)
  /-- TO_I: R186. -/
  | toI (t : Tid)
  /-- I_FROM: R186. -/
  | iFrom (t : Tid)
  /-- ADD: R187. -/
  | add (t : Tid)
  /-- SUB: R187. -/
  | sub (t : Tid)
  /-- ADDC: R187. -/
  | addc (t : Tid)
  /-- SUBC: R187. -/
  | subc (t : Tid)
  /-- NEGATE: R187. -/
  | negate (t : Tid)
  /-- CMP: R187. -/
  | cmp (t : Tid)
  /-- INC: R187. -/
  | inc (t : Tid)
  /-- DEC: R187. -/
  | dec (t : Tid)
  /-- AND: R187. -/
  | andOp (t : Tid)
  /-- OR: R187. -/
  | orOp (t : Tid)
  /-- XOR: R187. -/
  | xorOp (t : Tid)
  /-- NOT: R187. -/
  | notOp (t : Tid)
  /-- SHL: R188. -/
  | shl (t : Tid)
  /-- SHR: R188. -/
  | shr (t : Tid)
  /-- SAR: R188. -/
  | sar (t : Tid)
  /-- ROL: R188. -/
  | rol (t : Tid)
  /-- TST: R187. -/
  | tst (t : Tid)
  /-- ABS: R188. -/
  | absOp (t : Tid)
  /-- MIN: R187. -/
  | minOp (t : Tid)
  /-- MAX: R187. -/
  | maxOp (t : Tid)
  /-- MUL: R189. -/
  | mul (t : Tid)
  /-- MULS: R189. -/
  | muls (t : Tid)
  /-- DSTEP: R189. -/
  | dstep (t : Tid)
  /-- CLZ: R187. -/
  | clz (t : Tid)
  /-- POPC: R187. -/
  | popc (t : Tid)
  /-- NSWAP: R187. -/
  | nswap (t : Tid)
  /-- BE16_FROM: R187. -/
  | be16From (t : Tid)
  /-- TO_BE16: R187. -/
  | toBe16 (t : Tid)
  /-- ADD_D: R190. -/
  | addD (t : Tid)
  /-- SUB_D: R190. -/
  | subD (t : Tid)
  /-- NEGATE_D: R190. -/
  | negateD (t : Tid)
  /-- CMP_D: R190. -/
  | cmpD (t : Tid)
  /-- SHL_D: R190. -/
  | shlD (t : Tid)
  /-- SHR_D: R190. -/
  | shrD (t : Tid)
  /-- SAR_D: R190. -/
  | sarD (t : Tid)
  /-- S_TO_D: R190. -/
  | sToD (t : Tid)
  /-- U_TO_D: R190. -/
  | uToD (t : Tid)
  /-- A_STORE: R191. -/
  | aStore (t : Tid)
  /-- A_FETCH: R191. -/
  | aFetch (t : Tid)
  /-- B_STORE: R191. -/
  | bStore (t : Tid)
  /-- B_FETCH: R191. -/
  | bFetch (t : Tid)
  /-- PLUS_A: R191. -/
  | plusA (t : Tid)
  /-- PLUS_B: R191. -/
  | plusB (t : Tid)
  /-- MF_TO_A: R191. -/
  | mfToA (t : Tid)
  /-- MF_TO_B: R191. -/
  | mfToB (t : Tid)
  /-- A_SWAP_B: R191. -/
  | aSwapB (t : Tid)
  /-- U_TO_A: R191. -/
  | uToA (t : Tid)
  /-- LD_N: R192. -/
  | ldN (t : Tid)
  /-- LD_C: R192. -/
  | ldC (t : Tid)
  /-- LD_D: R192. -/
  | ldD (t : Tid)
  /-- ST_N: R192. -/
  | stN (t : Tid)
  /-- ST_C: R192. -/
  | stC (t : Tid)
  /-- ST_D: R192. -/
  | stD (t : Tid)
  /-- LDB_N: R192. -/
  | ldbN (t : Tid)
  /-- LDB_C: R192. -/
  | ldbC (t : Tid)
  /-- LDB_D: R192. -/
  | ldbD (t : Tid)
  /-- STB_N: R192. -/
  | stbN (t : Tid)
  /-- STB_C: R192. -/
  | stbC (t : Tid)
  /-- STB_D: R192. -/
  | stbD (t : Tid)
  /-- LR_C: R177. -/
  | lrC (t : Tid)
  /-- SC_C: R177. -/
  | scC (t : Tid)
  /-- TAS: R195. -/
  | tas (t : Tid)
  /-- FENCE: R173. -/
  | fence (t : Tid)
  /-- LOAD_VALUE_LANDS: R163. -/
  | loadValueLands (t : Tid)
  /-- STORE_DRAIN: R238. -/
  | storeDrain (t : Tid) (i : Fin 4)
  /-- B_CC: R196. -/
  | bCc (t : Tid) (cc : BitVec 4) (long : Bool) (off : Cell)
  /-- LOOP: R197. -/
  | loopOp (t : Tid) (long : Bool) (off : Cell)
  /-- CALL: R197. -/
  | call (t : Tid) (target : CAddr)
  /-- JUMP: R197. -/
  | jump (t : Tid) (target : CAddr)
  /-- RET: R197. -/
  | ret (t : Tid)
  /-- EXEC: R198. -/
  | exec (t : Tid)
  /-- JUMP_X: R198. -/
  | jumpX (t : Tid)
  /-- ERET: R258. -/
  | eret (t : Tid)
  /-- SYS: R197. -/
  | sys (t : Tid) (code : Nonet)
  /-- BRK: R459. -/
  | brk (t : Tid)
  /-- BERTH: R57. -/
  | berth (t : Tid)
  /-- ILLEGAL_SYLLABLE: R182. -/
  | illegalSyllable (t : Tid) (syl : Nonet)
  /-- INSTRUCTION_FETCH_FAULT: R161. -/
  | instructionFetchFault (t : Tid) (len : Fin 6)
  /-- TO_CTL: R149. -/
  | toCtl (t : Tid)
  /-- CTL_FROM: R149. -/
  | ctlFrom (t : Tid)
  /-- SHIP: R62. -/
  | ship (t : Tid)
  /-- SCUTTLE: R59. -/
  | scuttle (t : Tid)
  /-- TOW: R74. -/
  | tow (t : Tid)
  /-- MOOR: R76. -/
  | moor (t : Tid)
  /-- TAKE: R121. -/
  | take (t : Tid)
  /-- WAIT: R121. -/
  | wait (t : Tid)
  /-- WAIT_TIMEOUT: R119. -/
  | waitTimeout (t : Tid)
  /-- EVENT_WAIT: R254. -/
  | eventWait (t : Tid)
  /-- EVENT_WAIT_TIMEOUT: R254. -/
  | eventWaitTimeout (t : Tid)
  /-- GIVE: R122. -/
  | give (t : Tid)
  /-- INHERIT_LINK: R124. -/
  | inheritLink (b : Bol)
  /-- AGE_STEP: R116. -/
  | ageStep (i : AgeItem)
  /-- SCAN: R201. -/
  | scan (t : Tid)
  /-- STM: R204. -/
  | stm (t : Tid)
  /-- LDM: R205. -/
  | ldm (t : Tid)
  /-- SHOV_LO: R209. -/
  | shovLo (t : Tid)
  /-- SHOV_HI: R209. -/
  | shovHi (t : Tid)
  /-- UNSHOV: R210. -/
  | unshov (t : Tid)
  /-- TSAVE: R213. -/
  | tsave (t : Tid)
  /-- TREST: R213. -/
  | trest (t : Tid)
  /-- CUSTOMER_SLOT: R214. -/
  | customerSlot (t : Tid) (j : BitVec 5)
  /-- TO_F: R212. -/
  | toF (t : Tid) (o : Nonet)
  /-- F_FROM: R212. -/
  | fFrom (t : Tid) (o : Nonet)
  /-- FMOV: R212. -/
  | fmov (t : Tid) (o : Nonet)
  /-- TO_TSR: R277. -/
  | toTsr (t : Tid)
  /-- TSR_FROM: R212. -/
  | tsrFrom (t : Tid)
  /-- FADD: R280. -/
  | fadd (t : Tid) (half : Bool) (o : Nonet)
  /-- FSUB: R280. -/
  | fsub (t : Tid) (half : Bool) (o : Nonet)
  /-- FMUL: R280. -/
  | fmul (t : Tid) (half : Bool) (o : Nonet)
  /-- FMA: R280. -/
  | fma (t : Tid) (half : Bool) (o : Nonet)
  /-- FMIN: R284. -/
  | fmin (t : Tid) (half : Bool) (o : Nonet)
  /-- FMAX: R284. -/
  | fmax (t : Tid) (half : Bool) (o : Nonet)
  /-- FCMP: R283. -/
  | fcmp (t : Tid) (half : Bool) (o : Nonet)
  /-- FDST: R286. -/
  | fdst (t : Tid) (half : Bool) (o : Nonet)
  /-- FSQST: R286. -/
  | fsqst (t : Tid) (half : Bool) (o : Nonet)
  /-- FCVT_FROM_INT: R280. -/
  | fcvtFromInt (t : Tid) (half : Bool) (o : Nonet)
  /-- FCVT_TO_INT: R285. -/
  | fcvtToInt (t : Tid) (half : Bool) (o : Nonet)
  /-- FCVT_FORMAT: R285. -/
  | fcvtFormat (t : Tid) (half : Bool) (o : Nonet)
  /-- FRND: R285. -/
  | frnd (t : Tid) (half : Bool) (o : Nonet)
  /-- TALLY_COMPLETE: R277. -/
  | tallyComplete (t : Tid)
  /-- TALLY_DEFERRED_TRAP: R290. -/
  | tallyDeferredTrap (t : Tid)
  /-- EVENT_ENTRY: R256. -/
  | eventEntry (t : Tid)
  /-- DEADLINE_EXPIRE: R266. -/
  | deadlineExpire (t : Tid)
  /-- HALT_TAKEN: R241. -/
  | haltTaken (t : Tid)
  /-- DISPATCH: R19. -/
  | dispatch (p : PLock)
  /-- LINE_FILL: R227. -/
  | lineFill (t : Tid) (line : BitVec 15)
  /-- LCC_FILL: R327. -/
  | lccFill (t : Tid) (line : BitVec 15)
  /-- MICRO_RESUME: R308. -/
  | microResume (t : Tid)
  /-- YIELD_WATCHDOG: R309. -/
  | yieldWatchdog (t : Tid)
  /-- INGRESS_SOF: R38. -/
  | ingressSof (q : Quay) (b : Beat)
  /-- INGRESS_BEAT: R38. -/
  | ingressBeat (q : Quay) (b : Beat)
  /-- GAUGER_LEAF: R38. -/
  | gaugerLeaf (q : Quay)
  /-- INGRESS_EOF: R38. -/
  | ingressEof (q : Quay) (b : Beat)
  /-- MISSING_EOF: R70. -/
  | missingEof (q : Quay)
  /-- QUAR_WINDOW_EXPIRE: R71. -/
  | quarWindowExpire (q : Quay)
  /-- INGRESS_HOLD_RESUME: R46. -/
  | ingressHoldResume (q : Quay)
  /-- MANIFEST_ACCEPT: R40. -/
  | manifestAccept (q : Quay)
  /-- GAP_TIMEOUT: R66. -/
  | gapTimeout (d : BitVec 12)
  /-- PAIR_TIMEOUT: R141. -/
  | pairTimeout (d : BitVec 12) (seq : Cell)
  /-- SLUICE_SELECT: R100. -/
  | sluiceSelect (q : Quay)
  /-- EGRESS_BEAT: R347. -/
  | egressBeat (q : Quay)
  /-- EGRESS_STALL: R349. -/
  | egressStall (q : Quay)
  /-- TS_RETURN: R112. -/
  | tsReturn (q : Quay) (tag : BitVec 7) (ts : BitVec 32)
  /-- GATE_ENTRY_CHANGE: R101. -/
  | gateEntryChange (q : Quay)
  /-- GCL_CHANGE_TIME: R103. -/
  | gclChangeTime (q : Quay)
  /-- SG_ENTRY_CHANGE: R106. -/
  | sgEntryChange (g : BitVec 6)
  /-- EM: R91. -/
  | em (t : Tid) (slot : BitVec 2)
  /-- EMX: R91. -/
  | emx (t : Tid) (slot : BitVec 2)
  /-- INSERT: R91. -/
  | insert (t : Tid) (slot : BitVec 2)
  /-- DELETE: R91. -/
  | delete (t : Tid) (slot : BitVec 2)
  /-- LPM4: R91. -/
  | lpm4 (t : Tid) (slot : BitVec 2)
  /-- LPM6: R91. -/
  | lpm6 (t : Tid) (slot : BitVec 2)
  /-- TERN: R91. -/
  | tern (t : Tid) (slot : BitVec 2)
  /-- PROTECT: R94. -/
  | protect (t : Tid) (slot : BitVec 2)
  /-- VALIDATE: R95. -/
  | validate (t : Tid) (slot : BitVec 2)
  /-- CMAC: R98. -/
  | cmac (t : Tid) (slot : BitVec 2)
  /-- DERIVE: R98. -/
  | derive (t : Tid) (slot : BitVec 2)
  /-- FILTER: R105. -/
  | filter (t : Tid) (slot : BitVec 2)
  /-- NOW: R110. -/
  | now (t : Tid) (slot : BitVec 2)
  /-- CSUM: R89. -/
  | csum (t : Tid) (slot : BitVec 2)
  /-- REPARSE: R89. -/
  | reparse (t : Tid) (slot : BitVec 2)
  /-- HELPER_TIMEOUT: R78. -/
  | helperTimeout (t : Tid) (slot : BitVec 2)
  /-- ALARM_FIRE: R111. -/
  | alarmFire (a : BitVec 4)
  /-- TB_SNAP: R110. -/
  | tbSnap (m : Master)
  /-- TB_STEP: R109. -/
  | tbStep (m : Master)
  /-- TB_RATE_WRITE: R108. -/
  | tbRateWrite (m : Master) (v : Cell)
  /-- ALARM_ARM_WRITE: R111. -/
  | alarmArmWrite (m : Master) (r : Fin 5) (v : Cell)
  /-- TS_POP: R112. -/
  | tsPop (m : Master)
  /-- PACE_WINDOW_CLOSE: R31. -/
  | paceWindowClose (d : BitVec 5) (count : BitVec 13)
  /-- CANAL_FLIT_SEND: R24. -/
  | canalFlitSend (l : LinkId)
  /-- CANAL_FLIT_RECEIVE: R22. -/
  | canalFlitReceive (l : LinkId) (parityOk : Bool)
  /-- CREDIT_RETURN: R22. -/
  | creditReturn (l : LinkId) (ch : Channel)
  /-- VCCFG_WRITE: R26. -/
  | vccfgWrite (m : Master) (v : Cell)
  /-- REMAP: R17. -/
  | remap (m : Master) (v : Cell)
  /-- POOL_PLACEMENT_WRITE: R49. -/
  | poolPlacementWrite (m : Master) (p : PLock) (r : Fin 3) (v : Cell)
  /-- HOLD_ALLOC: R50. -/
  | holdAlloc (m : Master) (p : PLock)
  /-- HOLD_RETURN: R47. -/
  | holdReturn (m : Master) (p : PLock) (v : Cell)
  /-- QUAR_CLEAR: R71. -/
  | quarClear (m : Master) (q : Quay)
  /-- GAU_SWAP: R88. -/
  | gauSwap (m : Master)
  /-- WB_TDESC_WRITE: R482. -/
  | wbTdescWrite (m : Master) (v : Cell)
  /-- WB_INSERT: R482. -/
  | wbInsert (m : Master)
  /-- WB_DELETE: R482. -/
  | wbDelete (m : Master)
  /-- WB_READ_KEY: R482. -/
  | wbReadKey (m : Master)
  /-- WB_TERN_WRITE: R482. -/
  | wbTernWrite (m : Master) (index : BitVec 12)
  /-- WB_TERN_READ: R482. -/
  | wbTernRead (m : Master) (index : BitVec 12)
  /-- WB_BADCMD: R482. -/
  | wbBadcmd (m : Master) (op : BitVec 3)
  /-- WB_CMD_DONE: R482. -/
  | wbCmdDone
  /-- KEY_STAGE: R97. -/
  | keyStage (m : Master) (v : BitVec 16)
  /-- KEY_LOAD: R97. -/
  | keyLoad (m : Master) (v : Cell)
  /-- KEY_CLEAR: R97. -/
  | keyClear (m : Master) (v : Cell)
  /-- SACTL_WRITE: R97. -/
  | sactlWrite (m : Master) (v : Cell)
  /-- GCL_CHANGE: R103. -/
  | gclChange (m : Master) (q : Quay)
  /-- GCL_ENTRY_WRITE: R103. -/
  | gclEntryWrite (m : Master) (v : Cell)
  /-- GCL_ENTRY_READ: R101. -/
  | gclEntryRead (m : Master)
  /-- FILTER_COMMIT: R106. -/
  | filterCommit (m : Master) (v : Cell)
  /-- FSEL_WRITE: R107. -/
  | fselWrite (m : Master) (v : Cell)
  /-- SG_ENTRY_WRITE: R106. -/
  | sgEntryWrite (m : Master) (v : Cell)
  /-- SGCFG_WRITE: R106. -/
  | sgcfgWrite (m : Master) (v : Cell)
  /-- FB_ENABLE: R131. -/
  | fbEnable (m : Master) (v : Cell)
  /-- FBPART_WRITE: R142. -/
  | fbpartWrite (m : Master) (l : LLock) (v : Cell)
  /-- BOL_FORCE: R126. -/
  | bolForce (m : Master)
  /-- EVT_SRC_WRITE: R245. -/
  | evtSrcWrite (m : Master) (c : Ctl) (src : BitVec 9) (v : Cell)
  /-- EVT_CLAIM: R251. -/
  | evtClaim (m : Master) (c : Ctl)
  /-- EVT_DONE: R252. -/
  | evtDone (m : Master) (c : Ctl) (v : Cell)
  /-- EVT_RING: R247. -/
  | evtRing (m : Master) (c : Ctl) (v : Cell)
  /-- EVT_THR_WRITE: R265. -/
  | evtThrWrite (m : Master) (c : Ctl) (i : BitVec 7) (v : Cell)
  /-- THREAD_RESET: R262. -/
  | threadReset (m : Master) (c : Ctl) (i : BitVec 7)
  /-- THREAD_VIEW_WRITE: R179. -/
  | threadViewWrite (m : Master) (t : Tid) (r : BitVec 5) (v : Cell)
  /-- ICINV: R228. -/
  | icinv (m : Master) (k : CoreRef)
  /-- CNTCLR: R243. -/
  | cntclr (m : Master) (k : CoreRef)
  /-- PFLUSH: R233. -/
  | pflush (m : Master) (k : CoreRef) (mask : BitVec 8)
  /-- CNT_LO_READ: R243. -/
  | cntLoRead (m : Master) (k : CoreRef) (n : BitVec 3)
  /-- TLOPS_READ: R294. -/
  | tlopsRead (m : Master) (k : CoreRef)
  /-- TLKILL_READ: R294. -/
  | tlkillRead (m : Master) (k : CoreRef)
  /-- WL_MDATA_WRITE: R313. -/
  | wlMdataWrite (m : Master) (k : CoreRef) (v : Cell)
  /-- WL_NDATA_STAGE: R313. -/
  | wlNdataStage (m : Master) (k : CoreRef) (i : Fin 7) (v : Cell)
  /-- WL_NDATA_STORE: R313. -/
  | wlNdataStore (m : Master) (k : CoreRef) (v : Cell)
  /-- WL_DT_WRITE: R312. -/
  | wlDtWrite (m : Master) (k : CoreRef) (j : BitVec 5) (second : Bool) (v : Cell)
  /-- SCRUB_STEP: R320. -/
  | scrubStep (p : PLock)
  /-- BANK_HANDOVER_COPY: R322. -/
  | bankHandoverCopy (m : Master) (p : PLock) (b : Fin 17) (owner : BitVec 2)
  /-- BANK_HANDOVER_NOW: R322. -/
  | bankHandoverNow (m : Master) (p : PLock) (b : Fin 17) (owner : BitVec 2)
  /-- MIRROR_COPY_DONE: R322. -/
  | mirrorCopyDone (p : PLock)
  /-- MARCH_GO: R324. -/
  | marchGo (m : Master) (p : PLock) (v : Cell)
  /-- MARCH_TEST_DONE: R325. -/
  | marchTestDone (p : PLock) (fails : List MarchFail)
  /-- LCC_INVALIDATE: R327. -/
  | lccInvalidate (m : Master) (p : PLock)
  /-- PATCH_WRITE: R329. -/
  | patchWrite (m : Master) (u : BitVec 6) (v : Cell)
  /-- PRAM_WRITE: R329. -/
  | pramWrite (m : Master) (i : BitVec 11) (v : Cell)
  /-- PATCH_INVAL_DONE: R329. -/
  | patchInvalDone
  /-- KEEP_WRITE: R336. -/
  | keepWrite (m : Master) (count : BitVec 12)
  /-- KEEP_COPY: R336. -/
  | keepCopy (m : Master) (count : BitVec 12)
  /-- KEEP_FILL: R336. -/
  | keepFill (m : Master) (count : BitVec 12)
  /-- KEEP_VERIFY: R336. -/
  | keepVerify (m : Master) (count : BitVec 12)
  /-- KEEP_RETIRE: R335. -/
  | keepRetire (m : Master)
  /-- KEEP_CMD_DONE: R336. -/
  | keepCmdDone (bad : List (BitVec 12))
  /-- KEEP_SCRUB_STEP: R334. -/
  | keepScrubStep
  /-- POWER_FAIL_TRIP: R469. -/
  | powerFailTrip
  /-- HOST_READ: R354. -/
  | hostRead (beats : List HostBeat)
  /-- HOST_WRITE_ANSWERED: R354. -/
  | hostWriteAnswered (beats : List HostBeat)
  /-- HOST_WRITE_POSTED: R354. -/
  | hostWritePosted (beats : List HostBeat)
  /-- INIT_RESPONSE: R355, R359; the header's TAG and RSP, the data beats, and the header's parity lanes. -/
  | initResponse (tag : BitVec 8) (rsp : BitVec 4) (data : List HostBeat) (par : BitVec 8)
  /-- INIT_TIMEOUT: R359. -/
  | initTimeout (tag : BitVec 8)
  /-- HOST_QUIESCE: R360. -/
  | hostQuiesce (m : Master)
  /-- HOST_RESUME: R360. -/
  | hostResume (m : Master)
  /-- RX_RING_COPY: R363. -/
  | rxRingCopy (r : Fin 8) (desc : Desc) (err : Bool)
  /-- TX_DESCRIPTOR: R364. -/
  | txDescriptor (r : Fin 16) (desc : Desc) (data : List Nonet) (err : Bool)
  /-- PORST: R367. -/
  | porst
  /-- PORST_RELEASE: R402. -/
  | porstRelease
  /-- PWRUP_GNT: R368. -/
  | pwrupGnt
  /-- POWER_GOOD: R368. -/
  | powerGood
  /-- PWRUP_GNT_FALL: R368. -/
  | pwrupGntFall
  /-- PWR_ON: R397. -/
  | pwrOn (m : Master) (d : Fin 24)
  /-- PWR_OFF: R397. -/
  | pwrOff (m : Master) (d : Fin 24)
  /-- PWR_RETAIN: R398. -/
  | pwrRetain (m : Master) (d : Fin 24)
  /-- LOCK_ADMIT: R400. -/
  | lockAdmit (m : Master) (p : PLock)
  /-- ADMIT_COMPLETE: R400. -/
  | admitComplete (p : PLock)
  /-- LOCK_PARK: R396. -/
  | lockPark (m : Master) (p : PLock)
  /-- LOCK_UNFIT: R396. -/
  | lockUnfit (m : Master) (p : PLock)
  /-- EVAC_GO: R410. -/
  | evacGo (m : Master) (v : Cell)
  /-- EVAC_ABORT: R417. -/
  | evacAbort (m : Master)
  /-- EVAC_COPY_DONE: R411. -/
  | evacCopyDone
  /-- EVAC_DRAIN_DONE: R414. -/
  | evacDrainDone
  /-- EVAC_DRAIN_EXPIRE: R414. -/
  | evacDrainExpire
  /-- MOVE_HALT: R415. -/
  | moveHalt (m : Master) (thr : BitVec 7)
  /-- MOVE_GO: R415. -/
  | moveGo (m : Master) (thr : BitVec 7)
  /-- XCHG_FW: R422. -/
  | xchgFw (m : Master)
  /-- XCHG_PP: R421. -/
  | xchgPp (m : Master)
  /-- XCHG_MC: R422. -/
  | xchgMc (m : Master)
  /-- XCHG_CHECK_DONE: R420. -/
  | xchgCheckDone
  /-- TK_SWITCH: R424. -/
  | tkSwitch (m : Master)
  /-- TK_WD_SERVICE: R427. -/
  | tkWdService (m : Master)
  /-- TK_WATCHDOG_EXPIRE: R427. -/
  | tkWatchdogExpire (b : Bool)
  /-- MIRROR_COMPLETE: R423. -/
  | mirrorComplete
  /-- BWD_SERVICE: R429. -/
  | bwdService (m : Master) (v : Cell)
  /-- BWD_EXPIRE: R429. -/
  | bwdExpire
  /-- PACE_CAL_RUN: R428. -/
  | paceCalRun (m : Master) (p : PLock)
  /-- PACE_CAL_DONE: R428. -/
  | paceCalDone (p : PLock) (trim : BitVec 8) (low : Bool)
  /-- ISOLATE: R430. -/
  | isolate (m : Master)
  /-- ISO_RESUME: R430. -/
  | isoResume (m : Master)
  /-- PERIODIC_TEST: R417. -/
  | periodicTest
  /-- OD_READ: R382. -/
  | odRead (m : Master)
  /-- OD_WRITE_SEGMENT: R382. -/
  | odWriteSegment (m : Master) (ty : BitVec 4)
  /-- OD_WRITE_COMMIT: R382. -/
  | odWriteCommit (m : Master) (ty : BitVec 4)
  /-- DICT_CALL: R383. -/
  | dictCall (l : LLock) (x : Fin 16)
  /-- DICT_RESTORE: R377. -/
  | dictRestore (v : Dbl)
  /-- UNFIT_CLEAR: R407. -/
  | unfitClear (v : Nonet)
  /-- REMOTE_DOORBELL: R389. -/
  | remoteDoorbell (l : LLock) (v : Cell)
  /-- LPP_POP: R386. -/
  | lppPop (m : Master)
  /-- LPP_SHIP: R386. -/
  | lppShip (m : Master) (v : Cell)
  /-- LPP_NEW: R386. -/
  | lppNew (m : Master)
  /-- LPP_READ: R387. -/
  | lppRead (mf : DAddr)
  /-- LPP_WRITE: R387. -/
  | lppWrite (mf : DAddr)
  /-- SESSION_OPEN: R390. -/
  | sessionOpen (mf : DAddr)
  /-- LPP_READ_BLOCK: R388. -/
  | lppReadBlock (mf : DAddr)
  /-- LPP_WRITE_BLOCK: R388. -/
  | lppWriteBlock (mf : DAddr)
  /-- LPP_SUBSCRIBE: R389. -/
  | lppSubscribe (mf : DAddr)
  /-- LPP_ABORT: R388. -/
  | lppAbort (mf : DAddr)
  /-- NOTIFY_DUE: R389. -/
  | notifyDue (i : BitVec 6)
  /-- SESSION_IDLE_EXPIRE: R390. -/
  | sessionIdleExpire (n : BitVec 4)
  /-- BLOCK_TRANSFER_EXPIRE: R388. -/
  | blockTransferExpire (n : BitVec 4)
  /-- BREAK: R435. -/
  | oxBreak
  /-- SESSION_END_PULSE: R435. -/
  | sessionEndPulse
  /-- BLOCK_RESET_LOW: R438. -/
  | blockResetLow
  /-- BRESET: R438. -/
  | breset (m : Master)
  /-- BLOCK_RESET_RELEASE: R439. -/
  | blockResetRelease
  /-- PACKET_GAP_EXPIRE: R437. -/
  | packetGapExpire (inCommand : Bool)
  /-- SESSION_TIMEOUT: R437. -/
  | sessionTimeout
  /-- DBG_CMD_TIMEOUT: R443. -/
  | dbgCmdTimeout
  /-- IDENT: R441. -/
  | dbgIdent (crc : BitVec 8)
  /-- CHAL: R449. -/
  | dbgChal (target crc : BitVec 8)
  /-- AUTH: R449. -/
  | dbgAuth (target : BitVec 8) (tag : BitVec 64) (crc : BitVec 8)
  /-- RD: R454. -/
  | dbgRd (space : BitVec 8) (addr : BitVec 32) (count crc : BitVec 8)
  /-- WR: R454. -/
  | dbgWr (space : BitVec 8) (addr : BitVec 32) (count : BitVec 8) (items : List (BitVec 72)) (crc : BitVec 8)
  /-- VTRD: R464. -/
  | dbgVtrd (term : BitVec 16) (max crc : BitVec 8)
  /-- VTWR: R464. -/
  | dbgVtwr (term : BitVec 16) (n : BitVec 8) (octets : List (BitVec 8)) (crc : BitVec 8)
  /-- REPEAT: R441. -/
  | dbgRepeat (crc : BitVec 8)
  /-- END: R441. -/
  | dbgEnd (crc : BitVec 8)
  /-- HALT: R456. -/
  | dbgHalt (via : RunVia) (tk all : Bool) (ptid : Tid)
  /-- RESUME: R456. -/
  | dbgResume (via : RunVia) (tk all : Bool) (ptid : Tid)
  /-- STEP: R458. -/
  | dbgStep (via : RunVia) (tk all : Bool) (ptid : Tid)
  /-- DEBUG_RESET: R456. -/
  | dbgReset (via : RunVia) (tk all : Bool) (ptid : Tid)
  /-- LOAD: R460. -/
  | dbgLoad (via : RunVia) (tk all : Bool) (ptid : Tid) (area : DAddr)
  /-- AUTH_LOCKOUT_END: R449. -/
  | authLockoutEnd
  /-- LC_CHAL: R449. -/
  | lcChal (m : Master) (target : BitVec 8)
  /-- LC_TRANSITION: R448. -/
  | lcTransition (m : Master)
  /-- LC_KEY_WRITE: R452. -/
  | lcKeyWrite (m : Master) (v : BitVec 16)
  /-- VT_TX: R464. -/
  | vtTx (t : Tid) (octet : BitVec 8)
  /-- VT_RX: R464. -/
  | vtRx (t : Tid)
  /-- VTOUT_READ: R464. -/
  | vtoutRead (m : Master)
  /-- VTIN_WRITE: R464. -/
  | vtinWrite (m : Master) (octet : BitVec 8)
  /-- REGISTER_WRITE: R476. -/
  | registerWrite (m : Master) (a : DAddr) (v : Cell)
  /-- FAULT_HOLD_END: R366. -/
  | faultHoldEnd
  /-- READ_SLOT: R436. -/
  | readSlot
  /-- CLKOK_CHANGE: R371. -/
  | clkokChange (egress : Bool) (q : Quay) (ok : Bool)
  /-- IC_INVALIDATION_DONE: R228. -/
  | icInvalidationDone (k : CoreRef)
  /-- LCC_INVALIDATION_DONE: R327. -/
  | lccInvalidationDone (p : PLock)
  deriving DecidableEq, Repr

end Sys2Proof
end

