-- ==== Sys2Proof/Decode.lean ====
section
/-!
DEFINITION. The commands have no binary words of their own: no row of spec/opcode_table.json gives bits, so no
word of the table spells a command. What the spec does encode is the Bolcia instruction stream (R180 to R182):
`decodeSyllables` reads the instruction at a thread's P from its syllables, as the command that issues it.
-/
namespace Sys2Proof

/-- The command that a word of the table spells: none, because no row gives bits. -/
def decodeTableWord (_nbits _w : Nat) : Option Instr := none

/-- The primary syllables without operand syllables, by value (R186 to R192, R200, R202, R207, R213). -/
def primaryRows : List (Nat × (Tid → Instr)) :=
  [(0x000, .nop), (0x001, .drop), (0x002, .dup), (0x003, .swap), (0x004, .over), (0x005, .rot), (0x006, .minusRot),
   (0x007, .nip), (0x008, .tuck), (0x009, .pick), (0x00A, .twoDrop), (0x00B, .twoDup), (0x00C, .twoSwap),
   (0x00D, .twoOver), (0x010, .toR), (0x011, .rFrom), (0x012, .rFetch), (0x013, .rdrop), (0x014, .toI),
   (0x015, .iFrom)] ++
  [(0x020, .add), (0x021, .sub), (0x022, .addc), (0x023, .subc), (0x024, .negate), (0x025, .cmp), (0x026, .inc),
   (0x027, .dec), (0x028, .andOp), (0x029, .orOp), (0x02A, .xorOp), (0x02B, .notOp), (0x02C, .shl), (0x02D, .shr),
   (0x02E, .sar), (0x02F, .rol), (0x030, .tst), (0x031, .absOp), (0x032, .minOp), (0x033, .maxOp), (0x034, .mul),
   (0x035, .muls), (0x036, .dstep), (0x037, .clz), (0x038, .popc), (0x039, .nswap), (0x03A, .be16From),
   (0x03B, .toBe16)] ++
  [(0x040, .addD), (0x041, .subD), (0x042, .negateD), (0x043, .cmpD), (0x044, .shlD), (0x045, .shrD), (0x046, .sarD),
   (0x047, .sToD), (0x048, .uToD), (0x050, .aStore), (0x051, .aFetch), (0x052, .bStore), (0x053, .bFetch),
   (0x054, .plusA), (0x055, .plusB), (0x056, .mfToA), (0x057, .mfToB), (0x058, .aSwapB), (0x059, .uToA)] ++
  [(0x060, .ldN), (0x061, .ldC), (0x062, .ldD), (0x063, .stN), (0x064, .stC), (0x065, .stD), (0x066, .ldbN),
   (0x067, .ldbC), (0x068, .ldbD), (0x069, .stbN), (0x06A, .stbC), (0x06B, .stbD), (0x06C, .lrC), (0x06D, .scC),
   (0x06E, .tas), (0x06F, .fence)] ++
  [(0x070, .toCtl), (0x071, .ctlFrom), (0x072, .stm), (0x073, .ldm), (0x074, .shovLo), (0x075, .shovHi),
   (0x076, .unshov), (0x077, .tsave), (0x078, .trest), (0x080, .ship), (0x081, .scuttle), (0x082, .tow), (0x083, .moor),
   (0x084, .take), (0x085, .wait), (0x086, .give), (0x087, .scan)]

/-- The binary32 and binary16 operations in the order of their number k (R212). -/
def tallyRows : List (Tid → Bool → Nonet → Instr) :=
  [.fadd, .fsub, .fmul, .fma, .fmin, .fmax, .fcmp, .fdst, .fcvtFromInt, .fcvtToInt, .fcvtFormat, .frnd]

/-- The Tally syllables 0x160 to 0x17F but 0x167, with their operand syllable (R212). -/
def decodeTally (t : Tid) (s : Nat) (o : Nonet) : Option Instr :=
  match s with
  | 0x160 => some (.toF t o)
  | 0x161 => some (.fFrom t o)
  | 0x162 => some (.fmov t o)
  | 0x163 => some (.toTsr t)
  | 0x164 => some (.tsrFrom t)
  | 0x165 => some (.fsqst t false o)
  | 0x166 => some (.fsqst t true o)
  | _ => (tallyRows[(s - 0x168) % 12]?).map fun f => f t (decide (0x174 ≤ s)) o

/-- The control syllables without operand syllables (R197). -/
def controlRows : List (Nat × (Tid → Instr)) :=
  [(0x1AA, .ret), (0x1AB, .exec), (0x1AC, .jumpX), (0x1AD, .eret), (0x1AF, .brk), (0x1B0, .berth)]

/-- How many operand syllables follow a first syllable (R180). -/
def operandCount (s : Nat) : Nat :=
  if s = 0x00E then 2 else if s = 0x00F then 4
  else if 0x160 ≤ s ∧ s < 0x180 ∧ s ≠ 0x167 then 1
  else if 0x180 ≤ s ∧ s < 0x190 then 1
  else if 0x190 ≤ s ∧ s < 0x1A8 then 2
  else if s = 0x1A8 ∨ s = 0x1AE then 1
  else if s = 0x1A9 then 2 else 0

/-- Two operand syllables as one 18-bit field, the most significant first (R181). -/
def wideField (hi lo : Nonet) : Cell := hi ++ lo

/-- A short offset, sign-extended to the field of a long one (R198). -/
def shortField (o : Nonet) : Cell := o.signExtend 18

/-- The command of a first syllable and its operand syllables; `none` where the tables assign the syllable no
instruction or the operands are not of its number (R180 to R182, R197). -/
def decodeOperands (t : Tid) (s : Nat) : List Nonet → Option Instr
  | [] =>
    if 0x100 ≤ s ∧ s < 0x140 then some (.shortLiteral t (BitVec.ofNat 6 (s - 0x100)))
    else if 0x140 ≤ s ∧ s < 0x160 then some (.customerSlot t (BitVec.ofNat 5 (s - 0x140)))
    else ((primaryRows ++ controlRows).lookup s).map fun f => f t
  | [o] =>
    if 0x160 ≤ s ∧ s < 0x180 then decodeTally t s o
    else if 0x180 ≤ s ∧ s < 0x190 then some (.bCc t (BitVec.ofNat 4 s) false (shortField o))
    else if s = 0x1A8 then some (.loopOp t false (shortField o))
    else if s = 0x1AE then some (.sys t o)
    else none
  | [a, b] =>
    if s = 0x00E then some (.lit t (wideField a b))
    else if 0x190 ≤ s ∧ s < 0x1A0 then some (.bCc t (BitVec.ofNat 4 s) true (wideField a b))
    else if 0x1A0 ≤ s ∧ s < 0x1A4 then some (.call t (BitVec.ofNat 2 s ++ wideField a b))
    else if 0x1A4 ≤ s ∧ s < 0x1A8 then some (.jump t (BitVec.ofNat 2 s ++ wideField a b))
    else if s = 0x1A9 then some (.loopOp t true (wideField a b))
    else none
  | [a, b, c, d] => if s = 0x00F then some (.litD t (wideField a b ++ wideField c d)) else none
  | _ => none

/-- The instruction of thread `t` whose syllables lie at its P, and how many of them it has (R180, R181): every
first syllable that the tables do not assign is the ILLEGAL_SYLLABLE command (R182), and `none` means only that
operand syllables are lacking. `wait` is read as WAIT, whose operand w selects the event wait. -/
def decodeSyllables (t : Tid) : List Nonet → Option (Instr × Nat)
  | [] => none
  | s :: rest =>
    let n := operandCount s.toNat
    if rest.length < n then none
    else some ((decodeOperands t s.toNat (rest.take n)).getD (.illegalSyllable t s), 1 + n)

end Sys2Proof
end

