-- ==== Sys2Proof/Config.lean ====
section
/-!
DEFINITION. The free values of the model: constants without a body, for what the spec leaves open. Each is
applied to the operands it depends on or to the counter Mach.free, which a step that uses one advances. No
proof can see a value of them. (notes/assumptions, entries 3 to 9.)
-/
namespace Sys2Proof.Config

/-- A nonce drawn from the D0 random source (R449); DESIGN CHOICE entry 3. -/
opaque nonce : Nat → BitVec 64
/-- The session number that the firmware chooses for a new LPP session (R390); DESIGN CHOICE entry 3. -/
opaque sessionNumber : Nat → BitVec 16
/-- The block's 8-octet nonce Nb of a new LPP session (R390); DESIGN CHOICE entry 3. -/
opaque sessionNonce : Nat → BitVec 64
/-- Whether an insert of a new key into a table at or below 85 % full finds no place (R90 leaves it open). -/
opaque insertFails : Nat → Bool
/-- The step state that a division or square-root step leaves in fa: the part's own encoding (R287). The
arguments are the operation, the operand, the divisor and the step count. -/
opaque stepState : Nat → BitVec 32 → BitVec 32 → Nat → BitVec 36
/-- What a step leaves in fd bits 31:0 stands for its operand under a mask of the part's own (R287). The arguments are the
operation and the count. -/
opaque stepMask : Nat → Nat → BitVec 32
/-- The value of a finish whose sequence broke R287: a valid encoding, not specified. -/
opaque brokenFinish : Nat → BitVec 32
/-- The exceptions OF, UF and NX that such a finish raises, not specified. -/
opaque brokenFlags : Nat → BitVec 3
/-- How many wrong-path instructions of the thread were selected before a redirect (R229: selected and then
squashed, at most two). -/
opaque wrongPath : Nat → BitVec 2
/-- HWREV of OD 0x1000.03, per silicon (R379). -/
opaque hwRev : Cell
/-- SERIAL of OD 0x1000.04, 16 octets per block (R379). -/
opaque serial : BitVec 128
/-- Whether a `ret` is mispredicted: it depends on how many handshakes before it its thread changed the return
stack (R232). -/
opaque retMissed : Nat → Bool
/-- A value that no rule states, by counter: the ADDR of an instruction-fetch fault on an uncorrectable code line. -/
opaque freeCell : Nat → Cell

/-- How many commands of classes 0 to 6 a helper unit's queue holds beside the 16 entries kept for class 7, at least one (R74, R80
give no number); by unit, DESIGN CHOICE entry 89. -/
opaque helperEntries : Nat → Nat

/-- What a unit answers to a windlass EXT request of a built-in microword, whose operations no chapter lists (R302): the
response in bits 71:0 and its error in bit 72; DESIGN CHOICE entry 84. -/
opaque extResponse : Nat → BitVec 73

end Sys2Proof.Config
end

