-- ==== Sys2Proof/Machine/State.lean ====
section
/-!
DEFINITION. The state of the LN-1716 as plain data: Mach holds all that the spec gives the block, State adds the
queue of waiting commands. Registers whose content is a plain cell live in Mach.regs under their physical
address; what has structure (threads, locks, quays, gates, bollards, tables) lives in a record of its own.
-/
namespace Sys2Proof.Machine

/-- Why a command stops. -/
inductive Fault where
  /-- Raised by a command that names a thread the block does not have (R7: numbers above the counts are never
  issued). Safe: the hardware never meets such a command. -/
  | noSuchThread
  deriving DecidableEq, Repr

/-- Why a command has no meaning here. -/
inductive Refusal where
  /-- The command is not modelled. Safe. -/
  | notModelled (mnemonic : String)
  deriving DecidableEq, Repr

/-! ## Threads (R143 to R179, R255 to R268, R272 to R291) -/

/-- One bank of a thread: the normal or the fast one (R143, R155). Stacks are listed top first. -/
structure Bank where
  ds : List Cell
  rs : List CAddr
  a : DAddr
  b : DAddr
  flg : Cell
  deriving DecidableEq, Repr

/-- The width of a data access (R192); `block` is a block operation (R259). -/
inductive Width where
  | nonet | cell | double | block
  deriving DecidableEq, Repr

/-- What a data address names: stowage of a core, a basin of a physical lock, the keep store, the ternary view, a
register, the host window, or nothing. -/
inductive Place where
  | stow (k off : Nat)
  | basin (p off : Nat)
  | keep (off : Nat)
  | tern (off : Nat)
  | reg (a : Nat)
  | host (off : Nat)
  | nowhere
  deriving DecidableEq, Repr

/-- A load in flight (R162 to R164). `age` is 0 at the load itself, 1 while its delay instruction is due, 2 when
only its value is awaited. `slot` counts from the bottom of the stack of the bank it was issued in; `at_` holds the places of
its nonets as the map translated them when it was accepted (R15), `pri` and `waited` its priority and how long it has waited, in ns
(R114, R116). -/
structure Load where
  slot : Nat
  width : Width
  addr : DAddr
  at_ : List Place
  pri : BitVec 3
  waited : Nat
  pc : BitVec 21
  fast : Bool
  age : Nat
  value : Option Dbl
  tas : Bool
  deriving DecidableEq, Repr

/-- A mode change under way (R166): the bits of FLG to write (and the whole value when K changes), or LVL, U,
MF. -/
inductive ModeChg where
  | flg (mask value : Cell)
  | bank (value : Cell)
  | lvl (v : BitVec 4)
  | u (v : DAddr)
  | mf (v : DAddr)
  deriving DecidableEq, Repr

/-- A mode change and how many instructions still run before it applies. -/
structure PendMode where
  left : Nat
  chg : ModeChg
  deriving DecidableEq, Repr

/-- A store-buffer entry (R238), with the priority of its issue and the ns it has waited (R114, R116). -/
structure SbEntry where
  addr : DAddr
  width : Width
  value : Dbl
  helm : Bool
  pri : BitVec 3
  waited : Nat
  deriving DecidableEq, Repr

/-- What a thread is parked on (R223). `retry` re-issues its instruction when a transaction or an entry frees; `drain` is a load that waits for
buffered stores (R239);
`queue` a `tow` that waits for an entry of a unit's queue (R74); `fetch` waits for a line that the instruction cache missed;
`shov` a shov-family instruction that waits for its target (R211, R238); `context` is the stall for a windlass context (R224),
which does not show as parked. -/
inductive Park where
  | none
  | context
  | load
  | retry
  | drain (addr : DAddr) (len : Nat)
  | queue (unit : Nat)
  | fetch
  | fence
  | shov (target : Tid)
  | moor (tkt : Cell)
  | wait
  deriving DecidableEq, Repr

/-- What a queued `wait` waits for (R121, R254). -/
inductive WaitFor where
  | bollard (b : Bol)
  | source (s : BitVec 9)
  | anySource
  deriving DecidableEq, Repr

/-- A queued `wait`: its place, its instruction and FDEPTH there, the monotonic count at which it times out if it does (R119), and an outcome that came while
a handler ran (R123). -/
structure QWait where
  what : WaitFor
  until_ : Option (BitVec 64)
  pc : BitVec 21
  depth : BitVec 4
  outcome : Option Cell
  deriving DecidableEq, Repr

/-- The state of a dock slot (R74): free, with a command, or with a completed result that was not moored. -/
inductive DockState where
  | free | busy | complete
  deriving DecidableEq, Repr

/-- A result that a slot still awaits only to discard it: of a command that timed out (R78), or of a ticket dropped by
`berth`, a fault or a reset (R79); or that the unit of a busy slot sent its abandonment notice (R78). -/
inductive Owed where
  | nothing | timedOut | dropped | abandoned
  deriving DecidableEq, Repr

/-- A dock slot's command (R73 to R79): `cls` is the base priority of its thread at issue, `pri` the effective one, `waited` the ns it has waited. -/
structure Dock where
  state : DockState
  owed : Owed
  serial : BitVec 16
  cmd : Cell
  ops : List Cell
  helm : Bool
  epoch : BitVec 8
  cls : BitVec 3
  pri : BitVec 3
  waited : Nat
  mf : DAddr
  since : Nat
  deriving DecidableEq, Repr

/-- Micro-state that a yield point or a fault saves: the shadow of R308. -/
structure Shadow where
  mt0 : Dbl
  mt1 : Dbl
  mt2 : Dbl
  mt3 : Dbl
  mz : Bool
  mc : Bool
  mn : Bool
  stack : List (BitVec 11)
  mpc : BitVec 11
  out : BitVec 3
  cust : Bool
  floor : BitVec 5
  deriving DecidableEq, Repr

/-- A response of a windlass request that is outstanding, or that came and is held until its routine takes it (R304, R306):
FDEPTH of the routine, the access, and what came: nothing yet, an error, or a value. -/
structure MicroRsp where
  depth : BitVec 4
  addr : DAddr
  len : Nat
  value : Option (Option (BitVec 72))
  deriving DecidableEq, Repr

/-- An outstanding Tally operation (R275 to R278). Its result and exceptions are those of its place in program
order. `first` and `second` are the registers it writes; a later `>tsr` clears `accrue`. -/
structure TallyOp where
  syl : Nonet
  pc : BitVec 21
  fd : BitVec 3
  result : Dbl
  fa : Option (BitVec 3 × Dbl)
  exc : BitVec 5
  enabled : BitVec 5
  accrue : Bool
  precise : Bool
  deriving DecidableEq, Repr

/-- Tally state of a thread (R272, R279), with the INFO of a due deferred trap (R290, R291). -/
structure Tally where
  f : List Dbl
  tsr : Cell
  queue : List TallyOp
  due : Option Cell
  deriving DecidableEq, Repr

/-- A hardware thread. `wait` is its queued `wait`, `ended` those that ended while a handler that then queued one ran (R123), `waited` the ns of its present wait (R116).
`shWords` holds words that a routine loaded into a shadow that has no VALID (R302); `slot` is the
packet-program slot active at its last dispatch or reset (R421). -/
structure Thread where
  p : BitVec 21
  slot : Bool
  norm : Bank
  fast : Bank
  fastOn : Bool
  i : Cell
  u : DAddr
  mf : DAddr
  lvl : BitVec 4
  loads : List Load
  modes : List PendMode
  sb : List SbEntry
  resv : Option Nat
  docks : List Dock
  tows : BitVec 16
  park : Park
  wait : Option QWait
  ended : List QWait
  berthed : Bool
  hasBerthed : Bool
  fbBerthed : Bool
  halted : Bool
  faulted : Bool
  tfc : BitVec 4
  cause : BitVec 3
  haltReq : Option (BitVec 3)
  stepping : Bool
  bySession : Bool
  fdepth : BitVec 4
  shadow : Option Shadow
  shWords : List Cell
  mr : BitVec 72
  md : BitVec 72
  np : Option (BitVec 21)
  rsps : List MicroRsp
  tops : List (BitVec 20)
  tally : Tally
  cls : BitVec 3
  inh : BitVec 3
  waited : Nat
  wdArmed : Bool
  wdBudget : Cell
  wdEnd : Nat
  wdLeft : Option Nat
  hist : BitVec 64
  deriving DecidableEq, Repr

/-- An empty bank. -/
def Bank.empty : Bank := ⟨[], [], 0, 0, 0⟩

/-- A free dock slot. -/
def Dock.empty : Dock := ⟨.free, .nothing, 0, 0, [], false, 0, 0, 0, 0, 0, 0⟩

/-- Tally after PORST_N: TSR zero (R274); f0 to f7 zero, DESIGN CHOICE entry 1. -/
def Tally.empty : Tally := ⟨List.replicate 8 0, 0, [], none⟩

/-- A thread as R144 leaves it, at reset entry `entry`, FLG 0x2_0000. -/
def Thread.fresh (entry : BitVec 21) : Thread :=
  { p := entry, slot := false, norm := { Bank.empty with flg := 0x20000 }, fast := Bank.empty,
    fastOn := false, i := 0, u := 0, mf := 0, lvl := 0, loads := [], modes := [], sb := [], resv := none,
    docks := List.replicate 4 Dock.empty, tows := 0, park := .none, wait := none, ended := [], berthed := false,
    hasBerthed := false, fbBerthed := false, halted := false, faulted := false, tfc := 0, cause := 0, haltReq := none,
    stepping := false, bySession := false, fdepth := 0, shadow := none, shWords := [], mr := 0, md := 0, np := none, rsps := [], tops := [],
    tally := Tally.empty, cls := 0, inh := 0, waited := 0, wdArmed := false, wdBudget := 0, wdEnd := 0, wdLeft := none, hist := 0 }

/-- The reset entry of the thread with this physical ID (R401): syllable 0, and 0x10 × t for a tollkeeper
thread. -/
def resetEntry (t : Nat) : BitVec 21 :=
  if t / 128 = 31 then BitVec.ofNat 21 (16 * (t % 8)) else 0

/-- What an unlisted thread reads as. -/
def threadReset (t : Nat) : Thread := Thread.fresh (resetEntry t)

/-! ## Locks (R18, R19, R46 to R50, R321 to R327, R395 to R400) -/

/-- The states of a physical lock (R395). -/
inductive LockState where
  | off | held | retained | spare | serving | draining | unfit | admitting
  deriving DecidableEq, Repr

/-- A queued manifest (R18), and the ns it has waited since the lock-keeper queued it (R117). -/
structure QEntry where
  mf : DAddr
  cls : BitVec 3
  kind : BitVec 4
  waited : Nat
  deriving DecidableEq, Repr

/-- A mirror copy under way (R322): the bank, the owner it passes to, and whether it is the mirror-out. -/
structure HandOver where
  bank : Nat
  owner : BitVec 2
  out : Bool
  march : Bool
  deriving DecidableEq, Repr

/-- A line of code held by a cache or a line buffer (R226, R327): its line number, its slot in bit 15 (R421), its
syllables, the time of its last use, and whether its parity is bad. -/
structure CodeLine where
  line : BitVec 16
  syls : List Nonet
  used : Nat
  par : Bool
  deriving DecidableEq, Repr

/-- A physical lock: its state and epoch, the lock-keeper's queue, the pools, the memory engines and its code
cache. `queue` is in arrival order; `holds` and `slots` list what is taken; `march` is the mode and bank of a run. -/
structure Lock where
  state : LockState
  epoch : BitVec 8
  everAdmitted : Bool
  calibrating : Bool
  queue : List QEntry
  lastCore : BitVec 4
  holds : Map Bool
  slots : Map Bool
  scrubRow : BitVec 14
  copy : Option HandOver
  march : Option (Nat × Nat)
  spareRetired : Bool
  stowageFailed : Bool
  lcc : Map CodeLine
  deriving DecidableEq, Repr

/-- A lock whose domain is off. -/
def Lock.off : Lock := ⟨.off, 0, false, false, [], 15, [], [], 0, none, none, false, false, []⟩

/-! ## Cores (R224 to R231, R295 to R313) -/

/-- A windlass context (R306, R309): its thread, the syllable of its instruction, its micro-state, the microwords run since
the last yield point, whether the last response carried an error, the last effective address, and whether the microword at MPC is a
WAIT that has acted. -/
structure Ctx where
  tid : Tid
  syl : Nonet
  sh : Shadow
  ran : Nat
  error : Bool
  lastEa : DAddr
  waits : Bool
  deriving DecidableEq, Repr

/-- A predictor entry (R230): base tables use only `ctr`. -/
structure PredEntry where
  thr : BitVec 3
  tag : BitVec 8
  ctr : Int
  use : Bool
  deriving DecidableEq, Repr

/-- A core: windlass contexts and stores, the words of the stores whose parity is bad (R295), caches and predictor, and the
thread selected last (CR_STAT.LAST). Key of `pred` is 1,024 × table + index; key of `lines` is 2 × thread + half. -/
structure Core where
  main : Option Ctx
  reserved : Option Ctx
  micro : Map Cell
  nano : Map (BitVec 144)
  badMicro : Map Bool
  badNano : Map Bool
  stage : List Cell
  icache : Map CodeLine
  lines : Map CodeLine
  pred : Map PredEntry
  last : BitVec 3
  deriving DecidableEq, Repr

/-- A core after PORST_N. -/
def Core.empty : Core := ⟨none, none, [], [], [], [], List.replicate 7 0, [], [], [], 0⟩

/-! ## Frames: ingress, gates, egress (R38 to R72, R341 to R349) -/

/-- What the gauger delivers for a frame (R38 step 3, R54). -/
structure Parse where
  cls : Option (BitVec 3)
  hash : Cell
  h1 : BitVec 9
  h2 : BitVec 9
  payoff : BitVec 9
  leaf : BitVec 8
  vlans : BitVec 2
  proto : BitVec 4
  l4 : BitVec 3
  exth : BitVec 3
  frag : Bool
  l3cs : BitVec 2
  l4cs : BitVec 2
  emp : BitVec 2
  pstop : Bool
  deriving DecidableEq, Repr

/-- A copy of a frame being written into one lock's holds. -/
structure Copy where
  home : LLock
  holds : List Nat
  fill : Nat
  slot : Option Nat
  deriving DecidableEq, Repr

/-- A frame open on an ingress quay, or ended and not yet completed. `bank` and
`root` are the gauger's when it began, `start` the
headroom of its first hold, `marks` the header offsets that the gauger found; `nonets` holds what was accepted, with
marks, and `stored` counts those already in holds; `lpp` once
the distributor took it for the firmware. -/
structure OpenFrame where
  kind : BitVec 4
  time : BitVec 72
  tsv : Bool
  bank : Bool
  root : Nat
  start : Nat
  nonets : List Nonet
  marks : List Nat
  stored : Nat
  err : Bool
  viol : Bool
  trunc : Bool
  discard : Bool
  oversize : Bool
  parse : Option Parse
  cls : BitVec 3
  dom : BitVec 12
  copies : List Copy
  iq : BitVec 4
  fromHost : Bool
  lpp : Bool
  deriving DecidableEq, Repr

/-- A completed manifest that waits for the lock-keeper (R40). -/
structure Waiting where
  lock : LLock
  entry : QEntry
  deriving DecidableEq, Repr

/-- An ingress quay (R38 to R46, R70, R71, R88, R346): the open frame, the frames that ended and wait for holds or a
slot, the manifests that wait for a lock-keeper, the gauger bank, whether a swap is still due, and the violations
of the running window. -/
structure Iq where
  frame : Option OpenFrame
  ended : List OpenFrame
  waiting : List Waiting
  bank : Bool
  swapping : Bool
  viols : Nat
  violAt : Nat
  beatAt : Nat
  deriving DecidableEq, Repr

/-- An idle ingress quay. -/
def Iq.idle : Iq := ⟨none, [], [], false, false, 0, 0, 0⟩

/-- A frame passed to a gate, to the sluice or to a host ring (R55, R62). -/
structure Shipped where
  lock : LLock
  mf : DAddr
  word : Cell
  len : Nat
  cls : BitVec 3
  kind : BitVec 4
  seq : Cell
  late : Bool
  fault : Bool
  deriving DecidableEq, Repr

/-- How one copy of a paired frame ended (R141). -/
inductive PairEnd where
  | shipped (f : Shipped) (len : Nat) (crc : BitVec 32)
  | scuttled
  | faulted
  deriving DecidableEq, Repr

/-- A paired frame of which one copy has ended (R141). -/
structure HalfPair where
  seq : Cell
  second : Bool
  ended : PairEnd
  since : Nat
  deriving DecidableEq, Repr

/-- The ordering gate of a domain (R65, R66, R141). -/
structure Gate where
  next : Cell
  prof : BitVec 3
  timerProf : BitVec 3
  timer : Bool
  timerAt : Nat
  resolved : List Cell
  held : List Shipped
  pairs : List HalfPair
  settled : List Cell
  deriving DecidableEq, Repr

/-- A gate after PORST_N. -/
def Gate.empty : Gate := ⟨0, 0, 0, false, 0, [], [], [], []⟩

/-- A frame that an egress quay sends (R61 to R63, R347, R481): the pool hold that its staging reads, the next nonet's
address and how many the hold has left, the nonets of LEN still to read, what is staged after edit, the holds
visited, and the beats that transferred. -/
structure Sending where
  f : Shipped
  hold : Option Nat
  addr : Nat
  count : Nat
  left : Nat
  staged : List Nonet
  visited : List Nat
  ended : Bool
  err : Bool
  beats : Nat
  since : Nat
  deriving DecidableEq, Repr

/-- The beat that an egress quay presents (R341, R347). -/
structure OutBeat where
  valid : Bool
  data : BitVec 144
  par : BitVec 4
  sof : Bool
  eof : Bool
  cnt : BitVec 5
  kind : BitVec 4
  late : Bool
  tsreq : Bool
  tstag : BitVec 7
  err : Bool
  deriving DecidableEq, Repr

/-- The egress outputs while nothing is presented. -/
def OutBeat.idle : OutBeat := ⟨false, 0, 0, false, false, 0, 0, false, false, 0, false⟩

/-- An egress quay: the frame in progress, its output pins, whether EN goes off at the frame's end, and the timestamp
queue of R112 with its OVF. -/
structure Eq where
  cur : Option Sending
  out : OutBeat
  enOff : Bool
  stamps : List (BitVec 7 × BitVec 64)
  ovf : Bool
  deriving DecidableEq, Repr

/-- An idle egress quay. -/
def Eq.idle : Eq := ⟨none, .idle, false, [], false⟩

/-! ## Bollards (R119 to R130) -/

/-- A bollard: the owner's reference (R399), its flags and its waiters in arrival order. -/
structure Bollard where
  owner : Option (BitVec 20)
  orphan : Bool
  fbonly : Bool
  inh : BitVec 3
  waiters : List (BitVec 20)
  deriving DecidableEq, Repr

/-- A free bollard. -/
def Bollard.free : Bollard := ⟨none, false, false, 0, []⟩

/-! ## Helper queues (R80) -/

/-- A command that a helper unit holds: the thread and its dock slot. -/
structure HelpEntry where
  tid : Tid
  slot : Nat
  deriving DecidableEq, Repr

/-! ## Waybill (R90 to R92, R482) -/

/-- A table descriptor: WB_TDESC and WB_TDESC2. -/
structure WbTable where
  desc : Cell
  desc2 : Cell
  deriving DecidableEq, Repr

/-- An exact-match entry. -/
structure EmEntry where
  table : BitVec 7
  key : List Cell
  res : Dbl
  deriving DecidableEq, Repr

/-- A prefix entry: the address in the top bits of `addr`. -/
structure LpmEntry where
  table : BitVec 7
  addr : BitVec 128
  len : Nat
  res : Dbl
  deriving DecidableEq, Repr

/-- A ternary entry. -/
structure TernEntry where
  key : BitVec 128
  mask : BitVec 128
  res : Dbl
  deriving DecidableEq, Repr

/-- The waybill. `code` is the status of the window command in progress. -/
structure Waybill where
  tables : Map WbTable
  em : List EmEntry
  lpm : List LpmEntry
  tern : Map TernEntry
  code : BitVec 4
  deriving DecidableEq, Repr

/-! ## Seal (R93 to R99) -/

/-- A secure association: SEAL_SACTL, SCI, packet number, window, SSCI, key and salt. -/
structure Sa where
  ctl : Cell
  sci : BitVec 64
  pn : BitVec 64
  win : BitVec 32
  ssci : BitVec 32
  key : BitVec 256
  salt : BitVec 96
  warned : Bool
  exhausted : Bool
  deriving DecidableEq, Repr

/-- An SA after PORST_N: SC 1, RPROT 1, packet number 1 (register table of the seal). -/
def Sa.reset : Sa := ⟨0x240, 0, 1, 0, 0, 0, 0, false, false⟩

/-- The seal: associations, CMAC slots, staged key words. -/
structure Seal where
  sas : Map Sa
  slots : Map (BitVec 128)
  stage : List (BitVec 16)
  deriving DecidableEq, Repr

/-! ## Sluice (R100 to R107, R133, R134) -/

/-- A gate control list in operation: base time, cycle and length (R101, R103). -/
structure GateTime where
  base : BitVec 64
  cyc : BitVec 30
  len : Nat
  deriving DecidableEq, Repr

/-- The sluice's part for one egress quay. Lanes are oldest first; key of `bank0` and `bank1` is the entry, its
value the interval in bits 27:0 and the gate mask in bits 35:28. Credits are in units of 10^-6 bit; `tokens` in
units of 1/20,480 octet. -/
structure Shape where
  fly : List (List Shipped)
  lane : List (List Shipped)
  bank0 : Map Dbl
  bank1 : Map Dbl
  bank : Bool
  operates : Bool
  oper : GateTime
  index : Nat
  changeAt : BitVec 64
  credit : List Int
  creditAt : BitVec 64
  tokens : Nat
  tokensAt : BitVec 64
  deriving DecidableEq, Repr

/-- A quay's sluice after PORST_N: the class-7 bucket is full, 3,092 octets (R134). -/
def Shape.reset : Shape :=
  ⟨List.replicate 8 [], List.replicate 8 [], [], [], false, false, ⟨0, 0, 1⟩, 0, 0, List.replicate 8 0, 0,
    3092 * 20480, 0⟩

/-- A stream filter: configuration registers as committed, its meter in units of 1/8,000,000 octet, and its five
counters (R105 to R107). -/
structure Filter where
  ctl : Cell
  sdu : BitVec 14
  cir : Dbl
  pir : Dbl
  cbs : Dbl
  pbs : Dbl
  tc : Nat
  tp : Nat
  at_ : BitVec 64
  counts : List Dbl
  deriving DecidableEq, Repr

/-- A filter after PORST_N. -/
def Filter.reset : Filter := ⟨0, 0, 0, 0, 0, 0, 0, 0, 0, [0, 0, 0, 0, 0]⟩

/-- A stream gate: its list (interval in bits 27:0; OPEN, IPVV and IPV in bits 35:31), SLU_SGCFG, the base, cycle and
first time it runs by, and the present entry (R106). -/
structure StreamGate where
  entries : Map Dbl
  cfg : Cell
  base : BitVec 64
  cyc : BitVec 30
  start : BitVec 64
  index : Nat
  running : Bool
  deriving DecidableEq, Repr

/-- A stream gate after PORST_N. -/
def StreamGate.reset : StreamGate := ⟨[], 0, 0, 0, 0, 0, false⟩

/-- The sluice. -/
structure Sluice where
  quays : Map Shape
  filters : Map Filter
  gates : Map StreamGate
  stagedIvl : Cell
  reduced : Bool
  deriving DecidableEq, Repr

/-! ## Timebase (R108 to R112) -/

/-- An alarm. -/
structure Alarm where
  time : BitVec 64
  per : Dbl
  en : Bool
  fired : Bool
  armed : Bool
  deriving DecidableEq, Repr

/-- The timebase. -/
structure Timebase where
  mono : BitVec 64
  ns : BitVec 64
  frac : BitVec 32
  rate : Dbl
  alarms : Map Alarm
  deriving DecidableEq, Repr

/-! ## Canal (R22 to R27) -/

/-- A flit: its channel, the priority of its issue and the ns it has waited (R114, R116), the thread reference it carries (R399),
none for the host's, and the port that sent it, or for a response the port that it answers. -/
structure Flit where
  ch : Channel
  pri : BitVec 3
  waited : Nat
  ref : Option (BitVec 20)
  port : Nat
  deriving DecidableEq, Repr

/-- The receiver's 64 buffers of a link by the channel whose credit each gives (R22, R26). -/
structure Grants where
  flyboat : Nat
  normal : Nat
  towpath : Nat
  deriving DecidableEq, Repr

/-- A link: flits waiting at the sender, flits on the way, flits in the receiver's buffers with the channel
whose credit each holds, the handshakes since towpath was last served, the credits granted, held or in use, and, of a
response link, the buffers that its receiver reserved for requests it issued (R23). -/
structure Link where
  waiting : List Flit
  flying : List (Flit × Channel)
  buffered : List (Flit × Channel)
  sinceTow : Nat
  grants : Grants
  reserved : Nat
  deriving DecidableEq, Repr

/-- An idle link, with the credits of reset (R22). -/
def Link.idle : Link := ⟨[], [], [], 0, ⟨16, 40, 8⟩, 0⟩

/-! ## Host ports and rings (R351 to R364) -/

/-- Who waits for an initiator response (R359). -/
inductive InitFor where
  | load (t : Tid)
  | store (t : Tid)
  | micro (t : Tid) (depth : BitVec 4)
  | keep
  deriving DecidableEq, Repr

/-- A request on the host target port (R351, R352). `wellFormed` is 0 when LAST does not fall where LEN implies
or a parity bit is wrong. -/
structure HostReq where
  op : BitVec 4
  space : BitVec 2
  tag : BitVec 8
  len : BitVec 8
  addr : BitVec 48
  data : List (BitVec 72)
  wellFormed : Bool
  deriving DecidableEq, Repr

/-- A request that the initiator port sends (R351, R357). -/
structure HostOut where
  op : BitVec 4
  space : BitVec 2
  tag : BitVec 8
  len : BitVec 8
  addr : BitVec 48
  data : List (BitVec 72)
  deriving DecidableEq, Repr

/-- An initiator READ of one octet-view beat whose answer is outstanding: the host octet address that its access starts at, and
who waits. -/
structure InitReq where
  tag : BitVec 8
  addr : BitVec 48
  for_ : InitFor
  since : Nat
  deriving DecidableEq, Repr

/-- A response of the target port, in the order of the requests (R355, R356). -/
structure HostRsp where
  rsp : BitVec 4
  tag : BitVec 8
  data : List (BitVec 72)
  deriving DecidableEq, Repr

/-- The host ports. `base` is the host window's base in force (BLK_HWBASE); `sent` holds the requests that await no later
command: posted stores, and the accesses of rings and dumps, whose rows carry the answer. -/
structure HostPort where
  base : BitVec 22
  rsps : List HostRsp
  reqs : List InitReq
  nextTag : BitVec 6
  sent : List HostOut
  rx : Map (List Shipped)
  deriving DecidableEq, Repr

/-! ## D0: power, start-up, watchdogs, the wire, life cycle (R366 to R370, R397, R402, R429, R435 to R464) -/

/-- The power state of a domain (R397). -/
inductive Power where
  | off | on | retention | changing
  deriving DecidableEq, Repr

/-- The power handshake (R368): idle, requested, granted and powering, or waiting for GNT to fall. -/
inductive PwrStep where
  | idle
  | requested (d : Nat)
  | powering (d : Nat)
  | falling (d : Nat)
  deriving DecidableEq, Repr

/-- A debug session on the wire (R437, R441, R446): its level, the nonce and target of its last CHAL, the last
response packet, the octets not yet sent and the bit next sent, and whether a run command is still to complete. -/
structure Session where
  level : BitVec 2
  nonce : Option (BitVec 8 × BitVec 64)
  last : List (BitVec 8)
  tx : List (BitVec 8)
  txBit : Nat
  cmdBusy : Bool
  endAfter : Bool
  slotAt : Nat
  cmdAt : Nat
  deriving DecidableEq, Repr

/-- A virtual terminal (R464). -/
structure Vt where
  out : List (BitVec 8)
  inp : List (BitVec 8)
  ovf : Bool
  deriving DecidableEq, Repr

/-- An empty terminal. -/
def Vt.empty : Vt := ⟨[], [], false⟩

/-- The always-on domain. `porst` is 1 while PORST_N is low; `pulse` is the bit the block drives in a read slot; `bwdAt` is the
monotonic count at which the block watchdog last began its count, `tkSvcA` and `tkSvcB` those of the tollkeepers' watchdogs, `fltAt` that
at which the fault pair entered FAULT and `lockAt` that of the last failed challenge (R366, R449), and `lastRun` what the last run command named (TK, ALL, thread). -/
structure D0 where
  porst : Bool
  lineLow : Bool
  power : Map Power
  hs : PwrStep
  wantDoms : List Nat
  fltHold : Bool
  powerFail : Bool
  session : Option Session
  pulse : Option Bool
  lcState : BitVec 3
  ckey : Bool
  lcBad : Bool
  lcTrans : Cell
  makerKey : BitVec 128
  custKey : BitVec 128
  stagedKey : List (BitVec 16)
  lcNonce : Option (BitVec 8 × BitVec 64)
  lockout : Bool
  vts : Map Vt
  tkHeldA : Bool
  tkHeldB : Bool
  tkEpochA : BitVec 8
  tkEpochB : BitVec 8
  lastRun : Option (Bool × Bool × Tid)
  resuming : Bool
  bwdAt : BitVec 64
  tkSvcA : Nat
  tkSvcB : Nat
  fltAt : Nat
  lockAt : Nat
  deriving DecidableEq, Repr

/-! ## Keep controller, evacuation, exchange (R330 to R338, R410 to R422) -/

/-- A keep command in progress: the code it ends with, none while words are still to come from the host; source, offset
and count of the words left; the first word and the number of words that it names. -/
structure KeepCmd where
  op : BitVec 3
  code : Option (BitVec 4)
  src : Nat
  dst : Nat
  left : Nat
  first : Nat
  words : Nat
  deriving DecidableEq, Repr

/-- An evacuation under way: victim, spare and logical lock (R410 to R414). -/
structure Evac where
  victim : PLock
  spare : PLock
  lock : LLock
  switched : Nat
  deriving DecidableEq, Repr

/-! ## Dictionary and LPP (R373 to R394) -/

/-- An open LPP session (R390, R391). -/
structure LppSession where
  num : BitVec 16
  role : BitVec 8
  slot : Nat
  rxSeq : BitVec 32
  txSeq : BitVec 32
  heard : Nat
  deriving DecidableEq, Repr

/-- A block transfer of a session (R388). -/
structure Transfer where
  write : Bool
  index : BitVec 16
  sub : BitVec 8
  ty : BitVec 8
  octets : List (BitVec 8)
  since : Nat
  deriving DecidableEq, Repr

/-- A subscription (R389): session slot, entry, period, client's ID, the path of its reply and the last value
sent. -/
structure Subscr where
  session : Nat
  index : BitVec 16
  sub : BitVec 8
  period : BitVec 16
  id : BitVec 8
  iq : BitVec 4
  dst : BitVec 12
  head : List Nonet
  last : List (BitVec 8)
  sent : Nat
  deriving DecidableEq, Repr

/-- An entry the firmware holds: type, access code and value (R374, R375, R384). -/
structure OdVar where
  ty : BitVec 4
  access : BitVec 3
  value : List (BitVec 8)
  offset : Option Nat
  deriving DecidableEq, Repr

/-- A dictionary request that waits for the firmware (R382): a write of OD_CMD, or the call of a core of a logical lock. -/
inductive OdReq where
  | window (v : Cell)
  | call (l x : Nat)
  deriving DecidableEq, Repr

/-- The dictionary's own state. `vars` keys are 256 × index + subindex; `written` lists the RWP entries written
since the last compaction (R377). `lppKeys` says which rewrite of the gauger's LPP transitions waits for a swap of the banks: 1 both banks', 2
the incoming bank's (R480). `fwDown` says that the firmware rebuilds its state after a restart (R426); `waits` holds the requests that wait for the firmware, in arrival order. `dumpDue` holds the causes and sources that wait for a fault dump, `dumpAt` the monotonic
count at which the last dump began (R431). -/
structure Dict where
  staged : List (BitVec 8)
  vars : Map OdVar
  written : Map Bool
  journalEnd : Nat
  journalHalf : Bool
  sessions : Map LppSession
  transfers : Map Transfer
  subs : Map Subscr
  lppQueue : List DAddr
  lppKeys : BitVec 2
  waits : List OdReq
  fwDown : Bool
  dumpDue : List (BitVec 8 × Dbl)
  dumpAt : Option (BitVec 64)
  deriving DecidableEq, Repr

/-! ## The whole block -/

/-- A shov-family instruction under way on another thread (R211): its thread, whether it restores, and what waits for it: a
debug release, view writes (register and value), and the parking of the target's lock. -/
structure ShovHold where
  by_ : Tid
  load : Bool
  release : Bool
  views : List (Nat × Nat × Cell)
  parks : Bool
  deriving DecidableEq, Repr

/-- The block. `regs` holds register cells by physical address, `mem` nonets by physical place, `ecc` the words
with an error (1 correctable, 2 uncorrectable), `counts` the counters of 0x7000–0x7FFF by 256 × index +
subindex, `oldVecs` the vectors of the previous packet slot (R421), `paceLow` the domains whose last closed window was below
WARN (R31), `helpq` the commands that each helper unit holds, in arrival order (R80), `shovs` the shov-family instructions under way by their
target (R211). `rdata` is the value the last register
read returned and `free` numbers the free values: both are the model's own. -/
structure Mach where
  regs : Map Cell
  mem : Map Nonet
  ecc : Map (BitVec 2)
  counts : Map Dbl
  threads : Map Thread
  locks : Map Lock
  cores : Map Core
  iqs : Map Iq
  eqs : Map Eq
  gates : Map Gate
  doms : Map Cell
  bollards : Map Bollard
  links : Map Link
  waybill : Waybill
  sealU : Seal
  sluice : Sluice
  tb : Timebase
  host : HostPort
  d0 : D0
  keep : Option KeepCmd
  keepScrub : BitVec 18
  evac : Option Evac
  xchg : Option (BitVec 2)
  oldVecs : Map Cell
  paceLow : Map Bool
  dict : Dict
  helpq : Map (List HelpEntry)
  shovs : Map (Option ShovHold)
  rdata : Cell
  free : Nat
  deriving DecidableEq, Repr

/-- The state: the commands that wait, first in first out, and the block. -/
structure State where
  pending : List Instr
  m : Mach
  deriving DecidableEq, Repr

/-- The block right after PORST_N, which is still low: D0 reset, every other domain off. -/
def Mach.reset : Mach :=
  { regs := [], mem := [], ecc := [], counts := [], threads := [], locks := [], cores := [], iqs := [], eqs := [],
    gates := [], doms := [], bollards := [], links := [], waybill := ⟨[], [], [], [], 0⟩, sealU := ⟨[], [], []⟩,
    sluice := ⟨[], [], [], 0, false⟩, tb := ⟨0, 0, 0, 0, []⟩, host := ⟨0, [], [], 0, [], []⟩,
    d0 := { porst := true, lineLow := false, power := [(0, .on)], hs := .idle, wantDoms := [], fltHold := false,
            powerFail := false, session := none, pulse := none, lcState := 0, ckey := false, lcBad := false,
            lcTrans := 0, makerKey := 0, custKey := 0, stagedKey := [], lcNonce := none, lockout := false,
            vts := [], tkHeldA := true, tkHeldB := true, tkEpochA := 0, tkEpochB := 0, lastRun := none,
            resuming := false, bwdAt := 0, tkSvcA := 0, tkSvcB := 0, fltAt := 0, lockAt := 0 },
    keep := none, keepScrub := 0, evac := none, xchg := none, oldVecs := [], paceLow := [],
    dict := { staged := [], vars := [], written := [], journalEnd := 1, journalHalf := false, sessions := [],
              transfers := [], subs := [], lppQueue := [], lppKeys := 0, waits := [], fwDown := false, dumpDue := [], dumpAt := none },
    helpq := [], shovs := [], rdata := 0, free := 0 }

/-- The machine right after reset: no command waits. -/
def State.reset : State := ⟨[], Mach.reset⟩

end Sys2Proof.Machine
end

