-- ==== Sys2Proof/Machine/Regs.lean ====
section
/-!
DEFINITION. The register map: every register of the block address map with its place, its writable and
write-one-to-clear bits and its reset value, as the register tables of spec/ give them. What a register does
beyond storing its bits stands with its unit.
-/
namespace Sys2Proof.Machine

/-- Where a register lies: at a block address, in a lock block, in an event controller, in a core block. -/
inductive Space where
  | abs | lock | ctl | core
  deriving DecidableEq, Repr

/-- Whose writes a register accepts (R12, R157, R179, R262, R366 and the register tables). -/
inductive Writers where
  /-- Helm threads, the host, and the debug bus master at FULL. -/
  | std
  /-- A helm thread of the active tollkeeper. -/
  | tk
  /-- A thread of either tollkeeper (R427). -/
  | anyTk
  /-- A helm thread of the active tollkeeper, and the host. -/
  | tkHost
  /-- As tkHost, and the debug bus master at FULL. -/
  | tkHostDbg
  /-- The host, and the debug bus master at FULL. -/
  | hostDbg
  /-- Helm threads of the lock, the active tollkeeper, the host, and the debug bus master at FULL. -/
  | evt
  /-- Helm threads of any lock, the tollkeepers and the host (R247). -/
  | ring
  /-- The thread-state view (R179). -/
  | thv
  deriving DecidableEq, Repr

/-- A register, or a bank of registers of one kind. -/
inductive Reg where
  /-- R15. -/
  | blkLockmap
  /-- R16. -/
  | blkSpare
  /-- R17. -/
  | blkRemap
  /-- R21. -/
  | blkTkstat
  /-- R427. -/
  | blkTkctl
  /-- R427. -/
  | blkTkwd
  /-- R31. -/
  | blkPaceCtl
  /-- R31. -/
  | blkPaceStat
  /-- R31. -/
  | blkPaceCnt
  /-- R41. -/
  | blkKentry
  /-- R78. -/
  | blkHlptmo
  /-- R131. -/
  | blkFbctl
  /-- R138. -/
  | blkFbpairq
  /-- R141. -/
  | blkFbmm
  /-- R131. -/
  | blkFberr
  /-- R142. -/
  | blkFbpart
  /-- R321. -/
  | blkApsel
  /-- R358. -/
  | blkHwbase0
  /-- R358. -/
  | blkHwbase1
  /-- R360. -/
  | blkHpctl
  /-- R351. -/
  | blkHperr
  /-- R366. -/
  | blkFlt
  /-- R365. -/
  | blkEvosw
  /-- R361. -/
  | blkRbase0
  /-- R361. -/
  | blkRbase1
  /-- R361. -/
  | blkRbase2
  /-- R362. -/
  | blkRctl
  /-- R362. -/
  | blkRhead
  /-- R362. -/
  | blkRtail
  /-- R362. -/
  | blkRstat
  /-- R364. -/
  | blkRord
  /-- R386. -/
  | blkLppctl
  /-- R386. -/
  | blkLppety
  /-- R386. -/
  | blkLppq
  /-- R386. -/
  | blkLppstat
  /-- R386. -/
  | blkLpppop0
  /-- R386. -/
  | blkLpppop1
  /-- R386. -/
  | blkLppship
  /-- R386. -/
  | blkLppnew0
  /-- R386. -/
  | blkLppnew1
  /-- R382. -/
  | odIdx
  /-- R382. -/
  | odSub
  /-- R382. -/
  | odOff
  /-- R382. -/
  | odLen
  /-- R382. -/
  | odCmd
  /-- R382. -/
  | odStat
  /-- R382. -/
  | odAbort
  /-- R382. -/
  | odData
  /-- R410. -/
  | blkEvac
  /-- R414. -/
  | blkEvdrain
  /-- R414. -/
  | blkEvleft
  /-- R415. -/
  | blkMove
  /-- R420. -/
  | blkXchg
  /-- R109. -/
  | tbCtl
  /-- R110. -/
  | tbSnap
  /-- R108. -/
  | tbRate
  /-- R109. -/
  | tbStep
  /-- R110. -/
  | tbSnapm
  /-- R111. -/
  | tbAlmsel
  /-- R111. -/
  | tbAlmt
  /-- R111. -/
  | tbAlmctl
  /-- R111. -/
  | tbAlmper
  /-- R112. -/
  | tbTssel
  /-- R112. -/
  | tbTspop
  /-- R112. -/
  | tbTsv
  /-- R26. -/
  | cnlVccfg
  /-- R27. -/
  | cnlErr
  /-- R42. -/
  | qiCtl
  /-- R43. -/
  | qiMap
  /-- R44. -/
  | qiOrd
  /-- R70. -/
  | qiLim
  /-- R71. -/
  | qiViol
  /-- R71. -/
  | qiQthr
  /-- R343. -/
  | qiPhy
  /-- R43. -/
  | qiSteer
  /-- R69. -/
  | qeOrdsel
  /-- R69. -/
  | qeOrdcfg
  /-- R69. -/
  | qeOrdnext
  /-- R69. -/
  | qeOrdstat
  /-- R66. -/
  | qeOrdprof
  /-- R347. -/
  | qeCtl
  /-- R82. -/
  | gauNode
  /-- R88. -/
  | gauCtl
  /-- R86. -/
  | gauHseed
  /-- R82. -/
  | gauPcpmap
  /-- R86. -/
  | gauHprof
  /-- R84. -/
  | gauRoot
  /-- R83. -/
  | gauTrans
  /-- R100. -/
  | sluCtl
  /-- R100. -/
  | sluRate
  /-- R101. -/
  | sluGst
  /-- R103. -/
  | sluBase0
  /-- R103. -/
  | sluBase1
  /-- R103. -/
  | sluBase2
  /-- R103. -/
  | sluBase3
  /-- R103. -/
  | sluCyc0
  /-- R103. -/
  | sluCyc1
  /-- R103. -/
  | sluExt
  /-- R103. -/
  | sluLen
  /-- R103. -/
  | sluGo
  /-- R134. -/
  | sluFb
  /-- R134. -/
  | sluFbb
  /-- R104. -/
  | sluIdle
  /-- R101. -/
  | sluGclsel
  /-- R101. -/
  | sluGcld0
  /-- R101. -/
  | sluGcld1
  /-- R107. -/
  | sluFsel
  /-- R106. -/
  | sluFctl
  /-- R106. -/
  | sluFsdu
  /-- R106. -/
  | sluFrate
  /-- R107. -/
  | sluFcnt
  /-- R106. -/
  | sluSgsel
  /-- R106. -/
  | sluSgd0
  /-- R106. -/
  | sluSgd1
  /-- R106. -/
  | sluSgcfg
  /-- R106. -/
  | sluSgbase
  /-- R106. -/
  | sluSgcyc
  /-- R103. -/
  | sluErr
  /-- R482. -/
  | wbTsel
  /-- R482. -/
  | wbTdesc
  /-- R482. -/
  | wbTdesc2
  /-- R482. -/
  | wbKey
  /-- R482. -/
  | wbMask
  /-- R482. -/
  | wbRes
  /-- R482. -/
  | wbCmd
  /-- R482. -/
  | wbStat
  /-- R96. -/
  | sealCtl
  /-- R97. -/
  | sealSasel
  /-- R97. -/
  | sealSactl
  /-- R97. -/
  | sealSci
  /-- R97. -/
  | sealPn
  /-- R97. -/
  | sealWin
  /-- R97. -/
  | sealSsci
  /-- R97. -/
  | sealKdata
  /-- R97. -/
  | sealKcmd
  /-- R97. -/
  | sealKstat
  /-- R96. -/
  | sealEvt
  /-- R130. -/
  | bolSel
  /-- R130. -/
  | bolCfg
  /-- R130. -/
  | bolState
  /-- R130. -/
  | bolOwner
  /-- R130. -/
  | bolWaitcnt
  /-- R126. -/
  | bolForce
  /-- R129. -/
  | bolErr
  /-- R334. -/
  | keepCtl
  /-- R337. -/
  | keepWp
  /-- R337. -/
  | keepAct
  /-- R336. -/
  | keepDst
  /-- R336. -/
  | keepSrc
  /-- R336. -/
  | keepWdata
  /-- R336. -/
  | keepCmd
  /-- R336. -/
  | keepStat
  /-- R334. -/
  | keepErr
  /-- R334. -/
  | keepErradr
  /-- R335. -/
  | keepRemap
  /-- R397. -/
  | pwrDom
  /-- R429. -/
  | pwrBwd
  /-- R429. -/
  | pwrBwdsvc
  /-- R429. -/
  | pwrBwdleft
  /-- R430. -/
  | pwrIso
  /-- R403. -/
  | pwrBoot
  /-- R456. -/
  | dbgCtl
  /-- R446. -/
  | dbgStat
  /-- R456. -/
  | dbgRun
  /-- R456. -/
  | dbgRstat
  /-- R460. -/
  | dbgArg
  /-- R448. -/
  | lcStat
  /-- R449. -/
  | lcChal
  /-- R449. -/
  | lcNonce
  /-- R448. -/
  | lcTag
  /-- R448. -/
  | lcCmd
  /-- R452. -/
  | lcKdata
  /-- R464. -/
  | dbgVtTx
  /-- R464. -/
  | dbgVtRx
  /-- R464. -/
  | dbgVtsel
  /-- R464. -/
  | dbgVtout
  /-- R464. -/
  | dbgVtin
  /-- R464. -/
  | dbgVtstat
  /-- R329. -/
  | dbgPatch
  /-- R329. -/
  | dbgPstat
  /-- R329. -/
  | dbgPram
  /-- R396. -/
  | plState
  /-- R322. -/
  | plBank
  /-- R322. -/
  | plSpare
  /-- R324. -/
  | plMarch
  /-- R325. -/
  | plMstat
  /-- R325. -/
  | plMfail
  /-- R320. -/
  | plEcc
  /-- R320. -/
  | plEccrow
  /-- R320. -/
  | plScrub
  /-- R428. -/
  | plPacecal
  /-- R49. -/
  | lkHoldbase
  /-- R49. -/
  | lkHoldcnt
  /-- R49. -/
  | lkManbase
  /-- R46. -/
  | lkFrctl
  /-- R46. -/
  | lkHoldstat
  /-- R50. -/
  | lkHoldalloc
  /-- R50. -/
  | lkHoldret
  /-- R118. -/
  | lkAgectl
  /-- R327. -/
  | lkLccctl
  /-- R327. -/
  | lkLccstat
  /-- R244. -/
  | evtSrc
  /-- R245. -/
  | evtPend
  /-- R251. -/
  | evtAct
  /-- R251. -/
  | evtClaim
  /-- R252. -/
  | evtDone
  /-- R247. -/
  | evtRing
  /-- R252. -/
  | evtErr
  /-- R255. -/
  | evtVec
  /-- R248. -/
  | evtThr
  /-- R262. -/
  | evtTflt
  /-- R266. -/
  | evtDlb
  /-- R230. -/
  | crCtl
  /-- R226. -/
  | crStat
  /-- R221. -/
  | crEpri
  /-- R238. -/
  | crSbocc
  /-- R243. -/
  | crCnt
  /-- R294. -/
  | crTlstat
  /-- R294. -/
  | crTlops
  /-- R294. -/
  | crTlkill
  /-- R313. -/
  | wlCtl
  /-- R309. -/
  | wlStat
  /-- R312. -/
  | wlVer
  /-- R313. -/
  | wlMaddr
  /-- R313. -/
  | wlMdata
  /-- R313. -/
  | wlNaddr
  /-- R313. -/
  | wlNdata
  /-- R315. -/
  | crStwin
  /-- R320. -/
  | crSterr
  /-- R312. -/
  | wlDt
  /-- R179. -/
  | thView
  deriving DecidableEq, Repr

/-- A register's row: its space, first address or offset, step between indices, count, stored bits,
write-one-to-clear bits and writers. -/
structure RegInfo where
  space : Space
  base : Nat
  stride : Nat
  count : Nat
  rw : Cell
  w1c : Cell
  writers : Writers
  deriving DecidableEq, Repr

/-- The row of a register. -/
def Reg.info : Reg → RegInfo
  | .blkLockmap => ⟨.abs, 0x8000040, 2, 16, 0, 0, .std⟩
  | .blkSpare => ⟨.abs, 0x8000060, 2, 1, 0, 0, .std⟩
  | .blkRemap => ⟨.abs, 0x8000062, 2, 1, 0, 0, .tk⟩
  | .blkTkstat => ⟨.abs, 0x8000070, 2, 1, 0, 0, .std⟩
  | .blkTkctl => ⟨.abs, 0x8000072, 2, 1, 0, 0, .tk⟩
  | .blkTkwd => ⟨.abs, 0x8000074, 2, 1, 0xFFFF, 0, .anyTk⟩
  | .blkPaceCtl => ⟨.abs, 0x8000080, 2, 1, 0x21FFF, 0, .std⟩
  | .blkPaceStat => ⟨.abs, 0x8000082, 2, 1, 0, 0, .std⟩
  | .blkPaceCnt => ⟨.abs, 0x80000A2, 2, 23, 0, 0x30000, .std⟩
  | .blkKentry => ⟨.abs, 0x8000100, 2, 16, 0x2FFFF, 0, .std⟩
  | .blkHlptmo => ⟨.abs, 0x8000120, 2, 1, 0xFFF, 0, .std⟩
  | .blkFbctl => ⟨.abs, 0x8000140, 2, 1, 0x2C3FF, 0, .std⟩
  | .blkFbpairq => ⟨.abs, 0x8000142, 2, 1, 0xFFFF, 0, .std⟩
  | .blkFbmm => ⟨.abs, 0x8000144, 2, 1, 0, 0, .std⟩
  | .blkFberr => ⟨.abs, 0x8000146, 2, 1, 0, 7, .std⟩
  | .blkFbpart => ⟨.abs, 0x8000150, 2, 16, 0x2000F, 0, .std⟩
  | .blkApsel => ⟨.abs, 0x8000180, 2, 1, 0x3FF, 0, .std⟩
  | .blkHwbase0 => ⟨.abs, 0x8000190, 2, 1, 0x3FFFF, 0, .std⟩
  | .blkHwbase1 => ⟨.abs, 0x8000192, 2, 1, 0xF, 0, .std⟩
  | .blkHpctl => ⟨.abs, 0x8000194, 2, 1, 0x20FFF, 0, .std⟩
  | .blkHperr => ⟨.abs, 0x8000196, 2, 1, 0, 7, .std⟩
  | .blkFlt => ⟨.abs, 0x8000198, 2, 1, 0x10000, 0x1E, .tkHost⟩
  | .blkEvosw => ⟨.abs, 0x800019A, 2, 1, 0xFF, 0, .std⟩
  | .blkRbase0 => ⟨.abs, 0x8000400, 16, 24, 0x3FFFF, 0, .std⟩
  | .blkRbase1 => ⟨.abs, 0x8000402, 16, 24, 0x3FFFF, 0, .std⟩
  | .blkRbase2 => ⟨.abs, 0x8000404, 16, 24, 0xFF, 0, .std⟩
  | .blkRctl => ⟨.abs, 0x8000406, 16, 24, 0x3FFFF, 0, .std⟩
  | .blkRhead => ⟨.abs, 0x8000408, 16, 24, 0, 0, .std⟩
  | .blkRtail => ⟨.abs, 0x800040A, 16, 24, 0xFFF, 0, .std⟩
  | .blkRstat => ⟨.abs, 0x800040C, 16, 24, 0, 0x38000, .std⟩
  | .blkRord => ⟨.abs, 0x800040E, 16, 24, 0xFFF, 0, .std⟩
  | .blkLppctl => ⟨.abs, 0x8000600, 2, 1, 0x20FFF, 0, .tkHost⟩
  | .blkLppety => ⟨.abs, 0x8000602, 2, 1, 0xFFFF, 0, .tkHost⟩
  | .blkLppq => ⟨.abs, 0x8000604, 2, 1, 0xFFFF, 0, .tkHost⟩
  | .blkLppstat => ⟨.abs, 0x8000606, 2, 1, 0, 0x20000, .tkHost⟩
  | .blkLpppop0 => ⟨.abs, 0x800060E, 2, 1, 0, 0, .tkHost⟩
  | .blkLpppop1 => ⟨.abs, 0x8000610, 2, 1, 0, 0, .tkHost⟩
  | .blkLppship => ⟨.abs, 0x8000612, 2, 3, 0x3FFFF, 0, .tkHost⟩
  | .blkLppnew0 => ⟨.abs, 0x8000618, 2, 1, 0, 0, .tkHost⟩
  | .blkLppnew1 => ⟨.abs, 0x800061A, 2, 1, 0x1E000, 0, .tkHost⟩
  | .odIdx => ⟨.abs, 0x8000640, 2, 1, 0xFFFF, 0, .std⟩
  | .odSub => ⟨.abs, 0x8000642, 2, 1, 0xFF, 0, .std⟩
  | .odOff => ⟨.abs, 0x8000644, 2, 1, 0xFFFF, 0, .std⟩
  | .odLen => ⟨.abs, 0x8000646, 2, 1, 0x1FF, 0, .std⟩
  | .odCmd => ⟨.abs, 0x8000648, 2, 1, 0, 0, .std⟩
  | .odStat => ⟨.abs, 0x800064A, 2, 1, 0, 0x10000, .std⟩
  | .odAbort => ⟨.abs, 0x800064C, 2, 2, 0, 0, .std⟩
  | .odData => ⟨.abs, 0x8000680, 2, 128, 0xFFFF, 0, .std⟩
  | .blkEvac => ⟨.abs, 0x8000810, 2, 1, 0x100F, 0x800, .tk⟩
  | .blkEvdrain => ⟨.abs, 0x8000812, 2, 1, 0x3FFF, 0, .tk⟩
  | .blkEvleft => ⟨.abs, 0x8000814, 2, 1, 0, 0, .tk⟩
  | .blkMove => ⟨.abs, 0x8000816, 2, 1, 0x7F, 0x4000, .tk⟩
  | .blkXchg => ⟨.abs, 0x8000820, 2, 1, 0, 0x4000, .tkHost⟩
  | .tbCtl => ⟨.abs, 0x8010000, 2, 1, 0, 0, .std⟩
  | .tbSnap => ⟨.abs, 0x8010002, 2, 5, 0, 0, .std⟩
  | .tbRate => ⟨.abs, 0x8010010, 2, 2, 0x3FFFF, 0, .std⟩
  | .tbStep => ⟨.abs, 0x8010018, 2, 5, 0x3FFFF, 0, .std⟩
  | .tbSnapm => ⟨.abs, 0x8010028, 2, 4, 0, 0, .std⟩
  | .tbAlmsel => ⟨.abs, 0x8010040, 2, 1, 0xF, 0, .std⟩
  | .tbAlmt => ⟨.abs, 0x8010042, 2, 4, 0x3FFFF, 0, .std⟩
  | .tbAlmctl => ⟨.abs, 0x801004A, 2, 1, 0x20000, 0x10000, .std⟩
  | .tbAlmper => ⟨.abs, 0x801004C, 2, 2, 0x3FFFF, 0, .std⟩
  | .tbTssel => ⟨.abs, 0x8010060, 2, 1, 0xF, 0, .std⟩
  | .tbTspop => ⟨.abs, 0x8010062, 2, 1, 0, 0x10000, .std⟩
  | .tbTsv => ⟨.abs, 0x8010064, 2, 4, 0, 0, .std⟩
  | .cnlVccfg => ⟨.abs, 0x8020000, 2, 1, 0xE7FF, 0, .std⟩
  | .cnlErr => ⟨.abs, 0x8020002, 2, 1, 0, 0xF, .std⟩
  | .qiCtl => ⟨.abs, 0x8030000, 32, 16, 0x3FFF8, 0, .std⟩
  | .qiMap => ⟨.abs, 0x8030002, 32, 16, 0x3FFFF, 0, .std⟩
  | .qiOrd => ⟨.abs, 0x8030004, 32, 16, 0xFFFF, 0, .std⟩
  | .qiLim => ⟨.abs, 0x8030006, 32, 16, 0x3FFFF, 0, .std⟩
  | .qiViol => ⟨.abs, 0x8030008, 32, 16, 0, 0x200FF, .std⟩
  | .qiQthr => ⟨.abs, 0x803000A, 32, 16, 0x3FFFF, 0, .std⟩
  | .qiPhy => ⟨.abs, 0x803000C, 32, 16, 0x30000, 0, .std⟩
  | .qiSteer => ⟨.abs, 0x8031000, 2, 1024, 0xF, 0, .std⟩
  | .qeOrdsel => ⟨.abs, 0x8032000, 2, 1, 0xFFF, 0, .std⟩
  | .qeOrdcfg => ⟨.abs, 0x8032002, 2, 1, 0x38000, 0, .std⟩
  | .qeOrdnext => ⟨.abs, 0x8032004, 2, 1, 0, 0, .std⟩
  | .qeOrdstat => ⟨.abs, 0x8032006, 2, 1, 0, 0, .std⟩
  | .qeOrdprof => ⟨.abs, 0x8032010, 2, 8, 0x2FFFF, 0, .std⟩
  | .qeCtl => ⟨.abs, 0x8033000, 32, 16, 0x3800F, 0x4000, .std⟩
  | .gauNode => ⟨.abs, 0x8034000, 2, 1024, 0x3FFFF, 0, .std⟩
  | .gauCtl => ⟨.abs, 0x8035000, 2, 1, 0, 0, .std⟩
  | .gauHseed => ⟨.abs, 0x8035002, 2, 1, 0x3FFFF, 0, .std⟩
  | .gauPcpmap => ⟨.abs, 0x8035004, 2, 2, 0xFFF, 0, .std⟩
  | .gauHprof => ⟨.abs, 0x8035010, 2, 8, 0x3FF00, 0, .std⟩
  | .gauRoot => ⟨.abs, 0x8035020, 2, 16, 0xFF, 0, .std⟩
  | .gauTrans => ⟨.abs, 0x8036000, 2, 4096, 0x3FFFF, 0, .std⟩
  | .sluCtl => ⟨.abs, 0x8040000, 64, 16, 0x2FFFF, 0, .std⟩
  | .sluRate => ⟨.abs, 0x8040002, 64, 16, 0x7FF, 0, .std⟩
  | .sluGst => ⟨.abs, 0x8040004, 64, 16, 0, 0, .std⟩
  | .sluBase0 => ⟨.abs, 0x8040008, 64, 16, 0x3FFFF, 0, .std⟩
  | .sluBase1 => ⟨.abs, 0x804000A, 64, 16, 0x3FFFF, 0, .std⟩
  | .sluBase2 => ⟨.abs, 0x804000C, 64, 16, 0x3FFFF, 0, .std⟩
  | .sluBase3 => ⟨.abs, 0x804000E, 64, 16, 0x3FF, 0, .std⟩
  | .sluCyc0 => ⟨.abs, 0x8040010, 64, 16, 0x3FFFF, 0, .std⟩
  | .sluCyc1 => ⟨.abs, 0x8040012, 64, 16, 0xFFF, 0, .std⟩
  | .sluExt => ⟨.abs, 0x8040014, 64, 16, 0x3FFFF, 0, .std⟩
  | .sluLen => ⟨.abs, 0x8040016, 64, 16, 0x7FF, 0, .std⟩
  | .sluGo => ⟨.abs, 0x8040018, 64, 16, 0, 0, .std⟩
  | .sluFb => ⟨.abs, 0x804001A, 64, 16, 0xFFFF, 0, .std⟩
  | .sluFbb => ⟨.abs, 0x804001C, 64, 16, 0x23FFF, 0, .std⟩
  | .sluIdle => ⟨.abs, 0x8040800, 2, 256, 0x3FFFF, 0, .std⟩
  | .sluGclsel => ⟨.abs, 0x8040400, 2, 1, 0x3E3FF, 0, .std⟩
  | .sluGcld0 => ⟨.abs, 0x8040402, 2, 1, 0x3FFFF, 0, .std⟩
  | .sluGcld1 => ⟨.abs, 0x8040404, 2, 1, 0x3FFFF, 0, .std⟩
  | .sluFsel => ⟨.abs, 0x8040500, 2, 1, 0xFFF, 0, .std⟩
  | .sluFctl => ⟨.abs, 0x8040502, 2, 1, 0x3FFC0, 0x20, .std⟩
  | .sluFsdu => ⟨.abs, 0x8040504, 2, 1, 0x3FFF, 0, .std⟩
  | .sluFrate => ⟨.abs, 0x8040506, 2, 8, 0x3FFFF, 0, .std⟩
  | .sluFcnt => ⟨.abs, 0x8040520, 2, 10, 0, 0, .std⟩
  | .sluSgsel => ⟨.abs, 0x8040600, 2, 1, 0xFFF, 0, .std⟩
  | .sluSgd0 => ⟨.abs, 0x8040602, 2, 1, 0x3FFFF, 0, .std⟩
  | .sluSgd1 => ⟨.abs, 0x8040604, 2, 1, 0x3E3FF, 0, .std⟩
  | .sluSgcfg => ⟨.abs, 0x8040606, 2, 1, 0x2003F, 0, .std⟩
  | .sluSgbase => ⟨.abs, 0x8040608, 2, 4, 0x3FFFF, 0, .std⟩
  | .sluSgcyc => ⟨.abs, 0x8040610, 2, 2, 0x3FFFF, 0, .std⟩
  | .sluErr => ⟨.abs, 0x8040700, 2, 1, 0, 7, .std⟩
  | .wbTsel => ⟨.abs, 0x8050000, 2, 1, 0x7F, 0, .std⟩
  | .wbTdesc => ⟨.abs, 0x8050002, 2, 1, 0x3FFFF, 0, .std⟩
  | .wbTdesc2 => ⟨.abs, 0x8050004, 2, 1, 0xFFF, 0, .std⟩
  | .wbKey => ⟨.abs, 0x8050010, 2, 8, 0x3FFFF, 0, .std⟩
  | .wbMask => ⟨.abs, 0x8050020, 2, 8, 0x3FFFF, 0, .std⟩
  | .wbRes => ⟨.abs, 0x8050030, 2, 2, 0x3FFFF, 0, .std⟩
  | .wbCmd => ⟨.abs, 0x8050034, 2, 1, 0, 0, .std⟩
  | .wbStat => ⟨.abs, 0x8050036, 2, 1, 0, 0x10000, .std⟩
  | .sealCtl => ⟨.abs, 0x8060000, 2, 1, 0x200FF, 0, .std⟩
  | .sealSasel => ⟨.abs, 0x8060002, 2, 1, 0x7FF, 0, .std⟩
  | .sealSactl => ⟨.abs, 0x8060004, 2, 1, 0x3FFC0, 0, .tkHost⟩
  | .sealSci => ⟨.abs, 0x8060006, 2, 4, 0x3FFFF, 0, .std⟩
  | .sealPn => ⟨.abs, 0x806000E, 2, 4, 0x3FFFF, 0, .tkHost⟩
  | .sealWin => ⟨.abs, 0x8060016, 2, 2, 0x3FFFF, 0, .std⟩
  | .sealSsci => ⟨.abs, 0x806001A, 2, 2, 0x3FFFF, 0, .std⟩
  | .sealKdata => ⟨.abs, 0x8060020, 2, 1, 0, 0, .tkHost⟩
  | .sealKcmd => ⟨.abs, 0x8060022, 2, 1, 0, 0, .tkHost⟩
  | .sealKstat => ⟨.abs, 0x8060024, 2, 1, 0, 0x20000, .std⟩
  | .sealEvt => ⟨.abs, 0x8060026, 2, 1, 0, 0x20000, .std⟩
  | .bolSel => ⟨.abs, 0x8070000, 2, 1, 0xFFF, 0, .std⟩
  | .bolCfg => ⟨.abs, 0x8070002, 2, 1, 0x20000, 0, .std⟩
  | .bolState => ⟨.abs, 0x8070004, 2, 1, 0, 0, .std⟩
  | .bolOwner => ⟨.abs, 0x8070006, 2, 1, 0, 0, .std⟩
  | .bolWaitcnt => ⟨.abs, 0x8070008, 2, 1, 0, 0, .std⟩
  | .bolForce => ⟨.abs, 0x807000A, 2, 1, 0, 0, .tkHost⟩
  | .bolErr => ⟨.abs, 0x807000C, 2, 1, 0, 7, .std⟩
  | .keepCtl => ⟨.abs, 0x8080000, 2, 1, 0x3C0FF, 0, .tkHost⟩
  | .keepWp => ⟨.abs, 0x8080002, 2, 1, 0x203FF, 0, .tkHost⟩
  | .keepAct => ⟨.abs, 0x8080004, 2, 1, 0, 0, .tkHost⟩
  | .keepDst => ⟨.abs, 0x8080006, 2, 2, 0x3FFFF, 0, .tkHost⟩
  | .keepSrc => ⟨.abs, 0x808000A, 2, 2, 0x3FFFF, 0, .tkHost⟩
  | .keepWdata => ⟨.abs, 0x8080010, 2, 4, 0x3FFFF, 0, .tkHost⟩
  | .keepCmd => ⟨.abs, 0x8080018, 2, 1, 0, 0, .tkHost⟩
  | .keepStat => ⟨.abs, 0x808001A, 2, 1, 0, 0x10000, .tkHost⟩
  | .keepErr => ⟨.abs, 0x808001C, 2, 1, 0, 0x3E000, .tkHost⟩
  | .keepErradr => ⟨.abs, 0x808001E, 2, 2, 0, 0, .tkHost⟩
  | .keepRemap => ⟨.abs, 0x8080100, 2, 64, 0, 0, .tkHost⟩
  | .pwrDom => ⟨.abs, 0x8090000, 2, 24, 0, 0x2000, .tkHost⟩
  | .pwrBwd => ⟨.abs, 0x8090040, 2, 1, 0x3FFFF, 0, .std⟩
  | .pwrBwdsvc => ⟨.abs, 0x8090042, 2, 1, 0, 0, .std⟩
  | .pwrBwdleft => ⟨.abs, 0x8090044, 2, 1, 0, 0, .std⟩
  | .pwrIso => ⟨.abs, 0x8090048, 2, 1, 0, 0, .tkHost⟩
  | .pwrBoot => ⟨.abs, 0x809004A, 2, 1, 0, 0, .std⟩
  | .dbgCtl => ⟨.abs, 0x80A0000, 2, 1, 0x3C000, 0, .hostDbg⟩
  | .dbgStat => ⟨.abs, 0x80A0002, 2, 1, 0, 0xC00, .std⟩
  | .dbgRun => ⟨.abs, 0x80A0004, 2, 1, 0, 0, .hostDbg⟩
  | .dbgRstat => ⟨.abs, 0x80A0006, 2, 1, 0, 0x10000, .std⟩
  | .dbgArg => ⟨.abs, 0x80A0008, 2, 2, 0x3FFFF, 0, .hostDbg⟩
  | .lcStat => ⟨.abs, 0x80A0200, 2, 1, 0, 0x800, .tkHostDbg⟩
  | .lcChal => ⟨.abs, 0x80A0202, 2, 1, 0, 0, .tkHostDbg⟩
  | .lcNonce => ⟨.abs, 0x80A0204, 2, 4, 0, 0, .tkHostDbg⟩
  | .lcTag => ⟨.abs, 0x80A020C, 2, 4, 0xFFFF, 0, .tkHostDbg⟩
  | .lcCmd => ⟨.abs, 0x80A0214, 2, 1, 0, 0, .tkHostDbg⟩
  | .lcKdata => ⟨.abs, 0x80A0216, 2, 1, 0, 0, .tkHostDbg⟩
  | .dbgVtTx => ⟨.abs, 0x80A0300, 2, 1, 0, 0, .std⟩
  | .dbgVtRx => ⟨.abs, 0x80A0302, 2, 1, 0, 0, .std⟩
  | .dbgVtsel => ⟨.abs, 0x80A0400, 2, 1, 0x1FF, 0, .std⟩
  | .dbgVtout => ⟨.abs, 0x80A0402, 2, 1, 0, 0, .std⟩
  | .dbgVtin => ⟨.abs, 0x80A0404, 2, 1, 0, 0, .std⟩
  | .dbgVtstat => ⟨.abs, 0x80A0406, 2, 1, 0, 0x20000, .std⟩
  | .dbgPatch => ⟨.abs, 0x80A0800, 2, 64, 0x3FFFF, 0, .std⟩
  | .dbgPstat => ⟨.abs, 0x80A0880, 2, 1, 0, 0x10000, .std⟩
  | .dbgPram => ⟨.abs, 0x80A1000, 2, 2048, 0x1FF, 0, .std⟩
  | .plState => ⟨.lock, 0x000, 2, 1, 0, 0x800, .tkHostDbg⟩
  | .plBank => ⟨.lock, 0x100, 2, 17, 0, 0, .tkHostDbg⟩
  | .plSpare => ⟨.lock, 0x130, 2, 1, 0, 0x20000, .tkHostDbg⟩
  | .plMarch => ⟨.lock, 0x140, 2, 1, 0x1F81F, 0, .tkHostDbg⟩
  | .plMstat => ⟨.lock, 0x142, 2, 1, 0, 0x1C000, .tkHostDbg⟩
  | .plMfail => ⟨.lock, 0x144, 2, 2, 0, 0, .tkHostDbg⟩
  | .plEcc => ⟨.lock, 0x150, 2, 1, 0, 0x30000, .tkHostDbg⟩
  | .plEccrow => ⟨.lock, 0x152, 2, 1, 0, 0, .tkHostDbg⟩
  | .plScrub => ⟨.lock, 0x154, 2, 1, 0x203FF, 0, .tkHostDbg⟩
  | .plPacecal => ⟨.lock, 0x160, 2, 1, 0, 0x18000, .tkHostDbg⟩
  | .lkHoldbase => ⟨.lock, 0x200, 2, 1, 0x3FFFF, 0, .std⟩
  | .lkHoldcnt => ⟨.lock, 0x202, 2, 1, 0x1FFF, 0, .std⟩
  | .lkManbase => ⟨.lock, 0x204, 2, 1, 0x3FFFF, 0, .std⟩
  | .lkFrctl => ⟨.lock, 0x206, 2, 1, 0x3C3FF, 0, .std⟩
  | .lkHoldstat => ⟨.lock, 0x208, 2, 1, 0, 0x3C000, .std⟩
  | .lkHoldalloc => ⟨.lock, 0x20A, 2, 1, 0, 0, .std⟩
  | .lkHoldret => ⟨.lock, 0x20C, 2, 1, 0, 0, .std⟩
  | .lkAgectl => ⟨.lock, 0x210, 2, 1, 0x203FF, 0, .std⟩
  | .lkLccctl => ⟨.lock, 0x300, 2, 1, 7, 0, .std⟩
  | .lkLccstat => ⟨.lock, 0x302, 2, 1, 0, 0x10000, .std⟩
  | .evtSrc => ⟨.ctl, 0x1000, 2, 512, 0x3FC7F, 0, .evt⟩
  | .evtPend => ⟨.ctl, 0x1400, 2, 32, 0, 0xFFFF, .evt⟩
  | .evtAct => ⟨.ctl, 0x1440, 2, 32, 0, 0, .evt⟩
  | .evtClaim => ⟨.ctl, 0x1480, 2, 1, 0, 0, .evt⟩
  | .evtDone => ⟨.ctl, 0x1482, 2, 1, 0, 0, .evt⟩
  | .evtRing => ⟨.ctl, 0x1484, 2, 1, 0, 0, .ring⟩
  | .evtErr => ⟨.ctl, 0x1486, 2, 1, 0, 7, .evt⟩
  | .evtVec => ⟨.ctl, 0x1490, 2, 16, 0x2FFFF, 0, .evt⟩
  | .evtThr => ⟨.ctl, 0x14B0, 2, 128, 0xF, 0, .evt⟩
  | .evtTflt => ⟨.ctl, 0x15B0, 2, 128, 0, 0, .tkHostDbg⟩
  | .evtDlb => ⟨.ctl, 0x16B0, 2, 8, 0x3FFFF, 0, .evt⟩
  | .crCtl => ⟨.core, 0x000, 2, 1, 0x24000, 0, .std⟩
  | .crStat => ⟨.core, 0x002, 2, 1, 0, 0x10000, .std⟩
  | .crEpri => ⟨.core, 0x004, 2, 2, 0, 0, .std⟩
  | .crSbocc => ⟨.core, 0x008, 2, 2, 0, 0, .std⟩
  | .crCnt => ⟨.core, 0x010, 2, 16, 0, 0, .std⟩
  | .crTlstat => ⟨.core, 0x030, 2, 1, 0, 0, .std⟩
  | .crTlops => ⟨.core, 0x032, 2, 2, 0, 0, .std⟩
  | .crTlkill => ⟨.core, 0x036, 2, 2, 0, 0, .std⟩
  | .wlCtl => ⟨.core, 0x040, 2, 1, 0x30000, 0, .std⟩
  | .wlStat => ⟨.core, 0x042, 2, 1, 0, 0x38000, .std⟩
  | .wlVer => ⟨.core, 0x044, 2, 1, 0x3FFFF, 0, .std⟩
  | .wlMaddr => ⟨.core, 0x046, 2, 1, 0x7FF, 0, .std⟩
  | .wlMdata => ⟨.core, 0x048, 2, 1, 0x3FFFF, 0, .std⟩
  | .wlNaddr => ⟨.core, 0x04A, 2, 1, 0x1FF, 0, .std⟩
  | .wlNdata => ⟨.core, 0x04C, 2, 8, 0x3FFFF, 0, .std⟩
  | .crStwin => ⟨.core, 0x060, 2, 8, 0x7FF, 0, .std⟩
  | .crSterr => ⟨.core, 0x070, 2, 1, 0, 0x30000, .std⟩
  | .wlDt => ⟨.core, 0x080, 2, 64, 0x300FF, 0, .std⟩
  | .thView => ⟨.core, 0x200, 2, 256, 0, 0, .thv⟩

/-- The reset value of index `i` of a register. -/
def Reg.reset (r : Reg) (i : Nat) : Cell :=
  match r with
  | .blkLockmap => BitVec.ofNat 18 (0x20000+i)
  | .blkSpare => 16
  | .blkTkwd => 1000
  | .blkPaceCtl => 0x20C9A
  | .blkHlptmo => 100
  | .blkFbctl => 0x40c8
  | .blkFbpart => BitVec.ofNat 18 ((i+1)%16)
  | .blkHpctl => 100
  | .blkFlt => 0x20002
  | .blkRctl => BitVec.ofNat 18 (if i < 8 then 0x8180 else 0x180)
  | .blkLppctl => 0x20000
  | .blkLppety => 0x88B5
  | .blkLppq => 0xFFFF
  | .blkEvdrain => 50
  | .cnlVccfg => 0x4210
  | .qiCtl => 0x1080
  | .qiMap => BitVec.ofNat 18 (i)
  | .qiOrd => BitVec.ofNat 18 (i*256)
  | .qiLim => 0x1fff0
  | .qiQthr => 0x103e8
  | .qiPhy => 0x4000
  | .qiSteer => BitVec.ofNat 18 (i%16)
  | .qeOrdprof => 200
  | .qeCtl => 0x1007
  | .gauPcpmap => BitVec.ofNat 18 (if i = 0 then 0x688 else 0xFAC)
  | .gauHprof => 0x38000
  | .sluCtl => 24
  | .sluRate => 1000
  | .sluGst => 0xFF
  | .sluLen => 1
  | .sluFb => 0x4026
  | .sluFbb => 3092
  | .sealCtl => 0xC0
  | .sealSactl => 0x240
  | .sealPn => BitVec.ofNat 18 (if i = 0 then 1 else 0)
  | .keepCtl => 0x2c018
  | .keepErr => 64
  | .pwrDom => BitVec.ofNat 18 (if i = 0 then 0x10000 else 0)
  | .pwrBwd => 1000
  | .pwrBoot => 0x4000
  | .dbgCtl => 0x20000
  | .plSpare => 0x1F
  | .plMarch => 0x1000
  | .plMstat => 0x1F
  | .plScrub => 0x20010
  | .plPacecal => 0x80
  | .lkHoldcnt => 6144
  | .lkManbase => 0x31800
  | .lkFrctl => 0x1c100
  | .lkAgectl => 0x20032
  | .evtSrc => 0x8000
  | .evtThr => 15
  | .evtDlb => BitVec.ofNat 18 (if i = 7 then 250 else 0x10000+200)
  | .crCtl => 0x24000
  | .wlCtl => 0x10000
  | .wlDt => BitVec.ofNat 18 (if i % 2 = 0 then 0x700 else 0)
  | _ => 0

/-- The registers of each space, in address order of the tables. -/
def Reg.absList0 : List Reg :=
  [.blkLockmap, .blkSpare, .blkRemap, .blkTkstat, .blkTkctl, .blkTkwd, .blkPaceCtl, .blkPaceStat,
   .blkPaceCnt, .blkKentry, .blkHlptmo, .blkFbctl, .blkFbpairq, .blkFbmm, .blkFberr, .blkFbpart,
   .blkApsel, .blkHwbase0, .blkHwbase1, .blkHpctl, .blkHperr, .blkFlt, .blkEvosw, .blkRbase0]

/-- The registers of the next group. -/
def Reg.absList1 : List Reg :=
  [.blkRbase1, .blkRbase2, .blkRctl, .blkRhead, .blkRtail, .blkRstat, .blkRord, .blkLppctl,
   .blkLppety, .blkLppq, .blkLppstat, .blkLpppop0, .blkLpppop1, .blkLppship, .blkLppnew0, .blkLppnew1,
   .odIdx, .odSub, .odOff, .odLen, .odCmd, .odStat, .odAbort, .odData]

/-- The registers of the next group. -/
def Reg.absList2 : List Reg :=
  [.blkEvac, .blkEvdrain, .blkEvleft, .blkMove, .blkXchg, .tbCtl, .tbSnap, .tbRate,
   .tbStep, .tbSnapm, .tbAlmsel, .tbAlmt, .tbAlmctl, .tbAlmper, .tbTssel, .tbTspop,
   .tbTsv, .cnlVccfg, .cnlErr, .qiCtl, .qiMap, .qiOrd, .qiLim, .qiViol]

/-- The registers of the next group. -/
def Reg.absList3 : List Reg :=
  [.qiQthr, .qiPhy, .qiSteer, .qeOrdsel, .qeOrdcfg, .qeOrdnext, .qeOrdstat, .qeOrdprof,
   .qeCtl, .gauNode, .gauCtl, .gauHseed, .gauPcpmap, .gauHprof, .gauRoot, .gauTrans,
   .sluCtl, .sluRate, .sluGst, .sluBase0, .sluBase1, .sluBase2, .sluBase3, .sluCyc0]

/-- The registers of the next group. -/
def Reg.absList4 : List Reg :=
  [.sluCyc1, .sluExt, .sluLen, .sluGo, .sluFb, .sluFbb, .sluIdle, .sluGclsel,
   .sluGcld0, .sluGcld1, .sluFsel, .sluFctl, .sluFsdu, .sluFrate, .sluFcnt, .sluSgsel,
   .sluSgd0, .sluSgd1, .sluSgcfg, .sluSgbase, .sluSgcyc, .sluErr, .wbTsel, .wbTdesc]

/-- The registers of the next group. -/
def Reg.absList5 : List Reg :=
  [.wbTdesc2, .wbKey, .wbMask, .wbRes, .wbCmd, .wbStat, .sealCtl, .sealSasel,
   .sealSactl, .sealSci, .sealPn, .sealWin, .sealSsci, .sealKdata, .sealKcmd, .sealKstat,
   .sealEvt, .bolSel, .bolCfg, .bolState, .bolOwner, .bolWaitcnt, .bolForce, .bolErr]

/-- The registers of the next group. -/
def Reg.absList6 : List Reg :=
  [.keepCtl, .keepWp, .keepAct, .keepDst, .keepSrc, .keepWdata, .keepCmd, .keepStat,
   .keepErr, .keepErradr, .keepRemap, .pwrDom, .pwrBwd, .pwrBwdsvc, .pwrBwdleft, .pwrIso,
   .pwrBoot, .dbgCtl, .dbgStat, .dbgRun, .dbgRstat, .dbgArg, .lcStat, .lcChal]

/-- The registers of the next group. -/
def Reg.absList7 : List Reg :=
  [.lcNonce, .lcTag, .lcCmd, .lcKdata, .dbgVtTx, .dbgVtRx, .dbgVtsel, .dbgVtout,
   .dbgVtin, .dbgVtstat, .dbgPatch, .dbgPstat, .dbgPram]

/-- The registers of the next group. -/
def Reg.absList : List Reg :=
  List.flatten [Reg.absList0, Reg.absList1, Reg.absList2, Reg.absList3, Reg.absList4, Reg.absList5, Reg.absList6, Reg.absList7]

/-- The registers of a lock block, an event controller, a core block. -/
def Reg.lockList : List Reg :=
  [.plState, .plBank, .plSpare, .plMarch, .plMstat, .plMfail, .plEcc, .plEccrow,
   .plScrub, .plPacecal, .lkHoldbase, .lkHoldcnt, .lkManbase, .lkFrctl, .lkHoldstat, .lkHoldalloc,
   .lkHoldret, .lkAgectl, .lkLccctl, .lkLccstat]

/-- The registers of the next group. -/
def Reg.ctlList : List Reg :=
  [.evtSrc, .evtPend, .evtAct, .evtClaim, .evtDone, .evtRing, .evtErr, .evtVec,
   .evtThr, .evtTflt, .evtDlb]

/-- The registers of the next group. -/
def Reg.coreList : List Reg :=
  [.crCtl, .crStat, .crEpri, .crSbocc, .crCnt, .crTlstat, .crTlops, .crTlkill,
   .wlCtl, .wlStat, .wlVer, .wlMaddr, .wlMdata, .wlNaddr, .wlNdata, .crStwin,
   .crSterr, .wlDt, .thView]

/-- A register reference: the register, its unit (physical lock, 31 for the tollkeeper controller, or a core
number) and its index. -/
structure RegRef where
  reg : Reg
  unit : Nat
  idx : Nat
  deriving DecidableEq, Repr

/-- The address at which a unit's block of a space begins. Locks 17 and up, and the cores in them, stand for the
tollkeepers' own (R270; the tollkeepers have no CR_ block that an address names). -/
def Space.start (s : Space) (unit : Nat) : Nat :=
  match s with
  | .abs => 0
  | .lock => 0x8300000 + unit * 0x10000
  | .ctl => if unit = 31 then 0x80B0000 - 0x1000 else 0x8300000 + unit * 0x10000
  | .core => 0x8300000 + unit / 16 * 0x10000 + 0x4000 + unit % 16 * 0x400

/-- The physical address of a register: its key in Mach.regs. -/
def RegRef.key (r : RegRef) : Nat :=
  r.reg.info.space.start r.unit + r.reg.info.base + r.idx * r.reg.info.stride

/-- The register of a list that lies at an offset. -/
def Reg.at_ (l : List Reg) (unit off : Nat) : Option RegRef :=
  match l with
  | [] => none
  | r :: l =>
    let n := r.info
    if n.base ≤ off ∧ off < n.base + n.stride * n.count ∧ (off - n.base) % n.stride = 0 then
      some ⟨r, unit, (off - n.base) / n.stride⟩
    else Reg.at_ l unit off

/-- Whether a core register is a windlass register, which the tollkeepers have too, at 0x800_0200 (section Windlass
registers). -/
def Reg.isWl : Reg → Bool
  | .wlCtl => true
  | .wlStat => true
  | .wlVer => true
  | .wlMaddr => true
  | .wlMdata => true
  | .wlNaddr => true
  | .wlNdata => true
  | .wlDt => true
  | _ => false

/-- The register at an even physical address (R157, R270, R395). -/
def Reg.ofAddr (a : Nat) : Option RegRef :=
  if 0x8300000 ≤ a ∧ a < 0x8410000 then
    let p := (a - 0x8300000) / 0x10000
    let off := (a - 0x8300000) % 0x10000
    if off < 0x1000 then Reg.at_ Reg.lockList p off
    else if off < 0x4000 then Reg.at_ Reg.ctlList p off
    else if off < 0x8000 then Reg.at_ Reg.coreList (16 * p + (off - 0x4000) / 0x400) ((off - 0x4000) % 0x400)
    else none
  else if 0x80B0000 ≤ a ∧ a < 0x80C0000 then
    (Reg.at_ Reg.ctlList 31 (a - 0x80B0000 + 0x1000)).filter fun r =>
      !(r.reg == .evtDlb || ((r.reg == .evtThr || r.reg == .evtTflt) && 8 ≤ r.idx))
  else if 0x8000200 ≤ a ∧ a < 0x8000400 then
    (Reg.at_ Reg.coreList (272 + (a - 0x8000200) / 0x100) ((a - 0x8000200) % 0x100 + 0x40)).filter fun r => r.reg.isWl
  else Reg.at_ Reg.absList 0 a

end Sys2Proof.Machine
end

