-- ==== Sys2Proof/Machine/Ops.lean ====
section
/-!
DEFINITION. The named operations over the state: bit fields, sparse maps, the records of Mach, register cells,
the lock map, counters, event lines and free values. Every unit's file builds on these.
-/
namespace Sys2Proof.Machine

/-! ## Bits -/

/-- Bits hi:lo as a number (R8). -/
def fld {w : Nat} (c : BitVec w) (hi lo : Nat) : Nat := c.toNat / 2 ^ lo % 2 ^ (hi + 1 - lo)

/-- One bit. -/
def bit {w : Nat} (c : BitVec w) (i : Nat) : Bool := c.getLsbD i

/-- Bits hi:lo replaced by a number. -/
def setFld {w : Nat} (c : BitVec w) (hi lo v : Nat) : BitVec w :=
  let mask := BitVec.ofNat w ((2 ^ (hi + 1 - lo) - 1) * 2 ^ lo)
  (c &&& ~~~mask) ||| (BitVec.ofNat w (v * 2 ^ lo) &&& mask)

/-- One bit replaced. -/
def setBit {w : Nat} (c : BitVec w) (i : Nat) (b : Bool) : BitVec w := setFld c i i (if b then 1 else 0)

/-- A Bool as a number. -/
def b2n (b : Bool) : Nat := if b then 1 else 0

/-- Bits a mask selects come from `v`, the others from `c`. -/
def blend {w : Nat} (c mask v : BitVec w) : BitVec w := (c &&& ~~~mask) ||| (v &&& mask)

/-- Low and high cell of a double (R8). -/
def Dbl.lo (d : Dbl) : Cell := d.setWidth 18
/-- The high cell. -/
def Dbl.hi (d : Dbl) : Cell := d.extractLsb' 18 18
/-- A double from its high and low cell. -/
def mkDbl (hi lo : Cell) : Dbl := hi ++ lo

/-- A signed cell's value (section Cells and flags). -/
def sx {w : Nat} (c : BitVec w) : Int := c.toInt

/-! ## The monotonic count -/

/-- The monotonic count in ns (R108). -/
def Mach.now (m : Mach) : Nat := m.tb.mono.toNat
/-- Whether some ns have passed since the monotonic count stood at a value. -/
def Mach.past (m : Mach) (since ns : Nat) : Bool := decide (since + ns ≤ m.now)

/-! ## Sparse maps -/

/-- The value at a key; `d` is what an unlisted key reads as. -/
def mget {α : Type} (d : α) : Map α → Nat → α
  | [], _ => d
  | (k, v) :: r, i => if k = i then v else mget d r i

/-- The map with a key removed. -/
def mdel {α : Type} : Map α → Nat → Map α
  | [], _ => []
  | (k, v) :: r, i => if k = i then mdel r i else (k, v) :: mdel r i

/-- The map with a key listed. -/
def mput {α : Type} : Map α → Nat → α → Map α
  | [], i, x => [(i, x)]
  | (k, v) :: r, i, x =>
    if i < k then (i, x) :: (k, v) :: r else if k = i then (i, x) :: r else (k, v) :: mput r i x

/-- The map with a key set, in canonical form: a value equal to the unlisted one is not listed. -/
def mset {α : Type} [DecidableEq α] (d : α) (m : Map α) (i : Nat) (x : α) : Map α :=
  if x = d then mdel m i else mput m i x

/-- Keys strictly rising from a bound, no value equal to the unlisted one. -/
def mwfFrom {α : Type} [DecidableEq α] (d : Nat → α) : Nat → Map α → Bool
  | _, [] => true
  | n, (k, v) :: r => decide (n ≤ k) && decide (v ≠ d k) && mwfFrom d (k + 1) r

/-- The canonical form of a map. -/
def mwf {α : Type} [DecidableEq α] (d : Nat → α) (m : Map α) : Bool := mwfFrom d 0 m

/-- Canonical form of the memory. -/
def Memory.wf (m : Map Nonet) : Bool := mwf (fun _ => 0) m

/-- The keys a map lists that satisfy a test. -/
def mkeys {α : Type} (m : Map α) (f : Nat → α → Bool) : List Nat := (m.filter fun e => f e.1 e.2).map Prod.fst

/-! ## The records of Mach -/

/-- The thread with a physical ID. -/
def Mach.thr (m : Mach) (t : Tid) : Thread := mget (threadReset t.toNat) m.threads t.toNat
/-- The block with a thread replaced. -/
def Mach.setThr (m : Mach) (t : Tid) (x : Thread) : Mach :=
  { m with threads := mset (threadReset t.toNat) m.threads t.toNat x }
/-- The block with a thread changed. -/
def Mach.updThr (m : Mach) (t : Tid) (f : Thread → Thread) : Mach := m.setThr t (f (m.thr t))

/-- A physical lock. -/
def Mach.lock (m : Mach) (p : Nat) : Lock := mget Lock.off m.locks p
/-- The block with a lock changed. -/
def Mach.updLock (m : Mach) (p : Nat) (f : Lock → Lock) : Mach :=
  { m with locks := mset Lock.off m.locks p (f (m.lock p)) }

/-- A core. -/
def Mach.core (m : Mach) (k : Nat) : Core := mget Core.empty m.cores k
/-- The block with a core changed. -/
def Mach.updCore (m : Mach) (k : Nat) (f : Core → Core) : Mach :=
  { m with cores := mset Core.empty m.cores k (f (m.core k)) }

/-- An ingress quay. -/
def Mach.iq (m : Mach) (q : Nat) : Iq := mget Iq.idle m.iqs q
/-- The block with an ingress quay changed. -/
def Mach.updIq (m : Mach) (q : Nat) (f : Iq → Iq) : Mach := { m with iqs := mset Iq.idle m.iqs q (f (m.iq q)) }

/-- An egress quay. -/
def Mach.eq (m : Mach) (q : Nat) : Eq := mget Eq.idle m.eqs q
/-- The block with an egress quay changed. -/
def Mach.updEq (m : Mach) (q : Nat) (f : Eq → Eq) : Mach := { m with eqs := mset Eq.idle m.eqs q (f (m.eq q)) }

/-- The gate of a domain. -/
def Mach.gate (m : Mach) (d : Nat) : Gate := mget Gate.empty m.gates d
/-- The block with a gate changed. -/
def Mach.updGate (m : Mach) (d : Nat) (f : Gate → Gate) : Mach :=
  { m with gates := mset Gate.empty m.gates d (f (m.gate d)) }

/-- A bollard. -/
def Mach.bol (m : Mach) (b : Nat) : Bollard := mget Bollard.free m.bollards b
/-- The block with a bollard changed. -/
def Mach.updBol (m : Mach) (b : Nat) (f : Bollard → Bollard) : Mach :=
  { m with bollards := mset Bollard.free m.bollards b (f (m.bol b)) }

/-- A quay's sluice. -/
def Mach.shape (m : Mach) (q : Nat) : Shape := mget Shape.reset m.sluice.quays q
/-- The block with a quay's sluice changed. -/
def Mach.updShape (m : Mach) (q : Nat) (f : Shape → Shape) : Mach :=
  { m with sluice := { m.sluice with quays := mset Shape.reset m.sluice.quays q (f (m.shape q)) } }

/-- A canal link, by 2 × port, plus 1 for the response pool. -/
def LinkId.key (l : LinkId) : Nat := 2 * l.port.val + b2n l.resp
/-- A canal link. -/
def Mach.link (m : Mach) (k : Nat) : Link := mget Link.idle m.links k
/-- The block with a link changed. -/
def Mach.updLink (m : Mach) (k : Nat) (f : Link → Link) : Mach :=
  { m with links := mset Link.idle m.links k (f (m.link k)) }

/-! ## Register cells -/

/-- What a register stores. -/
def Mach.rget (m : Mach) (r : RegRef) : Cell := mget (r.reg.reset r.idx) m.regs r.key
/-- The block with a register's cell replaced. -/
def Mach.rset (m : Mach) (r : RegRef) (v : Cell) : Mach :=
  { m with regs := mset (r.reg.reset r.idx) m.regs r.key v }

/-- A block register. -/
def Mach.r (m : Mach) (r : Reg) (i : Nat := 0) : Cell := m.rget ⟨r, 0, i⟩
/-- A block register replaced. -/
def Mach.w (m : Mach) (r : Reg) (v : Cell) (i : Nat := 0) : Mach := m.rset ⟨r, 0, i⟩ v
/-- A register of a unit (lock, controller, core). -/
def Mach.ru (m : Mach) (r : Reg) (u : Nat) (i : Nat := 0) : Cell := m.rget ⟨r, u, i⟩
/-- A register of a unit replaced. -/
def Mach.wu (m : Mach) (r : Reg) (u : Nat) (v : Cell) (i : Nat := 0) : Mach := m.rset ⟨r, u, i⟩ v
/-- A block register with a bit set or cleared. -/
def Mach.wbit (m : Mach) (r : Reg) (b : Nat) (x : Bool) (i : Nat := 0) : Mach := m.w r (setBit (m.r r i) b x) i
/-- A unit's register with a bit set or cleared. -/
def Mach.wubit (m : Mach) (r : Reg) (u b : Nat) (x : Bool) (i : Nat := 0) : Mach :=
  m.wu r u (setBit (m.ru r u i) b x) i

/-! ## Counters, free values -/

/-- A dictionary counter (R378: 36 bits, wrapping). -/
def Mach.cntKey (m : Mach) (k : Nat) : Dbl := mget 0 m.counts k
/-- The block with a counter advanced. -/
def Mach.addKey (m : Mach) (k n : Nat) : Mach :=
  { m with counts := mset 0 m.counts k (m.cntKey k + BitVec.ofNat 36 n) }
/-- A counter of the dictionary advanced by one. -/
def Mach.count (m : Mach) (index sub : Nat) : Mach := m.addKey (256 * index + sub) 1
/-- A counter of the dictionary advanced by n. -/
def Mach.countN (m : Mach) (index sub n : Nat) : Mach := m.addKey (256 * index + sub) n

/-- The next free value's number, used up. -/
def Mach.take (m : Mach) : Mach := { m with free := m.free + 1 }

/-! ## Threads, locks and references -/

/-- The physical lock part of a thread ID (R10). -/
def Tid.lock (t : Tid) : Nat := t.toNat / 128
/-- The core part. -/
def Tid.core (t : Tid) : Nat := t.toNat / 8 % 16
/-- The thread part. -/
def Tid.num (t : Tid) : Nat := t.toNat % 8
/-- Whether the block has the thread (R7, R149). -/
def Tid.ok (t : Tid) : Bool := decide (Tid.lock t ≤ 16) || (decide (Tid.lock t = 31) && decide (Tid.core t ≤ 1))
/-- Whether it is a tollkeeper thread. -/
def Tid.tk (t : Tid) : Bool := decide (Tid.lock t = 31)
/-- Its core as one number. -/
def Tid.coreNo (t : Tid) : Nat := if Tid.tk t then 272 + Tid.core t else Tid.lock t * 16 + Tid.core t
/-- Its event controller: the physical lock, or 31. -/
def Tid.ctl (t : Tid) : Nat := Tid.lock t
/-- Its index in EVT_THRt and EVT_TFLTt (R270: thread number of the active tollkeeper). -/
def Tid.idx (t : Tid) : Nat := if Tid.tk t then Tid.num t else t.toNat % 128
/-- A thread ID from its parts. -/
def mkTid (lock core num : Nat) : Tid := BitVec.ofNat 12 (lock * 128 + core * 8 + num)

/-- The unit number of an event controller. -/
def Ctl.unit : Ctl → Nat
  | .lock p => p.val
  | .tk => 31

/-- The active tollkeeper: 0 for TK-A, 1 for TK-B (BLK_TKSTAT.ACTIVE). -/
def Mach.activeTk (m : Mach) : Nat := fld (m.r .blkTkstat) 17 17
/-- The thread that an event controller's index names (R270). -/
def Mach.ctlTid (m : Mach) (u i : Nat) : Tid := if u = 31 then mkTid 31 m.activeTk (i % 8) else mkTid u (i / 8 % 16) (i % 8)

/-- The physical lock that serves a logical lock (R15). -/
def Mach.plockOf (m : Mach) (l : Nat) : Nat := fld (m.r .blkLockmap (l % 16)) 4 0
/-- The spare lock. -/
def Mach.spare (m : Mach) : Nat := fld (m.r .blkSpare) 4 0
/-- The logical lock that a physical lock serves; for a DRAINING victim, the one it served (R149, R477). -/
def Mach.llockOf (m : Mach) (p : Nat) : Option Nat :=
  match (List.range 16).find? (fun l => m.plockOf l == p) with
  | some l => some l
  | none =>
    match m.evac with
    | some e => if e.victim.val = p ∧ (m.lock p).state = .draining then some e.lock.val else none
    | none => none

/-- The present epoch of a thread's lock or tollkeeper (R149, R399). -/
def Mach.epochOf (m : Mach) (t : Tid) : BitVec 8 :=
  if Tid.tk t then (if Tid.core t = 0 then m.d0.tkEpochA else m.d0.tkEpochB) else (m.lock (Tid.lock t)).epoch
/-- A thread's reference: epoch and ID (R149, R399). -/
def Mach.refOf (m : Mach) (t : Tid) : BitVec 20 := m.epochOf t ++ t
/-- The thread of a reference. -/
def refTid (r : BitVec 20) : Tid := r.setWidth 12
/-- Whether a reference is current (R7, R399). -/
def Mach.current (m : Mach) (r : BitVec 20) : Bool :=
  Tid.ok (refTid r) && (r.extractLsb' 12 8 == m.epochOf (refTid r))

/-- Whether a lock is admitted (R395). -/
def Lock.admitted (k : Lock) : Bool := k.state == .spare || k.state == .serving || k.state == .draining
/-- Whether a lock is parked (R395). -/
def Lock.parked (k : Lock) : Bool := k.state == .held || k.state == .retained

/-- The power of a domain. -/
def Mach.power (m : Mach) (d : Nat) : Power := mget .off m.d0.power d
/-- Whether a domain is on. -/
def Mach.isOn (m : Mach) (d : Nat) : Bool := m.power d == .on

/-- Whether a thread's core runs at all: an admitted lock (R395), or a tollkeeper that is not held in reset. -/
def Mach.coreRuns (m : Mach) (t : Tid) : Bool :=
  if Tid.tk t then m.isOn 1 && !(if Tid.core t = 0 then m.d0.tkHeldA else m.d0.tkHeldB)
  else (m.lock (Tid.lock t)).admitted

/-- All threads of a lock, or of one tollkeeper (unit 31: both). -/
def tidsOf (u : Nat) : List Tid :=
  if u = 31 then (List.range 16).map fun i => mkTid 31 (i / 8) (i % 8)
  else (List.range 128).map fun i => mkTid u (i / 8) (i % 8)

/-- The threads of a lock that the state lists: every other one is as its reset left it. -/
def Mach.listed (m : Mach) (u : Nat) : List Tid := (tidsOf u).filter fun t => m.threads.any fun e => e.1 == t.toNat

/-! ## Image slots (R160, R421) -/

/-- The active slot of a kind of image: bit 0 of KEEP_ACT firmware, 1 packet program, 2 microcode. -/
def Mach.actSlot (m : Mach) (kind : Nat) : Nat := fld (m.r .keepAct) kind kind
/-- The slot that a thread's code and event vectors come from: a lock thread keeps the one active at its last dispatch or
reset until its next `berth` (R421). -/
def Mach.slotOf (m : Mach) (t : Tid) : Nat := if Tid.tk t then m.actSlot 0 else b2n (m.thr t).slot
/-- A lock thread that now runs the active slot. -/
def Mach.takeSlot (m : Mach) (t : Tid) : Mach :=
  if Tid.tk t then m else m.updThr t fun x => { x with slot := m.actSlot 1 == 1 }
/-- The vector of a level for a thread (R255, R421). -/
def Mach.vecOf (m : Mach) (t : Tid) (l : Nat) : Cell :=
  if !Tid.tk t && m.slotOf t != m.actSlot 1 then mget 0 m.oldVecs (16 * Tid.lock t + l) else m.ru .evtVec (Tid.ctl t) l
/-- Whether a thread of an admitted lock runs the previous packet slot (BLK_XCHG.PPOLD). -/
def Mach.ppOld (m : Mach) : Bool :=
  (List.range 17).any fun p => (m.lock p).admitted &&
    (tidsOf p).any fun t => !(m.thr t).berthed && m.slotOf t != m.actSlot 1

/-! ## Banks and flags -/

/-- The active bank (R155). -/
def Thread.bank (x : Thread) : Bank := if x.fastOn then x.fast else x.norm
/-- The active bank replaced. -/
def Thread.setBank (x : Thread) (b : Bank) : Thread := if x.fastOn then { x with fast := b } else { x with norm := b }
/-- FLG of the active bank. -/
def Thread.flg (x : Thread) : Cell := x.bank.flg
/-- FLG of the active bank replaced. -/
def Thread.setFlg (x : Thread) (v : Cell) : Thread := x.setBank { x.bank with flg := v }
/-- Helm privilege (R147). -/
def Thread.helm (x : Thread) : Bool := bit x.flg 17
/-- The stack limit of the active bank (R153, R155). -/
def Thread.limit (x : Thread) : Nat := if x.fastOn then 8 else 16

/-- The master's privilege is helm; the host and the debug bus master count as helm. -/
def Mach.masterHelm (m : Mach) : Master → Bool
  | .thread t => (m.thr t).helm
  | _ => true
/-- A helm thread of the active tollkeeper (R17, R21). -/
def Mach.isActiveTk (m : Mach) : Master → Bool
  | .thread t => Tid.tk t && Tid.core t == m.activeTk && (m.thr t).helm
  | _ => false
/-- A thread of the standby tollkeeper (R21). -/
def Mach.isStandbyTk (m : Mach) : Master → Bool
  | .thread t => Tid.tk t && Tid.core t != m.activeTk
  | _ => false

/-! ## Core counters (R243, R294) -/

/-- Key of counter n of a core: 0 to 7 as R243 numbers them, 8 TLOPS, 9 TLKILL. -/
def coreCntKey (k n : Nat) : Nat := 0x1000000 + 16 * k + n
/-- A core counter advanced, while CR_CTL.CNTRUN is 1. -/
def Mach.coreCount (m : Mach) (k n by_ : Nat) : Mach :=
  if bit (m.ru .crCtl k) 14 ∧ by_ ≠ 0 then m.addKey (coreCntKey k n) by_ else m

/-- Key of a count that a rule asks for and to which the spec gives no object of the dictionary (DESIGN CHOICE entry 93): `k` 0 frames that
the lock-keeper of lock n scuttled for their kind (R58), 1 frames orphaned by `berth` on lock n (R59), 2 beats that quay n
discarded in quarantine (R346). -/
def bareCntKey (k n : Nat) : Nat := 0x2000000 + 256 * k + n
/-- Such a count advanced. -/
def Mach.bareCount (m : Mach) (k n : Nat) : Mach := m.addKey (bareCntKey k n) 1

/-! ## Event lines and pending bits (R244 to R249, R270, R271, R477, R483) -/

/-- The pending bit that the controller holds for a source. -/
def Mach.pendBit (m : Mach) (u s : Nat) : Bool := bit (m.ru .evtPend u (s / 16)) (s % 16)
/-- The pending bit set or cleared. -/
def Mach.setPend (m : Mach) (u s : Nat) (b : Bool) : Mach := m.wubit .evtPend u (s % 16) b (s / 16)
/-- The active bit of a source. -/
def Mach.actBit (m : Mach) (u s : Nat) : Bool := bit (m.ru .evtAct u (s / 16)) (s % 16)
/-- The active bit set or cleared. -/
def Mach.setAct (m : Mach) (u s : Nat) (b : Bool) : Mach := m.wubit .evtAct u (s % 16) b (s / 16)
/-- A source's configuration (R244). -/
def Mach.src (m : Mach) (u s : Nat) : Cell := m.ru .evtSrc u s
/-- SENSE of a source. -/
def Mach.sense (m : Mach) (u s : Nat) : Nat := fld (m.src u s) 16 14

/-- Whether some thread of a controller's scope is faulted (R246, R271). -/
def Mach.anyFault (m : Mach) (u : Nat) : Bool :=
  m.threads.any fun e => e.2.faulted && (u == 31 || e.1 / 128 == u)

/-- The line of a source (R246, R271); a source without a line reads false. -/
def Mach.line (m : Mach) (u s : Nat) : Bool :=
  if s < 16 then (mget ⟨0, 0, false, false, false⟩ m.tb.alarms s).fired
  else if s < 32 then !(m.eq (s - 16)).stamps.isEmpty
  else if u = 31 then
    if s = 32 then fld (m.r .blkPaceStat) 17 16 ≠ 0
    else if s = 35 then bit (m.r .sealEvt) 17
    else if s = 37 then m.anyFault 31
    else if 38 ≤ s ∧ s < 54 then bit (m.r .qiViol (s - 38)) 17
    else false
  else if s = 32 then fld (m.r .blkPaceCnt (u + 6)) 17 16 ≠ 0
  else if s = 33 then bit (m.ru .lkHoldstat u) 16
  else if s = 34 then bit (m.ru .lkHoldstat u) 15
  else if s = 35 then m.anyFault u
  else if s = 36 then (List.range 16).any fun x => bit (m.ru .crStat (16 * u + x)) 16
  else false

/-- Whether a source has a line that a level mode follows: not a doorbell, not reserved, not one of R271's
sources without a line. -/
def hasLine (u s : Nat) : Bool :=
  if u = 31 then decide (s < 54) && !(s == 33 || s == 34 || s == 36) else decide (s < 37)

/-- The pending bit as the controller shows it: in a level mode it follows the line (R245). -/
def Mach.pending (m : Mach) (u s : Nat) : Bool :=
  if hasLine u s ∧ m.sense u s = 0 then m.line u s
  else if hasLine u s ∧ m.sense u s = 1 then !m.line u s
  else m.pendBit u s

/-- The edge of a line from `old` as its mode takes it (R244, R245). -/
def Mach.edge (m : Mach) (u s : Nat) (old : Bool) : Mach :=
  let now := m.line u s
  let hit := match m.sense u s with
    | 2 => !old && now
    | 3 => old && !now
    | 4 => old != now
    | _ => false
  if hit then m.setPend u s true else m

/-- An operation with the edges it makes on the named lines. -/
def Mach.withLines (m : Mach) (us : List (Nat × Nat)) (f : Mach → Mach) : Mach :=
  us.foldl (fun n e => n.edge e.1 e.2 (m.line e.1 e.2)) (f m)

/-- A source of every controller. -/
def everyCtl (s : Nat) : List (Nat × Nat) := (31, s) :: (List.range 17).map fun p => (p, s)

/-- A ring that sets a pending bit whatever SENSE holds (R247, R271). -/
def Mach.ring (m : Mach) (u s : Nat) : Mach := m.setPend u s true

/-- A count of a lock's events at OD 0x7Dpp.ss and OD 0x77n0.ss (R477). -/
def Mach.countEvt (m : Mach) (u sub : Nat) : Mach :=
  if u = 31 then m.count 0x7D1F sub
  else
    let m1 := m.count (0x7D00 + u) sub
    match m.llockOf u with
    | some l => m1.count (0x7700 + 16 * l) sub
    | none => m1

/-! ## Dump causes (R431) -/

/-- A cause of a fault dump with its source, noted for the firmware of a tollkeeper that runs. -/
def Mach.dumpCause (m : Mach) (c : Nat) (src : Dbl) : Mach :=
  if m.coreRuns (mkTid 31 m.activeTk 0) then
    { m with dict := { m.dict with dumpDue := m.dict.dumpDue ++ [(BitVec.ofNat 8 c, src)] } }
  else m
/-- The source that a dump names for a failover or a word of the keep store: thread 0 of the active tollkeeper (DESIGN CHOICE
entry 74). -/
def Mach.tkSource (m : Mach) : Dbl := (m.refOf (mkTid 31 m.activeTk 0)).setWidth 36

/-! ## Outcomes -/

/-- A command that completes: the next state with the block changed and the queue untouched. -/
def done (s : State) (m : Mach) : Host.Outcome State Fault Refusal := .next { s with m := m }

/-- A thread's command. -/
def onThread (t : Tid) (s : State) (f : Mach → Mach) : Host.Outcome State Fault Refusal :=
  if Tid.ok t then done s (f s.m) else .fault .noSuchThread

end Sys2Proof.Machine
end

