-- ==== Sys2Proof/Machine/Memory.lean ====
section
/-!
DEFINITION. Memory: the block address map (R157, R158, R331), rotate and split (R318, R319), errors (R320), bank
ownership (R321, R322), the pairing of an evacuation (R411), and the data rights of a thread.
-/
namespace Sys2Proof.Machine

/-- Whether an offset of a lock's block is LK_HOLDALLOC or LK_HOLDRET. -/
def poolReg (off : Nat) : Bool := decide (0x20A ≤ off) && decide (off ≤ 0x20D)

/-- The physical lock that a transaction of `own` (the physical lock of the core it comes from, if any) to a
logical lock reaches (R15); the pool registers of a DRAINING victim's lock are the spare's (R413). -/
def Mach.reach (m : Mach) (own : Option Nat) (l : Nat) : Nat :=
  match m.evac with
  | some e =>
    if own = some e.victim.val ∧ e.lock.val = l ∧ (m.lock e.victim.val).state = .draining then e.victim.val
    else m.plockOf l
  | none => m.plockOf l

/-- The place of a data address for a master: `t` is the thread, if the master is one. -/
def Mach.place (m : Mach) (t : Option Tid) (a : Nat) : Place :=
  let own := t.map Tid.lock
  if a < 0x4000 then
    match t with
    | some t => .stow (Tid.coreNo t) a
    | none => .nowhere
  else if a < 0x400000 then .nowhere
  else if a < 0x800000 then
    let i := (a - 0x400000) / 0x4000
    .stow (16 * m.reach own (i / 16) + i % 16) (a % 0x4000)
  else if a < 0xC40000 then .stow ((a - 0x800000) / 0x4000) (a % 0x4000)
  else if a < 0x2000000 then .nowhere
  else if a < 0x4000000 then .basin (m.reach own ((a - 0x2000000) / 0x200000)) (a % 0x200000)
  else if a < 0x4800000 then .keep (a - 0x4000000)
  else if a < 0x6000000 then .nowhere
  else if a < 0x6020000 then .tern (a - 0x6000000)
  else if a < 0x8000000 then .nowhere
  else if a < 0x9000000 then
    if 0x8100000 ≤ a ∧ a < 0x8200000 then
      let l := (a - 0x8100000) / 0x10000
      .reg (0x8300000 + (if poolReg (a % 0x10000) then m.plockOf l else m.reach own l) * 0x10000 + a % 0x10000)
    else .reg a
  else if a < 0xC000000 then .nowhere
  else .host (a - 0xC000000)

/-- The physical lock whose domain a place needs, if any. -/
def Place.lock : Place → Option Nat
  | .stow k _ => if k < 272 then some (k / 16) else none
  | .basin p _ => some p
  | .reg a => if 0x8300000 ≤ a ∧ a < 0x8410000 then some ((a - 0x8300000) / 0x10000) else none
  | _ => none

/-- Whether a place's unit is absent for want of power (R6, R158): the domain of its lock or of its unit is off or in retention. -/
def Mach.placeOff (m : Mach) (p : Place) : Bool :=
  match p with
  | .nowhere => true
  | .reg a =>
    if 0x8410000 ≤ a ∧ a < 0x9000000 then true
    else if 0x8050000 ≤ a ∧ a < 0x8070000 then !m.isOn 5
    else match p.lock with
      | some l => !m.isOn (7 + l)
      | none => false
  | .keep _ => !m.isOn 6
  | .tern _ => !m.isOn 5
  | .host _ => !m.isOn 2
  | _ =>
    match p.lock with
    | some l => !m.isOn (7 + l)
    | none => false

/-! ## Physical keys -/

/-- First key of a core's stowage. -/
def stowKey (k off : Nat) : Nat := 0x800000 + k * 0x4000 + off
/-- First key of a basin. -/
def basinKey (p off : Nat) : Nat := 0x10000000 + p * 0x200000 + off
/-- Key of nonet `off` (0 to 0x1_FFFF) of a lock's spare bank. -/
def spareKey (p off : Nat) : Nat := 0x20000000 + p * 0x20000 + off
/-- Key of a keep-store nonet by physical page. -/
def keepKey (page off : Nat) : Nat := 0x40000000 + page * 0x1000 + off

/-- The bank that the spare serves, 0x1F for none (R321). -/
def Mach.serves (m : Mach) (p : Nat) : Nat := fld (m.ru .plSpare p) 4 0
/-- The owner of a bank (R321). -/
def Mach.owner (m : Mach) (p b : Nat) : Nat := fld (m.ru .plBank p b) 17 16

/-- Where a pool access to a basin nonet is performed: its own bank, the spare bank, or nowhere (R321, R322). -/
def Mach.basinAt (m : Mach) (p off : Nat) : Option Nat :=
  let b := off / 8 % 16
  let row := off / 128
  if m.serves p = b then some (spareKey p (row * 8 + off % 8))
  else if m.owner p b ≠ 0 then none
  else some (basinKey p off)

/-- The second place of a store while a mirror copy of the bank runs (R322). -/
def Mach.basinMirror (m : Mach) (p off : Nat) : Option Nat :=
  match (m.lock p).copy with
  | some c =>
    if c.bank = off / 8 % 16 then
      if m.serves p = c.bank then some (basinKey p off) else some (spareKey p (off / 128 * 8 + off % 8))
    else none
  | none => none

/-- The physical page that serves a logical page: the spare that a remap entry names, else its own (R335). -/
def Mach.physPage (m : Mach) (lp : Nat) : Nat :=
  match (List.range 64).find? fun k => bit (m.r .keepRemap k) 17 && fld (m.r .keepRemap k) 10 0 == lp with
  | some k => 0x7C0 + k
  | none => lp

/-- The key of a keep-store nonet, or none where the store reads zero (R331), the life-cycle record among it (R450). -/
def Mach.keepAt (m : Mach) (off : Nat) : Option Nat :=
  let lp := off / 0x1000
  if (0x40A ≤ lp ∧ lp < 0x410) ∨ 0x7C0 ≤ lp then none else some (keepKey (m.physPage lp) (off % 0x1000))

/-! ## Raw nonets and errors -/

/-- A nonet of memory by its key. -/
def Mach.mem1 (m : Mach) (k : Nat) : Nonet := mget 0 m.mem k
/-- A nonet of memory written. -/
def Mach.put1 (m : Mach) (k : Nat) (v : Nonet) : Mach := { m with mem := mset 0 m.mem k v }
/-- The error state of a word, by key div 8: 0 good, 1 correctable, 2 uncorrectable. -/
def Mach.eccOf (m : Mach) (w : Nat) : BitVec 2 := mget 0 m.ecc w
/-- The error state of a word set. -/
def Mach.setEcc (m : Mach) (w : Nat) (v : BitVec 2) : Mach := { m with ecc := mset 0 m.ecc w v }

/-- An octet of a ternary entry: of the key for nonets 0–15, of the mask for 16–31 (R482). -/
def Mach.tern1 (m : Mach) (off : Nat) : Nonet :=
  let e := mget ⟨0, 0, 0⟩ m.waybill.tern (off / 32)
  let i := off % 32
  let v := if i < 16 then e.key else e.mask
  BitVec.ofNat 9 (fld v (127 - 8 * (i % 16)) (120 - 8 * (i % 16)))

/-- The key at which a place holds a nonet, if it holds one in memory. -/
def Mach.keyOf (m : Mach) : Place → Option Nat
  | .stow k off => some (stowKey k off)
  | .basin p off => m.basinAt p off
  | .keep off => m.keepAt off
  | _ => none

/-- One nonet as a place reads it. -/
def Mach.rd1 (m : Mach) (p : Place) : Nonet :=
  match p with
  | .tern off => m.tern1 off
  | p =>
    match m.keyOf p with
    | some k => m.mem1 k
    | none => 0

/-- The place i nonets on. -/
def Place.plus (p : Place) (i : Nat) : Place :=
  match p with
  | .stow k off => .stow k (off + i)
  | .basin l off => .basin l (off + i)
  | .keep off => .keep (off + i)
  | .tern off => .tern (off + i)
  | .reg a => .reg (a + i)
  | .host off => .host (off + i)
  | .nowhere => .nowhere

/-- The places of n nonets from a data address up, each address translated by itself (R319). -/
def Mach.placesOf (m : Mach) (t : Option Tid) (a n : Nat) : List Place := (List.range n).map fun i => m.place t (a + i)

/-- n nonets from a data address, lowest first (R319). -/
def Mach.rdN (m : Mach) (t : Option Tid) (a n : Nat) : List Nonet := (m.placesOf t a n).map m.rd1

/-- Nonets, lowest address first, as one value (R8). -/
def pack : List Nonet → Nat
  | [] => 0
  | x :: r => x.toNat + 512 * pack r

/-- A value as n nonets (R8). -/
def unpack (v : Nat) : Nat → List Nonet
  | 0 => []
  | n + 1 => BitVec.ofNat 9 v :: unpack (v / 512) n

/-- A cell in memory. -/
def Mach.rdCell (m : Mach) (t : Option Tid) (a : Nat) : Cell := BitVec.ofNat 18 (pack (m.rdN t a 2))
/-- A double in memory. -/
def Mach.rdDbl (m : Mach) (t : Option Tid) (a : Nat) : Dbl := BitVec.ofNat 36 (pack (m.rdN t a 4))

/-- The word key of a place. -/
def Mach.wordOf (m : Mach) (p : Place) : Option Nat := (m.keyOf p).map (· / 8)

/-- Whether a place's word is uncorrectable, or lies in a bank that no pool access reaches (R320, R322). -/
def Mach.bad1 (m : Mach) (p : Place) : Bool :=
  match p with
  | .basin l off =>
    match m.basinAt l off with
    | some k => m.eccOf (k / 8) == 2
    | none => true
  | p =>
    match m.wordOf p with
    | some w => m.eccOf w == 2
    | none => false

/-- Whether some word of an access is uncorrectable. -/
def Mach.badN (m : Mach) (t : Option Tid) (a n : Nat) : Bool := (m.placesOf t a n).any m.bad1

/-- The record that reading a word with an error leaves: flags, counts and, for a correctable one, the corrected
word (R320, R334). -/
def Mach.note1 (m : Mach) (p : Place) : Mach :=
  match m.wordOf p with
  | none => m
  | some w =>
    let e := m.eccOf w
    if e = 0 then m
    else
      let ue := e == 2
      let m := if ue then m else m.setEcc w 0
      match p with
      | .stow k off =>
        let m := if k < 272 then
            m.wu .crSterr k (setFld (setBit (m.ru .crSterr k) (if ue then 17 else 16) true) 10 0 (off / 8))
          else m
        if k < 272 then m.count (0x7A00 + k / 16) (if ue then 2 else 1) else m
      | .basin l off =>
        let v := setBit (m.ru .plEcc l) (if ue then 17 else 16) true
        let m := if ue then (m.wu .plEcc l (setFld v 4 0 (off / 8 % 16))).wu .plEccrow l (BitVec.ofNat 18 (off / 128))
          else m.wu .plEcc l v
        m.count (0x7A00 + l) (if ue then 2 else 1)
      | .keep off =>
        let m := m.wbit .keepErr (if ue then 17 else 16) true
        let m := if ue then (m.w .keepErradr (BitVec.ofNat 18 off) 0).w .keepErradr (BitVec.ofNat 18 (off / 0x40000)) 1
          else m
        let m := if ue then m.dumpCause 4 m.tkSource else m
        m.count 0x7900 (if ue then 2 else 1)
      | _ => m

/-- The records that reading places leaves, once per word: `a` is the address of the first. -/
def Mach.notePlaces (m : Mach) (a : Nat) (ps : List Place) : Mach :=
  (ps.zipIdx).foldl (fun m e => if e.2 = 0 ∨ (a + e.2) % 8 = 0 then m.note1 e.1 else m) m

/-- The records that reading an access leaves, once per word. -/
def Mach.noteN (m : Mach) (t : Option Tid) (a n : Nat) : Mach := m.notePlaces a (m.placesOf t a n)

/-! ## Stores -/

/-- The reservation granule of a basin nonet (R176). -/
def granule (p off : Nat) : Nat := p * 0x40000 + off / 8

/-- Every reservation on a granule broken, but for one thread's (R177). -/
def Mach.breakResv (m : Mach) (g : Nat) (but : Option Tid) : Mach :=
  { m with threads := (m.threads.filterMap fun e =>
      if e.2.resv = some g ∧ but.map BitVec.toNat ≠ some e.1 then
        let x := { e.2 with resv := none }
        if x = threadReset e.1 then none else some (e.1, x)
      else some e) }

/-- Nonets written at one key, with the check bits of a whole or a part word (R317, R320). -/
def Mach.putKey (m : Mach) (k : Nat) (v : Nonet) (whole : Bool) : Mach :=
  let m := m.put1 k v
  if whole then m.setEcc (k / 8) 0 else if m.eccOf (k / 8) = 1 then m.setEcc (k / 8) 0 else m

/-- One nonet stored at a basin offset of a physical lock, mirrored while a copy of its bank runs. -/
def Mach.putBasin (m : Mach) (p off : Nat) (v : Nonet) (whole : Bool) : Mach :=
  let m1 := match m.basinAt p off with
    | some k => m.putKey k v whole
    | none => m
  match m.basinMirror p off with
  | some k => m1.putKey k v whole
  | none => m1

/-- The other basin of an evacuation's pair (R411). -/
def Mach.pairOf (m : Mach) (p : Nat) : Option Nat :=
  match m.evac with
  | some e => if p = e.victim.val then some e.spare.val else if p = e.spare.val then some e.victim.val else none
  | none => none

/-- One nonet stored at a place; `but` keeps its reservation (R411, R423). -/
def Mach.wr1 (m : Mach) (p : Place) (v : Nonet) (whole : Bool) (but : Option Tid) : Mach :=
  match p with
  | .stow k off =>
    let m1 := m.putKey (stowKey k off) v whole
    if k = 272 + m.activeTk then m1.putKey (stowKey (273 - m.activeTk) off) v whole else m1
  | .basin l off =>
    let m1 := (m.putBasin l off v whole).breakResv (granule l off) but
    match m.pairOf l with
    | some l2 => (m1.putBasin l2 off v whole).breakResv (granule l2 off) but
    | none => m1
  | .keep off =>
    match m.keepAt off with
    | some k => m.putKey k v whole
    | none => m
  | _ => m

/-- Whether a store of n nonets at an address covers the whole word of one of them. -/
def wholeWord (a n x : Nat) : Bool := decide (a ≤ x / 8 * 8) && decide (x / 8 * 8 + 8 ≤ a + n)

/-- The records that a store leaves of the words it covers in part, which are read first: a correctable one is corrected, an
uncorrectable one stays poisoned (R320). -/
def Mach.notePart (m : Mach) (t : Option Tid) (a n : Nat) : Mach :=
  (List.range n).foldl (fun m i =>
    if (i = 0 ∨ (a + i) % 8 = 0) ∧ !wholeWord a n (a + i) then m.note1 (m.place t (a + i)) else m) m

/-- Nonets stored from a data address up; a word wholly covered is written whole (R317). -/
def Mach.wrN (m : Mach) (t : Option Tid) (a : Nat) (vs : List Nonet) (but : Option Tid := none) : Mach :=
  let n := vs.length
  (vs.zipIdx).foldl (fun m e =>
    let x := a + e.2
    m.wr1 (m.place t x) e.1 (wholeWord a n x) but) (m.notePart t a n)

/-- A cell stored by the block itself. -/
def Mach.wrCell (m : Mach) (t : Option Tid) (a : Nat) (v : Cell) : Mach := m.wrN t a (unpack v.toNat 2)
/-- A double stored by the block itself. -/
def Mach.wrDbl (m : Mach) (t : Option Tid) (a : Nat) (v : Dbl) : Mach := m.wrN t a (unpack v.toNat 4)

/-! ## Rights (R157, R158, R315) -/

/-- Base of the window, size in words: whether a deck access to own stowage is permitted (R315). -/
def Mach.deckStow (m : Mach) (t : Tid) (store : Bool) (a : Nat) : Bool :=
  let x := m.thr t
  let size := 8 * fld (m.ru .crStwin (Tid.coreNo t) (Tid.num t)) 10 0
  let u := x.u.toNat
  (decide (u < 0x4000) && decide (u ≤ a) && decide (a < u + size) && decide (a < 0x2400)) ||
    (!store && decide (0x3C00 + 0x80 * Tid.num t ≤ a) && decide (a < 0x3C80 + 0x80 * Tid.num t))

/-- A deck access to the registers: own lock's hold registers (R157). -/
def Mach.deckReg (m : Mach) (t : Tid) (store : Bool) (a : Nat) : Bool :=
  match m.llockOf (Tid.lock t) with
  | none => false
  | some l =>
    let off := a - (0x8100000 + l * 0x10000)
    !Tid.tk t && decide (0x8100000 + l * 0x10000 ≤ a) &&
      (if store then decide (0x20C ≤ off) && decide (off ≤ 0x20D) else decide (0x200 ≤ off) && decide (off ≤ 0x211))

/-- The reason why a thread has no access to one nonet, or none if it has (R157, R158, R259). -/
def Mach.noRight (m : Mach) (t : Tid) (store : Bool) (a : Nat) : Option Nat :=
  let helm := (m.thr t).helm
  let p := m.place (some t) a
  let off := if m.placeOff p then some 1 else none
  if a < 0x4000 then (if helm || m.deckStow t store a then none else some 0)
  else if a < 0x400000 then some 0
  else if a < 0x800000 then (if helm then off else some 0)
  else if a < 0xC40000 then (if helm && Tid.tk t then off else some 0)
  else if a < 0x2000000 then some 0
  else if a < 0x4000000 then off
  else if a < 0x4800000 then (if store then some 2 else none)
  else if a < 0x6000000 then some 0
  else if a < 0x6020000 then (if !helm then some 0 else if store then some 2 else none)
  else if a < 0x8000000 then some 0
  else if a < 0x9000000 then (if helm || m.deckReg t store a then off else some 0)
  else if a < 0xC000000 then some 0
  else (if helm then none else some 0)

/-- The reason why an access of n nonets is refused: 0 where its parts differ in rights (R319). -/
def Mach.noRightN (m : Mach) (t : Tid) (store : Bool) (a n : Nat) : Option Nat :=
  let rs := (List.range n).map fun i => m.noRight t store (a + i)
  match rs with
  | [] => none
  | r :: rest => if rest.all (· == r) then r else some 0

end Sys2Proof.Machine
end

