-- ==== Sys2Proof/Machine/Threads.lean ====
section
/-!
DEFINITION. What the end of an instruction does to its thread: loads land (R162 to R165), mode changes apply
(R166 to R169), the counters advance; and the states in which a thread issues nothing.
-/
namespace Sys2Proof.Machine

/-! ## Stacks -/

/-- The entry at a position counted from the bottom, replaced; nothing where the stack is not that deep. -/
def setFromBottom {α : Type} (l : List α) (i : Nat) (v : α) : List α :=
  if i < l.length then l.set (l.length - 1 - i) v else l

/-- Push a cell. -/
def Bank.push (b : Bank) (x : Cell) : Bank := { b with ds := x :: b.ds }
/-- Push a double: low cell below, high cell on top (R183). -/
def Bank.pushD (b : Bank) (d : Dbl) : Bank := { b with ds := Dbl.hi d :: Dbl.lo d :: b.ds }
/-- The cell n places from the top; zero beyond the depth (R154). -/
def Bank.at_ (b : Bank) (n : Nat) : Cell := b.ds.getD n 0
/-- The double whose high cell is n places from the top. -/
def Bank.dblAt (b : Bank) (n : Nat) : Dbl := mkDbl (b.at_ n) (b.at_ (n + 1))
/-- Pop n cells. -/
def Bank.pop (b : Bank) (n : Nat) : Bank := { b with ds := b.ds.drop n }
/-- A bank's flags with bits of a mask replaced. -/
def Bank.flags (b : Bank) (mask v : Cell) : Bank := { b with flg := blend b.flg mask v }

/-! ## Loads -/

/-- A bank by its name. -/
def Thread.bankOf (x : Thread) (fast : Bool) : Bank := if fast then x.fast else x.norm
/-- A bank by its name, replaced. -/
def Thread.setBankOf (x : Thread) (fast : Bool) (b : Bank) : Thread :=
  if fast then { x with fast := b } else { x with norm := b }

/-- The value of a load written to its slots, with its flag; what the stack no longer holds is discarded (R148,
R164, R195). -/
def Load.land (l : Load) (v : Dbl) (x : Thread) : Thread :=
  let b := x.bankOf l.fast
  let live := decide (l.slot < b.ds.length)
  let ds := setFromBottom b.ds l.slot (Dbl.lo v)
  let b := match l.width with
    | .nonet => { b with ds := ds, flg := if live then setBit b.flg 0 (bit v 8) else b.flg }
    | .double => { b with ds := setFromBottom ds (l.slot + 1) (Dbl.hi v) }
    | _ => { b with ds := ds, flg := if live && l.tas then setBit b.flg 3 (Dbl.lo v == 0) else b.flg }
  x.setBankOf l.fast b

/-- The loads at the end of an instruction: the one whose delay instruction this was lands, or waits for its
value (R163, R164); a load that this instruction made now has its delay instruction before it. -/
def Thread.ageLoads (x : Thread) : Thread :=
  x.loads.foldl (fun y l =>
    if l.age = 0 then { y with loads := y.loads ++ [{ l with age := 1 }] }
    else if l.age = 1 then
      match l.value with
      | some v => l.land v y
      | none => { y with loads := y.loads ++ [{ l with age := 2 }] }
    else { y with loads := y.loads ++ [l] }) { x with loads := [] }

/-- Every load whose value is known lands, whatever its age (R165). -/
def Thread.landAll (x : Thread) : Thread :=
  x.loads.foldl (fun y l =>
    match l.value with
    | some v => l.land v y
    | none => { y with loads := y.loads ++ [l] }) { x with loads := [] }

/-- Whether a load's value is still awaited. -/
def Thread.awaits (x : Thread) : Bool := x.loads.any fun l => l.value.isNone

/-! ## Mode changes -/

/-- A mode change applied (R166). -/
def Thread.applyMode (x : Thread) (c : ModeChg) : Thread :=
  match c with
  | .flg mask v => x.setFlg (blend x.flg mask v)
  | .bank v => { x with fastOn := bit v 15 }.setFlg v
  | .lvl v => { x with lvl := v }
  | .u v => { x with u := v }
  | .mf v => { x with mf := v }

/-- The mode changes at the end of an instruction: each counts down and applies after the second (R166, R168). -/
def Thread.ageModes (x : Thread) : Thread :=
  x.modes.foldl (fun y c =>
    if c.left ≤ 1 then y.applyMode c.chg else { y with modes := y.modes ++ [{ c with left := c.left - 1 }] })
    { x with modes := [] }

/-- Every pending mode change applied at once (R167). -/
def Thread.applyModes (x : Thread) : Thread :=
  x.modes.foldl (fun y c => y.applyMode c.chg) { x with modes := [] }

/-! ## The predictor flush (R233) -/

/-- A thread's predictor entries and history flushed. -/
def Mach.flushPred (m : Mach) (t : Tid) : Mach :=
  let m := m.updCore (Tid.coreNo t) fun c =>
    { c with pred := c.pred.filter fun e => e.2.thr != BitVec.ofNat 3 (Tid.num t) }
  m.updThr t fun x => { x with hist := 0 }

/-- A thread with a new MF: its class is its manifest's, and its watchdog stops when MF becomes zero (R113, R266). -/
def Mach.newMf (m : Mach) (old x : Thread) : Thread :=
  if x.mf = old.mf then x
  else { x with cls := BitVec.ofNat 3 (fld (m.rdCell none (x.mf.toNat + 2)) 13 11), wdArmed := x.wdArmed && x.mf != 0 }

/-- A thread replaced, with the flush that a change of privilege makes (R233). -/
def Mach.setThrH (m : Mach) (t : Tid) (x : Thread) : Mach :=
  let old := m.thr t
  let m := m.setThr t (m.newMf old x)
  if old.helm = x.helm then m else m.flushPred t

/-- Whether EN of BLK_FBCTL is set (R131). -/
def Mach.fbOn (m : Mach) : Bool := bit (m.r .blkFbctl) 17

/-! ## Retirement -/

/-- An instruction of `len` syllables ends: `x` is the thread with its effect done and P still at it. -/
def Thread.retire (x : Thread) (len : Nat) : Thread :=
  ({ x with p := x.p + BitVec.ofNat 21 len }).ageLoads.ageModes

/-- A thread halted by the debugger: its reservation breaks, its wait stays queued, and it is not berthed (R177, R457,
section Mode matrix). -/
def Thread.haltNow (x : Thread) (cause : BitVec 3) : Thread :=
  { x with halted := true, cause := cause, haltReq := none, stepping := false, resv := none, berthed := false,
           park := .none }

/-- A single-stepped thread halts at the end of its instruction, unless that lies inside a protected run, which
it first leaves (R241, R458). -/
def Thread.stepEnd (x : Thread) : Thread :=
  if x.stepping && x.modes.isEmpty && x.loads.isEmpty then
    x.haltNow 2
  else x

/-- A thread whose present wait begins (R117). -/
def Thread.waits (x : Thread) : Thread := { x with waited := 0 }

/-- A thread that no longer parks is ready again, and its wait begins. -/
def Thread.unparked (x : Thread) : Thread := { x.waits with park := .none }

/-- A thread with the top return entry that the instruction now ending found: F reads it for the two that follow (R232). -/
def Thread.topWas (x old : Thread) : Thread := { x with tops := (old.bank.rs.getD 0 0 :: old.tops).take 2 }

/-- The instruction at a thread ends: P moves past it, loads and modes move on, the counter counts (R243), and its next wait
begins (R117). -/
def Mach.retire (m : Mach) (t : Tid) (x : Thread) (len : Nat) : Mach :=
  (m.setThrH t ((x.topWas (m.thr t)).retire len).stepEnd.waits).coreCount (Tid.coreNo t) 0 1

/-- As retire, for an instruction that has set P itself. -/
def Mach.retireAt (m : Mach) (t : Tid) (x : Thread) : Mach := m.retire t x 0

/-- The thread waits for something inside its core (R223). -/
def Mach.stall (m : Mach) (t : Tid) (p : Park) : Mach := m.updThr t fun x => { x.waits with park := p }
/-- The thread parks (R223): PARKS counts. -/
def Mach.park (m : Mach) (t : Tid) (p : Park) : Mach := (m.stall t p).coreCount (Tid.coreNo t) 7 1

/-- Whether a thread's windlass context holds a routine of it. -/
def Mach.inWindlass (m : Mach) (t : Tid) : Bool :=
  let c := m.core (Tid.coreNo t)
  let holds := fun (x : Option Ctx) => match x with
    | some k => k.tid == t
    | none => false
  holds c.main || holds c.reserved

/-! ## The deadline watchdog (R266, R267) -/

/-- The ns of a unit and count (R119): 16 ns, 1 µs or 1 ms. -/
def countNs (v : Cell) : Nat :=
  fld v 15 0 * match fld v 17 16 with
    | 0 => 16
    | 1 => 1000
    | _ => 1000000

/-- A thread whose halt begins: the time that its watchdog has left (R267). -/
def Mach.haltWd (m : Mach) (x : Thread) : Thread := { x with wdLeft := some (x.wdLeft.getD (x.wdEnd - m.tb.mono.toNat)) }

/-- A thread released or moved whose watchdog was frozen: the larger of the time left and one eighth of the budget (R267, R415). -/
def Mach.armAgain (m : Mach) (x : Thread) : Thread :=
  { x with wdEnd := m.tb.mono.toNat + max (x.wdLeft.getD 0) (countNs x.wdBudget / 8), wdLeft := none }

/-- A thread released: its watchdog goes on (R267). -/
def Mach.released (m : Mach) (x : Thread) : Thread :=
  let x := if bit (m.r .dbgCtl) 17 then m.armAgain x else { x with wdLeft := none }
  { x with halted := false, cause := 0, bySession := false }

/-! ## Effective priority (R113 to R118) -/

/-- Base priority (R113). -/
def Mach.base (m : Mach) (t : Tid) : Nat :=
  if Tid.tk t then 6 else if (m.thr t).mf = 0 then 0 else (m.thr t).cls.toNat

/-- A priority aged by a number of quanta; class 7 does not age (R116). -/
def aged (base n : Nat) : Nat := if 7 ≤ base then base else max base (min 6 (base + n))

/-- Whether aging applies to a lock's items (LK_AGECTL.EN); a tollkeeper's always age (R116). -/
def Mach.ages (m : Mach) (u : Nat) : Bool := u == 31 || bit (m.ru .lkAgectl u) 17
/-- The lock whose quantum ages a flit; a flit without a reference has the priority that nothing ages (R116, R353). -/
def Flit.lock (f : Flit) : Nat := (f.ref.map fun r => Tid.lock (refTid r)).getD 31

/-- The aging quantum of a lock's items, or a tollkeeper's, in ns (R116). -/
def Mach.quantum (m : Mach) (u : Nat) : Nat := if u = 31 then 10000 else 1000 * fld (m.ru .lkAgectl u) 9 0
/-- The priority of an item of a lock that has waited some ns, aged by the quantum now in force (R116, R118). -/
def Mach.agedPri (m : Mach) (u base waited : Nat) : Nat := if m.ages u then aged base (waited / m.quantum u) else base
/-- The ns that an item of a lock has waited once another quantum of it has passed (R116). -/
def Mach.nextQuantum (m : Mach) (u waited : Nat) : Nat := (waited / m.quantum u + 1) * m.quantum u

/-- Whether a thread is an item that ages: ready and not issued, or queued at a bollard (R116, R125). -/
def Thread.ageing (x : Thread) : Bool :=
  !x.halted && !x.faulted && !x.berthed && (x.park == .none || (x.park == .wait && match x.wait with
    | some ⟨.bollard _, _, _, _, _⟩ => true
    | _ => false))

/-- Effective priority of a thread (R114). -/
def Mach.eff (m : Mach) (t : Tid) : Nat :=
  let x := m.thr t
  max (if x.ageing then m.agedPri (Tid.lock t) (m.base t) x.waited else m.base t) x.inh.toNat

/-! ## Choosing a thread (R115, R220 to R225) -/

/-- What a core compares: the effective priority, and at 7 a base priority of 7 above an inherited one (R115). -/
def Mach.rank (m : Mach) (t : Tid) : Nat := 2 * m.eff t + b2n (m.base t == 7)

/-- Whether the core would choose thread u before t: the higher rank; among equals the first after the thread selected last (R221, R222). -/
def Mach.outranks (m : Mach) (u t : Tid) : Bool :=
  let turn := fun (x : Tid) => (Tid.num x + 7 - (m.core (Tid.coreNo t)).last.toNat) % 8
  decide (m.rank t < m.rank u) || (m.rank t == m.rank u && decide (turn u < turn t))

/-- The threads of a thread's core. -/
def coreMates (t : Tid) : List Tid := (List.range 8).map fun i => mkTid (Tid.lock t) (Tid.core t) i

/-- Whether a thread runs its routines in the reserved context (R225). -/
def Mach.usesReserved (m : Mach) (t : Tid) : Bool := m.fbOn && Tid.num t == 0 && !Tid.tk t && m.base t == 7

/-- Whether the microword at an address, or the nano-word that it names, has bad parity (R295). -/
def Core.fetchBad (c : Core) (a : Nat) : Bool :=
  mget false c.badMicro a || mget false c.badNano (fld (mget 0 c.micro a) 17 9)

/-- Whether another thread's routine holds the context that a thread needs (R224). -/
def Mach.ctxHeld (m : Mach) (t : Tid) : Bool :=
  let c := m.core (Tid.coreNo t)
  match if m.usesReserved t then c.reserved else c.main with
  | some k => k.tid != t
  | none => false

/-- Whether a thread stalls for the context that t needs (R223, R224). -/
def Mach.stalledFor (m : Mach) (t o : Tid) : Bool :=
  let x := m.thr o
  o != t && x.park == .context && !x.halted && !x.faulted && m.coreRuns o && m.usesReserved o == m.usesReserved t

/-- Whether another thread waits for a thread's context at equal or higher effective priority (R224, R300, R306). -/
def Mach.contextWanted (m : Mach) (t : Tid) : Bool :=
  (coreMates t).any fun o => m.stalledFor t o && decide (m.eff t ≤ m.eff o)

/-- Whether the context that a thread needs is another's: held, or due to one of higher rank that waits for it (R224). Among equals that
wait for a free one the core's choice of a thread decides (R34, R222). -/
def Mach.ctxBusy (m : Mach) (t : Tid) : Bool :=
  m.ctxHeld t || (coreMates t).any fun o => m.stalledFor t o && decide (m.rank t < m.rank o)

/-- A thread that issues: its core runs, and it is not halted, faulted, berthed or parked; a stall for a context ends when the
context is its own (R220, R223, R224). -/
def Mach.ready (m : Mach) (t : Tid) : Bool :=
  let x := m.thr t
  m.coreRuns t && !x.halted && !x.faulted && !x.berthed && (x.park == .none || (x.park == .context && !m.ctxBusy t)) &&
    !m.inWindlass t

end Sys2Proof.Machine
end

