-- ==== Sys2Proof/Machine/Bollards.lean ====
section
/-!
DEFINITION. The bollard unit (R119 to R130): ownership, waiters, hand-off, inheritance and orphaning, and the
completion of a queued wait.
-/
namespace Sys2Proof.Machine

/-- A status cell (R77): CODE in bits 17:14, DETAIL in bits 13:0. -/
def status (code detail : Nat) : Cell := BitVec.ofNat 18 (code * 16384 + detail % 16384)

/-- FLG with Z, N and C as a bollard status sets them (R120). -/
def bolFlags (st : Cell) (f : Cell) : Cell :=
  let c := fld st 17 14
  setBit (setBit (setBit f 3 (c == 0 || c == 6)) 2 (c == 6)) 4 (decide (8 ≤ c))

/-- The end of a `take`, `wait` or `give` that takes n cells: status pushed, flags set, the instruction retired. -/
def Mach.finishBol (m : Mach) (t : Tid) (n : Nat) (st : Cell) : Mach :=
  let x := m.thr t
  let b := (x.bank.pop n).push st
  m.retire t ({ x with park := .none }.setBank { b with flg := bolFlags st b.flg }) 1

/-- The end of a `wait` that was queued. -/
def Mach.endWait (m : Mach) (t : Tid) (st : Cell) : Mach :=
  (m.updThr t fun x => { x with wait := none }).finishBol t 2 st

/-- A queued wait's outcome: the wait completes, or, while a handler runs or the thread is halted, keeps it until
the instruction runs again (R122, R123). -/
def Mach.waitOutcome (m : Mach) (t : Tid) (st : Cell) : Mach :=
  let x := m.thr t
  match x.wait with
  | none => m
  | some q =>
    if x.park = .wait ∧ x.halted = false ∧ x.faulted = false then m.endWait t st
    else
      let x := { x with wait := some { q with outcome := some st } }
      m.setThr t (if x.park = .wait then x.unparked else x)

/-- The first waiter: the highest effective priority, the earliest among equals (R121). -/
def Mach.firstWaiter (m : Mach) (ws : List (BitVec 20)) : Option (BitVec 20) :=
  ws.foldl (fun best w =>
    match best with
    | none => some w
    | some b => if m.eff (refTid b) < m.eff (refTid w) then some w else some b) none

/-- The highest effective priority among a bollard's waiters (BOL_STATE.INHPRI). -/
def Mach.waitPri (m : Mach) (b : Nat) : Nat := (m.bol b).waiters.foldl (fun p w => max p (m.eff (refTid w))) 0

/-- The bollards a reference owns. -/
def Mach.owned (m : Mach) (r : BitVec 20) : List Nat := mkeys m.bollards fun _ b => b.owner == some r
/-- The bollards a reference waits for. -/
def Mach.waitsFor (m : Mach) (r : BitVec 20) : List Nat := mkeys m.bollards fun _ b => b.waiters.contains r

/-- One link of inheritance: bollard b's priority is passed to its owner (R124, R125). -/
def Mach.inherit (m : Mach) (b : Nat) : Mach :=
  let m := m.updBol b fun x => { x with inh := BitVec.ofNat 3 (m.waitPri b) }
  match (m.bol b).owner with
  | none => m
  | some r =>
    let p := (m.owned r).foldl (fun p k => max p (m.bol k).inh.toNat) 0
    m.updThr (refTid r) fun x => { x with inh := BitVec.ofNat 3 p }

/-- A thread's inherited priority recomputed after it has lost a bollard (R125). -/
def Mach.disinherit (m : Mach) (t : Tid) : Mach :=
  let p := (m.owned (m.refOf t)).foldl (fun p k => max p (m.bol k).inh.toNat) 0
  m.updThr t fun x => { x with inh := BitVec.ofNat 3 p }

/-- A bollard acquired by a thread. -/
def Mach.acquire (m : Mach) (b : Nat) (t : Tid) : Mach :=
  m.updBol b fun x => { x with owner := some (m.refOf t), orphan := false }

/-- A released bollard passes to its first waiter, or is free (R122, R126). A waiter that queued before FBONLY was set still
receives it: the hand-off is no acquisition that FBONLY bars (DESIGN CHOICE entry 90). -/
def Mach.passOn (m : Mach) (b : Nat) (orphan : Bool) : Mach :=
  match m.firstWaiter (m.bol b).waiters with
  | none => m.updBol b fun x => { x with owner := none, orphan := orphan, inh := 0 }
  | some w =>
    let t := refTid w
    let m := m.updBol b fun x => { x with waiters := x.waiters.erase w }
    let m := (m.acquire b t).waitOutcome t (status (if orphan then 6 else 0) 0)
    m.inherit b

/-- The bollards of a lost owner released as orphaned (R126). -/
def Mach.orphanAll (m : Mach) (r : BitVec 20) : Mach :=
  (m.owned r).foldl (fun m b => (m.passOn b true).count 0x7600 2) m

/-- A thread's waits removed without an outcome (R127). -/
def Mach.unqueue (m : Mach) (r : BitVec 20) : Mach :=
  let m := (m.waitsFor r).foldl (fun m b => (m.updBol b fun x => { x with waiters := x.waiters.erase r }).inherit b) m
  m.updThr (refTid r) fun x => { x with wait := none, ended := [] }

/-- The bollards that threads own and wait for, after they are lost together: no lost waiter receives one (R126, R127, R129). -/
def Mach.loseBollardsOf (m : Mach) (ts : List Tid) : Mach :=
  let m := ts.foldl (fun m t => m.unqueue (m.refOf t)) m
  ts.foldl (fun m t => (m.orphanAll (m.refOf t)).disinherit t) m

/-- The bollards a thread owns and waits for, after it is lost (R126, R127). -/
def Mach.loseBollards (m : Mach) (t : Tid) : Mach := m.loseBollardsOf [t]

/-- Whether the debugger holds a thread: not a fault, nor a halt for a move (cause 6). -/
def Thread.debugHalted (x : Thread) : Bool := x.halted && !x.faulted && x.cause != 6

/-- HALTED of a bollard: a debug halt holds its owner (R128). -/
def Mach.bolHalted (m : Mach) (b : Nat) : Bool :=
  match (m.bol b).owner with
  | some r => (m.thr (refTid r)).debugHalted
  | none => false

end Sys2Proof.Machine
end

