-- ==== Sys2Proof/Machine/Crc.lean ====
section
/-!
DEFINITION. The check codes of the block: CRC-32C of RFC 3720 (R86, R89, R141, R339, R405) and the one's-complement sum of
the Internet checksum (R87, R89).
-/
namespace Sys2Proof.Machine

/-- One bit of CRC-32C, reflected. -/
def crcBit (c : BitVec 32) : BitVec 32 := if bit c 0 then (c >>> 1) ^^^ 0x82F63B78#32 else c >>> 1

/-- One octet of CRC-32C. -/
def crcOctet (c : BitVec 32) (o : BitVec 8) : BitVec 32 :=
  let c := c ^^^ o.setWidth 32
  crcBit (crcBit (crcBit (crcBit (crcBit (crcBit (crcBit (crcBit c)))))))

/-- CRC-32C from an initial value, without final inversion. -/
def crc32cFrom (c : BitVec 32) (os : List (BitVec 8)) : BitVec 32 := os.foldl crcOctet c

/-- CRC-32C of RFC 3720: initial value all ones, final inversion. -/
def crc32c (os : List (BitVec 8)) : BitVec 32 := ~~~ crc32cFrom 0xFFFFFFFF#32 os

/-- The octet of a nonet. -/
def octet (n : Nonet) : BitVec 8 := n.setWidth 8
/-- A nonet from an octet, mark zero. -/
def nonet (o : BitVec 8) : Nonet := o.setWidth 9

/-- The sum of big-endian 16-bit words, an odd last octet padded with zero. -/
def sum16 : List (BitVec 8) → Nat
  | [] => 0
  | [a] => a.toNat * 256
  | a :: b :: r => a.toNat * 256 + b.toNat + sum16 r

/-- A sum folded to 16 bits with end-around carry. -/
def fold16 (n : Nat) : Nat :=
  let a := n % 65536 + n / 65536
  let b := a % 65536 + a / 65536
  b % 65536 + b / 65536

/-- Octets, most significant first, as a number. -/
def beNat (os : List (BitVec 8)) : Nat := os.foldl (fun n o => n * 256 + o.toNat) 0

/-- A number as n octets, most significant first. -/
def beOctets (v : Nat) : Nat → List (BitVec 8)
  | 0 => []
  | n + 1 => BitVec.ofNat 8 (v / 256 ^ n) :: beOctets v n

/-- A number as n octets, least significant first. -/
def leOctets (v : Nat) : Nat → List (BitVec 8)
  | 0 => []
  | n + 1 => BitVec.ofNat 8 v :: leOctets (v / 256) n

end Sys2Proof.Machine
end

