-- ==== Sys2Proof/Machine/Frames.lean ====
section
/-!
DEFINITION. Frames: hold pools and manifest slots (R45 to R50), the chain walk (R481), the edit modes (R63), admission
to the sluice (R62, R102, R133), the host receive rings' queues (R363), the ordering gates (R65 to R67), paired ends
(R139 to R141) and the ways a frame ends (R59).
-/
namespace Sys2Proof.Machine

/-! ## Pools -/

/-- The basin base of a logical lock. -/
def basinBase (l : Nat) : Nat := 0x2000000 + l * 0x200000
/-- The address of hold i of a logical lock's pool (R49). -/
def Mach.holdAddr (m : Mach) (l i : Nat) : Nat :=
  basinBase l + 8 * ((m.ru .lkHoldbase (m.plockOf l)).toNat + 33 * i)
/-- The number of holds of a logical lock. -/
def Mach.holdCount (m : Mach) (l : Nat) : Nat := fld (m.ru .lkHoldcnt (m.plockOf l)) 12 0
/-- The hold that an address names, if it names one of the pool (R481). -/
def Mach.holdIndex (m : Mach) (l a : Nat) : Option Nat :=
  let base := m.holdAddr l 0
  if base ≤ a ∧ (a - base) % 264 = 0 ∧ (a - base) / 264 < m.holdCount l then some ((a - base) / 264) else none
/-- The address of manifest slot i (R48, R49). -/
def Mach.slotAddr (m : Mach) (l i : Nat) : Nat := basinBase l + 8 * (m.ru .lkManbase (m.plockOf l)).toNat + 32 * i

/-- Whether hold i is taken. -/
def Mach.holdTaken (m : Mach) (l i : Nat) : Bool := mget false (m.lock (m.plockOf l)).holds i
/-- Free holds (LK_HOLDSTAT.FREE). -/
def Mach.freeHolds (m : Mach) (p : Nat) : Nat := fld (m.ru .lkHoldcnt p) 12 0 - (m.lock p).holds.length
/-- Mark a hold taken or free. -/
def Mach.setHold (m : Mach) (l i : Nat) (b : Bool) : Mach :=
  m.updLock (m.plockOf l) fun k => { k with holds := mset false k.holds i b }
/-- Mark a manifest slot taken or free. -/
def Mach.setSlot (m : Mach) (l i : Nat) (b : Bool) : Mach :=
  m.updLock (m.plockOf l) fun k => { k with slots := mset false k.slots i b }

/-- The first index from i up, over n indexes, that is not taken. -/
def firstFree (taken : Map Bool) : Nat → Nat → Option Nat
  | 0, _ => none
  | n + 1, i => if mget false taken i then firstFree taken n (i + 1) else some i
/-- The lowest index below n that is not taken. -/
def lowestFree (taken : Map Bool) (n : Nat) : Option Nat := firstFree taken n 0

/-- The next free hold (DESIGN CHOICE entry 12: the lowest index). -/
def Mach.nextHold (m : Mach) (l : Nat) : Option Nat := lowestFree (m.lock (m.plockOf l)).holds (m.holdCount l)
/-- The next free manifest slot (DESIGN CHOICE entry 12). -/
def Mach.nextSlot (m : Mach) (l : Nat) : Option Nat := lowestFree (m.lock (m.plockOf l)).slots 2048

/-- Whether R46 lets a frame of a class take a further hold. -/
def Mach.mayTake (m : Mach) (l cls : Nat) (first : Bool) : Bool :=
  let p := m.plockOf l
  let free := m.freeHolds p
  decide (0 < free) && (first || decide (7 ≤ cls) || decide (fld (m.ru .lkFrctl p) 9 0 < free))

/-- LK_HOLDSTAT flag `b` of a logical lock set, with the event it raises (R246). -/
def Mach.holdFlag (m : Mach) (l b : Nat) : Mach :=
  let p := m.plockOf l
  m.withLines [(p, 33), (p, 34)] fun m => m.wubit .lkHoldstat p b true

/-! ## Manifests -/

/-- Cell i of the manifest at an address. -/
def Mach.mcell (m : Mach) (mf i : Nat) : Cell := m.rdCell none (mf + 2 * i)
/-- Cell i of a manifest written. -/
def Mach.setMcell (m : Mach) (mf i : Nat) (v : Cell) : Mach := m.wrCell none (mf + 2 * i) v
/-- The logical lock in whose basin an address lies. -/
def lockOfAddr (a : Nat) : Option Nat := if 0x2000000 ≤ a ∧ a < 0x4000000 then some ((a - 0x2000000) / 0x200000) else none
/-- The lock and slot of a manifest address, when the slot is taken. -/
def Mach.manifest (m : Mach) (mf : Nat) : Option (Nat × Nat) :=
  match lockOfAddr mf with
  | none => none
  | some l =>
    let b := m.slotAddr l 0
    if b ≤ mf ∧ (mf - b) % 32 = 0 ∧ mget false (m.lock (m.plockOf l)).slots ((mf - b) / 32) then some (l, (mf - b) / 32)
    else none
/-- LEN of a manifest. -/
def Mach.mLen (m : Mach) (mf : Nat) : Nat := fld (m.mcell mf 0) 13 0
/-- HEAD of a manifest. -/
def Mach.mHead (m : Mach) (mf : Nat) : Nat := fld (m.rdDbl none (mf + 4)) 27 0
/-- FLAGS of a manifest. -/
def Mach.mFlag (m : Mach) (mf b : Nat) : Bool := bit (m.mcell mf 1) b
/-- DOMAIN of a manifest. -/
def Mach.mDom (m : Mach) (mf : Nat) : Nat := fld (m.mcell mf 8) 11 0
/-- SEQ of a manifest. -/
def Mach.mSeq (m : Mach) (mf : Nat) : Cell := m.mcell mf 9

/-! ## The chain (R45, R481) -/

/-- One hold of a chain as the walk meets it: index, first data address, nonets. -/
structure Link1 where
  idx : Nat
  addr : Nat
  count : Nat
  deriving DecidableEq, Repr

/-- The hold at an address: its data and its NEXT. A START and COUNT above 256 together are cut (R45). -/
def Mach.hold1 (m : Mach) (i a : Nat) : Link1 × Nat :=
  let sc := m.rdCell none (a + 4)
  let st := fld sc 17 9
  (⟨i, a + 8 + st, min (fld sc 8 0) (256 - st)⟩, fld (m.rdDbl none a) 27 0)

/-- The chain from an address, each pool hold once (R481). -/
def Mach.chain (m : Mach) (l : Nat) : Nat → Nat → List Nat → List Link1
  | 0, _, _ => []
  | n + 1, a, seen =>
    match m.holdIndex l a with
    | none => []
    | some i =>
      if seen.contains i then []
      else
        let h := m.hold1 i a
        h.1 :: m.chain l n h.2 (i :: seen)

/-- The chain of a frame. -/
def Mach.chainOf (m : Mach) (l mf : Nat) : List Link1 := m.chain l (m.holdCount l) (m.mHead mf) []

/-- The nonets that the egress would read for a frame of LEN nonets. -/
def Mach.frameNonets (m : Mach) (l mf : Nat) : List Nonet :=
  ((m.chainOf l mf).flatMap fun h => m.rdN none h.addr h.count).take (m.mLen mf)

/-- An edit mode applied (R63). -/
def edit (em : Nat) (ns : List Nonet) : List Nonet :=
  match em with
  | 0 => ns.map fun n => setBit n 8 false
  | 1 => ns.filter fun n => !bit n 8
  | 2 => ns
  | _ => ns.map fun n => if bit n 8 then 0 else n

/-! ## Release of holds and slot (R59) -/

/-- Every hold of a chain returned. -/
def Mach.freeChain (m : Mach) (l : Nat) (hs : List Nat) : Mach := hs.foldl (fun m i => m.setHold l i false) m
/-- A frame's holds and slot returned. -/
def Mach.freeFrame (m : Mach) (l mf : Nat) : Mach :=
  let m1 := m.freeChain l ((m.chainOf l mf).map Link1.idx)
  match m.manifest mf with
  | some (l, s) => m1.setSlot l s false
  | none => m1

/-! ## The fault pair (R366) -/

/-- The state that the fault pair shows. -/
def Mach.fault (m : Mach) : Bool := m.d0.fltHold || fld (m.r .blkFlt) 16 16 != 0 || fld (m.r .blkFlt) 4 1 != 0
/-- The pair enters FAULT, which it shows for at least 1 µs from now; one that shows it already enters nothing. -/
def Mach.fltEnter (m : Mach) : Mach :=
  if m.fault then m else { m with d0 := { m.d0 with fltHold := true, fltAt := m.now } }
/-- A cause bit of BLK_FLT set. -/
def Mach.fltCause (m : Mach) (b : Nat) : Mach := m.fltEnter.wbit .blkFlt b true

/-! ## The sluice's admission (R62, R100 to R102, R133) -/

/-- Entry i of a gate list bank. -/
def Shape.entry (s : Shape) (bank : Bool) (i : Nat) : Dbl := mget 0 (if bank then s.bank1 else s.bank0) i

/-- The operating list as it runs in a cycle: duration and mask of each entry, cut at the cycle, the last held to
its end (R101). -/
def gateSegs (entry : Nat → Dbl) (cyc len : Nat) : Nat → Nat → List (Nat × Nat)
  | 0, _ => []
  | n + 1, start =>
    let i := len - (n + 1)
    let e := entry i
    if cyc ≤ start then []
    else
      let d := if n = 0 then cyc - start else min (fld e 27 0) (cyc - start)
      (d, fld e 35 28) :: gateSegs entry cyc len n (start + d)

/-- The list in force on a quay, or none where every gate is open (R101). -/
def Mach.gateList (m : Mach) (q : Nat) : Option (List (Nat × Nat)) :=
  let s := m.shape q
  if bit (m.r .sluCtl q) 17 ∧ s.operates then
    some (gateSegs (s.entry s.bank) s.oper.cyc.toNat s.oper.len s.oper.len 0)
  else none

/-- The gate mask now in force on a quay (R101). -/
def Mach.gatesNow (m : Mach) (q : Nat) : Nat :=
  match m.gateList q with
  | none => 0xFF
  | some l => (l.getD (m.shape q).index (0, 0)).2

/-- Whether queue j of a quay transmits. -/
def Mach.transmits (m : Mach) (q j : Nat) : Bool :=
  match (m.eq q).cur with
  | some c => fld c.f.word 13 11 == j
  | none => false
/-- Whether a queue holds frames. -/
def Shape.waits (s : Shape) (j : Nat) : Bool := !(s.fly.getD j []).isEmpty || !(s.lane.getD j []).isEmpty
/-- SLU_IDLE of a queue as stored, in kbit/s. -/
def Mach.idleStored (m : Mach) (q j : Nat) : Nat :=
  (m.r .sluIdle (16 * q + 2 * j)).toNat + (m.r .sluIdle (16 * q + 2 * j + 1)).toNat * 0x40000

/-- idleSlope of a queue in kbit/s, never above RATE (R104). -/
def Mach.idleSlope (m : Mach) (q j : Nat) : Nat := min (m.idleStored q j) (fld (m.r .sluRate q) 10 0 * 100000)

/-- A queue's credit after `dt` ns in which nothing else changed (R104). -/
def Mach.creditAfter (m : Mach) (q j : Nat) (c : Int) (dt : Nat) : Int :=
  if !bit (m.r .sluCtl q) (8 + j) then c
  else
    let idle : Int := (m.idleSlope q j : Nat)
    let rate : Int := (fld (m.r .sluRate q) 10 0 * 100000 : Nat)
    let waits := (m.shape q).waits j
    let c1 := if m.transmits q j then c + (idle - rate) * dt
      else if m.gatesNow q / 2 ^ j % 2 = 0 then c
      else if waits then c + idle * dt
      else if c < 0 then min 0 (c + idle * dt) else c
    if !waits && !m.transmits q j && decide (0 < c1) then 0 else c1

/-- The credits of a quay brought up to now, before anything that they depend on changes. -/
def Mach.accrue (m : Mach) (q : Nat) : Mach :=
  let dt := (m.tb.mono - (m.shape q).creditAt).toNat
  let cs := (m.shape q).credit.zipIdx.map fun e => m.creditAfter q e.2 e.1 dt
  m.updShape q fun s => { s with credit := cs, creditAt := m.tb.mono }

/-- The longest run of open time of queue j through a list. -/
def longestRun (j : Nat) : List (Nat × Nat) → Nat → Nat → Nat
  | [], run, best => max run best
  | (d, k) :: r, run, best =>
    if k / 2 ^ j % 2 = 1 then longestRun j r (run + d) best else longestRun j r 0 (max run best)

/-- The longest opening of a queue's gate in the cycle; none where it never closes (R102). -/
def Mach.longestOpening (m : Mach) (q j : Nat) : Option Nat :=
  match m.gateList q with
  | none => none
  | some l => if l.all fun e => e.2 / 2 ^ j % 2 = 1 then none else some (longestRun j (l ++ l) 0 0)

/-- Octets a frame is charged on the line: max(LEN, 60) + OVH. -/
def Mach.lineOctets (m : Mach) (q len : Nat) : Nat := max len 60 + fld (m.r .sluCtl q) 7 0
/-- Whether a frame's transmit time fits in a number of ns (R102). RATE is in 100 Mbit/s. -/
def Mach.fits (m : Mach) (q len ns : Nat) : Bool :=
  decide (m.lineOctets q len * 80 ≤ ns * fld (m.r .sluRate q) 10 0)

/-- A quay's class-7 bucket refilled up to now (R133, R134). -/
def Mach.refill (m : Mach) (q : Nat) : Mach :=
  let s := m.shape q
  let fb := m.r .sluFb q
  let lim := if m.sluice.reduced then fld fb 7 0 else fld fb 15 8
  let add := (m.tb.mono.toNat - s.tokensAt.toNat) * fld (m.r .sluRate q) 10 0 * lim
  let depth := fld (m.r .sluFbb q) 13 0 * 20480
  m.updShape q fun s => { s with tokens := min depth (s.tokens + add), tokensAt := m.tb.mono }

/-- A frame dropped on its way: holds and slot returned. -/
def Mach.dropFrame (m : Mach) (f : Shipped) : Mach := m.freeFrame f.lock.val f.mf.toNat

/-- A frame put at the end of a lane. -/
def laneAdd (ls : List (List Shipped)) (j : Nat) (f : Shipped) : List (List Shipped) :=
  ls.modify j fun l => l ++ [f]

/-- A frame reaches the sluice for its quay (R62, R102, R133). -/
def Mach.toSluice (m : Mach) (f : Shipped) : Mach :=
  let q := fld f.word 17 14
  let j := fld f.word 13 11
  if !bit (m.r .qeCtl q) 17 then (m.dropFrame f).count 0x7300 4
  else
    let m := m.accrue q
    let tooLong := match m.longestOpening q j with
      | none => false
      | some ns => !m.fits q f.len ns
    if tooLong then (m.dropFrame f).count (0x7500 + q) 1
    else if f.cls = 7 then
      let m := m.refill q
      let charge := m.lineOctets q f.len * 20480
      if charge ≤ (m.shape q).tokens then
        m.updShape q fun s => { s with tokens := s.tokens - charge, fly := laneAdd s.fly j f }
      else if bit (m.r .sluFbb q) 17 then (m.dropFrame f).count (0x7500 + q) 3
      else (m.updShape q fun s => { s with lane := laneAdd s.lane j f }).count (0x7500 + q) 2
    else m.updShape q fun s => { s with lane := laneAdd s.lane j f }

/-! ## Host receive rings (R363) -/

/-- The frames that wait for receive ring r. -/
def Mach.rxWaiting (m : Mach) (r : Nat) : List Shipped := mget [] m.host.rx r
/-- A frame for receive ring r: it waits for a descriptor, or is dropped (R363). -/
def Mach.toRing (m : Mach) (f : Shipped) (r : Nat) : Mach :=
  let ctl := m.r .blkRctl r
  let empty := fld (m.r .blkRhead r) 11 0 == fld (m.r .blkRtail r) 11 0
  if !bit ctl 17 ∨ (empty ∧ !bit ctl 15) then
    ((m.dropFrame f).wbit .blkRstat 16 true r).count 0x7450 1
  else { m with host := { m.host with rx := mset [] m.host.rx r (m.rxWaiting r ++ [f]) } }

/-! ## Gates (R65 to R67) -/

/-- A released frame goes to its quay or its host ring, with LATE where it is late (R52, R67). -/
def Mach.release (m : Mach) (f : Shipped) : Mach :=
  let m := if f.late then m.setMcell f.mf.toNat 1 (setBit (m.mcell f.mf.toNat 1) 8 true) else m
  if bit f.word 7 then m.toRing f (fld f.word 13 11) else m.toSluice f

/-- The gap timer as it stands after a change of the gate: it is started while a frame is held, under the profile of its
start (R66, R69). -/
def Mach.gateTimer (m : Mach) (d : Nat) (restart : Bool) : Mach :=
  m.updGate d fun g =>
    if g.held.isEmpty then { g with timer := false }
    else if restart || !g.timer then { g with timer := true, timerProf := g.prof, timerAt := m.now }
    else g

/-- Whether a gate's gap timer runs: it is started, and the TMO of its profile, as it now stands, does not disable it (R66). -/
def Mach.gapWait (m : Mach) (d : Nat) : Bool :=
  (m.gate d).timer && fld (m.r .qeOrdprof (m.gate d).timerProf.toNat) 15 0 != 0

/-- Whether a gate's gap timer has reached TMO µs. -/
def Mach.gapDue (m : Mach) (d : Nat) : Bool :=
  m.gapWait d && m.past (m.gate d).timerAt (1000 * fld (m.r .qeOrdprof (m.gate d).timerProf.toNat) 15 0)

/-- NEXT advances over resolved numbers and held frames, which are released in order (R65). -/
def Mach.advance (m : Mach) (d : Nat) : Nat → Mach
  | 0 => m
  | n + 1 =>
    let g := m.gate d
    if g.resolved.contains g.next then
      (m.updGate d fun g => { g with resolved := g.resolved.erase g.next, next := g.next + 1 }).advance d n
    else
      match g.held.find? fun f => f.seq == g.next with
      | some f =>
        ((m.updGate d fun g => { g with held := g.held.erase f, next := g.next + 1 }).release f).advance d n
      | none => m

/-- How often a gate can advance: once for each number it knows of. -/
def Mach.gateFuel (m : Mach) (d : Nat) : Nat := (m.gate d).resolved.length + (m.gate d).held.length + 1

/-- NEXT moves to a number, and on over what follows it. -/
def Mach.moveNext (m : Mach) (d : Nat) (next : Cell) : Mach :=
  let m := m.updGate d fun g => { g with next := next }
  (m.advance d (m.gateFuel d)).gateTimer d true

/-- A frame's distance ahead of NEXT, modulo 2^18. -/
def Mach.ahead (m : Mach) (d : Nat) (s : Cell) : Nat := (s - (m.gate d).next).toNat

/-- A shipped frame reaches its gate (R65, R67). A profile number written applies from the next start of the gap timer (R69). -/
def Mach.gateFrame (m : Mach) (d : Nat) (f : Shipped) : Mach :=
  let a := m.ahead d f.seq
  if a = 0 then (m.release f).moveNext d (f.seq + 1)
  else if a < 131072 then (m.updGate d fun g => { g with held := g.held ++ [f] }).gateTimer d false
  else if bit (m.r .qeOrdprof (m.gate d).timerProf.toNat) 17 then (m.dropFrame f).count 0x7300 3
  else (m.release { f with late := true }).count 0x7300 2

/-- A number resolved without a frame (R59, R65). -/
def Mach.gateResolve (m : Mach) (d : Nat) (s : Cell) : Mach :=
  let a := m.ahead d s
  if a = 0 then m.moveNext d (s + 1)
  else if a < 131072 then
    m.updGate d fun g => if g.resolved.contains s then g else { g with resolved := g.resolved ++ [s] }
  else m

/-! ## Paired ends (R139 to R141) -/

/-- A paired mismatch recorded and signalled (R141, R271, R366). -/
def Mach.mismatch (m : Mach) (d cause : Nat) : Mach :=
  let m := m.wbit .blkFberr 1 true
  let m := m.w .blkFbmm (BitVec.ofNat 18 (cause * 32768 + d))
  let m := m.ring 31 36
  let m := m.count 0x7610 (if cause = 4 then 2 else 1)
  if bit (m.r .blkFbctl) 14 then m.fltCause 4 else m

/-- A paired copy that is not sent is released as a scuttled one. -/
def Mach.discardEnd (m : Mach) (e : PairEnd) : Mach :=
  match e with
  | .shipped f _ _ => m.dropFrame f
  | _ => m

/-- A pair is settled: `p` is the primary's end and `s` the secondary's (R141). -/
def Mach.settlePair (m : Mach) (d : Nat) (seq : Cell) (p s : PairEnd) (timeout : Bool) : Mach :=
  let send := fun (m : Mach) => match p with
    | .shipped f _ _ => (m.discardEnd s).gateFrame d f
    | _ => (m.discardEnd s).gateResolve d seq
  let drop := fun (m : Mach) => ((m.discardEnd p).discardEnd s).gateResolve d seq
  let cause : Option Nat :=
    if timeout then some 4
    else match p, s with
      | .faulted, _ => some 3
      | _, .faulted => some 3
      | .scuttled, .scuttled => none
      | .shipped f n c, .shipped g k e =>
        if fld f.word 17 7 = fld g.word 17 7 ∧ n = k ∧ c = e then none else some 1
      | _, _ => some 2
  match cause with
  | none => (send m).count 0x7610 3
  | some c =>
    let m := m.mismatch d c
    if bit (m.r .blkFbctl) 15 then send m else drop m

/-- One copy of a pair ends (R141): the first waits for the second. -/
def Mach.pairEnds (m : Mach) (d : Nat) (seq : Cell) (second : Bool) (e : PairEnd) : Mach :=
  let g := m.gate d
  if g.settled.contains seq then (m.updGate d fun g => { g with settled := g.settled.erase seq }).discardEnd e
  else
    match g.pairs.find? fun h => h.seq == seq with
    | none => m.updGate d fun g => { g with pairs := g.pairs ++ [⟨seq, second, e, m.now⟩] }
    | some h =>
      let m := m.updGate d fun g => { g with pairs := g.pairs.erase h }
      if h.second then m.settlePair d seq e h.ended false else m.settlePair d seq h.ended e false

/-! ## Ends (R59, R60, R62) -/

/-- A frame as its gate receives it. -/
def Mach.shippedOf (m : Mach) (l mf : Nat) (word : Cell) (flt : Bool) : Shipped :=
  ⟨Fin.ofNat 16 l, BitVec.ofNat 28 mf, word, m.mLen mf, BitVec.ofNat 3 (fld (m.mcell mf 1) 13 11),
    BitVec.ofNat 4 (fld (m.mcell mf 0) 17 14), m.mSeq mf, false, flt⟩

/-- The frame of a manifest is scuttled (R59). -/
def Mach.scuttleFrame (m : Mach) (mf : Nat) : Mach :=
  match m.manifest mf with
  | none => m
  | some (l, _) =>
    let d := m.mDom mf
    let s := m.mSeq mf
    let paired := m.mFlag mf 7
    let second := m.mFlag mf 6
    let m := m.freeFrame l mf
    if paired then m.pairEnds d s second .scuttled else m.gateResolve d s

/-- The frame of a faulted or reset thread ends (R59). -/
def Mach.faultFrame (m : Mach) (mf : Nat) : Mach :=
  match m.manifest mf with
  | none => m
  | some (l, _) =>
    let d := m.mDom mf
    let s := m.mSeq mf
    let paired := m.mFlag mf 7
    let second := m.mFlag mf 6
    let fr := m.ru .lkFrctl (m.plockOf l)
    let m := if bit fr 17 then m.toRing (m.shippedOf l mf (m.mcell mf 14) true) (fld fr 16 14) else m.freeFrame l mf
    if paired then m.pairEnds d s second .faulted else m.gateResolve d s

/-- `ship` of the frame of a manifest with an egress word (R62). -/
def Mach.shipFrame (m : Mach) (mf : Nat) (word : Cell) : Mach :=
  match m.manifest mf with
  | none => m
  | some (l, _) =>
    let m := m.setMcell mf 14 word
    if 16368 < m.mLen mf then (m.scuttleFrame mf).count 0x7300 6
    else
      let f := m.shippedOf l mf word false
      if m.mFlag mf 7 then
        let out := edit (fld word 10 9) (m.frameNonets l mf)
        m.pairEnds (m.mDom mf) f.seq (m.mFlag mf 6) (.shipped f out.length (crc32c (out.map octet)))
      else m.gateFrame (m.mDom mf) f

end Sys2Proof.Machine
end

