-- ==== Sys2Proof/Machine/Faults.lean ====
section
/-!
DEFINITION. The loss of a thread: what a thread fault and a thread reset do to its holdings (R79, R126, R127, R261, R262),
the thread reset (R144, R274), the tollkeeper failover (R424 to R426) and the thread fault itself.
-/
namespace Sys2Proof.Machine

/-- A dock slot whose ticket is dropped: an outstanding result is discarded on arrival, one that came is discarded
now (R79). -/
def Dock.drop (d : Dock) : Dock :=
  match d.state with
  | .busy => { d with state := .free, owed := if d.owed = .abandoned then .nothing else .dropped }
  | _ => { d with state := .free }

/-- Every ticket of a thread dropped. -/
def Thread.dropTickets (x : Thread) : Thread := { x with docks := x.docks.map Dock.drop }

/-- The context that a thread holds. -/
def Mach.ctxOf (m : Mach) (t : Tid) : Option Ctx :=
  let c := m.core (Tid.coreNo t)
  match c.main with
  | some k => if k.tid = t then some k else c.reserved.filter fun k => k.tid == t
  | none => c.reserved.filter fun k => k.tid == t

/-- The windlass contexts of a thread freed (R224). -/
def Mach.freeCtx (m : Mach) (t : Tid) : Mach :=
  if !m.inWindlass t then m
  else
    let mine := fun (c : Option Ctx) => match c with
      | some k => if k.tid = t then none else some k
      | none => none
    m.updCore (Tid.coreNo t) fun c => { c with main := mine c.main, reserved := mine c.reserved }

/-- The micro-state of a routine that runs kept in its thread's shadow, and its context freed (R261, R306). -/
def Mach.keepCtx (m : Mach) (t : Tid) : Mach :=
  match m.ctxOf t with
  | some c => (m.updThr t fun x => { x with shadow := some c.sh, shWords := [] }).freeCtx t
  | none => m

/-- The shov-family instructions of a thread given up (R211): a release that waits for one of them applies. -/
def Mach.dropShovs (m : Mach) (t : Tid) : Mach :=
  m.shovs.foldl (fun m e => match e.2 with
    | some h =>
      if h.by_ = t then
        let m := { m with shovs := mset none m.shovs e.1 none }
        if h.release then m.updThr (BitVec.ofNat 12 e.1) m.released else m
      else m
    | none => m) m

/-- What a thread holds ended: its frame, bollards, waits, tickets, reservation and watchdog (R261, R262). -/
def Mach.endHoldings (m : Mach) (t : Tid) : Mach :=
  let mf := (m.thr t).mf.toNat
  let m := if mf = 0 then m else m.faultFrame mf
  let m := ((m.loseBollards t).keepCtx t).dropShovs t
  m.updThr t fun x => { x.dropTickets with resv := none, wdArmed := false, wait := none, ended := [], park := .none }

/-- A thread's state after the thread reset (R144, R262, R274). The store buffer, f0 to f7 and what the docks await
stand. -/
def Thread.resetTo (x : Thread) (entry : BitVec 21) : Thread :=
  { Thread.fresh entry with
    sb := x.sb, docks := x.docks, tally := { x.tally with tsr := 0, queue := [], due := none },
    mr := x.mr, md := x.md, halted := x.halted && x.cause != 4,
    cause := if x.halted && x.cause != 4 then x.cause else 0, bySession := x.bySession, haltReq := x.haltReq }

/-- The thread reset of R262; an earlier fault has already ended the holdings. -/
def Mach.resetThread (m : Mach) (t : Tid) (entry : BitVec 21) : Mach :=
  let x := m.thr t
  let m := if x.faulted then (m.freeCtx t) else m.endHoldings t
  let m := m.coreCount (Tid.coreNo t) 9 x.tally.queue.length
  let m := m.setThr t ((m.thr t).resetTo entry)
  (m.flushPred t).takeSlot t

/-- The thread reset with the edges of the fault sources: FAULTED falls (R262, R483). -/
def Mach.threadRst (m : Mach) (t : Tid) : Mach :=
  m.withLines [(Tid.ctl t, 35), (31, 37)] fun m => m.resetThread t (resetEntry t.toNat)

/-- Failover entry of a tollkeeper thread (R401). -/
def failEntry (t : Tid) : BitVec 21 := BitVec.ofNat 21 (0x80 + 16 * Tid.num t)

/-- TKA_OK or TKB_OK. -/
def Mach.tkOk (m : Mach) (b : Nat) (ok : Bool) : Mach := m.wbit .blkTkstat (16 - b) ok

/-- Every thread of a tollkeeper reset to an entry; FAULTED falls (R483). -/
def Mach.resetTk (m : Mach) (b : Nat) (failEntries : Bool) : Mach :=
  m.withLines [(31, 37)] fun m => (List.range 8).foldl (fun m i =>
    let t := mkTid 31 b i
    let m := m.resetThread t (if failEntries then failEntry t else resetEntry t.toNat)
    m.updThr t fun x => { x with halted := false, cause := 0, bySession := false }) m

/-- A tollkeeper's watchdog begins its count (R427). -/
def Mach.tkService (m : Mach) (b : Nat) : Mach :=
  { m with d0 := if b = 0 then { m.d0 with tkSvcA := m.now } else { m.d0 with tkSvcB := m.now } }

/-- A tollkeeper held in reset, or released with its epoch raised (R149). -/
def Mach.holdTk (m : Mach) (b : Nat) (h : Bool) : Mach :=
  let d := m.d0
  let d := if b = 0 then { d with tkHeldA := h, tkEpochA := if h then d.tkEpochA else d.tkEpochA + 1 }
    else { d with tkHeldB := h, tkEpochB := if h then d.tkEpochB else d.tkEpochB + 1 }
  ({ m with d0 := d }.tkService b).tkOk b (!h)

/-- A tollkeeper reset and released: its epoch rises (R149). -/
def Mach.restartTk (m : Mach) (b : Nat) : Mach := (m.resetTk b false).holdTk b false

/-- Failover (R425): ACTIVE toggles, the former active is reset and held, the other starts at its failover entries. -/
def Mach.failover (m : Mach) : Mach :=
  let a := m.activeTk
  let st := m.r .blkTkstat
  let n := fld st 7 0
  let m := m.resetTk a false
  let m := m.w .blkTkstat (setFld (setBit (setBit st 17 (a == 0)) 14 false) 7 0 (min 255 (n + 1)))
  let m := (m.holdTk a true).resetTk (1 - a) true
  (m.tkOk (1 - a) true).dumpCause 2 m.tkSource

/-- A trigger without a mirror (R426): TKLOST, and the active tollkeeper restarts from its reset entries. -/
def Mach.tkRestart (m : Mach) : Mach :=
  let a := m.activeTk
  { (m.fltCause 2).restartTk a with dict := { m.dict with fwDown := true } }

/-- A failover trigger (R424, R426). -/
def Mach.tkTrigger (m : Mach) : Mach := if bit (m.r .blkTkstat) 14 then m.failover else m.tkRestart

/-- The pending bits that a thread fault sets (R483): in the edge modes as a ring does. -/
def Mach.faultSource (m : Mach) (u s : Nat) : Mach := if 2 ≤ m.sense u s then m.setPend u s true else m

/-- A thread fault with its cause (R261, R156), and the failover that one on the active tollkeeper triggers (R424). -/
def Mach.threadFault (m : Mach) (t : Tid) (tfc : Nat) : Mach :=
  if (m.thr t).faulted then m
  else
    let m := m.endHoldings t
    let m := m.updThr t fun x =>
      { x with halted := true, faulted := true, tfc := BitVec.ofNat 4 tfc, cause := 4, haltReq := none, stepping := false,
               berthed := false, hasBerthed := false, tally := { x.tally with due := none } }.landAll
    let m := (m.dumpCause 1 ((m.refOf t).setWidth 36)).countEvt (Tid.ctl t) 4
    let m := if Tid.tk t then m else m.faultSource (Tid.ctl t) 35
    let m := m.faultSource 31 37
    if Tid.tk t ∧ Tid.core t = m.activeTk then m.withLines [(31, 37)] Mach.tkTrigger else m

end Sys2Proof.Machine
end

