-- ==== Sys2Proof/Machine/Canal.lean ====
section
/-!
DEFINITION. The canal (R22 to R27) and the pace monitor (R30 to R32). A link's flits carry no payload here: what a
transaction does is the effect of its own command (entry 57).
-/
namespace Sys2Proof.Machine

/-! ## Credits -/

/-- The credits that a channel has at a receiver (R22, R26). -/
def Mach.share (m : Mach) (c : Channel) : Nat :=
  let v := m.r .cnlVccfg
  match c with
  | .flyboat => fld v 5 0
  | .towpath => fld v 10 6
  | .normal => 64 - fld v 5 0 - fld v 10 6

/-- The credits of a link that a channel was granted. -/
def Grants.of (g : Grants) (c : Channel) : Nat :=
  match c with
  | .flyboat => g.flyboat
  | .normal => g.normal
  | .towpath => g.towpath
/-- A channel's grant changed. -/
def Grants.upd (g : Grants) (c : Channel) (f : Nat → Nat) : Grants :=
  match c with
  | .flyboat => { g with flyboat := f g.flyboat }
  | .normal => { g with normal := f g.normal }
  | .towpath => { g with towpath := f g.towpath }

/-- The credits of a channel that a link's flits hold. -/
def Link.used (l : Link) (c : Channel) : Nat := ((l.flying ++ l.buffered).filter fun e => e.2 == c).length
/-- The credits of a channel that a link's sender still holds: a write of CNL_VCCFG revokes none (R26, R35). -/
def Link.credits (l : Link) (c : Channel) : Nat := l.grants.of c - l.used c

/-- The channel whose credit a buffer that frees gives back: its own, or, where that was granted more than its share, the first
of fly-boat, normal and towpath that has less than its own (R26; the order is DESIGN CHOICE entry 57). -/
def Mach.regrant (m : Mach) (g : Grants) (c : Channel) : Grants :=
  if g.of c ≤ m.share c then g
  else
    match [Channel.flyboat, .normal, .towpath].find? fun d => decide (g.of d < m.share d) with
    | some d => (g.upd c (· - 1)).upd d (· + 1)
    | none => g

/-- Effective priority of a flit, aged by the quantum of the lock that issued it (R114, R116). -/
def Mach.flitPri (m : Mach) (f : Flit) : Nat := m.agedPri f.lock f.pri.toNat f.waited

/-- The response link of a port. -/
def respKey (port : Nat) : Nat := 2 * port + 1
/-- Whether a flit may leave: a request does when its issuer can reserve a buffer for the response (R23). -/
def Mach.hasSpace (m : Mach) (l : LinkId) (f : Flit) : Bool := l.resp || decide ((m.link (respKey f.port)).reserved < 64)

/-- The flit that a channel of a link would send: the first in arrival order of the highest effective priority (R24). -/
def Mach.headOf (m : Mach) (l : LinkId) (c : Channel) : Option Flit :=
  (((m.link (LinkId.key l)).waiting.filter fun f => f.ch == c && m.hasSpace l f)).foldl (fun b f =>
    match b with
    | none => some f
    | some g => if m.flitPri g < m.flitPri f then some f else some g) none

/-- A flit sent under a channel's credit. -/
def Link.send (l : Link) (f : Flit) (credit : Channel) (since : Nat) : Link :=
  { l with waiting := l.waiting.erase f, flying := l.flying ++ [(f, credit)], sinceTow := since }

/-- A flit sent over a link: a request with the buffer for its response reserved (R23). -/
def Mach.sendOver (m : Mach) (l : LinkId) (f : Flit) (credit : Channel) (since : Nat) : Mach :=
  let m := m.updLink (LinkId.key l) fun k => k.send f credit since
  if l.resp then m else m.updLink (respKey f.port) fun k => { k with reserved := k.reserved + 1 }

/-- One handshake of a link's sender (R22, R24): a fly-boat flit first, with its own or a normal credit; then the towpath
when its share is due; else the higher effective priority, alternating between equals (R34). -/
def Mach.sendFlit (m : Mach) (l : LinkId) : Mach :=
  let k := m.link (LinkId.key l)
  let credit := fun (c : Channel) => decide (0 < k.credits c)
  let fb := m.headOf l .flyboat
  let nm := if credit .normal then m.headOf l .normal else none
  let tw := if credit .towpath then m.headOf l .towpath else none
  match fb, credit .flyboat || credit .normal with
  | some f, true => m.sendOver l f (if credit .flyboat then .flyboat else .normal) k.sinceTow
  | _, _ =>
    match nm, tw with
    | none, none => m
    | some f, none => m.sendOver l f .normal (k.sinceTow + 1)
    | none, some g => m.sendOver l g .towpath 0
    | some f, some g =>
      let due := decide (2 ^ (fld (m.r .cnlVccfg) 15 13 + 1) ≤ k.sinceTow + 1)
      if due || decide (m.flitPri f < m.flitPri g) || (m.flitPri f == m.flitPri g && decide (0 < k.sinceTow)) then
        m.sendOver l g .towpath 0
      else m.sendOver l f .normal (k.sinceTow + 1)

/-- CANAL_FLIT_SEND. -/
def execCanalFlitSend (l : LinkId) (s : State) : Host.Outcome State Fault Refusal := done s (s.m.sendFlit l)

/-- A flag of CNL_ERR set: its count and the canal error event at the tollkeeper (R27, R271). -/
def Mach.canalErr (m : Mach) (bit_ sub : Nat) : Mach := ((m.wbit .cnlErr bit_ true).count 0x7000 sub).ring 31 33

/-- The end of a transaction of a link: a request is answered over the response link of the port that sent it, with the
priority it carries (R23); a response frees the buffer reserved for it. -/
def Mach.answer (m : Mach) (l : LinkId) (f : Flit) : Mach :=
  if l.resp then m.updLink (LinkId.key l) fun k => { k with reserved := k.reserved - 1 }
  else m.updLink (respKey f.port) fun k => { k with waiting := k.waiting ++ [{ f with waited := 0 }] }

/-- CANAL_FLIT_RECEIVE (R22, R27, R399): parity, buffer, epoch. A flit that is discarded gives its credit back and ends its
transaction with an error response. -/
def execCanalFlitReceive (l : LinkId) (parityOk : Bool) (s : State) : Host.Outcome State Fault Refusal :=
  let k := s.m.link (LinkId.key l)
  done s (match k.flying with
    | [] => s.m
    | e :: rest =>
      let m := s.m.updLink (LinkId.key l) fun k => { k with flying := rest, grants := s.m.regrant k.grants e.2 }
      if !parityOk then (m.canalErr 2 2).answer l e.1
      else if 64 ≤ k.buffered.length then (m.canalErr 1 3).answer l e.1
      else if !(e.1.ref.all m.current) then (m.canalErr 3 1).answer l e.1
      else s.m.updLink (LinkId.key l) fun k => { k with flying := rest, buffered := k.buffered ++ [e] })

/-- The first buffered flit of a credit's channel, and the others. -/
def takeCredit (c : Channel) : List (Flit × Channel) → Option Flit × List (Flit × Channel)
  | [] => (none, [])
  | e :: r => if e.2 = c then (some e.1, r) else ((takeCredit c r).1, e :: (takeCredit c r).2)

/-- CREDIT_RETURN (R22, R26): the oldest buffer held by a channel's credit frees; its transaction goes on. -/
def execCreditReturn (l : LinkId) (ch : Channel) (s : State) : Host.Outcome State Fault Refusal :=
  let k := s.m.link (LinkId.key l)
  let e := takeCredit ch k.buffered
  done s (match e.1 with
    | none => s.m
    | some f =>
      (s.m.updLink (LinkId.key l) fun k => { k with buffered := e.2, grants := s.m.regrant k.grants ch }).answer l f)

/-- A write of CNL_VCCFG (R26, R132). -/
def Mach.vccfg (m : Mach) (v : Cell) : Mach :=
  let fb := fld v 5 0
  let tow := fld v 10 6
  let on := bit (m.r .blkFbctl) 17
  if tow < 4 ∨ 16 < tow ∨ 32 < fb ∨ (on ∧ fb < 8) ∨ 64 < fb + tow + 16 then m.wbit .cnlErr 0 true
  else m.w .cnlVccfg (v &&& 0xE7FF)

/-! ## Pace monitor -/

/-- Whether a domain's pace count is valid: powered, its lock not parked, one window closed. -/
def Mach.paceValid (m : Mach) (d : Nat) : Bool :=
  m.isOn d && !(decide (7 ≤ d) && (m.lock (d - 7)).parked) && bit (m.r .blkPaceCnt (d - 1)) 15

/-- BLK_PACE_CNTd as read: VALID follows the domain. -/
def Mach.paceCnt (m : Mach) (i : Nat) : Cell :=
  setBit (m.r .blkPaceCnt i) 15 (m.paceValid (i + 1))

/-- Whether a domain's last closed window was below WARN. -/
def Mach.belowWarn (m : Mach) (d : Nat) : Bool := mget false m.paceLow d

/-- The domains D1 to D23. -/
def switched : List Nat := (List.range 23).map (· + 1)

/-- BLK_PACE_STAT as the domains' last closed windows give it. -/
def Mach.paceStat (m : Mach) : Cell :=
  let ds := switched.filter fun d => m.paceValid d
  let cnt := fun (d : Nat) => fld (m.r .blkPaceCnt (d - 1)) 12 0
  let low := ds.foldl (fun b d => if b = 0 ∨ cnt d < cnt b then d else b) 0
  BitVec.ofNat 18 (b2n (ds.any fun d => decide (cnt d < 3072)) * 0x20000 + b2n (ds.any m.belowWarn) * 0x10000 + low)

/-- BLK_PACE_STAT brought up, with the tollkeeper's line (R271). -/
def Mach.setPaceStat (m : Mach) : Mach := m.withLines [(31, 32)] fun m => m.w .blkPaceStat m.paceStat

/-- PACE_WINDOW_CLOSE (R31, R32): a window of a powered domain ends with a count. -/
def execPaceWindowClose (d : BitVec 5) (count : BitVec 13) (s : State) : Host.Outcome State Fault Refusal :=
  let d := d.toNat
  let parked := decide (7 ≤ d) && (s.m.lock (d - 7)).parked
  done s (if d = 0 ∨ 23 < d ∨ !s.m.isOn d ∨ parked then s.m
    else
      let warn := decide (count.toNat < fld (s.m.r .blkPaceCtl) 12 0)
      let floor := decide (count.toNat < 3072)
      let us := if 7 ≤ d then [(31, 32), (d - 7, 32)] else [(31, 32)]
      ((List.range 16).foldl (fun (m : Mach) q => m.refill q) s.m).withLines us fun m =>
        let c := m.r .blkPaceCnt (d - 1)
        let c := setFld (setBit c 15 true) 12 0 count.toNat
        let c := if warn then setBit c 16 true else c
        let m := m.w .blkPaceCnt (if floor then setBit c 17 true else c) (d - 1)
        let m := { m with paceLow := mset false m.paceLow d warn }
        let m := m.w .blkPaceStat m.paceStat
        let near := switched.filter fun d => d ≠ 1 ∧ d ≠ 5 ∧ d ≠ 6
        let low := near.any m.belowWarn
        { m with sluice := { m.sluice with reduced := low && (bit (m.r .blkPaceCtl) 17 || m.sluice.reduced) } })

end Sys2Proof.Machine
end

