-- ==== Sys2Proof/Machine/Flags.lean ====
section
/-!
DEFINITION. The flag computations of cells and doubles (R147, R187 to R190), for any width.
-/
namespace Sys2Proof.Machine

/-- A result with its carry, its overflow and the masks of flags it writes. -/
structure AluOut (w : Nat) where
  r : BitVec w
  c : Option Bool
  v : Option Bool
  deriving DecidableEq, Repr

/-- FLG with N and Z of a result, and C and V where the operation writes them (R147, R188). -/
def setNzcv {w : Nat} (f : Cell) (o : AluOut w) : Cell :=
  let f := setBit (setBit f 4 o.r.msb) 3 (o.r == 0)
  let f := match o.c with
    | some c => setBit f 2 c
    | none => f
  match o.v with
  | some v => setBit f 1 v
  | none => f

/-- Addition with a carry in: C is the carry out, V the overflow (R188). -/
def aluAdd {w : Nat} (a b : BitVec w) (c : Bool) : AluOut w :=
  let u := a.toNat + b.toNat + b2n c
  let s := a.toInt + b.toInt + b2n c
  let r := BitVec.ofNat w u
  ⟨r, some (decide (2 ^ w ≤ u)), some (decide (r.toInt ≠ s))⟩

/-- Subtraction with a borrow in: C is the borrow (R188). -/
def aluSub {w : Nat} (a b : BitVec w) (c : Bool) : AluOut w :=
  let s := a.toInt - b.toInt - b2n c
  let r := a - b - BitVec.ofNat w (b2n c)
  ⟨r, some (decide (a.toNat < b.toNat + b2n c)), some (decide (r.toInt ≠ s))⟩

/-- A result that writes only N and Z. -/
def aluNz {w : Nat} (r : BitVec w) : AluOut w := ⟨r, none, none⟩

/-- `shl` (R188): C is the last bit shifted out; 0 and C clear from the width up; C unchanged for 0. -/
def aluShl {w : Nat} (x : BitVec w) (n : Nat) : AluOut w :=
  if n = 0 then ⟨x, none, none⟩
  else if w ≤ n then ⟨0, some false, none⟩
  else ⟨x <<< n, some (bit x (w - n)), none⟩

/-- `shr` (R188). -/
def aluShr {w : Nat} (x : BitVec w) (n : Nat) : AluOut w :=
  if n = 0 then ⟨x, none, none⟩
  else if w ≤ n then ⟨0, some false, none⟩
  else ⟨x >>> n, some (bit x (n - 1)), none⟩

/-- `sar` (R188): from the width up, copies of the top bit in the result and in C. -/
def aluSar {w : Nat} (x : BitVec w) (n : Nat) : AluOut w :=
  if n = 0 then ⟨x, none, none⟩
  else if w ≤ n then ⟨if x.msb then BitVec.allOnes w else 0, some x.msb, none⟩
  else ⟨x.sshiftRight n, some (bit x (n - 1)), none⟩

/-- `rol` (R188): C is bit 0 of the result; nothing for a multiple of the width. -/
def aluRol {w : Nat} (x : BitVec w) (n : Nat) : AluOut w :=
  if n % w = 0 then ⟨x, none, none⟩
  else
    let r := x.rotateLeft (n % w)
    ⟨r, some (bit r 0), none⟩

/-- `abs` (R188): V only for the most negative value, which is returned unchanged. -/
def aluAbs {w : Nat} (a : BitVec w) : AluOut w :=
  let r := if a.msb then -a else a
  ⟨r, none, some r.msb⟩

/-- Signed minimum and maximum (R187). -/
def aluMin {w : Nat} (a b : BitVec w) : BitVec w := if a.slt b then a else b
/-- Signed maximum. -/
def aluMax {w : Nat} (a b : BitVec w) : BitVec w := if a.slt b then b else a

/-- Leading zero bits, from bit n - 1 down. -/
def clzFrom {w : Nat} (x : BitVec w) : Nat → Nat
  | 0 => 0
  | n + 1 => if bit x n then 0 else clzFrom x n + 1
/-- `clz` (R187). -/
def clzOf {w : Nat} (x : BitVec w) : Nat := clzFrom x w

/-- Bits set among the n lowest. -/
def popFrom {w : Nat} (x : BitVec w) : Nat → Nat
  | 0 => 0
  | n + 1 => b2n (bit x n) + popFrom x n
/-- `popc` (R187). -/
def popOf {w : Nat} (x : BitVec w) : Nat := popFrom x w

/-- `nswap` (R187). -/
def nswapOf (x : Cell) : Cell := x.rotateLeft 9
/-- `be16>` (R187). -/
def be16FromOf (c : Cell) : Cell := BitVec.ofNat 18 (fld c 7 0 * 256 + fld c 16 9)
/-- `>be16` (R187). -/
def toBe16Of (v : Cell) : Cell := BitVec.ofNat 18 (fld v 15 8 + fld v 7 0 * 512)

/-- One step of restoring division (R189): the new high and low cell, C and V. -/
def dstepOf (h l v : Cell) : Cell × Cell × Bool × Bool :=
  let t := 2 * h.toNat + b2n l.msb
  let vf := decide (v = 0) || decide (v.toNat ≤ h.toNat)
  if v.toNat ≤ t then (BitVec.ofNat 18 (t - v.toNat), BitVec.ofNat 18 (2 * l.toNat + 1), true, vf)
  else (BitVec.ofNat 18 t, BitVec.ofNat 18 (2 * l.toNat), false, vf)

/-- The tests of a branch (R196). -/
def condHolds (f : Cell) (cc : BitVec 4) : Bool :=
  let n := bit f 4
  let z := bit f 3
  let c := bit f 2
  let v := bit f 1
  match cc.toNat with
  | 0 => z
  | 1 => !z
  | 2 => c
  | 3 => !c
  | 4 => n
  | 5 => !n
  | 6 => v
  | 7 => !v
  | 8 => !c && !z
  | 9 => c || z
  | 10 => n == v
  | 11 => n != v
  | 12 => !z && n == v
  | 13 => z || n != v
  | 14 => true
  | _ => bit f 0

end Sys2Proof.Machine
end

