-- ==== Sys2Proof/Machine/Stores.lean ====
section
/-!
DEFINITION. A thread's store buffer as far as it holds stores to stowage and basins (R172, R174, R238): performing an
entry, and performing those that an instruction must make visible first; the flits of a thread's transactions; what waits for
loads and stores.
-/
namespace Sys2Proof.Machine

/-! ## Flits of a thread's transactions (R22, R24, R132) -/

/-- The port of a thread's own canal interface. -/
def Tid.port (t : Tid) : Nat := if Tid.tk t then 28 + Tid.core t else Tid.lock t

/-- The link over which a thread's transaction of a priority reaches a unit waits for one more request (R22, R24, R114, R132). -/
def Mach.putFlit (m : Mach) (t : Tid) (port : Nat) (pri : BitVec 3) (waited : Nat) : Mach :=
  let ch : Channel := if (m.thr t).cls = 7 ∧ (m.thr t).mf ≠ 0 ∧ bit (m.r .blkFbctl) 17 then .flyboat else .normal
  m.updLink (2 * port) fun l => { l with waiting := l.waiting ++ [⟨ch, pri, waited, some (m.refOf t), Tid.port t⟩] }

/-- The priority that a transaction of a thread carries from now on (R114). -/
def Mach.priOf (m : Mach) (t : Tid) : BitVec 3 := BitVec.ofNat 3 (m.eff t)

/-- The canal port of the unit that holds a place, none where no chapter names one. -/
def Place.port (p : Place) : Option Nat :=
  match p with
  | .stow k _ => some (if k < 272 then k / 16 else k - 244)
  | .basin p _ => some p
  | .keep _ => some 24
  | .tern _ => some 19
  | .host _ => some 26
  | .reg r =>
    if 0x8300000 ≤ r then some ((r - 0x8300000) / 0x10000)
    else if r / 0x10000 = 0x801 then some 22
    else if r / 0x10000 = 0x803 then some (if 0x8034000 ≤ r then 23 else if 0x8032000 ≤ r then 18 else 17)
    else if r / 0x10000 = 0x804 then some 21
    else if r / 0x10000 = 0x805 then some 19
    else if r / 0x10000 = 0x806 then some 20
    else if r / 0x10000 = 0x808 then some 24
    else none
  | .nowhere => none

/-- The canal port that a thread's access to an address passes, none within its own lock or tollkeeper. -/
def Mach.portOf (m : Mach) (t : Tid) (a : Nat) : Option Nat := (m.place (some t) a).port.filter (· ≠ Tid.port t)

/-- The request flit of an access that a thread issued with a priority, where it leaves its lock. -/
def Mach.flitAs (m : Mach) (t : Tid) (a : Nat) (pri : BitVec 3) (waited : Nat) : Mach :=
  match m.portOf t a with
  | some p => m.putFlit t p pri waited
  | none => m
/-- The request flit of an access that a thread issues now. -/
def Mach.flitTo (m : Mach) (t : Tid) (a : Nat) : Mach := m.flitAs t a (m.priOf t) 0

/-! ## Entries -/

/-- Nonets of a width. -/
def Width.nonets : Width → Nat
  | .nonet => 1
  | .cell => 2
  | .double => 4
  | .block => 8

/-- Whether a load's value comes from the host, which no read of the block's memory supplies. -/
def Load.fromHost (l : Load) : Bool := decide (0xC000000 ≤ l.addr.toNat)

/-- Whether an entry stores to stowage or a basin. -/
def SbEntry.toMem (e : SbEntry) : Bool := decide (e.addr.toNat < 0x4000000)
/-- The nonets of an entry, lowest address first. -/
def SbEntry.nonets (e : SbEntry) : List Nonet := unpack e.value.toNat e.width.nonets
/-- The places of an access. -/
def Mach.places (m : Mach) (t : Tid) (a n : Nat) : List Place := m.placesOf (some t) a n
/-- Whether two accesses share a nonet. -/
def Mach.overlap (m : Mach) (t : Tid) (a n b k : Nat) : Bool :=
  let ps := m.places t b k
  (m.places t a n).any fun p => ps.contains p

/-- The loads of a thread that a store to n nonets would overtake read memory before it (R170): a value that is uncorrectable
stays out. -/
def Mach.loadsBefore (m : Mach) (t : Tid) (a n : Nat) : Mach :=
  let ps := m.places t a n
  let due := fun (l : Load) => l.value.isNone && !l.fromHost && l.at_.any (fun p => ps.contains p) && !l.at_.any m.bad1
  let get := fun (l : Load) => if due l then { l with value := some (BitVec.ofNat 36 (pack (l.at_.map m.rd1))) } else l
  m.updThr t fun x => { x with loads := x.loads.map get }

/-- Nonets that a thread stores past its store buffer (R170). -/
def Mach.wrThr (m : Mach) (t : Tid) (a : Nat) (vs : List Nonet) : Mach := (m.loadsBefore t a vs.length).wrN (some t) a vs

/-- An entry performed in memory (R170, R177); one to a lock that is off or in retention is lost. -/
def Mach.storeMem (m : Mach) (t : Tid) (e : SbEntry) : Mach :=
  if m.placeOff (m.place (some t) e.addr.toNat) then m
  else (m.flitAs t e.addr.toNat e.pri e.waited).wrThr t e.addr.toNat e.nonets

/-- Every stowage and basin store of a thread performed, oldest first (R174). -/
def Mach.flushMem (m : Mach) (t : Tid) : Mach :=
  let sb := (m.thr t).sb
  let m := (sb.filter SbEntry.toMem).foldl (fun m e => m.storeMem t e) m
  m.updThr t fun x => { x with sb := x.sb.filter fun e => !e.toMem }

/-! ## Forwarding (R239) -/

/-- What the thread's store buffer says to a load (R239): a value forwarded, nothing, or a wait. -/
inductive Forward where
  | value (v : Dbl)
  | memory
  | wait
  deriving DecidableEq, Repr

/-- The unit block of a register, by its physical address (R158). -/
def unitOf (p : Place) : Option Nat := match p with | .reg r => some (r / 0x10000) | .host _ => some 0 | _ => none

/-- The store buffer checked before a load (R239). -/
def Mach.forward (m : Mach) (t : Tid) (a n : Nat) : Forward :=
  let sb := (m.thr t).sb
  let here := unitOf (m.place (some t) a)
  if here.isSome then
    if sb.any fun e => unitOf (m.place (some t) e.addr.toNat) == here then .wait else .memory
  else
    match sb.reverse.find? fun e => m.overlap t e.addr.toNat e.width.nonets a n with
    | none => .memory
    | some e =>
      let ps := (m.places t e.addr.toNat e.width.nonets).zip e.nonets
      let vs := (m.places t a n).map fun p => (ps.find? fun q => q.1 == p).map fun q => q.2
      if e.toMem ∧ vs.all fun v => v.isSome then .value (BitVec.ofNat 36 (pack (vs.map fun v => v.getD 0))) else .wait

/-! ## What waits for loads and stores -/

/-- The shov-family instruction under way on a thread (R211). -/
def Mach.shovOn (m : Mach) (id : Tid) : Option ShovHold := mget none m.shovs id.toNat

/-- The threads that wait to save or restore a thread try again (R211, R238). -/
def Mach.wakeShov (m : Mach) (id : Tid) : Mach :=
  (m.threads.filter fun e => e.2.park == .shov id).foldl (fun m e => m.updThr (BitVec.ofNat 12 e.1) Thread.unparked) m

/-- Whether every earlier load and store of a thread has been performed (R173). -/
def Thread.quietMem (x : Thread) : Bool := x.sb.isEmpty && !x.awaits

/-- A load or a store of a thread has been performed: what waited for a transaction is tried again, a parked `fence` ends when
nothing is outstanding (R36, R195); one of a halted thread runs again on release. -/
def Mach.wakeMem (m : Mach) (t : Tid) : Mach :=
  let m := m.wakeShov t
  let x := m.thr t
  match x.park with
  | .retry => m.updThr t Thread.unparked
  | .load => m.updThr t Thread.unparked
  | .drain a n => if m.forward t a.toNat n = .wait then m else m.updThr t Thread.unparked
  | .fence =>
    if x.quietMem then
      let m := m.updThr t Thread.unparked
      if x.halted then m else m.retire t (m.thr t) 1
    else m
  | _ => m

/-- The value of a load returns: it lands at once when its delay instruction has run or its thread is halted (R163, R164, R243). -/
def Mach.loadArrives (m : Mach) (t : Tid) (l : Load) (v : Dbl) : Mach :=
  let m := m.updThr t fun x =>
    if l.age = 2 ∨ x.halted then l.land v { x with loads := x.loads.erase l }
    else { x with loads := x.loads.map fun e => if e = l then { l with value := some v } else e }
  m.wakeMem t

end Sys2Proof.Machine
end

