-- ==== Sys2Proof/Machine/Entry.lean ====
section
/-!
DEFINITION. Event and trap entry as one shared operation, and the return from it (R255 to R260, R263, R264); the traps
of R259 by name; and the landing of load values that entry waits for (R165).
-/
namespace Sys2Proof.Machine

/-! ## Outstanding loads -/

/-- The code of a width in INFO of a data-access fault (R259). -/
def Width.code : Width → Nat
  | .nonet => 0
  | .cell => 1
  | .double => 2
  | .block => 3

/-- The value of a load as memory holds it now at the places that it was translated to, with the record of an error; none where
a word is uncorrectable (R15, R320). -/
def Mach.readLoad (m : Mach) (l : Load) : Mach × Option Dbl :=
  (m.notePlaces l.addr.toNat l.at_, if l.at_.any m.bad1 then none else some (BitVec.ofNat 36 (pack (l.at_.map m.rd1))))

/-- Every load of a list given its value; the first that meets an uncorrectable word ends the walk and is returned. -/
def Mach.force (m : Mach) (t : Tid) : List Load → List Load → Mach × List Load × Option Load
  | [], acc => (m, acc.reverse, none)
  | l :: r, acc =>
    if l.value.isSome || l.fromHost then m.force t r (l :: acc)
    else
      match m.readLoad l with
      | (m, some v) => m.force t r ({ l with value := some v } :: acc)
      | (m, none) => (m, acc.reverse, some l)

/-! ## The shadow layout (R308) -/

/-- A shadow as 12 cells. -/
def Shadow.cells (h : Shadow) : List Cell :=
  let st := fun i => (h.stack.getD i 0).toNat
  let d := BitVec.ofNat 36 (h.out.toNat * 2 ^ 33 + st 2 * 2 ^ 22 + st 1 * 2 ^ 11 + st 0)
  [h.mt0, h.mt1, h.mt2, h.mt3].flatMap (fun x => [Dbl.lo x, Dbl.hi x]) ++
    [BitVec.ofNat 18 (0x20000 + b2n h.mz * 0x10000 + b2n h.mc * 0x8000 + b2n h.mn * 0x4000 + h.stack.length * 2048 +
        h.mpc.toNat),
      Dbl.lo d, Dbl.hi d, BitVec.ofNat 18 (b2n h.cust * 0x20000 + h.floor.toNat * 4096 + st 3)]

/-- The shadow of 12 cells, if its VALID bit is set. -/
def Shadow.ofCells (cs : List Cell) : Option Shadow :=
  let c := fun i => cs.getD i 0
  let d := fun i => mkDbl (c (i + 1)) (c i)
  let f := c 8
  if bit f 17 then
    let o := d 9
    let st := [BitVec.ofNat 11 (fld o 10 0), BitVec.ofNat 11 (fld o 21 11), BitVec.ofNat 11 (fld o 32 22),
      BitVec.ofNat 11 (fld (c 11) 10 0)]
    some { mt0 := d 0, mt1 := d 2, mt2 := d 4, mt3 := d 6, mz := bit f 16, mc := bit f 15, mn := bit f 14,
           stack := st.take (min 4 (fld f 13 11)), mpc := BitVec.ofNat 11 (fld f 10 0), out := BitVec.ofNat 3 (fld o 35 33),
           cust := bit (c 11) 17, floor := BitVec.ofNat 5 (fld (c 11) 16 12) }
  else none

/-! ## Frames -/

/-- Own-core stowage address of frame j of a thread (R255). -/
def frameAddr (t : Tid) (j : Nat) : Nat := 0x2400 + 0x300 * Tid.num t + 0x60 * j

/-- A list of cells written by a thread's routine from an address up; its loads that are still out read before it (R170). -/
def Mach.wrCells (m : Mach) (t : Tid) (a : Nat) (cs : List Cell) : Mach :=
  m.wrThr t a (cs.flatMap fun c => unpack c.toNat 2)
/-- n cells read from an address up. -/
def Mach.rdCells (m : Mach) (t : Tid) (a n : Nat) : List Cell :=
  (List.range n).map fun i => m.rdCell (some t) (a + 2 * i)

/-- A double as two cells, low first. -/
def dcells {w : Nat} (v : BitVec w) : List Cell := [v.setWidth 18, (v >>> 18).setWidth 18]

/-- Cells 0 to 15 of a frame (R255). -/
def frameCells (x : Thread) (p : BitVec 21) (msv : Bool) (type code : Nat) (addr : Nat) (info : Nat) : List Cell :=
  let b := x.bank
  dcells (p.setWidth 20) ++ [b.flg, BitVec.ofNat 18 (b2n msv * 0x10000 + x.lvl.toNat)] ++ dcells x.u ++ dcells b.a ++
    dcells b.b ++ [x.i, BitVec.ofNat 18 (type * 0x10000 + code)] ++ dcells (BitVec.ofNat 36 addr) ++
    [BitVec.ofNat 18 info, 0]

/-- What an entry is for: an event of a level, a stack fault or machine check, or any other trap, `sys` or `brk`. -/
inductive EntryKind where
  | event (level : Nat)
  | fast
  | trap
  deriving DecidableEq, Repr

/-- The level whose vector an entry takes (R257). -/
def EntryKind.vec : EntryKind → Nat
  | .event l => l
  | .fast => 15
  | .trap => 0

/-- The bank, FLG and LVL after entry, with both fast stacks emptied where the fast bank is entered (R257). -/
def Thread.enterBank (x : Thread) (k : EntryKind) : Thread :=
  let toFast := { x with fastOn := true,
                         fast := { x.fast with ds := [], rs := [], flg := 0x28000 ||| (x.norm.flg &&& 0x4000) } }
  match k with
  | .event 15 => { toFast with lvl := 15 }
  | .event l => { x.setFlg ((x.flg ||| 0x30000) &&& ~~~0x8000) with lvl := BitVec.ofNat 4 l }
  | .fast => toFast
  | .trap => x.setFlg (x.flg ||| 0x20000)

/-- Entry (R256, R257): loads land, mode changes apply, frame FDEPTH is written, a suspended routine moves to the micro
slot, the bank and mode change, and P is the vector's entry. `p` is the resume address. -/
def Mach.enter (m : Mach) (t : Tid) (k : EntryKind) (p : BitVec 21) (type code addr info : Nat) : Mach :=
  let m := m.setThrH t (m.thr t).landAll.applyModes
  let x := m.thr t
  let vec := m.vecOf t k.vec
  if x.fdepth = 8 then m.threadFault t 3
  else if !bit vec 17 then m.threadFault t 5
  else
    let f := frameAddr t x.fdepth.toNat
    let m := m.flushMem t
    let x := m.thr t
    let m := m.wrCells t f (frameCells x p x.shadow.isSome type code addr info)
    let m := match x.shadow with
      | some h => m.wrCells t (f + 72) h.cells
      | none => m
    let y := x.enterBank k
    let y := y.setBank { y.bank with b := BitVec.ofNat 28 f }
    (m.freeCtx t).setThrH t { y with
      p := BitVec.ofNat 21 (fld vec 15 0 * 16), fdepth := x.fdepth + 1, shadow := none, resv := none, park := .none, waited := 0, tops := [],
      berthed := false, halted := y.halted || y.stepping, cause := if y.stepping then 2 else y.cause, stepping := false }

/-- A machine check (R259 code 8); with K at 1 it is a thread fault (R156). -/
def Mach.machineCheck (m : Mach) (t : Tid) (p : BitVec 21) (info addr : Nat) : Mach :=
  if (m.thr t).fastOn then m.threadFault t 2 else m.enter t .fast p 1 8 addr info

/-- A load whose value met an uncorrectable word: the machine check at the load. A kill token follows the Tally operation that was
its delay instruction, which then writes and accrues nothing (R163, R236, R278, R294). -/
def Mach.loadFails (m : Mach) (t : Tid) (l : Load) : Mach :=
  let mine := fun (o : TallyOp) => o.pc == l.pc + 1
  let n := ((m.thr t).tally.queue.filter mine).length
  let m := (m.updThr t fun x => { x with tally := { x.tally with queue := x.tally.queue.filter fun o => !mine o } }).coreCount
    (Tid.coreNo t) 9 n
  m.machineCheck t l.pc 1 l.addr.toNat

/-- The loads of a thread given their values before an entry; a load that meets an uncorrectable word takes the machine
check in its stead (R163, R165). -/
def Mach.settled (m : Mach) (t : Tid) (f : Mach → Mach) : Mach :=
  match m.force t (m.thr t).loads [] with
  | (m, ls, none) => f (m.updThr t fun x => { x with loads := ls })
  | (m, ls, some l) => (m.updThr t fun x => { x with loads := ls }).loadFails t l

/-- A fetch of a word of bad parity: the routine is abandoned, PAR is set, and the machine check of INFO 3 is entered (R295, R259). -/
def Mach.microParity (m : Mach) (t : Tid) : Mach :=
  ((m.freeCtx t).wubit .wlStat (Tid.coreNo t) 17 true).settled t fun m => m.machineCheck t (m.thr t).p 3 0

/-- A routine of entry run in the windlass (R224, R256, R297): the thread stalls while its context is another's, and what raised the
entry is found again when it goes on. -/
def Mach.entering (m : Mach) (t : Tid) (f : Mach → Mach) : Mach :=
  if m.ctxHeld t then m.stall t .context
  else if (m.core (Tid.coreNo t)).fetchBad 0 then m.microParity t
  else m.settled t f

/-- A trap other than a stack fault or machine check, with P at the instruction (R259). -/
def Mach.trap (m : Mach) (t : Tid) (code info addr : Nat) : Mach :=
  m.entering t fun m => m.enter t .trap (m.thr t).p 1 code addr info

/-- The machine check of the instruction at P. -/
def Mach.mcheck (m : Mach) (t : Tid) (info addr : Nat) : Mach :=
  if (m.thr t).fastOn then m.settled t fun m => m.machineCheck t (m.thr t).p info addr
  else m.entering t fun m => m.machineCheck t (m.thr t).p info addr

/-- The machine check of cause 1: the record of the words that an access of n nonets read, and the entry (R259, R320). -/
def Mach.wordCheck (m : Mach) (t : Tid) (a n : Nat) : Mach :=
  if m.ctxHeld t && !(m.thr t).fastOn then m.stall t .context else (m.noteN (some t) a n).mcheck t 1 a

/-- The stack fault (R153, R156). -/
def Mach.stackFault (m : Mach) (t : Tid) (info : Nat) : Mach :=
  if (m.thr t).fastOn then m.settled t fun m => m.threadFault t 1
  else m.entering t fun m => m.enter t .fast (m.thr t).p 1 4 0 info

/-- `sys` n (R259): P is the address after it. -/
def Mach.sysTrap (m : Mach) (t : Tid) (n : Nat) : Mach :=
  m.entering t fun m => m.enter t .trap ((m.thr t).p + 2) 2 n 0 0
/-- `brk` as a trap. -/
def Mach.brkTrap (m : Mach) (t : Tid) : Mach := m.entering t fun m => m.enter t .trap (m.thr t).p 3 0 0 0

/-- The illegal-syllable trap (code 1). -/
def Mach.illegal (m : Mach) (t : Tid) (syl : Nat) : Mach := m.trap t 1 syl 0
/-- The privilege trap (code 2). -/
def Mach.privTrap (m : Mach) (t : Tid) (syl : Nat) : Mach := m.trap t 2 syl 0
/-- The illegal-operand trap (code 3). -/
def Mach.operandTrap (m : Mach) (t : Tid) (info : Nat) : Mach := m.trap t 3 info 0
/-- The data-access fault (code 5). -/
def Mach.dataFault (m : Mach) (t : Tid) (reason : Nat) (store : Bool) (w : Width) (a : Nat) : Mach :=
  m.trap t 5 (reason * 8 + b2n store * 4 + w.code) a
/-- The instruction-fetch fault (code 6). -/
def Mach.fetchFault (m : Mach) (t : Tid) (a : Nat) : Mach := m.trap t 6 0 a

/-! ## The boundary (R240) -/

/-- Whether a thread stands at a boundary: outside a protected run, with every load value returned. -/
def Thread.atBoundary (x : Thread) : Bool := x.loads.isEmpty && x.modes.isEmpty

/-! ## Tally state in memory (R213) -/

/-- The Tally block as 20 cells. -/
def Tally.cells (y : Tally) : List Cell := (y.f.flatMap fun d => [Dbl.lo d, Dbl.hi d]) ++ [y.tsr, 0, 0, 0]
/-- TSR as it is stored: RM 5 to 7 as 0, reserved bits zero (R279, R13). -/
def tsrStored (v : Cell) : Cell :=
  if 5 ≤ fld v 17 15 then setFld (v &&& 0x3FC1F) 17 15 0 else v &&& 0x3FC1F
/-- Tally state from the first 17 cells of a block. -/
def Tally.ofCells (y : Tally) (cs : List Cell) : Tally :=
  { y with f := (List.range 8).map fun i => mkDbl (cs.getD (2 * i + 1) 0) (cs.getD (2 * i) 0),
           tsr := tsrStored (cs.getD 16 0) }

/-- The oldest outstanding Tally operation completed: its result written, its exceptions accrued (R277), a deferred trap
made due (R290, R291). -/
def Tally.completeOne (y : Tally) : Tally :=
  match y.queue with
  | [] => y
  | o :: r =>
    let f := match o.fa with
      | some (i, d) => y.f.set i.toNat d
      | none => y.f
    let f := f.set o.fd.toNat o.result
    let tsr := if o.accrue then y.tsr ||| o.exc.setWidth 18 else y.tsr
    let hit := o.exc &&& o.enabled
    let due := if hit = 0 ∨ o.precise then y.due
      else match y.due with
        | none => some (o.syl.setWidth 18 <<< 9 ||| 0x100 ||| o.exc.setWidth 18)
        | some d => some (d ||| 0x80 ||| o.exc.setWidth 18)
    { y with f := f, tsr := tsr, queue := r, due := due }

/-- Every outstanding operation completed. -/
def Tally.completeAll : Nat → Tally → Tally
  | 0, y => y
  | n + 1, y => Tally.completeAll n y.completeOne

/-- A thread's Tally operations all completed, as `tsr>`, `tsave`, `shov.hi` and the lazy save wait for; the core counts
them (R294). -/
def Mach.drainTally (m : Mach) (t : Tid) : Mach :=
  let n := (m.thr t).tally.queue.length
  (m.updThr t fun x => { x with tally := Tally.completeAll n x.tally }).coreCount (Tid.coreNo t) 8 n

/-- The lazy Tally save (R263): before the first Tally use of a handler, the top frame's slot takes the state. -/
def Mach.lazySave (m : Mach) (t : Tid) : Mach :=
  let x := m.thr t
  if x.fdepth = 0 then m
  else
    let f := frameAddr t (x.fdepth.toNat - 1)
    let st := m.rdCell (some t) (f + 6)
    if bit st 17 then m
    else
      let m := (m.drainTally t).flushMem t
      (m.wrCells t (f + 32) (m.thr t).tally.cells).wrCell (some t) (f + 6) (setBit st 17 true)

/-! ## Return (R258) -/

/-- The thread that a frame restores, P included. -/
def Thread.restore (x : Thread) (cs : List Cell) : Thread :=
  let c := fun i => cs.getD i 0
  let d := fun i => mkDbl (c (i + 1)) (c i)
  let flg := c 2 &&& 0x3C01F
  let x := { x with p := BitVec.ofNat 21 (fld (d 0) 19 0), lvl := BitVec.ofNat 4 (fld (c 3) 3 0), u := (d 4).setWidth 28,
                    i := c 10, fastOn := bit flg 15, modes := [] }
  x.setBank { x.bank with flg := flg, a := (d 6).setWidth 28, b := (d 8).setWidth 28 }

/-- `eret` in helm. -/
def Mach.eretOp (m : Mach) (t : Tid) : Mach :=
  let x := m.thr t
  if x.fdepth = 0 then m.operandTrap t 4
  else
    let f := frameAddr t (x.fdepth.toNat - 1)
    let m := m.flushMem t
    let cs := m.rdCells t f 48
    let st := cs.getD 3 0
    let slot := Shadow.ofCells (cs.drop 36)
    if bit st 16 && slot.isNone then m.operandTrap t 5
    else
      let m := if bit st 17 then m.drainTally t else m
      let x := m.thr t
      let y := x.restore cs
      let y := if bit st 17 then { y with tally := y.tally.ofCells (cs.drop 16) } else y
      let z := { y with fdepth := x.fdepth - 1, resv := none, shadow := if bit st 16 then slot else none,
                        shWords := [], tops := [] }.ageLoads.stepEnd
      (m.setThrH t z.waits).coreCount (Tid.coreNo t) 0 1

end Sys2Proof.Machine
end

