-- ==== Sys2Proof/Machine/Operands.lean ====
section
/-!
DEFINITION. How an instruction meets its operands: the stack check (R153, R185), the conditions under which a thread
issues (R163, R220, R223, R288), and the shared forms of an instruction that changes only its thread.
-/
namespace Sys2Proof.Machine

/-- A stack effect: cells taken and left, return entries taken and left (R183). -/
structure Effect where
  din : Nat
  dout : Nat
  rin : Nat
  rout : Nat
  deriving DecidableEq, Repr

/-- An effect on the data stack alone. -/
def dEff (i o : Nat) : Effect := ⟨i, o, 0, 0⟩

/-- INFO of the stack fault that an effect meets, if it meets one: cause in bits 1:0, depth in bits 6:2; data
underflow, data overflow, return underflow, return overflow in this order (R153, R259). -/
def Thread.stackErr (x : Thread) (e : Effect) : Option Nat :=
  let d := x.bank.ds.length
  let r := x.bank.rs.length
  if d < e.din then some (d * 4 + 1)
  else if x.limit < d - e.din + e.dout then some (d * 4)
  else if r < e.rin then some (r * 4 + 3)
  else if x.limit < r - e.rin + e.rout then some (r * 4 + 2)
  else none

/-- Whether a load's delay instruction has run and its value is still out (R163). The delay instruction of a load from the host
window waits as well, for the load may yet fault (R359; DESIGN CHOICE entry 82). -/
def Thread.stalledOnLoad (x : Thread) : Bool := x.loads.any fun l => l.age == 2 || (l.age == 1 && l.value.isNone && l.fromHost)

/-- Whether a precise Tally operation holds the thread (R288). -/
def Thread.heldByTally (x : Thread) : Bool := x.tally.queue.any fun o => o.precise

/-- The command that a slot holds or whose result it awaits. -/
def Dock.active (d : Dock) : Bool := d.state == .busy || d.owed != .nothing

/-- Memory and helper transactions outstanding (R36), a command whose late result is still awaited among them (R78, R79). -/
def Thread.txns (x : Thread) : Nat :=
  (x.loads.filter fun l => l.value.isNone).length + x.sb.length + (x.docks.filter Dock.active).length

/-- Whether the instruction at P lies in the thread's line buffer, with its line's successor where it may cross (R220, R227). -/
def Mach.fetched (m : Mach) (t : Tid) : Bool :=
  let p := (m.thr t).p.toNat
  let holds := fun (l : Nat) => (m.core (Tid.coreNo t)).lines.any fun e =>
    e.1 / 2 == Tid.num t && e.2.line.toNat == m.slotOf t * 0x8000 + l % 0x8000
  holds (p / 32) && (decide (p % 32 < 28) || holds (p / 32 + 1))

/-- Whether another thread of the core that is ready, its next instruction in the line buffer, is chosen first (R220 to R222). -/
def Mach.outranked (m : Mach) (t : Tid) : Bool :=
  (coreMates t).any fun u =>
    m.fetched u && u != t && m.ready u && !(m.thr u).heldByTally && !(m.thr u).stalledOnLoad && m.outranks u t

/-- The thread selects its next instruction: nothing happens while it is not ready or its core chooses another, it parks while it
needs the value of a load (R163, R220 to R223). -/
def Mach.select (m : Mach) (t : Tid) (f : Mach → Mach) : Mach :=
  if !m.ready t || (m.thr t).heldByTally || m.outranked t then m
  else if (m.thr t).stalledOnLoad then m.park t .load
  else
    let m := if (m.thr t).park = .context then m.updThr t fun x => { x with park := .none } else m
    f (m.updCore (Tid.coreNo t) fun c => { c with last := BitVec.ofNat 3 (Tid.num t) })

/-- A routine of the windlass that starts at a fixed address of its store: its thread stalls while the context is another's; a
first word of bad parity ends it with the machine check of INFO 3 (R224, R295, R297). -/
def Mach.routine (m : Mach) (t : Tid) (entry : Nat) (f : Mach → Mach) : Mach :=
  if m.ctxBusy t then m.stall t .context else if (m.core (Tid.coreNo t)).fetchBad entry then m.microParity t else f m

/-- An instruction with a stack effect (R153): the stack fault comes before any change. -/
def Mach.issue (m : Mach) (t : Tid) (e : Effect) (f : Mach → Mach) : Mach :=
  m.select t fun m =>
    match (m.thr t).stackErr e with
    | some i => m.stackFault t i
    | none => f m

/-- An instruction that changes only its thread and moves on by `len` syllables. -/
def Mach.plain (m : Mach) (t : Tid) (e : Effect) (len : Nat) (f : Thread → Thread) : Mach :=
  m.issue t e fun m => m.retire t (f (m.thr t)) len

/-- An instruction that changes only the active bank. -/
def Mach.onBank (m : Mach) (t : Tid) (e : Effect) (f : Bank → Bank) : Mach :=
  m.plain t e 1 fun x => x.setBank (f x.bank)

/-- An instruction that replaces its n top cells by others. -/
def Mach.cells (m : Mach) (t : Tid) (n o : Nat) (f : Bank → List Cell) : Mach :=
  m.onBank t (dEff n o) fun b => { b with ds := f b ++ b.ds.drop n }

end Sys2Proof.Machine
end

