-- ==== Sys2Proof/Machine/Code.lean ====
section
/-!
DEFINITION. The code path: images and directory of the keep store (R159, R331, R405, R406), patch lines (R328), the lock
code cache and the instruction caches (R226 to R228, R327), the instruction-fetch fault (R161, R334) and the branch
predictor (R229 to R234).
-/
namespace Sys2Proof.Machine

/-! ## Images and directory -/

/-- The nonet at an offset of the keep store, as a logical page reads (R331, R335). -/
def Mach.keep1 (m : Mach) (off : Nat) : Nonet := m.rd1 (.keep off)
/-- n nonets from an offset of the keep store. -/
def Mach.keepN (m : Mach) (off n : Nat) : List Nonet := (List.range n).map fun i => m.keep1 (off + i)
/-- A cell at an offset of the keep store. -/
def Mach.keepCell (m : Mach) (off : Nat) : Cell := BitVec.ofNat 18 (pack (m.keepN off 2))
/-- A double at an offset of the keep store. -/
def Mach.keepDbl (m : Mach) (off : Nat) : Dbl := BitVec.ofNat 36 (pack (m.keepN off 4))

/-- Whether one of n words of the store is uncorrectable. -/
def Mach.keepBad (m : Mach) (off n : Nat) : Bool := (List.range n).any fun i => m.bad1 (.keep (off + 8 * i))
/-- The records that reading n words of the store leaves (R334). -/
def Mach.noteKeep (m : Mach) (off n : Nat) : Mach := (List.range n).foldl (fun m i => m.note1 (.keep (off + 8 * i))) m

/-- First offset of the code region of an image: kind 0 firmware, 1 packet program, 2 microcode (R331). -/
def imageBase (kind slot : Nat) : Nat :=
  if kind = 2 then 0x400000 + 0x4000 * slot else 0x200000 * kind + 0x100000 * slot

/-- Offset of a directory copy. -/
def dirBase (copy : Nat) : Nat := 0x408000 + 0x1000 * copy
/-- A cell of a directory copy, by word and cell (R405). -/
def Mach.dirCell (m : Mach) (copy word cell : Nat) : Cell := m.keepCell (dirBase copy + 8 * word + 2 * cell)

/-- The two octets of a nonet in a check value of R405: bit 8, then bits 7:0. -/
def checkOctets (n : Nonet) : List (BitVec 8) := [BitVec.ofNat 8 (fld n 8 8), octet n]
/-- CRC-32C over nonets, two octets each (R405). -/
def nonetCrc (ns : List Nonet) : BitVec 32 := crc32c (ns.flatMap checkOctets)

/-- Whether a directory copy is valid (R406). -/
def Mach.dirValid (m : Mach) (copy : Nat) : Bool :=
  m.keepN (dirBase copy) 2 == [0x44, 0x49] && m.dirCell copy 0 1 == 1 &&
    m.dirCell copy 0 3 == (nonetCrc (m.keepN (dirBase copy + 8) 4088)).setWidth 18 && !m.keepBad (dirBase copy) 512

/-- Whether GEN a is later than b modulo 2^18 (R65). -/
def laterGen (a b : Cell) : Bool := decide (0 < (a - b).toNat) && decide ((a - b).toNat < 131072)

/-- The directory copy that start-up takes (R406). -/
def Mach.dirCopy (m : Mach) : Option Nat :=
  match m.dirValid 0, m.dirValid 1 with
  | true, true => some (if laterGen (m.dirCell 1 0 2) (m.dirCell 0 0 2) then 1 else 0)
  | true, false => some 0
  | false, true => some 1
  | false, false => none

/-- First word of an image entry, in the order FW-A, FW-B, PP-A, PP-B, MC-A, MC-B. -/
def dirEntry (kind slot : Nat) : Nat := 8 + 16 * (2 * kind + slot)

/-- LENGTH of an image (R405). -/
def Mach.imageLen (m : Mach) (kind slot : Nat) : Nat :=
  match m.dirCopy with
  | some c => (m.keepDbl (dirBase c + 8 * (dirEntry kind slot + 1))).toNat
  | none => 0

/-- Whether an image passes its check (R405): a code length past its slot leaves no syllables to check (entry 85). -/
def Mach.imageOk (m : Mach) (kind slot : Nat) : Bool :=
  match m.dirCopy with
  | some c =>
    let e := dirEntry kind slot
    bit (m.dirCell c e 0) 17 &&
      (kind == 2 || decide (m.imageLen kind slot ≤ 0x100000) &&
        (m.keepDbl (dirBase c + 8 * (e + 1) + 4)).setWidth 32 == nonetCrc (m.keepN (imageBase kind slot) (m.imageLen kind slot)) &&
        !m.keepBad (imageBase kind slot) ((m.imageLen kind slot + 7) / 8))
  | none => false

/-- The kind of image a thread's core fetches from (R159). -/
def codeKind (t : Tid) : Nat := if Tid.tk t then 0 else 1
/-- The code length of a thread's active image (R161). -/
def Mach.codeLen (m : Mach) (t : Tid) : Nat := min 0x100000 (m.imageLen (codeKind t) (m.slotOf t))

/-! ## Lines (R226 to R228, R327, R328) -/

/-- The patch unit that supplies a line of an active image, the lowest-numbered one armed for it (R328). A line is numbered
with its slot in bit 15. -/
def Mach.patchUnit (m : Mach) (kind line : Nat) : Option Nat :=
  (List.range 64).find? fun u =>
    let c := m.r .dbgPatch u
    bit c 17 && fld c 16 16 == (if kind = 0 then 1 else 0) && fld c 15 0 == line

/-- A line of an active image as a fill delivers it: the patch line, or the image's; none where a word of the image is
uncorrectable (R328, R334). -/
def Mach.codeLine (m : Mach) (kind line : Nat) : Option (List Nonet) :=
  match m.patchUnit kind line with
  | some u => some ((List.range 32).map fun i => (m.r .dbgPram (32 * u + i)).setWidth 9)
  | none =>
    let base := imageBase kind (line / 0x8000) + 32 * (line % 0x8000)
    if m.keepBad base 4 then none else some (m.keepN base 32)

/-- The record of errors that reading a code line leaves. -/
def Mach.noteLine (m : Mach) (kind line : Nat) : Mach :=
  if (m.patchUnit kind line).isSome then m
  else
    let base := imageBase kind (line / 0x8000) + 32 * (line % 0x8000)
    m.noteKeep base 4

/-- A cached line among the ways of a set. -/
def cacheFind (c : Map CodeLine) (line : Nat) : Option (Nat × CodeLine) := c.find? fun e => e.2.line.toNat == line
/-- The next time of use. -/
def cacheNow (c : Map CodeLine) : Nat := c.foldl (fun n e => max n (e.2.used + 1)) 0
/-- A cached line used now. -/
def cacheTouch (c : Map CodeLine) (k : Nat) (l : CodeLine) : Map CodeLine := mput c k { l with used := cacheNow c }
/-- A line put in a set: in an empty way of those it may use, else in the one used longest ago. -/
def cacheFill (c : Map CodeLine) (keys : List Nat) (line : Nat) (syls : List Nonet) : Map CodeLine :=
  let look := fun k => (c.find? fun e => e.1 == k).map Prod.snd
  let new : CodeLine := ⟨BitVec.ofNat 16 line, syls, cacheNow c, false⟩
  match keys.find? fun k => (look k).isNone with
  | some k => mput c k new
  | none =>
    let best := keys.foldl (fun b k =>
      match b, look k with
      | none, some l => some (k, l.used)
      | some (j, u), some l => if l.used < u then some (k, l.used) else some (j, u)
      | b, none => b) none
    match best with
    | some (k, _) => mput c k new
    | none => c

/-- The ways of a lock-code-cache set that a fill may use (R327). -/
def Mach.lccWays (m : Mach) (t : Tid) (line : Nat) : List Nat :=
  let k := fld (m.ru .lkLccctl (Tid.lock t)) 2 0
  let s := line % 512 * 8
  let ws := if k = 0 then List.range 8 else if m.base t = 7 then List.range k else (List.range 8).drop k
  ws.map (s + ·)

/-- LCC_FILL (R327): one line of the active packet-program image enters the lock code cache. -/
def Mach.lccFill (m : Mach) (t : Tid) (line : Nat) : Mach :=
  if Tid.tk t || !m.coreRuns t then m
  else
    let line := m.slotOf t * 0x8000 + line % 0x8000
    let n := m.noteLine 1 line
    match m.codeLine 1 line with
    | none => n
    | some ss =>
      n.updLock (Tid.lock t) fun k =>
        if (cacheFind k.lcc line).isSome then k else { k with lcc := cacheFill k.lcc (m.lccWays t line) line ss }

/-- The half of a line buffer that a line takes: the one that holds it, else the one that does not hold the line at P. -/
def bufferHalf (c : Core) (t : Tid) (p line : Nat) : Nat :=
  let k := 2 * Tid.num t
  let holds := fun (h l : Nat) => c.lines.any fun e => e.1 == k + h && e.2.line.toNat == l
  if holds 0 line then k
  else if holds 1 line then k + 1
  else if line ≠ p ∧ holds 0 p then k + 1
  else if line ≠ p ∧ holds 1 p then k
  else if c.lines.any fun e => e.1 == k then k + 1
  else k

/-- A line without those of a number. -/
def dropLine (c : Map CodeLine) (line : Nat) : Map CodeLine := c.filter fun e => e.2.line.toNat != line

/-- A line of the instruction cache whose parity is bad leaves it, and ICPAR is set (R226). -/
def Mach.icParity (m : Mach) (k line : Nat) : Mach :=
  match cacheFind (m.core k).icache line with
  | some (_, l) =>
    if !l.par then m
    else
      let m := m.updCore k fun c => { c with icache := dropLine c.icache line }
      if k < 272 then m.withLines [(k / 16, 36)] fun m => m.wubit .crStat k 16 true else m
  | none => m

/-- A line of the lock code cache whose parity is bad leaves it, and PAR is set (R327). -/
def Mach.lccParity (m : Mach) (p line : Nat) : Mach :=
  match cacheFind (m.lock p).lcc line with
  | some (_, l) => if l.par then (m.updLock p fun q => { q with lcc := dropLine q.lcc line }).wubit .lkLccstat p 16 true else m
  | none => m

/-- A line in a half of a thread's line buffer; a thread that parked for it is ready again. -/
def Mach.buffered (m : Mach) (t : Tid) (line : Nat) (ss : List Nonet) : Mach :=
  let at_ := m.slotOf t * 0x8000 + (m.thr t).p.toNat / 32 % 0x8000
  let new : CodeLine := ⟨BitVec.ofNat 16 line, ss, 0, false⟩
  let m := m.updCore (Tid.coreNo t) fun c => { c with lines := mput c.lines (bufferHalf c t at_ line) new }
  if (m.thr t).park = .fetch ∧ m.fetched t then m.updThr t Thread.unparked else m

/-- LINE_FILL (R226, R227): the line comes from the instruction cache, else from the lock code cache, or for a tollkeeper
from the image, and then enters the instruction cache. A miss counts, and parks a thread whose instruction needs the line (R223, R243).
A line that is neither that of P nor the next is of a predicted path, which leaves the replacement state of the lock code cache
(R235; DESIGN CHOICE entry 91). -/
def Mach.lineFill (m : Mach) (t : Tid) (line : Nat) : Mach :=
  if !m.coreRuns t then m
  else
    let at_ := m.slotOf t * 0x8000 + (m.thr t).p.toNat / 32 % 0x8000
    let line := m.slotOf t * 0x8000 + line % 0x8000
    let own := line == at_ || line == at_ + 1
    let k := Tid.coreNo t
    let m := m.icParity k line
    match cacheFind (m.core k).icache line with
    | some (i, l) => (m.updCore k fun c => { c with icache := cacheTouch c.icache i l }).buffered t line l.syls
    | none =>
      let m := m.coreCount k 4 1
      let m := if own && !m.fetched t && (m.thr t).park == .none then m.park t .fetch else m
      let enter := fun (m : Mach) (ss : List Nonet) => (m.updCore k fun c =>
        { c with icache := cacheFill c.icache ((List.range 4).map (line % 64 * 4 + ·)) line ss }).buffered t line ss
      if Tid.tk t then
        match m.codeLine 0 line with
        | some ss => enter (m.noteLine 0 line) ss
        | none => m.noteLine 0 line
      else
        let m := m.lccParity (Tid.lock t) line
        match cacheFind (m.lock (Tid.lock t)).lcc line with
        | some (i, l) =>
          enter (if own then m.updLock (Tid.lock t) fun q => { q with lcc := cacheTouch q.lcc i l } else m) l.syls
        | none => m

/-- The lines of a core that a test names leave its instruction cache and line buffers (R228). -/
def Mach.icDrop (m : Mach) (k : Nat) (f : Nat → Bool) : Mach :=
  let m := m.updCore k fun c =>
    { c with icache := c.icache.filter fun e => !f e.2.line.toNat, lines := c.lines.filter fun e => !f e.2.line.toNat }
  if k < 272 then m.wubit .crStat k 17 true else m
/-- The lines of a lock that a test names leave its lock code cache (R327). -/
def Mach.lccDrop (m : Mach) (p : Nat) (f : Nat → Bool) : Mach :=
  (m.updLock p fun q => { q with lcc := q.lcc.filter fun e => !f e.2.line.toNat }).wubit .lkLccstat p 17 true

/-- The locks and cores that hold anything in a code cache, which an invalidation of one image reaches: firmware in the
tollkeepers, a packet program in the locks (R228). -/
def Mach.dropCode (m : Mach) (kind : Nat) (f : Nat → Bool) : Mach :=
  if kind = 0 then (m.icDrop 272 f).icDrop 273 f
  else
    (List.range 17).foldl (fun m p =>
      (List.range 16).foldl (fun m x => m.icDrop (16 * p + x) f) (m.lccDrop p f)) m

/-! ## The instruction-fetch fault (R161, R334) -/

/-- The first syllable of an instruction of `len` syllables that cannot be fetched: at or beyond the code length. -/
def Mach.beyond (m : Mach) (t : Tid) (len : Nat) : Option Nat :=
  let p := (m.thr t).p.toNat
  let c := m.codeLen t
  if c ≤ p then some p else if c < p + len then some c else none

/-- Whether a line that the instruction needs is uncorrectable in the keep store (R334). -/
def Mach.badCode (m : Mach) (t : Tid) (len : Nat) : Bool :=
  let p := (m.thr t).p.toNat
  let s := m.slotOf t * 0x8000
  (m.codeLine (codeKind t) (s + p / 32 % 0x8000)).isNone ||
    (m.codeLine (codeKind t) (s + (p + len - 1) / 32 % 0x8000)).isNone

/-- INSTRUCTION_FETCH_FAULT: the fault of the instruction at P, of `len` syllables, when it would issue or waits for its line. ADDR is a free
value where the code is in range and its line is uncorrectable: no rule names it. -/
def Mach.fetchCheck (m : Mach) (t : Tid) (len : Nat) : Mach :=
  let wait := (m.thr t).park == .fetch && ((m.beyond t len).isSome || m.badCode t len)
  (if wait then m.updThr t Thread.unparked else m).select t fun m =>
    match m.beyond t len with
    | some a => m.fetchFault t (a % 0x200000)
    | none => if m.badCode t len then m.take.fetchFault t (Config.freeCell m.free).toNat else m

/-! ## The predictor (R230, R231) -/

/-- fold(h, n, w): the exclusive OR of the w-bit pieces of the n youngest bits of a history. -/
def foldHist (h : BitVec 64) (n w : Nat) : Nat :=
  let v := h.toNat % 2 ^ n
  (List.range ((n + w - 1) / w)).foldl (fun a i => Nat.xor a (v / 2 ^ (w * i) % 2 ^ w)) 0

/-- History length of a table. -/
def histLen (k : Nat) : Nat := if k = 1 then 8 else if k = 2 then 24 else 64

/-- Key of the entry of table k that a branch at P indexes. -/
def predKey (t : Tid) (p : Nat) (h : BitVec 64) (k : Nat) : Nat :=
  let base := Nat.xor (p % 1024) (Tid.num t * 0x49)
  1024 * k + (if k = 0 then base else Nat.xor base (foldHist h (histLen k) 10)) % 1024
/-- Tag of a branch in table k. -/
def predTag (p : Nat) (h : BitVec 64) (k : Nat) : BitVec 8 := BitVec.ofNat 8 (Nat.xor (p / 1024 % 256) (foldHist h (histLen k) 8))

/-- The entry at a key, if one is valid. -/
def predAt (c : Core) (k : Nat) : Option PredEntry := (c.pred.find? fun e => e.1 == k).map Prod.snd

/-- The entry of table k that matches a branch. -/
def predMatch (c : Core) (t : Tid) (p : Nat) (h : BitVec 64) (k : Nat) : Option PredEntry :=
  (predAt c (predKey t p h k)).filter fun e =>
    e.thr == BitVec.ofNat 3 (Tid.num t) && (k == 0 || e.tag == predTag p h k)

/-- The prediction of an entry of table k. -/
def predTaken (k : Nat) (e : PredEntry) : Bool := if k = 0 then decide (2 ≤ e.ctr) else decide (0 ≤ e.ctr)

/-- The provider below table k + 1: the table and the entry, or none for the static rule. -/
def predProvider (c : Core) (t : Tid) (p : Nat) (h : BitVec 64) : Nat → Option (Nat × PredEntry)
  | 0 => (predMatch c t p h 0).map fun e => (0, e)
  | k + 1 =>
    match predMatch c t p h (k + 1) with
    | some e => some (k + 1, e)
    | none => predProvider c t p h k

/-- The direction of a provider, or of the static rule. -/
def predDir (o : Option (Nat × PredEntry)) (backward : Bool) : Bool :=
  match o with
  | some (k, e) => predTaken k e
  | none => backward

/-- A counter moved one step toward the outcome. -/
def ctrStep (k : Nat) (c : Int) (taken : Bool) : Int :=
  if k = 0 then (if taken then min 3 (c + 1) else max 0 (c - 1)) else (if taken then min 3 (c + 1) else max (-4) (c - 1))

/-- The tables after a branch at P retired with an outcome (R231). -/
def predUpdate (c : Core) (t : Tid) (p : Nat) (h : BitVec 64) (backward taken : Bool) : Core :=
  let thr := BitVec.ofNat 3 (Tid.num t)
  let prov := predProvider c t p h 3
  let guess := predDir prov backward
  let put := fun (c : Core) (k : Nat) (e : PredEntry) => { c with pred := mput c.pred (predKey t p h k) e }
  let baseMatched := (predMatch c t p h 0).isSome
  let c1 := match prov with
    | some (k, e) =>
      let alt := if k = 0 then backward else predDir (predProvider c t p h (k - 1)) backward
      put c k { e with ctr := ctrStep k e.ctr taken, use := e.use || (decide (0 < k) && guess == taken && alt != taken) }
    | none => c
  let c2 := if baseMatched then c1 else put c1 0 ⟨thr, 0, if taken then 2 else 1, false⟩
  if guess = taken then c2
  else
    let from_ := match prov with
      | some (k, _) => k + 1
      | none => 1
    let longer := (List.range 4).filter fun k => from_ ≤ k
    let free := fun k => match predAt c2 (predKey t p h k) with
      | some e => !e.use
      | none => true
    match longer.find? free with
    | some k => put c2 k ⟨thr, predTag p h k, if taken then 0 else -1, false⟩
    | none => longer.foldl (fun c k =>
        match predAt c (predKey t p h k) with
        | some e => put c k { e with use := false }
        | none => c) c2

/-- A retired branch that the tables predicted as `was` held them: history, tables and the counters of R243. A flush at its
retirement stands over its update (R233). How many wrong-path instructions were selected is a free value. -/
def Mach.branchDone (m was : Mach) (t : Tid) (p : Nat) (backward taken : Bool) : Mach :=
  let k := Tid.coreNo t
  let x := was.thr t
  let on := bit (m.ru .crCtl k) 17
  let guess := if on then predDir (predProvider (was.core k) t p x.hist 3) backward else backward
  let m := if x.helm != (m.thr t).helm then m
    else
      let m := if on then m.updCore k fun c => predUpdate c t p x.hist backward taken else m
      m.updThr t fun x => { x with hist := x.hist <<< 1 ||| BitVec.ofNat 64 (b2n taken) }
  if guess = taken then m
  else ((m.coreCount k 2 1).coreCount k 3 (min 2 (Config.wrongPath m.free).toNat)).take

end Sys2Proof.Machine
end

