-- ==== Sys2Proof/Machine/CtlRegs.lean ====
section
/-!
DEFINITION. The control registers (R149) and mode changes (R166 to R168): `>ctl` and `ctl>`.
-/
namespace Sys2Proof.Machine

/-- The mode bits H, E, K and X of FLG (R147). -/
def modeMask : Cell := 0x3C000
/-- The bits that FLG has (R147). -/
def flgMask : Cell := 0x3C01F

/-- Mode bits that pending changes of FLG will write: a later write stands over them (R168). -/
def Thread.pendingModes (x : Thread) : Cell :=
  x.modes.foldl (fun a c => match c.chg with
    | .flg mask _ => a ||| mask
    | .bank _ => a ||| modeMask
    | _ => a) 0

/-- A mode change that takes effect from the third instruction after this one (R166). -/
def Thread.addMode (x : Thread) (c : ModeChg) : Thread := { x with modes := x.modes ++ [⟨3, c⟩] }

/-- A write of FLG: N, Z, C, V, M at once, the mode bits that change as a mode change (R149, R166). -/
def Thread.writeFlg (x : Thread) (v : Cell) : Thread :=
  let v := v &&& flgMask
  let mask := ((v ^^^ x.flg) &&& modeMask) ||| x.pendingModes
  let y := x.setFlg (blend x.flg 0x1F v)
  if mask = 0 then y else if bit mask 15 then y.addMode (.bank v) else y.addMode (.flg mask v)

/-- Whether a write of a control register needs helm: LVL, U, MF, or FLG with another mode (R149). -/
def Thread.ctlDenied (x : Thread) (n : Nat) (v : Dbl) : Bool :=
  !x.helm && (n == 1 || n == 2 || n == 3 || (n == 0 && (Dbl.lo v ^^^ x.flg) &&& modeMask != 0))

/-- A control register written (R149). -/
def Thread.writeCtl (x : Thread) (n : Nat) (v : Dbl) : Thread :=
  match n with
  | 0 => x.writeFlg (Dbl.lo v)
  | 1 => x.addMode (.lvl (v.setWidth 4))
  | 2 => x.addMode (.u (v.setWidth 28))
  | 3 => x.addMode (.mf (v.setWidth 28))
  | _ => x

/-- LTID (R149). -/
def Mach.ltid (m : Mach) (t : Tid) : Nat :=
  if Tid.tk t then Tid.core t * 1024 + Tid.num t
  else
    match m.llockOf (Tid.lock t) with
    | some l => l * 128 + Tid.core t * 8 + Tid.num t
    | none => 2048 + Tid.core t * 8 + Tid.num t

/-- A control register read (R149). -/
def Mach.readCtl (m : Mach) (t : Tid) (n : Nat) : Dbl :=
  let x := m.thr t
  match n with
  | 0 => x.flg.setWidth 36
  | 1 => x.lvl.setWidth 36
  | 2 => x.u.setWidth 36
  | 3 => x.mf.setWidth 36
  | 4 => BitVec.ofNat 36 (x.bank.rs.length * 32 + x.bank.ds.length)
  | 5 => BitVec.ofNat 36 (m.ltid t)
  | 6 => (m.refOf t).setWidth 36
  | _ => 0

/-- TO_CTL (R149, R166). -/
def execToCtl (t : Tid) (s : State) : Host.Outcome State Fault Refusal :=
  onThread t s fun m => m.issue t (dEff 3 0) fun m =>
    let x := m.thr t
    let n := fld (x.bank.at_ 0) 3 0
    let v := x.bank.dblAt 1
    if x.ctlDenied n v then m.privTrap t 0x070
    else m.retire t ((x.setBank (x.bank.pop 3)).writeCtl n v) 1

/-- CTL_FROM (R149). -/
def execCtlFrom (t : Tid) (s : State) : Host.Outcome State Fault Refusal :=
  onThread t s fun m => m.issue t (dEff 1 2) fun m =>
    let x := m.thr t
    m.retire t (x.setBank ((x.bank.pop 1).pushD (m.readCtl t (fld (x.bank.at_ 0) 3 0)))) 1

end Sys2Proof.Machine
end

