-- ==== Sys2Proof/Machine/Docks.lean ====
section
/-!
DEFINITION. Helper commands, tickets and dock slots (R73 to R80): `tow`, `moor`, the completion of a ticket and its
timeout.
-/
namespace Sys2Proof.Machine

/-- Own-core stowage address of a dock slot (R75). -/
def dockAddr (t : Tid) (s : Nat) : Nat := 0x3C00 + 0x80 * Tid.num t + 0x20 * s
/-- A thread's dock slot. -/
def Thread.dock (x : Thread) (s : Nat) : Dock := x.docks.getD s Dock.empty
/-- A thread's dock slot replaced. -/
def Thread.setDock (x : Thread) (s : Nat) (d : Dock) : Thread := { x with docks := x.docks.set s d }
/-- A slot that holds no command, no result and awaits nothing (R74). -/
def Dock.isFree (d : Dock) : Bool := d.state == .free && d.owed == .nothing
/-- UNIT, NARG, OP and ARG of a command cell (R73). -/
def Dock.unit (d : Dock) : Nat := fld d.cmd 17 15
/-- NARG. -/
def Dock.narg (d : Dock) : Nat := fld d.cmd 14 11
/-- OP. -/
def Dock.op (d : Dock) : Nat := fld d.cmd 10 6
/-- ARG. -/
def Dock.arg (d : Dock) : Nat := fld d.cmd 5 0

/-! ## Unit queues (R74, R78, R80, R132) -/

/-- The commands that a unit holds, in arrival order. -/
def Mach.heldCmds (m : Mach) (u : Nat) : List HelpEntry := mget [] m.helpq u
/-- The commands that a unit holds replaced. -/
def Mach.setHeldCmds (m : Mach) (u : Nat) (l : List HelpEntry) : Mach := { m with helpq := mset [] m.helpq u l }
/-- The slot of a held command. -/
def Mach.dockOf (m : Mach) (e : HelpEntry) : Dock := (m.thr e.tid).dock e.slot
/-- Effective priority of a held command (R114, R116). -/
def Mach.cmdPri (m : Mach) (e : HelpEntry) : Nat := m.agedPri (Tid.lock e.tid) (m.dockOf e).pri.toNat (m.dockOf e).waited
/-- The command that a unit takes next: the highest effective priority, the earliest among equals (R80). -/
def Mach.firstCmd (m : Mach) (u : Nat) : Option HelpEntry :=
  (m.heldCmds u).foldl (fun best e =>
    match best with
    | none => some e
    | some b => if m.cmdPri b < m.cmdPri e then some e else some b) none

/-- Whether a unit's queue has an entry for a command of a class: 16 are kept for class 7 while the fly-boat class is enabled.
How many there are beside them the spec does not say (Config.helperEntries, entry 89); an empty queue has one for every class. -/
def Mach.entryFree (m : Mach) (u : Nat) (cls : BitVec 3) : Bool :=
  let n := (m.heldCmds u).length
  let fly := ((m.heldCmds u).filter fun e => (m.dockOf e).cls == 7).length
  let on := bit (m.r .blkFbctl) 17
  let used := if on && cls != 7 then n - min 16 fly else n
  used == 0 || decide (used < Config.helperEntries u + (if on && cls != 7 then 0 else 16))

/-- A command leaves its unit: a thread that waits for an entry is tried again. -/
def Mach.releaseCmd (m : Mach) (u : Nat) (e : HelpEntry) : Mach :=
  if (m.heldCmds u).contains e then
    let m := m.setHeldCmds u ((m.heldCmds u).erase e)
    (m.threads.filter fun x => x.2.park == .queue u).foldl (fun m x => m.updThr (BitVec.ofNat 12 x.1) Thread.unparked) m
  else m

/-- The abandonment notice that a unit which is parked or reset sends for a command it holds (R78). -/
def Dock.abandon (d : Dock) : Dock :=
  if d.state = .busy then { d with owed := .abandoned } else { d with owed := .nothing }
/-- Every command that a unit holds abandoned: the slots that wait for a late result free (R78). -/
def Mach.abandonCmds (m : Mach) (u : Nat) : Mach :=
  let m := (m.heldCmds u).foldl (fun m e => m.releaseCmd u e |>.updThr e.tid fun x =>
    { x.setDock e.slot (x.dock e.slot).abandon with park := if x.park = .retry then .none else x.park }) m
  m.setHeldCmds u []

/-- FLG with Z and N of a status (R76). -/
def moorFlags (st f : Cell) : Cell :=
  setBit (setBit f 3 (fld st 17 14 == 0)) 4 (decide (8 ≤ fld st 17 14))

/-- `moor` ends with a status. -/
def Mach.finishMoor (m : Mach) (t : Tid) (st : Cell) : Mach :=
  let x := m.thr t
  let b := (x.bank.pop 1).push st
  m.retire t ({ x with park := .none }.setBank { b with flg := moorFlags st b.flg }) 1

/-- `moor` of a ticket, as far as it can go (R76): BADTKT, the status of a completed ticket, or parked. -/
def Mach.moorOp (m : Mach) (t : Tid) (tkt : Cell) : Mach :=
  let i := fld tkt 17 16
  let d := (m.thr t).dock i
  if d.serial.toNat = fld tkt 15 0 ∧ d.state = .complete then
    let st := m.rdCell (some t) (dockAddr t i)
    (m.updThr t fun x => x.setDock i { d with state := .free }).finishMoor t st
  else if d.serial.toNat = fld tkt 15 0 ∧ d.state = .busy then m.park t (.moor tkt)
  else m.finishMoor t 0x3C000

/-- MOOR (R76). -/
def execMoor (t : Tid) (s : State) : Host.Outcome State Fault Refusal :=
  onThread t s fun m => m.issue t (dEff 1 1) fun m => m.moorOp t ((m.thr t).bank.at_ 0)

/-- A ticket that completed wakes the `moor` that waits for it; one of a halted thread runs again on release. -/
def Mach.wakeMoor (m : Mach) (t : Tid) : Mach :=
  let x := m.thr t
  match x.park with
  | .moor tkt =>
    if (x.dock (fld tkt 17 16)).state = .complete then
      let m := m.updThr t Thread.unparked
      if x.halted then m else m.moorOp t tkt
    else m
  | _ => m

/-- A `tow` that waits for a slot, or another instruction that waits for a transaction, is tried again. -/
def Mach.unpark (m : Mach) (t : Tid) : Mach :=
  if (m.thr t).park = .retry then m.updThr t Thread.unparked else m

/-- A result reaches its slot (R75 to R79): status and result cells are written and the ticket completes, or the result
is discarded and the slot frees. MEMERR raises the tollkeeper's source 34 (R271). -/
def Mach.complete (m : Mach) (t : Tid) (i : Nat) (st : Cell) (res : List Cell) : Mach :=
  let d := (m.thr t).dock i
  let m := if fld st 17 14 = 12 then (m.ring 31 34).count 0x7400 3 else m
  let m := match d.state, d.owed with
    | .busy, _ =>
      if d.epoch = m.epochOf t then
        let a := dockAddr t i
        let m := m.wrN (some t) (a + 2) (res.flatMap fun (c : Cell) => unpack c.toNat 2)
        (m.wrCell (some t) a st).updThr t fun x => x.setDock i { d with state := .complete }
      else (m.updThr t fun x => x.setDock i { d with state := .free }).count 0x7400 2
    | _, .timedOut => (m.updThr t fun x => x.setDock i { d with owed := .nothing }).count 0x7400 1
    | _, .dropped =>
      let m := m.updThr t fun x => x.setDock i { d with owed := .nothing }
      if d.epoch = m.epochOf t then m else m.count 0x7400 2
    | _, _ => m
  ((m.releaseCmd d.unit ⟨t, i⟩).unpark t).wakeMoor t

/-- Whether UNIT or OP of a command is reserved (R73, R77): waybill 0 to 3, 8, 9, 16; seal 0 to 3; sluice 0; timebase 0;
gauger 0 and 1. -/
def reservedCmd (unit op : Nat) : Bool :=
  match unit with
  | 0 => !(decide (op ≤ 3) || op == 8 || op == 9 || op == 16)
  | 1 => decide (4 ≤ op)
  | 2 => op != 0
  | 3 => op != 0
  | 4 => decide (2 ≤ op)
  | _ => true

/-- TOW (R74): the lowest free slot takes the command; earlier stores reach the helper (R174).
A command with a reserved UNIT or OP completes at once with BADCMD. -/
def execTow (t : Tid) (s : State) : Host.Outcome State Fault Refusal :=
  onThread t s fun m =>
    let cmd := (m.thr t).bank.at_ 0
    let n := fld cmd 14 11
    m.issue t (dEff (n + 1) 1) fun m =>
      let x := m.thr t
      match (List.range 4).find? fun i => (x.dock i).isFree with
      | none => if x.docks.any fun d => d.owed != .nothing then m.park t .retry else m.operandTrap t 6
      | some i =>
        if 4 ≤ x.txns then m.park t .retry
        else if !reservedCmd (fld cmd 17 15) (fld cmd 10 6) && !m.entryFree (fld cmd 17 15) (BitVec.ofNat 3 (m.base t)) then
          m.park t (.queue (fld cmd 17 15))
        else
          let m := m.flushMem t
          let x := m.thr t
          let serial := x.tows + 1
          let ops := ((List.range n).map fun j => x.bank.at_ (n - j))
          let d : Dock :=
            ⟨.busy, .nothing, serial, cmd, ops, x.helm, m.epochOf t, BitVec.ofNat 3 (m.base t), m.priOf t, 0, x.mf, m.now⟩
          let pri := m.priOf t
          let b := (x.bank.pop (n + 1)).push (BitVec.ofNat 18 (i * 65536 + serial.toNat))
          let m := m.retire t ({ x with tows := serial }.setBank b |>.setDock i d) 1
          if reservedCmd d.unit d.op then m.complete t i (status 8 0) []
          else (m.setHeldCmds d.unit (m.heldCmds d.unit ++ [⟨t, i⟩])).putFlit t (19 + d.unit) pri 0

/-- HELPER_TIMEOUT (R78): TMO µs after its `tow` the ticket completes with TIMEOUT, the slot stays busy for the late result, unless the unit abandoned
the command. -/
def execHelperTimeout (t : Tid) (slot : BitVec 2) (s : State) : Host.Outcome State Fault Refusal :=
  onThread t s fun m =>
    let d := (m.thr t).dock slot.toNat
    if d.state = .busy ∧ m.past d.since (1000 * fld (m.r .blkHlptmo) 11 0) then
      let m := m.wrCell (some t) (dockAddr t slot.toNat) (status 11 0)
      let owed := if d.owed = .abandoned then Owed.nothing else .timedOut
      ((m.updThr t fun x => x.setDock slot.toNat { d with state := .complete, owed := owed }).unpark t).wakeMoor t
    else m

/-- Whether a unit takes the command of a slot next (R80). -/
def Mach.turn (m : Mach) (t : Tid) (slot unit : Nat) : Bool := m.firstCmd unit == some ⟨t, slot⟩

/-- A helper command of a unit and operation that a slot holds, carried out in its turn; nothing where the slot holds another. One
that timed out, or whose reference is of an earlier epoch, has no effect (R77, R78, R79). -/
def Mach.helper (m : Mach) (t : Tid) (slot : BitVec 2) (unit op : Nat) (f : Mach → Dock → Mach × Cell × List Cell) : Mach :=
  let d := (m.thr t).dock slot.toNat
  if d.active ∧ d.unit = unit ∧ d.op = op ∧ m.turn t slot.toNat unit then
    let r := if d.owed = .timedOut ∨ d.epoch ≠ m.epochOf t then (m, (0 : Cell), []) else f m d
    r.1.complete t slot.toNat r.2.1 r.2.2
  else m

/-! ## Operand addresses (R478) -/

/-- An address operand, a double that starts at operand i, as a load would take it (R478). -/
def Dock.addr (d : Dock) (i : Nat) : Nat := ((d.ops.getD i 0).toNat + (d.ops.getD (i + 1) 0).toNat * 0x40000) % 0x10000000

/-- Whether a unit may read a range for a thread at a privilege: none of it outside the rights, absent, in the register
range or in the host window. -/
def Mach.opRange (m : Mach) (t : Tid) (helm : Bool) (a n : Nat) : Bool :=
  let m := m.updThr t fun x => x.setFlg (setBit x.flg 17 helm)
  (List.range n).all fun i =>
    let x := (a + i) % 0x10000000
    (m.noRight t false x).isNone && !(decide (0x8000000 ≤ x) && decide (x < 0x9000000)) && decide (x < 0xC000000)

/-- A range read for a unit: the code that ends the command, or the nonets (R478). -/
def Mach.opRead (m : Mach) (t : Tid) (helm : Bool) (a n : Nat) : Mach × Except Nat (List Nonet) :=
  if !m.opRange t helm a n then (m, .error 9)
  else
    let bad := m.badN (some t) a n
    (m.noteN (some t) a n, if bad then .error 12 else .ok (m.rdN (some t) a n))

end Sys2Proof.Machine
end

