-- ==== Sys2Proof/Machine/BolOps.lean ====
section
/-!
DEFINITION. `take`, `wait` and `give` (R119 to R129), the event wait (R254), `scan` (R201), inheritance (R124) and aging
(R116, R117).
-/
namespace Sys2Proof.Machine

/-! ## Sources aimed at a thread (R201, R251, R254) -/

/-- Whether a source is enabled and aimed at a thread (R244, R270). -/
def Mach.aimed (m : Mach) (t : Tid) (s : Nat) : Bool :=
  let u := Tid.ctl t
  bit (m.src u s) 17 && m.ctlTid u (fld (m.src u s) 6 0) == t
/-- Whether a claim would consider a source (R251). -/
def Mach.claimable (m : Mach) (t : Tid) (s : Nat) : Bool :=
  m.aimed t s && m.pending (Tid.ctl t) s && !m.actBit (Tid.ctl t) s
/-- The source that a claim returns: the highest PRI, the lowest number among equals (R251). -/
def Mach.bestSource (m : Mach) (t : Tid) : Option Nat :=
  (List.range 512).foldl (fun b s =>
    if m.claimable t s then
      match b with
      | none => some s
      | some r => if fld (m.src (Tid.ctl t) r) 13 10 < fld (m.src (Tid.ctl t) s) 13 10 then some s else b
    else b) none

/-- The source that ends an event wait now, if one does (R254). -/
def Mach.awaited (m : Mach) (t : Tid) (w : WaitFor) : Option Nat :=
  match w with
  | .bollard _ => none
  | .source s => if m.claimable t s.toNat then some s.toNat else none
  | .anySource => m.bestSource t

/-- A parked event wait whose source is pending completes with OK and the source in DETAIL (R254). -/
def Mach.wakeEvent (m : Mach) (t : Tid) : Mach :=
  let x := m.thr t
  match x.park, x.wait with
  | .wait, some q =>
    match m.awaited t q.what with
    | some s => if x.halted then m else m.endWait t (status 0 s)
    | none => m
  | _, _ => m

/-- Every parked event wait of a controller's threads tried. -/
def Mach.wakeEvents (m : Mach) (u : Nat) : Mach :=
  (m.threads.map Prod.fst).foldl (fun m k => if k / 128 = u then m.wakeEvent (BitVec.ofNat 12 k) else m) m

/-! ## take and give -/

/-- A counter of the bollard unit (R130) with the error flag it goes with (BOL_ERR). -/
def Mach.bolError (m : Mach) (sub flag : Nat) : Mach := (m.count 0x7600 sub).wbit .bolErr flag true

/-- What stops a thread from acquiring a bollard, if anything does: BADARG with DETAIL 1, or NOPRIV with DETAIL 3
(R120). -/
def Mach.acquireErr (m : Mach) (t : Tid) (b : Nat) : Option Cell :=
  let k := m.bol b
  if k.owner == some (m.refOf t) then some (status 9 1)
  else if k.fbonly && m.base t != 7 && !(m.thr t).helm then some (status 10 3)
  else none

/-- A free bollard acquired, with the status it gives (R120, R121, R126). -/
def Mach.takeFree (m : Mach) (t : Tid) (b n : Nat) : Mach :=
  (m.acquire b t).finishBol t n (status (if (m.bol b).orphan then 6 else 0) 0)

/-- TAKE (R121). -/
def execTake (t : Tid) (s : State) : Host.Outcome State Fault Refusal :=
  onThread t s fun m => m.issue t (dEff 1 1) fun m => m.routine t 0x2C0 fun m =>
    let b := ((m.thr t).bank.at_ 0).toNat
    if 4095 < b then m.finishBol t 1 (status 9 0)
    else
      match m.acquireErr t b with
      | some st => (if fld st 17 14 = 10 then m.bolError 4 2 else m).finishBol t 1 st
      | none => if (m.bol b).owner.isNone then m.takeFree t b 1 else m.finishBol t 1 (status 1 0)

/-- GIVE (R122, R127, R174): stores first; the bollard passes to its first waiter or is free. A reference that is not current
draws STALE; a thread that issues has its lock's present epoch, for admission, which alone changes it, resets it (R400). -/
def execGive (t : Tid) (s : State) : Host.Outcome State Fault Refusal :=
  onThread t s fun m => m.issue t (dEff 1 1) fun m => m.routine t 0x340 fun m =>
    let m := m.flushMem t
    if (m.thr t).sb ≠ [] then m.park t .retry
    else
      let b := ((m.thr t).bank.at_ 0).toNat
      if 4095 < b then m.finishBol t 1 (status 9 0)
      else if !m.current (m.refOf t) then (m.bolError 5 1).finishBol t 1 (status 14 0)
      else if (m.bol b).owner == some (m.refOf t) then ((m.passOn b false).disinherit t).finishBol t 1 (status 0 0)
      else (m.bolError 3 0).finishBol t 1 (status 10 2)

/-! ## wait -/

/-- A `wait` that is about to queue: the thread's earlier one gives up its place, or keeps the outcome that came (R123: at most
one queued `wait`; which one yields is DESIGN CHOICE entry 66). -/
def Mach.queueWait (m : Mach) (t : Tid) (q : QWait) : Mach :=
  match (m.thr t).wait with
  | some o =>
    if o.outcome.isSome then m.updThr t fun x => { x with wait := some q, ended := o :: x.ended }
    else
      let e := (m.thr t).ended
      (m.unqueue (m.refOf t)).updThr t fun x => { x with wait := some q, ended := e }
  | none => m.updThr t fun x => { x with wait := some q }

/-- The monotonic count at which a `wait` with this tmo times out, none without a timeout (R119). -/
def Mach.waitUntil (m : Mach) (tmo : Cell) : Option (BitVec 64) :=
  if fld tmo 15 0 = 0 then none else some (m.tb.mono + BitVec.ofNat 64 (countNs tmo))

/-- A `wait` of a bollard that is not queued yet (R121). -/
def Mach.waitBollard (m : Mach) (t : Tid) (b : Nat) (tmo : Cell) : Mach :=
  match m.acquireErr t b with
  | some st => (if fld st 17 14 = 10 then m.bolError 4 2 else m).finishBol t 2 st
  | none =>
    if (m.bol b).owner.isNone then m.takeFree t b 2
    else
      let x := m.thr t
      let m := m.queueWait t ⟨.bollard (BitVec.ofNat 12 b), m.waitUntil tmo, x.p, x.fdepth, none⟩
      let m := m.updBol b fun x => { x with waiters := x.waiters ++ [m.refOf t] }
      (m.park t .wait).inherit b

/-- An event wait: it completes now, or the thread waits (R254). -/
def Mach.waitSource (m : Mach) (t : Tid) (w : WaitFor) (tmo : Cell) : Mach :=
  match m.awaited t w with
  | some s => m.finishBol t 2 (status 0 s)
  | none =>
    let bad := match w with
      | .source s => !m.aimed t s.toNat
      | _ => false
    let x := m.thr t
    if bad then m.finishBol t 2 (status 9 4)
    else (m.queueWait t ⟨w, m.waitUntil tmo, x.p, x.fdepth, none⟩).park t .wait

/-- A queued `wait` that runs again after a handler: its outcome, or it waits on (R123, R254). -/
def Mach.waitAgain (m : Mach) (t : Tid) (q : QWait) : Mach :=
  match q.outcome, m.awaited t q.what with
  | some st, _ => m.endWait t st
  | none, some s => m.endWait t (status 0 s)
  | none, none => m.updThr t fun x => { x with park := .wait }

/-- Whether a queued `wait` is the one at P, in the same handler. -/
def Thread.atWait (x : Thread) (q : QWait) : Bool := q.pc == x.p && q.depth == x.fdepth

/-- `wait` ( w tmo -- st ) (R119, R121, R254). -/
def Mach.waitOp (m : Mach) (t : Tid) : Mach :=
  let x := m.thr t
  match x.wait.filter x.atWait, x.ended.find? x.atWait with
  | some q, _ => m.waitAgain t q
  | none, some q => (m.updThr t fun x => { x with ended := x.ended.erase q }).finishBol t 2 (q.outcome.getD 0)
  | none, none =>
    let w := x.bank.at_ 1
    let tmo := x.bank.at_ 0
    if fld tmo 17 16 = 3 then m.finishBol t 2 (status 9 0)
    else if bit w 17 then m.waitSource t (if bit w 16 then .anySource else .source (w.setWidth 9)) tmo
    else if 4095 < w.toNat then m.finishBol t 2 (status 9 0)
    else m.waitBollard t w.toNat tmo

/-- WAIT (R121): `wait`; with bit 17 of w at 1 it is the event wait. -/
def execWait (t : Tid) (s : State) : Host.Outcome State Fault Refusal :=
  onThread t s fun m => m.issue t (dEff 2 1) fun m => m.routine t 0x300 fun m => m.waitOp t

/-- EVENT_WAIT (R254): `wait` with bit 17 of w at 1; one that is parked completes when its source is pending. -/
def execEventWait (t : Tid) (s : State) : Host.Outcome State Fault Refusal :=
  onThread t s fun m =>
    if (m.thr t).park = .wait then m.wakeEvent t else m.issue t (dEff 2 1) fun m => m.routine t 0x300 fun m => m.waitOp t

/-- WAIT_TIMEOUT (R119, R125, R129): once the monotonic count has reached the time of the `wait`, the place is given up and the `wait`
completes with TIMEOUT. -/
def execWaitTimeout (t : Tid) (s : State) : Host.Outcome State Fault Refusal :=
  onThread t s fun m =>
    match (m.thr t).wait with
    | some ⟨.bollard b, some u, _, _, none⟩ =>
      if !m.past u.toNat 0 then m
      else
        let r := m.refOf t
        let m := (m.updBol b.toNat fun x => { x with waiters := x.waiters.erase r }).inherit b.toNat
        (m.count 0x7600 1).waitOutcome t (status 11 0)
    | _ => m

/-- EVENT_WAIT_TIMEOUT (R254): a source pending in this decision stands over the timeout. -/
def execEventWaitTimeout (t : Tid) (s : State) : Host.Outcome State Fault Refusal :=
  onThread t s fun m =>
    match (m.thr t).wait with
    | some ⟨.bollard _, _, _, _, _⟩ => m
    | some ⟨w, some u, _, _, none⟩ =>
      if !m.past u.toNat 0 then m
      else
        match m.awaited t w with
        | some s => m.waitOutcome t (status 0 s)
        | none => m.waitOutcome t (status 11 0)
    | _ => m

/-! ## Inheritance and aging -/

/-- INHERIT_LINK (R124). -/
def execInheritLink (b : Bol) (s : State) : Host.Outcome State Fault Refusal := done s (s.m.inherit b.toNat)

/-- A thread's new priority passed to the owners of the bollards it waits for, one link (R125). -/
def Mach.passPri (m : Mach) (t : Tid) : Mach := (m.waitsFor (m.refOf t)).foldl (fun m b => m.inherit b) m

/-- AGE_STEP (R116, R117): another quantum of an item's wait has passed, by the quantum of the lock that issued it; a thread's
rise is passed to the owners of the bollards it waits for. -/
def Mach.ageStep (m : Mach) (i : AgeItem) : Mach :=
  match i with
  | .manifest p k =>
    m.updLock p.val fun q => { q with queue := q.queue.modify k fun e => { e with waited := m.nextQuantum p.val e.waited } }
  | .thread t =>
    if Tid.ok t && (m.thr t).ageing then
      (m.updThr t fun x => { x with waited := m.nextQuantum (Tid.lock t) x.waited }).passPri t
    else m
  | .ticket t j =>
    let d := (m.thr t).dock j.toNat
    if Tid.ok t && d.active then
      m.updThr t fun x => x.setDock j.toNat { d with waited := m.nextQuantum (Tid.lock t) d.waited }
    else m
  | .load t i =>
    if Tid.ok t then
      m.updThr t fun x => { x with loads := x.loads.modify i fun l =>
        if l.value.isNone then { l with waited := m.nextQuantum (Tid.lock t) l.waited } else l }
    else m
  | .store t i =>
    if Tid.ok t then
      m.updThr t fun x => { x with sb := x.sb.modify i fun e => { e with waited := m.nextQuantum (Tid.lock t) e.waited } }
    else m
  | .flit port resp k =>
    m.updLink (LinkId.key ⟨port, resp⟩) fun l => { l with waiting := l.waiting.modify k fun f =>
      { f with waited := m.nextQuantum f.lock f.waited } }

/-- AGE_STEP (R116). -/
def execAgeStep (i : AgeItem) (s : State) : Host.Outcome State Fault Refusal := done s (s.m.ageStep i)

/-! ## scan -/

/-- Bit i of the mask of pending cell c for a thread (R201). -/
def Mach.scanMask (m : Mach) (t : Tid) (c : Nat) : Nat :=
  (List.range 16).foldl (fun v i =>
    v + (if m.aimed t (16 * c + i) && m.pending (Tid.ctl t) (16 * c + i) then 2 ^ i else 0)) 0

/-- SCAN (R201). -/
def execScan (t : Tid) (s : State) : Host.Outcome State Fault Refusal :=
  onThread t s fun m => m.onBank t (dEff 1 2) fun b =>
    let from_ := fld (b.at_ 0) 4 0
    let hit := ((List.range 32).drop from_).find? fun c => m.scanMask t c != 0
    let c := hit.getD 32
    let mask := if hit.isSome then m.scanMask t c else 0
    let b1 := ((b.pop 1).push (BitVec.ofNat 18 c)).push (BitVec.ofNat 18 mask)
    { b1 with flg := setBit b.flg 3 (mask == 0) }

end Sys2Proof.Machine
end

