-- ==== Sys2Proof/Machine/Control.lean ====
section
/-!
DEFINITION. Control transfer (R196 to R199), `eret`, `sys` and `brk` (R258, R259, R459), the illegal-syllable trap (R182)
and the instruction-fetch fault (R161); the caches' rows (R227, R327).
-/
namespace Sys2Proof.Machine

/-- The offset of a branch: 9 bits signed in the short form, 18 in the long form (R198). -/
def branchOff (long : Bool) (off : Cell) : Int := if long then off.toInt else (off.setWidth 9).toInt
/-- Syllables of a branch. -/
def branchLen (long : Bool) : Nat := if long then 3 else 2
/-- A branch target: A_next + offset, in 21 bits so that one out of range stays so (R198). -/
def branchTo (p : BitVec 21) (long : Bool) (off : Cell) : BitVec 21 :=
  p + BitVec.ofNat 21 (branchLen long) + BitVec.ofInt 21 (branchOff long off)

/-- The end of a branch: P moves, and the predictor learns where it may. -/
def Mach.branch (m : Mach) (t : Tid) (x : Thread) (long : Bool) (off : Cell) (learn taken : Bool) : Mach :=
  let p := (m.thr t).p
  let y := if taken then { x with p := branchTo p long off } else { x with p := p + BitVec.ofNat 21 (branchLen long) }
  let n := m.retireAt t y
  if learn then n.branchDone m t (p.toNat % 0x100000) (decide (branchOff long off < 0)) taken else n

/-- B_CC (R196, R198, R199): the condition is tested on FLG as the instruction before left it. -/
def execBCc (t : Tid) (cc : BitVec 4) (long : Bool) (off : Cell) (s : State) : Host.Outcome State Fault Refusal :=
  onThread t s fun m => m.issue t (dEff 0 0) fun m =>
    m.branch t (m.thr t) long off (cc != 14) (condHolds (m.thr t).flg cc)

/-- LOOP (R197): I := I - 1; branch if I is not zero. -/
def execLoopOp (t : Tid) (long : Bool) (off : Cell) (s : State) : Host.Outcome State Fault Refusal :=
  onThread t s fun m => m.issue t (dEff 0 0) fun m =>
    let x := m.thr t
    m.branch t { x with i := x.i - 1 } long off true (x.i - 1 != 0)

/-- CALL (R197): pushes the address after its last syllable. -/
def execCall (t : Tid) (target : CAddr) (s : State) : Host.Outcome State Fault Refusal :=
  onThread t s fun m => m.issue t ⟨0, 0, 0, 1⟩ fun m =>
    let x := m.thr t
    m.retireAt t { x.setBank { x.bank with rs := (x.p + 3).setWidth 20 :: x.bank.rs } with p := target.setWidth 21 }

/-- JUMP (R197). -/
def execJump (t : Tid) (target : CAddr) (s : State) : Host.Outcome State Fault Refusal :=
  onThread t s fun m => m.issue t (dEff 0 0) fun m => m.retireAt t { m.thr t with p := target.setWidth 21 }

/-- RET (R197): it can have been mispredicted only where one of the two instructions before it found another entry on top of
the return stack; whether one of them was selected so close before it is a free value (R232). -/
def execRet (t : Tid) (s : State) : Host.Outcome State Fault Refusal :=
  onThread t s fun m => m.issue t ⟨0, 0, 1, 0⟩ fun m =>
    let x := m.thr t
    let k := Tid.coreNo t
    let n := m.retireAt t
      { x.setBank { x.bank with rs := x.bank.rs.drop 1 } with p := (x.bank.rs.getD 0 0).setWidth 21 }
    if !(x.tops.any fun o => o != x.bank.rs.getD 0 0) then n
    else if Config.retMissed n.free then ((n.coreCount k 2 1).coreCount k 3 (min 2 (Config.wrongPath n.free).toNat)).take
    else n.take

/-- EXEC (R197, R198). -/
def execExec (t : Tid) (s : State) : Host.Outcome State Fault Refusal :=
  onThread t s fun m => m.issue t ⟨2, 0, 0, 1⟩ fun m =>
    let x := m.thr t
    let b := x.bank
    m.retireAt t { x.setBank { b.pop 2 with rs := (x.p + 1).setWidth 20 :: b.rs } with
                   p := ((b.dblAt 0).setWidth 20).setWidth 21 }

/-- JUMP_X (R197, R198). -/
def execJumpX (t : Tid) (s : State) : Host.Outcome State Fault Refusal :=
  onThread t s fun m => m.issue t (dEff 2 0) fun m =>
    let x := m.thr t
    m.retireAt t { x.setBank (x.bank.pop 2) with p := ((x.bank.dblAt 0).setWidth 20).setWidth 21 }

/-- ERET (R258): helm only. -/
def execEret (t : Tid) (s : State) : Host.Outcome State Fault Refusal :=
  onThread t s fun m => m.issue t (dEff 0 0) fun m => if (m.thr t).helm then m.routine t 0x040 fun m => m.eretOp t else m.privTrap t 0x1AD

/-- SYS (R197, R259). -/
def execSys (t : Tid) (code : Nonet) (s : State) : Host.Outcome State Fault Refusal :=
  onThread t s fun m => m.issue t (dEff 0 0) fun m => m.sysTrap t code.toNat

/-- Whether `brk` halts: BRKHALT with a FULL session open (R459). -/
def Mach.brkHalts (m : Mach) : Bool :=
  bit (m.r .dbgCtl) 15 && match m.d0.session with
    | some e => e.level == 2
    | none => false

/-- A thread halted by the debugger (R177, R457). -/
def Mach.haltThread (m : Mach) (t : Tid) (cause : Nat) (bySession : Bool) : Mach :=
  m.updThr t fun x => { (m.haltWd x).haltNow (BitVec.ofNat 3 cause) with bySession := bySession }

/-- BRK (R459): halts with P at it, or traps. -/
def execBrk (t : Tid) (s : State) : Host.Outcome State Fault Refusal :=
  onThread t s fun m => m.issue t (dEff 0 0) fun m =>
    if m.brkHalts then m.settled t fun m => (m.setThrH t (m.thr t).landAll.applyModes).haltThread t 3 false
    else m.brkTrap t

/-- Whether a first syllable is assigned (R180, R182, R186 to R214): tables of the instruction reference. -/
def assigned (syl : Nat) : Bool :=
  (decodeOperands 0 syl (List.replicate (operandCount syl) 0)).isSome

/-- ILLEGAL_SYLLABLE (R182): a syllable that the tables do not assign raises trap 1. -/
def execIllegalSyllable (t : Tid) (syl : Nonet) (s : State) : Host.Outcome State Fault Refusal :=
  onThread t s fun m => m.select t fun m => if assigned syl.toNat then m else m.illegal t syl.toNat

/-- INSTRUCTION_FETCH_FAULT (R161). -/
def execInstructionFetchFault (t : Tid) (len : Fin 6) (s : State) : Host.Outcome State Fault Refusal :=
  onThread t s fun m => m.fetchCheck t len.val

/-- LINE_FILL (R227). -/
def execLineFill (t : Tid) (line : BitVec 15) (s : State) : Host.Outcome State Fault Refusal :=
  onThread t s fun m => m.lineFill t line.toNat

/-- LCC_FILL (R327). -/
def execLccFill (t : Tid) (line : BitVec 15) (s : State) : Host.Outcome State Fault Refusal :=
  onThread t s fun m => m.lccFill t line.toNat

end Sys2Proof.Machine
end

