-- ==== Sys2Proof/Machine/Events.lean ====
section
/-!
DEFINITION. Presentation of events (R248, R249), event entry, the debug halt at a boundary (R241), the deferred Tally trap
(R290) and the deadline watchdog (R266, R267).
-/
namespace Sys2Proof.Machine

/-- Whether a source may preempt a thread (R248). -/
def Mach.eligibleSource (m : Mach) (t : Tid) (s : Nat) : Bool :=
  let u := Tid.ctl t
  let x := m.thr t
  let pri := fld (m.src u s) 13 10
  m.claimable t s && decide (fld (m.ru .evtThr u (Tid.idx t)) 3 0 < pri) && decide (x.lvl.toNat < pri) &&
    bit (m.vecOf t pri) 17 && bit x.flg 16 && !bit x.flg 15 && !x.halted && !x.faulted

/-- The source presented to a thread: the highest PRI, the lowest number among equals (R249). -/
def Mach.presented (m : Mach) (t : Tid) : Option Nat :=
  (List.range 512).foldl (fun b s =>
    if m.eligibleSource t s then
      match b with
      | none => some s
      | some r => if fld (m.src (Tid.ctl t) r) 13 10 < fld (m.src (Tid.ctl t) s) 13 10 then some s else b
    else b) none

/-- Whether a thread stands where an event, a halt or a deferred trap is taken (R240, R241). -/
def Mach.boundary (m : Mach) (t : Tid) : Bool :=
  m.coreRuns t && (m.thr t).atBoundary && !(m.thr t).heldByTally && !m.inWindlass t && !(m.thr t).halted && !(m.thr t).faulted

/-- EVENT_ENTRY (R240, R256): a halt request or a due trap at the boundary comes first (R241, R260); the entry waits while its
windlass context is another thread's (R224). -/
def execEventEntry (t : Tid) (s : State) : Host.Outcome State Fault Refusal :=
  onThread t s fun m =>
    let x := m.thr t
    if m.boundary t && x.haltReq.isNone && x.tally.due.isNone && !m.ctxBusy t then
      match m.presented t with
      | some i => m.entering t fun m => m.enter t (.event (fld (m.src (Tid.ctl t) i) 13 10)) x.p 0 i 0 0
      | none => m
    else m

/-- Whether a halt request may be honoured: that of a move halts the thread in the spare only while it is berthed and holds
no frame (R415). -/
def Mach.mayHalt (m : Mach) (t : Tid) (c : BitVec 3) : Bool :=
  m.boundary t && (c != 6 || !(match m.evac with
    | some e => e.spare.val == Tid.lock t
    | none => false) || ((m.thr t).berthed && (m.thr t).mf == 0))

/-- HALT_TAKEN (R241): the halt of a HALT command. -/
def execHaltTaken (t : Tid) (s : State) : Host.Outcome State Fault Refusal :=
  onThread t s fun m =>
    match (m.thr t).haltReq with
    | some c => if m.mayHalt t c then m.haltThread t c.toNat (m.thr t).bySession else m
    | none => m

/-- TALLY_DEFERRED_TRAP (R290, R291): trap 9 with the INFO that fell due; a halt request comes first, and the entry waits for its
windlass context (R224). -/
def execTallyDeferredTrap (t : Tid) (s : State) : Host.Outcome State Fault Refusal :=
  onThread t s fun m =>
    let x := m.thr t
    match x.tally.due with
    | some info =>
      if m.boundary t && x.haltReq.isNone && !m.ctxBusy t then
        (m.updThr t fun x => { x with tally := { x.tally with due := none } }).trap t 9 info.toNat 0
      else m
    | none => m

/-- Whether a thread's deadline watchdog runs (R266, R267). -/
def Mach.wdRuns (m : Mach) (t : Tid) : Bool :=
  let x := m.thr t
  x.wdArmed && !x.faulted && !(x.halted && bit (m.r .dbgCtl) 17)

/-- DEADLINE_EXPIRE (R266): once the budget has run out, a thread fault with TFC 4, counted. -/
def execDeadlineExpire (t : Tid) (s : State) : Host.Outcome State Fault Refusal :=
  onThread t s fun m => if m.wdRuns t && m.past (m.thr t).wdEnd 0 then (m.threadFault t 4).countEvt (Tid.ctl t) 5 else m

end Sys2Proof.Machine
end

