-- ==== Sys2Proof/Machine/FrameOps.lean ====
section
/-!
DEFINITION. How a thread takes and ends a frame: `ship`, `scuttle`, `berth` (R58 to R60) and the lock-keeper's dispatch
(R18, R19, R57, R58, R266, R412).
-/
namespace Sys2Proof.Machine

/-- The class of a thread that has ended its frame: MF zero. -/
def Mach.endMf (m : Mach) (t : Tid) (x : Thread) (len : Nat) : Mach := m.retire t { x with mf := 0 } len

/-- SHIP (R62): with MF at zero the frame-state trap. -/
def execShip (t : Tid) (s : State) : Host.Outcome State Fault Refusal :=
  onThread t s fun m => m.issue t (dEff 1 0) fun m =>
    let mf := (m.thr t).mf.toNat
    if mf = 0 then m.trap t 7 1 0
    else
      let m := m.flushMem t
      let word := (m.thr t).bank.at_ 0
      let m := m.shipFrame mf word
      let x := m.thr t
      m.endMf t (x.setBank (x.bank.pop 1)) 1

/-- SCUTTLE (R59): with MF at zero the frame-state trap. -/
def execScuttle (t : Tid) (s : State) : Host.Outcome State Fault Refusal :=
  onThread t s fun m => m.issue t (dEff 0 0) fun m =>
    let mf := (m.thr t).mf.toNat
    if mf = 0 then m.trap t 7 2 0 else let m := m.scuttleFrame mf; m.endMf t (m.thr t) 1

/-- A frame that its thread leaves behind at `berth` (R59): ended as a scuttled one, with ORPHAN. -/
def Mach.orphanFrame (m : Mach) (t : Tid) : Mach :=
  let mf := (m.thr t).mf.toNat
  if mf = 0 then m
  else
    let m := (m.scuttleFrame mf).bareCount 1 (Tid.lock t)
    let m := if Tid.tk t then m
      else m.withLines [(Tid.lock t, 34)] fun m => m.wubit .lkHoldstat (Tid.lock t) 15 true
    m.setThrH t { m.thr t with mf := 0 }

/-- BERTH (R20, R57, R59, R79, R177): P stays at it until dispatch. -/
def execBerth (t : Tid) (s : State) : Host.Outcome State Fault Refusal :=
  onThread t s fun m => m.issue t (dEff 0 0) fun m =>
    let m := m.orphanFrame t
    let x := (m.thr t).dropTickets
    let x := { x with berthed := true, hasBerthed := true, fbBerthed := true, resv := none }
    m.setThrH t x.ageLoads.ageModes

/-! ## Dispatch -/

/-- The head of a class queue: its place in arrival order and its entry (R18). -/
def Lock.head (k : Lock) (c : Nat) : Option (Nat × QEntry) :=
  ((List.range k.queue.length).zip k.queue).find? fun e => e.2.cls.toNat == c

/-- Effective priority of a waiting manifest (R114, R116, R118). -/
def Mach.queuePri (m : Mach) (p : Nat) (e : QEntry) : Nat :=
  m.agedPri p e.cls.toNat e.waited

/-- The heads of a lock's class queues in the order in which R19 considers them. R19 names the first one; that a head for which
no thread is eligible lets the next be considered is DESIGN CHOICE entry 88. -/
def Mach.heads (m : Mach) (p : Nat) : List (Nat × QEntry) :=
  let hs := ((List.range 8).reverse.filterMap fun c => (m.lock p).head c)
  (List.range 8).reverse.flatMap fun pri => hs.filter fun e => m.queuePri p e.2 == pri

/-- Whether a thread may receive a manifest of a class (R19, R412). -/
def Mach.eligible (m : Mach) (t : Tid) (cls : Nat) : Bool :=
  let x := m.thr t
  let t0 := Tid.num t == 0
  let held := match m.evac with
    | some e => (m.lock e.victim.val).state == .draining && Tid.lock t == e.spare.val && !t0 &&
        (m.thr (mkTid e.victim.val (Tid.core t) (Tid.num t))).mf != 0
    | none => false
  x.berthed && !x.halted && !x.faulted && !held && (if m.fbOn then (cls == 7) == t0 else true)

/-- Threads of a core that hold a manifest, a faulted thread with MF set among them (DESIGN CHOICE entry 88). -/
def Mach.busyThreads (m : Mach) (p x : Nat) : Nat := ((List.range 8).filter fun i => (m.thr (mkTid p x i)).mf != 0).length

/-- The thread that R19 chooses for a class. -/
def Mach.chooseThread (m : Mach) (p cls : Nat) : Option Tid :=
  let cores := (List.range 16).map fun i => ((m.lock p).lastCore.toNat + 1 + i) % 16
  let able := cores.filter fun x => (List.range 8).any fun i => m.eligible (mkTid p x i) cls
  let best := able.foldl (fun b x =>
    match b with
    | none => some x
    | some y => if m.busyThreads p x < m.busyThreads p y then some x else some y) none
  match best with
  | none => none
  | some x => ((List.range 8).map fun i => mkTid p x i).find? fun t => m.eligible t cls

/-- A thread set up for a frame (R57, R266); its `berth` completes. -/
def Mach.handFrame (m : Mach) (t : Tid) (e : QEntry) : Mach :=
  let mf := e.mf.toNat
  let head := m.mHead mf
  let a := head + 8 + fld (m.rdCell none (head + 4)) 17 9
  let k := m.r .blkKentry e.kind.toNat
  let dl := m.ru .evtDlb (Tid.lock t) e.cls.toNat
  let x := m.thr t
  let b := { x.bank with ds := [], rs := [], a := BitVec.ofNat 28 a, b := e.mf }
  let y := { x.setBank b with
    mf := e.mf, p := BitVec.ofNat 21 (fld k 15 0 * 16), berthed := false, waited := 0, wdArmed := fld dl 15 0 != 0,
    wdBudget := dl, wdEnd := m.tb.mono.toNat + countNs dl, wdLeft := none }
  ((m.setThrH t y.stepEnd).takeSlot t).coreCount (Tid.coreNo t) 0 1

/-- One head considered: scuttled where its kind is withdrawn (R58), handed over where a thread is eligible; none where
no thread is. -/
def Mach.offer (m : Mach) (p : Nat) (h : Nat × QEntry) : Option Mach :=
  let out := fun (m : Mach) => m.updLock p fun k => { k with queue := k.queue.eraseIdx h.1 }
  if !bit (m.r .blkKentry h.2.kind.toNat) 17 then some (((out m).scuttleFrame h.2.mf.toNat).bareCount 0 p)
  else
    match m.chooseThread p h.2.cls.toNat with
    | none => none
    | some t =>
      some (((out m).handFrame t h.2).updLock p fun k => { k with lastCore := BitVec.ofNat 4 (Tid.core t) })

/-- DISPATCH (R19): one decision of a lock-keeper. -/
def execDispatch (p : PLock) (s : State) : Host.Outcome State Fault Refusal :=
  done s (if (s.m.lock p.val).state = .serving then
    match (s.m.heads p.val).findSome? (s.m.offer p.val) with
    | some m => m
    | none => s.m
  else s.m)

end Sys2Proof.Machine
end

