-- ==== Sys2Proof/Machine/EvtRegs.lean ====
section
/-!
DEFINITION. The registers of the event controllers (R244 to R252, R262, R265, R270), the thread view (R179), the fly-boat
registers (R131, R142) and the bollard window (R126, R130).
-/
namespace Sys2Proof.Machine

/-! ## Event controllers -/

/-- A 16-bit group of the pending bits as read. -/
def Mach.pendCell (m : Mach) (u c : Nat) : Cell :=
  (List.range 16).foldl (fun (v : Cell) i => if m.pending u (16 * c + i) then setBit v i true else v) 0

/-- EVT_PENDc written: W1C (R250). A level source's bit follows its line. -/
def Mach.pendClear (m : Mach) (u c : Nat) (v : Cell) : Mach := m.wu .evtPend u (m.ru .evtPend u c &&& ~~~v) c

/-- EVT_SRCs written (R244, R245, R270): SENSE 5 to 7 is stored as 2; a changed SENSE clears the pending bit. -/
def Mach.srcWrite (m : Mach) (u s : Nat) (v : Cell) : Mach :=
  let v := v &&& 0x3FC7F
  let v := if 5 ≤ fld v 16 14 then setFld v 16 14 2 else v
  let v := if u = 31 then setFld v 6 3 0 else v
  let old := m.src u s
  let m := m.wu .evtSrc u v s
  let m := if fld v 16 14 = fld old 16 14 then m else m.setPend u s false
  m.wakeEvents u

/-- EVT_CLAIM read (R251): the source claimed and its cell. -/
def Mach.claim (m : Mach) (u : Nat) (who : Master) (quiet : Bool) : Mach × Cell :=
  match who with
  | .thread t =>
    if Tid.ctl t ≠ u ∨ (u = 31 ∧ Tid.core t ≠ m.activeTk) then (m, 0)
    else
      match m.bestSource t with
      | none => (m, 0)
      | some s =>
        let v : Cell := BitVec.ofNat 18 (0x20000 + s)
        if quiet then (m, v)
        else
          let n := m.setAct u s true
          (if 2 ≤ m.sense u s then n.setPend u s false else n, v)
  | _ => (m, 0)

/-- EVT_ERR flag and its count (R247, R252, R477). -/
def Mach.evtError (m : Mach) (u flag sub : Nat) : Mach := (m.wubit .evtErr u flag true).countEvt u sub

/-- EVT_DONE written (R252). -/
def Mach.evtDoneWrite (m : Mach) (u : Nat) (v : Cell) : Mach :=
  let s := fld v 8 0
  if m.actBit u s then (m.setAct u s false).wakeEvents u else m.evtError u 0 3

/-- The epoch that a ring is checked against (R247). -/
def Mach.ringEpoch (m : Mach) (u : Nat) : Nat :=
  if u = 31 then (if m.activeTk = 0 then m.d0.tkEpochA else m.d0.tkEpochB).toNat else (m.lock u).epoch.toNat

/-- EVT_RING written (R247). -/
def Mach.ringWrite (m : Mach) (u : Nat) (v : Cell) : Mach :=
  let s := fld v 8 0
  if s < 64 then m.evtError u 1 2
  else if bit v 17 ∧ fld v 16 9 ≠ m.ringEpoch u then m.evtError u 2 1
  else (m.ring u s).wakeEvents u

/-- EVT_THRt as read: MSUSP, FDEPTH, THR. -/
def Mach.thrRead (m : Mach) (u i : Nat) : Cell :=
  let x := m.thr (m.ctlTid u i)
  setFld (setFld (m.ru .evtThr u i &&& 0xF) 12 12 (b2n x.shadow.isSome)) 11 8 x.fdepth.toNat

/-- EVT_THRt written: THR, and FDEPTH of a halted thread (R265). -/
def Mach.thrWrite (m : Mach) (u i : Nat) (v : Cell) : Mach :=
  let t := m.ctlTid u i
  let m := m.wu .evtThr u (v &&& 0xF) i
  if (m.thr t).halted then m.updThr t fun x => { x with fdepth := BitVec.ofNat 4 (min 8 (fld v 11 8)) } else m

/-- EVT_TFLTt as read. -/
def Mach.tfltRead (m : Mach) (u i : Nat) : Cell :=
  let x := m.thr (m.ctlTid u i)
  BitVec.ofNat 18 (b2n x.faulted * 0x20000 + x.tfc.toNat * 256)

/-- EVT_TFLTt written: the thread reset (R262). -/
def Mach.tfltWrite (m : Mach) (u i : Nat) (v : Cell) : Mach := if bit v 16 then m.threadRst (m.ctlTid u i) else m

/-! ## The thread view (R179) -/

/-- The entry that TH_SSEL selects, if the stack is that deep. -/
def Thread.selected (x : Thread) (sel : Cell) : Option (BitVec 20) :=
  let b := x.bankOf (bit sel 6)
  let i := fld sel 4 0
  if bit sel 5 then b.rs[i]? else (b.ds[i]?).map fun (c : Cell) => c.setWidth 20

/-- The entry that TH_SSEL selects replaced, if the stack is that deep. -/
def Thread.setSelected (x : Thread) (sel : Cell) (f : BitVec 20 → BitVec 20) : Thread :=
  let b := x.bankOf (bit sel 6)
  let i := fld sel 4 0
  let b := if bit sel 5 then { b with rs := b.rs.modify i f }
    else { b with ds := b.ds.modify i fun (c : Cell) => (f (c.setWidth 20)).setWidth 18 }
  x.setBankOf (bit sel 6) b

/-- TH_STAT. -/
def Mach.thStat (m : Mach) (t : Tid) : Cell :=
  let x := m.thr t
  let fb := m.fbOn && Tid.num t == 0 && !Tid.tk t
  BitVec.ofNat 18 (b2n x.halted * 0x20000 + b2n x.berthed * 0x10000 + b2n (x.park != .none && x.park != .context) * 0x8000 +
    b2n x.faulted * 0x4000 + b2n fb * 0x2000 + x.bank.rs.length * 32 + x.bank.ds.length)

/-- The thread and the register of a view cell. -/
def viewOf (k i : Nat) : Tid × Nat :=
  let lock := if 272 ≤ k then 31 else k / 16
  (mkTid lock (if 272 ≤ k then k - 272 else k % 16) (i / 32), i % 32)

/-- A view register read. -/
def Mach.viewRead (m : Mach) (k i : Nat) : Cell :=
  let t := (viewOf k i).1
  let x := m.thr t
  let sel := m.ru .thView k (i / 32 * 32 + 14)
  let lo := fun {w : Nat} (v : BitVec w) => (v.setWidth 18 : Cell)
  let hi := fun {w : Nat} (v : BitVec w) => ((v >>> 18).setWidth 18 : Cell)
  let p : BitVec 20 := x.p.setWidth 20
  match (viewOf k i).2 with
  | 0 => m.thStat t
  | 1 => lo p
  | 2 => hi p
  | 3 => x.flg
  | 4 => lo x.lvl
  | 5 => lo x.bank.a
  | 6 => hi x.bank.a
  | 7 => lo x.bank.b
  | 8 => hi x.bank.b
  | 9 => x.i
  | 10 => lo x.u
  | 11 => hi x.u
  | 12 => lo x.mf
  | 13 => hi x.mf
  | 14 => sel
  | 15 => lo ((x.selected sel).getD 0)
  | 16 => hi ((x.selected sel).getD 0)
  | _ => 0

/-- Bits 17:0 or the bits from 18 up of a wider value replaced. -/
def setLo {w : Nat} (c : BitVec w) (v : Cell) : BitVec w := setFld c 17 0 v.toNat
/-- The bits from 18 up. -/
def setHi {w : Nat} (c : BitVec w) (v : Cell) : BitVec w := setFld c (w - 1) 18 v.toNat

/-- A thread with P written by the view: 20 bits, its predictor history and its progress discarded (R206, R233). -/
def Thread.viewP (x : Thread) (hi lo : Nat) (v : Cell) : Thread :=
  { x with p := ((setFld x.p hi lo v.toNat).setWidth 20).setWidth 21, shadow := none, shWords := [], tops := [] }

/-- A halted thread with a view register written. -/
def Thread.viewSet (x : Thread) (sel : Cell) (r : Nat) (v : Cell) : Thread :=
  let b := x.bank
  match r with
  | 1 => x.viewP 17 0 v
  | 2 => x.viewP 19 18 v
  | 3 => { x with fastOn := bit v 15 }.setFlg (v &&& flgMask)
  | 4 => { x with lvl := v.setWidth 4 }
  | 5 => x.setBank { b with a := setLo b.a v }
  | 6 => x.setBank { b with a := setHi b.a v }
  | 7 => x.setBank { b with b := setLo b.b v }
  | 8 => x.setBank { b with b := setHi b.b v }
  | 9 => { x with i := v }
  | 10 => { x with u := setLo x.u v }
  | 11 => { x with u := setHi x.u v }
  | 12 => { x with mf := setLo x.mf v }
  | 13 => { x with mf := setHi x.mf v }
  | 15 => x.setSelected sel fun c => setLo c v
  | 16 => if bit sel 5 then x.setSelected sel fun c => setHi c v else x
  | _ => x

/-- A view register written (R179): accepted only while the thread is halted. A write of P flushes the
predictor (R233). -/
def Mach.viewPut (m : Mach) (k i : Nat) (v : Cell) : Mach :=
  let t := (viewOf k i).1
  let x := m.thr t
  let j := i / 32 * 32 + 14
  if !x.halted then m
  else if (viewOf k i).2 = 14 then m.wu .thView k (v &&& 0x7F) j
  else
    let r := (viewOf k i).2
    let m := m.setThrH t (x.viewSet (m.ru .thView k j) r v)
    if r = 1 ∨ r = 2 then (m.flushPred t).dropShovs t else m

/-- A view write; one of a thread that an `unshov` restores waits for its end (R211). -/
def Mach.viewWrite (m : Mach) (k i : Nat) (v : Cell) : Mach :=
  let t := (viewOf k i).1
  match (m.shovOn t).filter fun h => h.load with
  | some h => { m with shovs := mset none m.shovs t.toNat (some { h with views := h.views ++ [(k, i, v)] }) }
  | none => m.viewPut k i v

/-! ## The fly-boat class (R131, R132, R142) -/

/-- Whether a class-7 manifest is queued or dispatched in any lock. -/
def Mach.fbBusy (m : Mach) : Bool :=
  (m.locks.any fun e => e.2.queue.any fun q => q.cls == 7) ||
    m.threads.any fun e => decide (e.1 < 31 * 128) && e.2.mf != 0 && e.2.cls == 7

/-- READY: every T0 of the locks that serve has berthed since EN was set. -/
def Mach.fbReady (m : Mach) : Bool :=
  m.fbOn && (List.range 16).all fun l => (List.range 16).all fun x => (m.thr (mkTid (m.plockOf l) x 0)).fbBerthed

/-- BLK_FBCTL as read. -/
def Mach.fbctlRead (m : Mach) : Cell := setBit (m.r .blkFbctl) 16 m.fbReady

/-- BLK_FBCTL written (R131): EN only where R131 accepts it; PAIRTMO in its range. What is ignored of a refused write is its EN alone (DESIGN
CHOICE entry 102). -/
def Mach.fbctlWrite (m : Mach) (v : Cell) : Mach :=
  let old := m.r .blkFbctl
  let on := bit old 17
  let refused := if bit v 17 then !on && decide (fld (m.r .cnlVccfg) 5 0 < 8)
    else on && (m.fbBusy || (List.range 16).any fun q => bit (m.r .qiCtl q) 15)
  let tmo := min 1000 (max 16 (fld v 9 0))
  let new := setFld (blend old 0x2C000 v) 9 0 tmo
  let m := m.w .blkFbctl (if refused then setBit new 17 on else new)
  if refused then m.wbit .blkFberr 0 true
  else if bit v 17 && !on then
    (m.threads.map Prod.fst).foldl (fun m k =>
      m.updThr (BitVec.ofNat 12 k) fun x => { x with fbBerthed := x.berthed }) m
  else m

/-- BLK_FBPARTn written (R142). -/
def Mach.fbpartWrite (m : Mach) (l : Nat) (v : Cell) : Mach :=
  if fld v 3 0 = l then m.wbit .blkFberr 2 true else m.w .blkFbpart (v &&& 0x2000F) l

/-! ## The bollard window (R126, R130) -/

/-- A register of the bollard window read. -/
def Mach.bolRead (m : Mach) (r : Reg) : Cell :=
  let i := fld (m.r .bolSel) 11 0
  let b := m.bol i
  let own := b.owner.getD 0
  match r with
  | .bolCfg => BitVec.ofNat 18 (b2n b.fbonly * 0x20000)
  | .bolState =>
    BitVec.ofNat 18 (b2n b.owner.isSome * 0x20000 + b2n b.orphan * 0x10000 + b2n (m.bolHalted i) * 0x8000 +
      m.waitPri i * 0x1000 + fld own 19 12)
  | .bolOwner => BitVec.ofNat 18 (fld own 11 0)
  | .bolWaitcnt => BitVec.ofNat 18 b.waiters.length
  | _ => 0

/-- BOL_CFG written (R130). -/
def Mach.bolCfgWrite (m : Mach) (v : Cell) : Mach := m.updBol (fld (m.r .bolSel) 11 0) fun b => { b with fbonly := bit v 17 }

/-- BOL_FORCE.REL written (R126): a held bollard is released as orphaned. -/
def Mach.bolForceWrite (m : Mach) : Mach :=
  let i := fld (m.r .bolSel) 11 0
  match (m.bol i).owner with
  | none => m
  | some r => ((m.passOn i true).count 0x7600 2).disinherit (refTid r)

end Sys2Proof.Machine
end

