-- ==== Sys2Proof/Machine/CoreRegs.lean ====
section
/-!
DEFINITION. The registers of a core: CR_ (R226 to R243), the Tally counters (R294), the windlass windows (R312, R313).
-/
namespace Sys2Proof.Machine

/-! ## CR_ registers -/

/-- The lock and core of a core number; lock 31 for a tollkeeper. -/
def coreTid (k i : Nat) : Tid := if 272 ≤ k then mkTid 31 (k - 272) i else mkTid (k / 16) (k % 16) i

/-- CR_CTL written: PREDEN and CNTRUN stored, ICINV, CNTCLR and PFLUSH performed (R228, R233, R243). -/
def Mach.crCtlWrite (m : Mach) (k : Nat) (v : Cell) : Mach :=
  let m := m.wu .crCtl k (v &&& 0x24000)
  let m := if bit v 16 then m.icDrop k fun _ => true else m
  let m := if bit v 15 then
      (List.range 10).foldl (fun m n => { m with counts := mset 0 m.counts (coreCntKey k n) 0 }) m
    else m
  (List.range 8).foldl (fun m i => if bit v i then m.flushPred (coreTid k i) else m) m

/-- CR_STAT as read: FBCTX and LAST follow the core. -/
def Mach.crStatRead (m : Mach) (k : Nat) : Cell :=
  setFld (setBit (m.ru .crStat k) 15 (m.core k).reserved.isSome) 2 0 (m.core k).last.toNat

/-- CR_STAT.ICPAR cleared, with the edge of lock source 36 (R246). -/
def Mach.crStatWrite (m : Mach) (k : Nat) (v : Cell) : Mach :=
  if bit v 16 then m.withLines [(k / 16, 36)] fun m => m.wubit .crStat k 16 false else m

/-- Three bits for each of a core's threads, six in the first cell and two in the second. -/
def Mach.perThread (_ : Mach) (k i : Nat) (f : Tid → Nat) : Cell :=
  if i = 0 then BitVec.ofNat 18 ((List.range 6).map fun n => f (coreTid k n) % 8 * 2 ^ (3 * n)).sum
  else BitVec.ofNat 18 (f (coreTid k 6) % 8 + f (coreTid k 7) % 8 * 8)

/-- CR_EPRI. -/
def Mach.epriRead (m : Mach) (k i : Nat) : Cell := m.perThread k i m.eff
/-- CR_SBOCC. -/
def Mach.sboccRead (m : Mach) (k i : Nat) : Cell := m.perThread k i fun t => (m.thr t).sb.length
/-- CR_TLSTAT: threads with a Tally operation outstanding. -/
def Mach.tlstatRead (m : Mach) (k : Nat) : Cell :=
  BitVec.ofNat 18 ((List.range 8).map fun n => b2n (!(m.thr (coreTid k n)).tally.queue.isEmpty) * 2 ^ n).sum

/-- The low half of a 36-bit counter read: bits 35:18 are copied into the high register, quiet reads aside (R243,
R294). -/
def Mach.cntRead (m : Mach) (k n : Nat) (r : Reg) (i : Nat) (quiet : Bool) : Mach × Cell :=
  let v := m.cntKey (coreCntKey k n)
  (if quiet then m else m.wu r k (Dbl.hi v) (i + 1), Dbl.lo v)

/-! ## Windlass windows -/

/-- Whether the store and decode-table windows of a core accept a write of a master (R312). -/
def Mach.wlOpen (m : Mach) (k : Nat) (who : Master) : Bool :=
  if 272 ≤ k then k - 272 != m.activeTk && m.isActiveTk who
  else
    let l := m.lock (k / 16)
    (l.parked || !l.everAdmitted) && (match who with
      | .thread _ => m.isActiveTk who
      | _ => true)

/-- A microword (R295); an unlisted one is zero. -/
def Core.micro1 (c : Core) (a : Nat) : Cell := mget 0 c.micro a
/-- A nano-word. -/
def Core.nano1 (c : Core) (i : Nat) : BitVec 144 := mget 0 c.nano i

/-- The address after a stored word (R313: WL_CTL.AINC, wrapping within the store). -/
def Mach.wlNext (m : Mach) (k : Nat) (r : Reg) (n : Nat) : Mach :=
  if bit (m.ru .wlCtl k) 16 then m.wu r k (BitVec.ofNat 18 (((m.ru r k).toNat + 1) % n)) else m

/-- A window write in one core (R313). -/
def Mach.wlWrite1 (m : Mach) (r : Reg) (i : Nat) (v : Cell) (k : Nat) : Mach :=
  match r with
  | .wlMaddr => m.wu .wlMaddr k (v &&& 0x7FF)
  | .wlNaddr => m.wu .wlNaddr k (v &&& 0x1FF)
  | .wlMdata =>
    let a := (m.ru .wlMaddr k).toNat
    (m.updCore k fun c => { c with micro := mset 0 c.micro a v }).wlNext k .wlMaddr 2048
  | .wlNdata =>
    if i < 7 then m.updCore k fun c => { c with stage := c.stage.set i v }
    else
      let a := (m.ru .wlNaddr k).toNat
      let w := ((m.core k).stage.zipIdx.map fun e => e.1.toNat * 2 ^ (18 * e.2)).sum + v.toNat * 2 ^ 126
      (m.updCore k fun c => { c with nano := mset 0 c.nano a (BitVec.ofNat 144 w) }).wlNext k .wlNaddr 512
  | .wlDt =>
    if i % 2 = 0 then m.wu .wlDt k ((v &&& 0x300FF) ||| 0x700) i
    else m.wu .wlDt k (BitVec.ofNat 18 (min 4 (fld v 5 3) * 8 + min 4 (fld v 2 0))) i
  | _ => m.wu .wlVer k v

/-- The cores that a window write reaches (R313: WL_CTL.BCAST). -/
def Mach.wlCores (m : Mach) (r : Reg) (k : Nat) : List Nat :=
  if k < 272 ∧ bit (m.ru .wlCtl k) 17 ∧ r ≠ .wlVer then (List.range 16).map fun x => k / 16 * 16 + x else [k]

/-- A write of a store window, of the decode table or of WL_VER (R312, R313). -/
def Mach.wlWrite (m : Mach) (k : Nat) (r : Reg) (i : Nat) (v : Cell) (who : Master) : Mach :=
  if m.wlOpen k who then (m.wlCores r k).foldl (fun m k => m.wlWrite1 r i v k) m
  else m.wubit .wlStat k 15 true

/-- A windlass register read. -/
def Mach.wlRead (m : Mach) (k : Nat) (r : Reg) (i : Nat) : Cell :=
  let c := m.core k
  match r with
  | .wlMdata => c.micro1 (m.ru .wlMaddr k).toNat
  | .wlNdata => BitVec.ofNat 18 ((c.nano1 (m.ru .wlNaddr k).toNat).toNat / 2 ^ (18 * i))
  | .wlStat =>
    let st := setBit (m.ru .wlStat k) 14 c.main.isSome
    setFld st 13 11 (match c.main with
      | some x => Tid.num x.tid
      | none => 0)
  | .wlDt => if i % 2 = 0 then m.ru .wlDt k i ||| 0x700 else m.ru .wlDt k i
  | _ => m.ru r k i

/-- IC_INVALIDATION_DONE: ICBUSY falls (R228). -/
def execIcInvalidationDone (k : CoreRef) (s : State) : Host.Outcome State Fault Refusal :=
  done s (if k.val < 272 then s.m.wubit .crStat k.val 17 false else s.m)

end Sys2Proof.Machine
end

