-- ==== Sys2Proof/Machine/MemEngine.lean ====
section
/-!
DEFINITION. The memory engines of a physical lock: the patrol scrubber (R320), bank hand-over and mirroring (R321, R322),
the march engine (R324 to R326); the lock code cache's control (R327) and the patch units (R328, R329).
-/
namespace Sys2Proof.Machine

/-! ## Banks -/

/-- The memory key of word (row, 0) of a bank; bank 16 is the spare. -/
def bankKey (p b row : Nat) : Nat := if b = 16 then spareKey p (row * 8) else basinKey p (row * 128 + b * 8)
/-- Whether a memory key lies in a bank of a lock. -/
def inBank (p b k : Nat) : Bool :=
  if b = 16 then decide (spareKey p 0 ≤ k) && decide (k < spareKey p 0 + 0x20000)
  else decide (basinKey p 0 ≤ k) && decide (k < basinKey p 0 + 0x200000) && (k - basinKey p 0) / 8 % 16 == b
/-- The row and nonet of a key in its bank. -/
def rowOf (p b k : Nat) : Nat := if b = 16 then (k - spareKey p 0) / 8 else (k - basinKey p 0) / 128

/-- RETIRED of a bank. -/
def Mach.retired (m : Mach) (p b : Nat) : Bool := bit (m.ru .plBank p b) 14
/-- Parked or not admitted (R322, R324). -/
def Mach.quietLock (m : Mach) (p : Nat) : Bool := !(m.lock p).admitted
/-- OWNER of a bank set. -/
def Mach.setOwner (m : Mach) (p b o : Nat) : Mach := m.wu .plBank p (setFld (m.ru .plBank p b) 17 16 o) b
/-- SERVES set. -/
def Mach.setServes (m : Mach) (p b : Nat) : Mach := m.wu .plSpare p (setFld (m.ru .plSpare p) 4 0 b)

/-- The bank that the spare serves: a retired one, else the lowest-numbered one that another owner has (R322, R325). -/
def Mach.reServe (m : Mach) (p : Nat) : Mach :=
  let bs := List.range 16
  let b := (bs.find? fun b => m.retired p b).getD ((bs.find? fun b => m.owner p b ≠ 0).getD 0x1F)
  m.setServes p b

/-- The reservations on a bank's granules broken (R178). -/
def Mach.breakBank (m : Mach) (p b : Nat) : Mach :=
  (m.threads.map Prod.fst).foldl (fun m k =>
    m.updThr (BitVec.ofNat 12 k) fun x =>
      match x.resv with
      | some g => if g / 0x40000 = p ∧ g % 16 = b then { x with resv := none } else x
      | none => x) m

/-- A bank's nonets and check bits all zero (R324). -/
def Mach.zeroWhere (m : Mach) (f : Nat → Bool) : Mach :=
  { m with mem := m.mem.filter fun e => !f e.1, ecc := m.ecc.filter fun e => !f (8 * e.1) }

/-- The record that reading a word of a bank leaves, whoever owns the bank (R320). -/
def Mach.scrubWord (m : Mach) (p b row : Nat) : Mach :=
  let w := bankKey p b row / 8
  let e := m.eccOf w
  if e = 0 then m
  else if e = 2 then
    ((m.wu .plEcc p (setFld (setBit (m.ru .plEcc p) 17 true) 4 0 b)).wu .plEccrow p (BitVec.ofNat 18 row)).count (0x7A00 + p) 2
  else ((m.setEcc w 0).wubit .plEcc p 16 true).count (0x7A00 + p) 1

/-- The rows of one bank copied to another (R322): a correctable word is corrected, an uncorrectable one is written
poisoned and counted, as read and as copied (R320). -/
def Mach.copyBank (m : Mach) (p src dst : Nat) : Mach :=
  let m := m.zeroWhere (inBank p dst)
  let m := (m.mem.filter fun e => inBank p src e.1).foldl (fun m e =>
    m.put1 (bankKey p dst (rowOf p src e.1) + e.1 % 8) e.2) m
  (m.ecc.filter fun e => inBank p src (8 * e.1)).foldl (fun m e =>
    let row := rowOf p src (8 * e.1)
    let m := m.scrubWord p src row
    if e.2 = 2 then (m.setEcc (bankKey p dst row / 8) 2).count (0x7A00 + p) 3 else m) m

/-! ## Hand-over (R322) -/

/-- Whether an evacuation pairs a lock: hand-over and march are refused in it (R466). -/
def Mach.evacOn (m : Mach) (p : Nat) : Bool :=
  match m.evac with
  | some e => e.victim.val == p || e.spare.val == p
  | none => false

/-- Whether a mirror-out of a bank would be accepted. -/
def Mach.mirrorOk (m : Mach) (p b : Nat) : Bool :=
  let k := m.lock p
  decide (b < 16) && !m.retired p b && m.owner p b == 0 && m.serves p == 0x1F && k.copy.isNone && k.march.isNone && !k.spareRetired

/-- A mirror phase begins. -/
def Mach.startCopy (m : Mach) (p b : Nat) (c : HandOver) : Mach :=
  (m.updLock p fun k => { k with copy := some c }).wubit .plBank p 13 true b

/-- A write of PL_BANKb (R322). -/
def Mach.bankWrite (m : Mach) (p b : Nat) (v : Cell) : Mach :=
  let new := fld v 17 16
  let old := m.owner p b
  let copy := bit v 15
  let busy := (m.lock p).copy.isSome || (m.lock p).march.isSome
  let refuse := m.wubit .plSpare p 17 true
  if new = old then m
  else if m.evacOn p then refuse
  else if old = 0 then
    if copy then (if m.mirrorOk p b then m.startCopy p b ⟨b, BitVec.ofNat 2 new, true, false⟩ else refuse)
    else if m.quietLock p && !busy && !(m.lock p).spareRetired then ((m.setOwner p b new).reServe p).breakBank p b
    else refuse
  else if new ≠ 0 then refuse
  else if copy then
    if m.serves p = b ∧ !busy ∧ !m.retired p b then m.startCopy p b ⟨b, 0, false, false⟩ else refuse
  else if m.quietLock p && !busy then ((m.setOwner p b 0).reServe p).breakBank p b
  else refuse

/-- BANK_HANDOVER_COPY and BANK_HANDOVER_NOW write PL_BANKb; their value. -/
def bankValue (owner : BitVec 2) (copy : Bool) : Cell := BitVec.ofNat 18 (owner.toNat * 0x10000 + b2n copy * 0x8000)

/-! ## The march engine (R324, R325) -/

/-- PHASE and BUSY of PL_MSTAT. -/
def Mach.setPhase (m : Mach) (p ph : Nat) : Mach :=
  m.wu .plMstat p (setBit (setFld (m.ru .plMstat p) 13 11 ph) 17 (ph ≠ 0))
/-- A run ends: DONE, PHASE 0. -/
def Mach.marchEnd (m : Mach) (p : Nat) : Mach :=
  ((m.updLock p fun k => { k with march := none }).setPhase p 0).wubit .plMstat p 16 true

/-- MIRROR_COPY_DONE (R322): the copy's last row, and the change of place and owner in the same decision. -/
def Mach.mirrorDone (m : Mach) (p : Nat) : Mach :=
  match (m.lock p).copy with
  | none => m
  | some c =>
    let b := c.bank
    let m := if c.out then m.copyBank p b 16 else m.copyBank p 16 b
    let m := ((m.updLock p fun k => { k with copy := none }).wubit .plBank p 13 false b).breakBank p b
    let m := m.setOwner p b c.owner.toNat
    let m := if c.out then m.setServes p b else m.reServe p
    if !c.march then m else if c.out then m.setPhase p 2 else m.marchEnd p

/-- MIRROR_COPY_DONE. -/
def execMirrorCopyDone (p : PLock) (s : State) : Host.Outcome State Fault Refusal := done s (s.m.mirrorDone p.val)

/-- The reservations on every bank of a lock broken, as a whole test does (R177). -/
def Mach.breakBanks (m : Mach) (p : Nat) : Mach := (List.range 16).foldl (fun m b => m.breakBank p b) m

/-- A write of PL_MARCH (R324). -/
def Mach.marchWrite (m : Mach) (p : Nat) (v : Cell) : Mach :=
  let mode := fld v 16 15
  let b := fld v 4 0
  let m := m.wu .plMarch p (v &&& 0x1F81F)
  let k := m.lock p
  let idle := k.copy.isNone && k.march.isNone && decide (b ≤ 16) && !(decide (b < 16) && m.retired p b) &&
    !(b == 16 && k.spareRetired)
  let start := fun (m : Mach) (ph : Nat) =>
    (((m.updLock p fun k => { k with march := some (mode, b) }).wu .plMstat p
      (setFld (m.ru .plMstat p) 4 0 0x1F)).setPhase p ph).count (0x7A00 + p) 4
  if !bit v 17 then m
  else if m.evacOn p then m.wubit .plMstat p 14 true
  else if mode = 0 ∧ m.mirrorOk p b then (start m 1).startCopy p b ⟨b, 2, true, true⟩
  else if mode = 1 ∧ idle ∧ m.serves p = 0x1F ∧ (b = 16 ∨ m.quietLock p) then
    (((start m 2).setOwner p b 2).reServe p).breakBank p b
  else if mode = 2 ∧ k.copy.isNone ∧ k.march.isNone ∧ m.quietLock p then (start m 4).breakBanks p
  else m.wubit .plMstat p 14 true

/-- A failure recorded (R325). -/
def Mach.marchFail (m : Mach) (p : Nat) (f : MarchFail) : Mach :=
  let m := (m.wu .plMfail p (f.row.setWidth 18) 0).wu .plMfail p (BitVec.ofNat 18 (b2n f.stow * 0x20000 + f.core.toNat)) 1
  let st := setBit (m.ru .plMstat p) 15 true
  (m.wu .plMstat p (setFld st 4 0 (if f.stow then 0x1F else f.bank.toNat))).count (0x7A00 + p) 5

/-- A failed bank retired onto a working spare, or the spare retired; a second failure makes the lock unfit (R325). -/
def Mach.retireBank (m : Mach) (p b : Nat) : Mach :=
  let unfit := fun (m : Mach) => m.updLock p fun k => { k with stowageFailed := true }
  let some := (List.range 16).any fun c => m.retired p c
  if b = 16 then
    let m := m.updLock p fun k => { k with spareRetired := true }
    if some then unfit m else m
  else if m.retired p b then m
  else if some || (m.lock p).spareRetired then unfit m
  else (m.wubit .plBank p 14 true b).reServe p

/-- The arrays of a lock that a whole test leaves at zero. -/
def inLock (p k : Nat) : Bool :=
  (List.range 17).any (fun b => inBank p b k) || (decide (stowKey (16 * p) 0 ≤ k) && decide (k < stowKey (16 * p + 16) 0))

/-- A test of one bank fails: the bank, owned by the pool again, is retired and the spare goes on serving it (R324 step 6,
R325). -/
def Mach.bankFails (m : Mach) (p b : Nat) (f : MarchFail) : Mach :=
  (((m.marchFail p { f with stow := false, bank := BitVec.ofNat 5 b }).setOwner p b 0).retireBank p b).reServe p

/-- What a whole test found: the first failure is recorded, and the failed banks are retired, the spare first (R325). -/
def Mach.wholeFails (m : Mach) (p : Nat) (fails : List MarchFail) : Mach :=
  match fails with
  | [] => m
  | f :: _ =>
    let banks := (fails.filter fun e => !e.stow).map fun e => e.bank.toNat
    let m := m.marchFail p f
    let m := if fails.any MarchFail.stow then m.updLock p fun k => { k with stowageFailed := true } else m
    let m := if banks.contains 16 then m.retireBank p 16 else m
    (banks.filter (· < 16)).foldl (fun m b => m.retireBank p b) m

/-- A test ends (R324, R325): `fails` are the arrays that failed, each with its first failing word. -/
def Mach.marchTest (m : Mach) (p : Nat) (fails : List MarchFail) : Mach :=
  match (m.lock p).march, fld (m.ru .plMstat p) 13 11 with
  | some (0, b), 2 =>
    match fails with
    | [] => (m.setPhase p 3).startCopy p b ⟨b, 0, false, true⟩
    | f :: _ => ((m.bankFails p b f).marchEnd p).breakBank p b
  | some (1, b), 2 =>
    match fails with
    | [] => ((((m.zeroWhere (inBank p b)).setOwner p b 0).reServe p).marchEnd p).breakBank p b
    | f :: _ => ((m.bankFails p b f).marchEnd p).breakBank p b
  | some (2, _), 4 => (((m.zeroWhere (inLock p)).wholeFails p fails).marchEnd p).breakBanks p
  | _, _ => m

/-! ## The patrol scrubber (R320) -/

/-- SCRUB_STEP (R320): one row of every bank. -/
def execScrubStep (p : PLock) (s : State) : Host.Outcome State Fault Refusal :=
  let p := p.val
  done s (if !s.m.isOn (7 + p) ∨ !bit (s.m.ru .plScrub p) 17 then s.m
    else
      let row := (s.m.lock p).scrubRow.toNat
      let m := (List.range 17).foldl (fun m b => m.scrubWord p b row) s.m
      m.updLock p fun k => { k with scrubRow := k.scrubRow + 1 })

/-! ## The lock code cache (R327) -/

/-- LK_LCCCTL written. -/
def Mach.lccctlWrite (m : Mach) (p : Nat) (v : Cell) : Mach :=
  let m := m.wu .lkLccctl p (BitVec.ofNat 18 (min 4 (fld v 2 0)))
  if bit v 17 then m.lccDrop p fun _ => true else m

/-- LCC_INVALIDATION_DONE: BUSY falls. -/
def execLccInvalidationDone (p : PLock) (s : State) : Host.Outcome State Fault Refusal :=
  done s (s.m.wubit .lkLccstat p.val 17 false)

/-! ## Patch units (R328, R329) -/

/-- The lines that a unit's cell covers, dropped from every code cache; BUSY until the invalidation ends. -/
def Mach.patchDrop (m : Mach) (v : Cell) : Mach :=
  if !bit v 17 then m
  else (m.dropCode (if bit v 16 then 0 else 1) fun l => l == fld v 15 0).wbit .dbgPstat 17 true

/-- DBG_PATCHu written. -/
def Mach.patchWrite (m : Mach) (u : Nat) (v : Cell) : Mach :=
  let old := m.r .dbgPatch u
  let m := m.w .dbgPatch v u
  if v = old then m else (m.patchDrop old).patchDrop v

/-- DBG_PRAMi written: refused where its unit is armed. -/
def Mach.pramWrite (m : Mach) (i : Nat) (v : Cell) : Mach :=
  if bit (m.r .dbgPatch (i / 32)) 17 then m.wbit .dbgPstat 16 true else m.w .dbgPram (v &&& 0x1FF) i

/-- DBG_PSTAT as read: ARMED counts the armed units. -/
def Mach.pstatRead (m : Mach) : Cell :=
  setFld (m.r .dbgPstat) 6 0 ((List.range 64).filter fun u => bit (m.r .dbgPatch u) 17).length

/-- PATCH_INVAL_DONE: BUSY falls. -/
def execPatchInvalDone (s : State) : Host.Outcome State Fault Refusal := done s (s.m.wbit .dbgPstat 17 false)

end Sys2Proof.Machine
end

