-- ==== Sys2Proof/Machine/Keep.lean ====
section
/-!
DEFINITION. The initiator port's requests (R357 to R360) and the keep controller (R331, R334 to R338, R469).
-/
namespace Sys2Proof.Machine

/-! ## Initiator requests -/

/-- Whether the initiator port issues requests: not quiesced (R360). -/
def Mach.hostQuiet (m : Mach) : Bool := bit (m.r .blkHpctl) 17

/-- The first tag from a number up, of 64, that no outstanding request carries. -/
def Mach.freeTag (m : Mach) : Option (BitVec 8) :=
  ((List.range 64).map fun i => BitVec.ofNat 8 ((m.host.nextTag.toNat + i) % 64)).find? fun g =>
    !(m.host.reqs.any fun r => r.tag == g)

/-- What became of a request: sent, refused by a quiesced port, or waiting for one of 64 tags. -/
inductive Sent where
  | sent | quiet | full
  deriving DecidableEq, Repr

/-- A READ of one beat issued, whose answer is awaited (R351, R357, R360). -/
def Mach.initiate (m : Mach) (addr : BitVec 48) (for_ : InitFor) : Mach × Sent :=
  if m.hostQuiet then (m, .quiet)
  else
    match m.freeTag with
    | none => (m, .full)
    | some g =>
      ({ m with host := { m.host with reqs := m.host.reqs ++ [⟨g, addr, for_, m.now⟩], nextTag := (g + 1).setWidth 6 } }, .sent)

/-- The host octet address of a data address in the host window (R358). -/
def Mach.hostAddr (m : Mach) (a : Nat) : BitVec 48 := BitVec.ofNat 48 (m.host.base.toNat * 0x4000000 + (a - 0xC000000))

/-- The nonets of a host access of n octets at an address, from the eight octets of its beat. -/
def beatNonets (a n : Nat) (d : BitVec 72) : List Nonet :=
  (List.range n).map fun j => BitVec.ofNat 9 (fld d (8 * ((a + j) % 8) + 7) (8 * ((a + j) % 8)))

/-- Odd parity of a beat's eight lanes (R342). -/
def lanePar (d : BitVec 72) : BitVec 8 :=
  BitVec.ofNat 8 ((List.range 8).map fun k => b2n ((List.range 9).foldl (fun b i => xor b (bit d (9 * k + i))) true) * 2 ^ k).sum

/-- A header and data as beats: LAST on the final one (R351). -/
def beatsOf (head : BitVec 72) (data : List (BitVec 72)) : List HostBeat :=
  ((head :: data).zipIdx).map fun e => ⟨e.1, lanePar e.1, e.2 == data.length⟩

/-- A request as HI_REQ carries it (R341, R351). -/
def HostOut.beats (r : HostOut) : List HostBeat := beatsOf (r.op ++ r.space ++ 0#2 ++ r.tag ++ r.len ++ r.addr) r.data
/-- An outstanding READ as HI_REQ carries it: the octet view has its beat at a multiple of 8 (R352). -/
def InitReq.out (q : InitReq) : HostOut := ⟨0, 1, q.tag, 0, q.addr &&& ~~~7#48, []⟩

/-- One request sent, with the next tag that no outstanding one carries. -/
def Mach.send (m : Mach) (op space n a : Nat) (ds : List (BitVec 72)) : Mach :=
  let g := m.freeTag.getD (m.host.nextTag.setWidth 8)
  { m with host := { m.host with
      sent := m.host.sent ++ [⟨BitVec.ofNat 4 op, BitVec.ofNat 2 space, g, BitVec.ofNat 8 (n - 1), BitVec.ofNat 48 a, ds⟩],
      nextTag := (g + 1).setWidth 6 } }

/-- An access of n beats, `step` octets of host memory apart, in requests of at most 256 beats (R351). -/
def Mach.sendAll (m : Mach) (op space step n a : Nat) (ds : List (BitVec 72)) : Mach :=
  (List.range ((n + 255) / 256)).foldl (fun m i =>
    m.send op space (min 256 (n - 256 * i)) (a + 256 * i * step) ((ds.drop (256 * i)).take 256)) m

/-- Octet-view beats: the octets that are there, and their enables (R352). -/
def octetBeats : Nat → List (Option (BitVec 8)) → List (BitVec 72)
  | 0, _ => []
  | n + 1, l =>
    BitVec.ofNat 72 (((l.take 8).zipIdx.map fun e => match e.1 with
      | some v => v.toNat * 2 ^ (8 * e.2) + 2 ^ (64 + e.2)
      | none => 0).sum) :: octetBeats n (l.drop 8)

/-- Nonet-view beats (R352). -/
def nonetBeats : Nat → List Nonet → List (BitVec 72)
  | 0, _ => []
  | n + 1, l => BitVec.ofNat 72 (pack (l.take 8)) :: nonetBeats n (l.drop 8)

/-- The beats that n octets from an address take. -/
def beatCount (a n : Nat) : Nat := (a % 8 + n + 7) / 8

/-- Octets written to host memory: posted by a thread (op 2), answered for a ring (op 1). -/
def Mach.hostWrite (m : Mach) (op : Nat) (a : BitVec 48) (os : List (BitVec 8)) : Mach :=
  let k := a.toNat % 8
  let n := beatCount k os.length
  m.sendAll op 1 8 n (a.toNat - k) (octetBeats n (List.replicate k none ++ os.map some))

/-- Nonets written to a buffer: one octet each, or in the nonet view, 16 octets to a word of eight (R357). -/
def Mach.hostBuffer (m : Mach) (view : Bool) (a : BitVec 48) (ns : List Nonet) : Mach :=
  let n := (ns.length + 7) / 8
  if view then m.sendAll 1 2 16 n a.toNat (nonetBeats n ns) else m.hostWrite 1 a (ns.map octet)

/-- n octets or nonets of host memory read by a ring. -/
def Mach.hostFetch (m : Mach) (view : Bool) (a : BitVec 48) (n : Nat) : Mach :=
  if view then m.sendAll 0 2 16 ((n + 7) / 8) a.toNat []
  else m.sendAll 0 1 8 (beatCount a.toNat n) (a.toNat / 8 * 8) []

/-! ## Regions (R331, R336, R337) -/

/-- First page, page after the last, and bit of KEEP_WP of a region; bit 16 marks the life-cycle record. -/
def keepRegions : List (Nat × Nat × Nat) :=
  [(0x000, 0x100, 0), (0x100, 0x200, 1), (0x200, 0x300, 2), (0x300, 0x400, 3), (0x400, 0x404, 4), (0x404, 0x408, 5),
   (0x408, 0x40A, 6), (0x40A, 0x40C, 16), (0x410, 0x490, 7), (0x490, 0x690, 8), (0x690, 0x7C0, 9)]

/-- The region's KEEP_WP bit of a range of words, if it lies in one region. -/
def keepRegion (dst n : Nat) : Option Nat :=
  (keepRegions.find? fun r => decide (r.1 * 0x1000 ≤ dst) && decide (dst + 8 * n ≤ r.2.1 * 0x1000)).map fun r => r.2.2

/-- Whether a region's WP bit names the active slot of an image (R337, KEEP_ACT). -/
def Mach.activeRegion (m : Mach) (wp : Nat) : Bool := decide (wp < 6) && (m.actSlot (wp / 2) == wp % 2 || (wp / 2 == 1 && m.ppOld))

/-- The code that refuses a command on a range, or none (R337). -/
def Mach.keepRefusal (m : Mach) (dst n : Nat) : Option Nat :=
  if dst % 8 ≠ 0 then some 9
  else
    match keepRegion dst n with
    | none => some 9
    | some wp =>
      if wp = 16 ∨ m.activeRegion wp ∨ bit (m.r .keepWp) wp then some 10 else none

/-! ## Words -/

/-- A word of the store written by a command: counted (OD 0x7900.03). -/
def Mach.keepPut (m : Mach) (off : Nat) (w : List Nonet) : Mach :=
  let lp := off / 0x1000
  let k := keepKey (m.physPage lp) (off % 0x1000)
  let m := (w.zipIdx).foldl (fun m e => m.put1 (k + e.2) e.1) m
  (m.setEcc (k / 8) 0).count 0x7900 3

/-- KEEP_WDATA as a word. -/
def Mach.keepData (m : Mach) : List Nonet := (List.range 4).flatMap fun i => unpack (m.r .keepWdata i).toNat 2
/-- KEEP_DST. -/
def Mach.keepDst (m : Mach) : Nat := (m.r .keepDst 0).toNat + fld (m.r .keepDst 1) 4 0 * 0x40000
/-- KEEP_SRC. -/
def Mach.keepSrc (m : Mach) : Nat := (m.r .keepSrc 0).toNat + fld (m.r .keepSrc 1) 9 0 * 0x40000

/-- Whether a source range lies in stowage or a basin that is present (R336). -/
def Mach.keepSrcOk (m : Mach) (a n : Nat) : Bool :=
  (List.range n).all fun i =>
    match m.place none (a + i) with
    | .stow k off => !m.placeOff (.stow k off)
    | .basin p off => !m.placeOff (.basin p off)
    | _ => false

/-- The offset recorded in KEEP_ERRADR. -/
def Mach.setErradr (m : Mach) (off : Nat) : Mach :=
  (m.w .keepErradr (BitVec.ofNat 18 off) 0).w .keepErradr (BitVec.ofNat 18 (off / 0x40000)) 1

/-- One word copied, or compared with the word read at DST (R334), or a code that ends the command. -/
def Mach.keepWord (m : Mach) (op : Nat) (w : List Nonet) (dst : Nat) : Mach × Option Nat :=
  let n := m.noteKeep dst 1
  if op = 2 then (m.keepPut dst w, none)
  else if m.keepBad dst 1 then (n, some 12)
  else if m.keepN dst 8 = w then (n, none)
  else (n.setErradr dst, some 1)

/-- Words from stowage or a basin copied or compared, one after the other (R336). -/
def Mach.keepWords (m : Mach) (op src dst : Nat) : Nat → Mach × Nat
  | 0 => (m, 0)
  | n + 1 =>
    if m.badN none src 8 then (m.noteN none src 8, 12)
    else
      let w := m.rdN none src 8
      match (m.noteN none src 8).keepWord op w dst with
      | (m, some c) => (m, c)
      | (m, none) => m.keepWords op (src + 8) (dst + 8) n

/-! ## Retirement (R335) -/

/-- The lowest free spare. -/
def Mach.freeSpare (m : Mach) : Option Nat := (List.range 64).find? fun k => !bit (m.r .keepRemap k) 17

/-- A word written into a directory copy, with the copy's GEN and CHK (R335, R405, R406). -/
def Mach.dirPut (m : Mach) (copy word : Nat) (gen : Cell) (ns : List Nonet) : Mach :=
  let m := m.keepPut (dirBase copy + 8 * word) ns
  let chk : Cell := (nonetCrc (m.keepN (dirBase copy + 8) 4088)).setWidth 18
  m.keepPut (dirBase copy) ([0x44, 0x49] ++ unpack 1 2 ++ unpack gen.toNat 2 ++ unpack chk.toNat 2)

/-- A word of the directory changed in both copies, the one not chosen first, which becomes as the chosen one (R406). -/
def Mach.dirWrite (m : Mach) (word : Nat) (ns : List Nonet) : Mach :=
  match m.dirCopy with
  | none => m
  | some c =>
    let gen := m.dirCell c 0 2 + 1
    let m := (List.range 511).foldl (fun m w =>
      m.keepPut (dirBase (1 - c) + 8 * (w + 1)) (m.keepN (dirBase c + 8 * (w + 1)) 8)) m
    (m.dirPut (1 - c) word gen ns).dirPut c word gen ns

/-- The words of a page read one after the other, up to one that is uncorrectable: the records they leave, and whether there
is one (R334). -/
def Mach.readPage (m : Mach) (off : Nat) : Nat → Mach × Bool
  | 0 => (m, false)
  | n + 1 => if m.keepBad off 1 then (m.noteKeep off 1, true) else (m.noteKeep off 1).readPage (off + 8) n

/-- The page moved to the lowest free spare, or the code where none is free or a word of it is uncorrectable. A spare that
fails in its turn keeps an entry that names itself (DESIGN CHOICE entry 61). -/
def Mach.retirePage (m : Mach) (lp : Nat) : Mach × Nat :=
  match m.freeSpare, m.readPage (0x1000 * lp) 512 with
  | none, _ => (m.wbit .keepErr 14 true, 13)
  | some _, (m, true) => (m, 12)
  | some k, (m, false) =>
    let old := m.physPage lp
    let new := 0x7C0 + k
    let src := m.mem.filter fun e => keepKey old 0 ≤ e.1 ∧ e.1 < keepKey old 0 + 0x1000
    let m := m.zeroWhere fun a => decide (keepKey new 0 ≤ a) && decide (a < keepKey new 0 + 0x1000)
    let m := src.foldl (fun m e => m.put1 (keepKey new (e.1 - keepKey old 0)) e.2) m
    let v : Cell := BitVec.ofNat 18 (0x20000 + lp)
    let m := if 0x7C0 ≤ old then
        (m.dirWrite (128 + (old - 0x7C0)) (unpack (0x20000 + old) 8)).w .keepRemap (BitVec.ofNat 18 (0x20000 + old)) (old - 0x7C0)
      else m
    let m := m.dirWrite (128 + k) (unpack v.toNat 8)
    let m := m.w .keepRemap v k
    let e := m.r .keepErr
    ((m.w .keepErr (setFld (setBit e 15 true) 6 0 (fld e 6 0 - 1))).count 0x7900 4, 0)

/-! ## Commands (R336, R337) -/

/-- A command in progress. -/
def Mach.setKeep (m : Mach) (k : KeepCmd) : Mach := ({ m with keep := some k }).wbit .keepStat 17 true
/-- A command's code found; it completes with KEEP_CMD_DONE. -/
def Mach.keepCode (m : Mach) (k : KeepCmd) (c : Nat) : Mach := m.setKeep { k with code := some (BitVec.ofNat 4 c) }

/-- The next word of a command that reads the host window requested; the port's refusal ends it with MEMERR (R359). -/
def Mach.keepNext (m : Mach) (k : KeepCmd) : Mach :=
  if k.left = 0 then m.keepCode k 0
  else
    match m.initiate (m.hostAddr k.src) .keep with
    | (m, .quiet) => m.keepCode k 12
    | (m, _) => m.setKeep k

/-- A keep command goes on where it waits for one of the 64 tags (R357). -/
def Mach.keepRetry (m : Mach) : Mach :=
  match m.keep with
  | some k => if k.code.isNone ∧ k.left ≠ 0 ∧ !(m.host.reqs.any fun q => q.for_ == .keep) then m.keepNext k else m
  | none => m

/-- A word of host memory arrives for the keep command in progress (R336, R358). -/
def Mach.keepHost (m : Mach) (d : Option (BitVec 72)) : Mach :=
  match m.keep with
  | none => m
  | some k =>
    match d with
    | none => m.keepCode k 12
    | some d =>
      if m.d0.powerFail ∧ k.op ≠ 4 then m.setKeep { k with left := 0 }
      else
      match m.keepWord k.op.toNat (beatNonets (m.hostAddr k.src).toNat 8 d) k.dst with
      | (m, some c) => m.keepCode k c
      | (m, none) => m.keepNext { k with src := k.src + 8, dst := k.dst + 8, left := k.left - 1 }

/-- KEEP_CMD written while no command runs. After a power-fail trip the controller starts no word write, so that a command
that writes does not end (R469). -/
def Mach.keepStart (m : Mach) (op n : Nat) : Mach :=
  let dst := m.keepDst
  let src := m.keepSrc
  let k : KeepCmd := ⟨BitVec.ofNat 3 op, none, src, dst, n, dst, n⟩
  match m.keepRefusal dst n with
  | some c => m.keepCode k c
  | none =>
    if m.d0.powerFail ∧ op ≠ 4 then m.setKeep { k with left := 0 }
    else
      match op with
      | 1 => (m.keepPut dst m.keepData).keepCode k 0
      | 3 => ((List.range n).foldl (fun m i => m.keepPut (dst + 8 * i) m.keepData) m).keepCode k 0
      | 5 =>
        let r := m.retirePage (dst / 0x1000)
        r.1.keepCode k r.2
      | _ =>
        if 0xC000000 ≤ src ∧ src + 8 * n ≤ 0x10000000 then m.keepNext k
        else if !m.keepSrcOk src (8 * n) then m.keepCode k 9
        else
          let r := m.keepWords op src dst n
          r.1.keepCode k r.2

/-- BUSY of the keep controller. -/
def Mach.keepBusy (m : Mach) : Bool := bit (m.r .keepStat) 17

/-- KEEP_CMD written. OP 0 is none; 6 and 7 complete with BADARG (R77, R336). -/
def Mach.keepCommand (m : Mach) (v : Cell) : Mach :=
  let op := fld v 17 15
  if m.keepBusy then m.wbit .keepErr 13 true
  else if op = 0 then m
  else if 6 ≤ op then m.keepCode ⟨BitVec.ofNat 3 op, none, 0, 0, 0, 0, 0⟩ 9
  else m.keepStart op (fld v 11 0 + 1)

/-- KEEP_DST, KEEP_SRC or KEEP_WDATA written: refused while BUSY (R336). -/
def Mach.keepOperand (m : Mach) (r : Reg) (i : Nat) (v : Cell) : Mach :=
  if m.keepBusy then m.wbit .keepErr 13 true
  else
    m.w r (if r = .keepDst ∧ i = 1 then v &&& 0x1F else if r = .keepSrc ∧ i = 1 then v &&& 0x3FF else v) i

/-- KEEP_WP written: with WPLOCK a bit is not cleared (R337). -/
def Mach.keepWpWrite (m : Mach) (v : Cell) : Mach :=
  let v := v &&& 0x203FF
  m.w .keepWp (if bit (m.r .keepWp) 17 then m.r .keepWp ||| v else v)

/-- The pages of the words of a command that failed their read-back, each once. -/
def KeepCmd.badPages (k : KeepCmd) (bad : List (BitVec 12)) : List Nat :=
  (bad.filter fun i => decide (i.toNat < k.words)).foldl (fun l i =>
    let p := (k.first + 8 * i.toNat) / 0x1000
    if l.contains p then l else l ++ [p]) []

/-- Pages retired one after the other: the code of the first that cannot be. -/
def Mach.retirePages (m : Mach) (ps : List Nat) : Mach × Nat :=
  ps.foldl (fun (r : Mach × Nat) p =>
    let n := r.1.retirePage p
    (n.1, if r.2 = 0 then n.2 else r.2)) (m, 0)

/-- KEEP_CMD_DONE (R335, R336): the pages of the words that failed their read-back three times are retired first. -/
def execKeepCmdDone (bad : List (BitVec 12)) (s : State) : Host.Outcome State Fault Refusal :=
  let m := s.m
  done s (match m.keep with
    | none => m
    | some k =>
      match k.code with
      | none => m
      | some c =>
        let wrote := c == 0 && (k.op == 1 || k.op == 2 || k.op == 3)
        let r := if wrote then m.retirePages (k.badPages bad) else (m, c.toNat)
        let m := { r.1 with keep := none }
        m.w .keepStat (BitVec.ofNat 18 (0x10000 + r.2 * 0x1000)))

/-! ## Scrub (R334) -/

/-- One word of a physical page read by the scrubber. -/
def Mach.keepScrubWord (m : Mach) (w off : Nat) : Mach :=
  let e := m.eccOf w
  if e = 0 then m
  else if e = 2 then (((m.wbit .keepErr 17 true).setErradr off).count 0x7900 2).dumpCause 4 m.tkSource
  else ((m.setEcc w 0).wbit .keepErr 16 true).count 0x7900 1

/-- KEEP_SCRUB_STEP: the next line of four words; a pass is counted. -/
def execKeepScrubStep (s : State) : Host.Outcome State Fault Refusal :=
  let m := s.m
  done s (if !m.isOn 6 ∨ !bit (m.r .keepCtl) 17 then m
    else
      let l := m.keepScrub.toNat
      let m := (List.range 4).foldl (fun m i => m.keepScrubWord ((keepKey 0 0 + 32 * l) / 8 + i) (32 * l + 8 * i)) m
      let m := { m with keepScrub := m.keepScrub + 1 }
      if l = 2 ^ 18 - 1 then m.count 0x7900 5 else m)

/-- POWER_FAIL_TRIP (R469). -/
def execPowerFailTrip (s : State) : Host.Outcome State Fault Refusal :=
  done s { s.m with d0 := { s.m.d0 with powerFail := true } }

end Sys2Proof.Machine
end

