-- ==== Sys2Proof/Machine/Aes.lean ====
section
/-!
DEFINITION. AES, CMAC and GCM, the ciphers that the seal names (R93, R98): AES of FIPS 197, CMAC of RFC 4493, GCM of
NIST SP 800-38D. PRESUMED from those standards, entry 53.
-/
namespace Sys2Proof.Machine

/-- The AES S-box, octet i at bits 8i + 7:8i. -/
def aesTable : Nat :=
  0x16bb54b00f2d99416842e6bf0d89a18cdf2855cee9871e9b948ed9691198f8e19e1dc186b95735610ef6034866b53e708a8bbd4b1f74dde8c6b4a61c2e2578ba08ae7a65eaf4566ca94ed58d6d37c8e779e4959162acd3c25c2406490a3a32e0db0b5ede14b8ee4688902a22dc4f816073195d643d7ea7c41744975fec130ccdd2f3ff1021dab6bcf5389d928f40a351a89f3c507f02f94585334d43fbaaefd0cf584c4a39becb6a5bb1fc20ed00d153842fe329b3d63b52a05a6e1b1a2c830975b227ebe28012079a059618c323c7041531d871f1e5a534ccf73f362693fdb7c072a49cafa2d4adf04759fa7dc982ca76abd7fe2b670130c56f6bf27b777c63

/-- The S-box. -/
def aesSub (b : BitVec 8) : BitVec 8 := BitVec.ofNat 8 (aesTable >>> (8 * b.toNat))
/-- Multiplication by x. -/
def aesTimes (b : BitVec 8) : BitVec 8 := if bit b 7 then (b <<< 1) ^^^ 0x1B#8 else b <<< 1
/-- Two lists of octets added. -/
def xorOctets (a b : List (BitVec 8)) : List (BitVec 8) := List.zipWith (fun x y => x ^^^ y) a b

/-- The key schedule, latest word first: n further words after `ws`, the next of them being word i. -/
def aesWords (nk : Nat) : Nat → Nat → BitVec 8 → List (List (BitVec 8)) → List (List (BitVec 8))
  | 0, _, _, ws => ws
  | n + 1, i, rc, ws =>
    let last := ws.headD []
    let old := ws.getD (nk - 1) []
    if i % nk = 0 then
      let r := (last.drop 1 ++ last.take 1).map aesSub
      let r := xorOctets r [rc, 0, 0, 0]
      aesWords nk n (i + 1) (aesTimes rc) (xorOctets old r :: ws)
    else if nk = 8 ∧ i % 8 = 4 then aesWords nk n (i + 1) rc (xorOctets old (last.map aesSub) :: ws)
    else aesWords nk n (i + 1) rc (xorOctets old last :: ws)

/-- A list of octets cut in fours. -/
def fours : Nat → List (BitVec 8) → List (List (BitVec 8))
  | 0, _ => []
  | n + 1, l => l.take 4 :: fours n (l.drop 4)

/-- The round keys, first round first, of a key of 16 or 32 octets. -/
def aesKeys (key : List (BitVec 8)) : List (List (BitVec 8)) :=
  let nk := key.length / 4
  let ws := (aesWords nk (4 * (nk + 7) - nk) nk 1 (fours nk key).reverse).reverse
  (List.range (nk + 7)).map fun r => ((ws.drop (4 * r)).take 4).flatten

/-- ShiftRows on a state held column by column. -/
def shiftRows (s : List (BitVec 8)) : List (BitVec 8) :=
  (List.range 16).map fun i => s.getD ((i + 4 * (i % 4)) % 16) 0

/-- MixColumns of one column. -/
def mixColumn : List (BitVec 8) → List (BitVec 8)
  | [a, b, c, d] =>
    let m2 := aesTimes
    [m2 a ^^^ m2 b ^^^ b ^^^ c ^^^ d, a ^^^ m2 b ^^^ m2 c ^^^ c ^^^ d, a ^^^ b ^^^ m2 c ^^^ m2 d ^^^ d,
     m2 a ^^^ a ^^^ b ^^^ c ^^^ m2 d]
  | l => l

/-- The rounds after the first key addition. -/
def aesRounds : List (List (BitVec 8)) → List (BitVec 8) → List (BitVec 8)
  | [], s => s
  | [k], s => xorOctets (shiftRows (s.map aesSub)) k
  | k :: ks, s => aesRounds ks (xorOctets ((fours 4 (shiftRows (s.map aesSub))).flatMap mixColumn) k)

/-- One block enciphered under round keys. -/
def aesBlock (ks : List (List (BitVec 8))) (x : List (BitVec 8)) : List (BitVec 8) :=
  aesRounds (ks.drop 1) (xorOctets x (ks.headD []))

/-! ## CMAC (RFC 4493) -/

/-- A block doubled in GF(2^128). -/
def dbl128 (x : Nat) : Nat := if 2 ^ 127 ≤ x then (2 * x) % 2 ^ 128 ^^^ 0x87 else 2 * x

/-- The chain over whole blocks but the last, and the last block prepared. -/
def cmacChain (ks : List (List (BitVec 8))) (k1 k2 : List (BitVec 8)) :
    Nat → List (BitVec 8) → List (BitVec 8) → List (BitVec 8)
  | 0, x, _ => x
  | n + 1, x, os =>
    if os.length = 16 then aesBlock ks (xorOctets x (xorOctets os k1))
    else if os.length < 16 then
      aesBlock ks (xorOctets x (xorOctets (os ++ 0x80#8 :: List.replicate (15 - os.length) 0) k2))
    else cmacChain ks k1 k2 n (aesBlock ks (xorOctets x (os.take 16))) (os.drop 16)

/-- AES-CMAC under a 128-bit key. -/
def aesCmac (key : BitVec 128) (os : List (BitVec 8)) : List (BitVec 8) :=
  let ks := aesKeys (beOctets key.toNat 16)
  let k1 := dbl128 (beNat (aesBlock ks (List.replicate 16 0)))
  cmacChain ks (beOctets k1 16) (beOctets (dbl128 k1) 16) (os.length / 16 + 1) (List.replicate 16 0) os

/-! ## GCM (SP 800-38D) -/

/-- Multiplication in the field of GHASH: the remaining bits of x from the top, the accumulator and the shifted y. -/
def ghashMul (x : Nat) : Nat → Nat → Nat → Nat
  | 0, z, _ => z
  | n + 1, z, v =>
    let z := if x / 2 ^ n % 2 = 1 then z ^^^ v else z
    ghashMul x n z (if v % 2 = 1 then v / 2 ^^^ (0xE1 * 2 ^ 120) else v / 2)

/-- GHASH over octets, cut in blocks of 16, the last padded with zeros. -/
def ghash (h : Nat) : Nat → Nat → List (BitVec 8) → Nat
  | 0, y, _ => y
  | n + 1, y, os =>
    if os.isEmpty then y
    else
      let b := os.take 16
      ghash h n (ghashMul (y ^^^ (beNat b * 256 ^ (16 - b.length))) 128 0 h) (os.drop 16)

/-- Octets under the counter mode, from a counter value. -/
def gcmCtr (ks : List (List (BitVec 8))) (iv : BitVec 96) : Nat → Nat → List (BitVec 8) → List (BitVec 8)
  | 0, _, _ => []
  | n + 1, c, os =>
    if os.isEmpty then []
    else xorOctets (os.take 16) (aesBlock ks (beOctets (iv.toNat * 2 ^ 32 + c % 2 ^ 32) 16)) ++ gcmCtr ks iv n (c + 1) (os.drop 16)

/-- The text enciphered or deciphered, and the 16-octet ICV over associated data and ciphertext. -/
def gcm (key : List (BitVec 8)) (iv : BitVec 96) (aad text : List (BitVec 8)) (decrypt : Bool) :
    List (BitVec 8) × List (BitVec 8) :=
  let ks := aesKeys key
  let h := beNat (aesBlock ks (List.replicate 16 0))
  let out := gcmCtr ks iv (text.length / 16 + 1) 2 text
  let ct := if decrypt then text else out
  let y := ghash h (aad.length / 16 + 1) 0 aad
  let y := ghash h (ct.length / 16 + 1) y ct
  let y := ghash h 1 y (beOctets (8 * aad.length) 8 ++ beOctets (8 * ct.length) 8)
  (out, xorOctets (beOctets y 16) (aesBlock ks (beOctets (iv.toNat * 2 ^ 32 + 1) 16)))

end Sys2Proof.Machine
end

