-- ==== Sys2Proof/Machine/Gauger.lean ====
section
/-!
DEFINITION. The gauger (R82 to R89, R480): the parse graph in its two banks, the parse record, class and flow hash, the
commands CSUM and REPARSE, and the bank swap.
-/
namespace Sys2Proof.Machine

/-! ## The two banks (R88) -/

/-- A cell of node or transition memory of a bank. -/
def Mach.gauCell (m : Mach) (bank : Bool) (r : Reg) (i : Nat) : Cell :=
  mget 0 m.regs ((⟨r, 0, i⟩ : RegRef).key + (if bank then 0x10000000 else 0))
/-- A cell of a bank written. -/
def Mach.gauPut (m : Mach) (bank : Bool) (r : Reg) (i : Nat) (v : Cell) : Mach :=
  { m with regs := mset 0 m.regs ((⟨r, 0, i⟩ : RegRef).key + (if bank then 0x10000000 else 0)) v }
/-- GAU_CTL.BANK. -/
def Mach.gauBank (m : Mach) : Bool := bit (m.r .gauCtl) 17
/-- GAU_CTL.SWAPPING. -/
def Mach.swapping (m : Mach) : Bool := bit (m.r .gauCtl) 15

/-- The keys of the transitions that lead to the LPP node, in the shadow bank, made the LPP EtherType (R480). -/
def Mach.putLppKeys (m : Mach) : Mach :=
  let bank := !m.gauBank
  let lpp := (List.range 1024).filter fun i =>
    bit (m.gauCell bank .gauTrans (4 * i)) 17 && m.gauCell bank .gauTrans (4 * i + 3) == 24
  lpp.foldl (fun m i => m.gauPut bank .gauTrans (4 * i + 1) (m.r .blkLppety &&& 0xFFFF)) m

/-- A swap begins: each quay with no frame open, or with EN 0, takes the incoming bank at once (R88). -/
def Mach.startSwap (m : Mach) : Mach :=
  (List.range 16).foldl (fun m q =>
    let now := (m.iq q).frame.isNone || !bit (m.r .qiCtl q) 17
    m.updIq q fun i => { i with swapping := !now, bank := if now then !m.gauBank else i.bank }) (m.wbit .gauCtl 15 true)

/-- Whether every quay has switched. -/
def Mach.swapDone (m : Mach) : Bool := (List.range 16).all fun q => !(m.iq q).swapping

/-- SWAPPING falls, and BANK names the incoming bank (R88). -/
def Mach.finishSwap (m : Mach) : Mach := m.w .gauCtl (setBit (setBit (m.r .gauCtl) 15 false) 17 !m.gauBank)

/-- Which rewrite of the LPP transitions is due. -/
def Mach.lppDue (m : Mach) (n : BitVec 2) : Mach := { m with dict := { m.dict with lppKeys := n } }

/-- What the firmware does about a changed LPP EtherType while no swap runs: it rewrites the shadow bank, swaps, and rewrites the new
shadow bank (R88, R480). -/
def Mach.lppStep (m : Mach) : Mach :=
  if m.dict.lppKeys = 1 then
    let m := (m.putLppKeys.lppDue 2).startSwap
    if m.swapDone then m.finishSwap.putLppKeys.lppDue 0 else m
  else if m.dict.lppKeys = 2 then m.putLppKeys.lppDue 0
  else m

/-- A swap ends when every quay has switched (R88). -/
def Mach.swapEnd (m : Mach) : Mach := if m.swapping ∧ m.swapDone then m.finishSwap.lppStep else m

/-- A quay at a frame boundary, or with EN 0, takes the incoming bank (R88). -/
def Mach.switchBank (m : Mach) (q : Nat) : Mach :=
  if (m.iq q).swapping then (m.updIq q fun i => { i with swapping := false, bank := !m.gauBank }).swapEnd else m

/-- GAU_CTL.SWAP written 1 (R88). -/
def Mach.gauSwap (m : Mach) : Mach := if m.swapping then m else m.startSwap.swapEnd

/-- The bits that cell c of a node (R82) or of a transition entry (R83) holds; the others read 0. -/
def gauMask (r : Reg) (c : Nat) : Cell :=
  if r = .gauNode then [0x2FFFF, 0x3FDFF, 0x3F8FF, 0x3C000].getD c 0 else [0x200FF, 0xFFFF, 0xFFFF, 0xFF].getD c 0

/-- Node or transition memory written: the shadow bank, and nothing during a swap (R88). -/
def Mach.gauMemWrite (m : Mach) (r : Reg) (i : Nat) (v : Cell) : Mach :=
  if m.swapping then m else m.gauPut (!m.gauBank) r i (v &&& gauMask r (i % 4))
/-- Node or transition memory read: the bank that BANK does not name (R88). -/
def Mach.gauMemRead (m : Mach) (r : Reg) (i : Nat) : Cell := m.gauCell (!m.gauBank) r i

/-- The next node after a key: the lowest-numbered valid entry of the node that matches, else DEF (R83). -/
def Mach.nextNode (m : Mach) (bank : Bool) (node key dflt : Nat) : Nat :=
  let off := if bank then 0x10000000 else 0
  let base := 0x8036000 + off
  match m.regs.find? fun e =>
    decide (base ≤ e.1) && decide (e.1 < base + 8192) && (e.1 - base) % 8 == 0 && bit e.2 17 && fld e.2 7 0 == node &&
      fld (m.gauCell bank .gauTrans ((e.1 - base) / 2 + 1)) 15 0 ==
        key &&& fld (m.gauCell bank .gauTrans ((e.1 - base) / 2 + 2)) 15 0
  with
  | some e => fld (m.gauCell bank .gauTrans ((e.1 - base) / 2 + 3)) 7 0
  | none => dflt

/-! ## The walk (R84, R87) -/

/-- The IP header that a walk met: version 6, addresses, IPv4 protocol, payload length and end. -/
structure IpHeader where
  v6 : Bool
  src : List (BitVec 8)
  dst : List (BitVec 8)
  proto : Nat
  len : Nat
  stop : Nat
  deriving DecidableEq, Repr

/-- A walk of the parse graph: the node it reached and the offset there, and what it recorded. `nh` is the last key of an
IPv6 or extension header, `key` the last key. Offsets of 511 are absent. -/
structure Walk where
  node : Nat
  last : Nat
  off : Nat
  key : Nat
  nh : Option Nat
  h1 : Nat
  h2 : Nat
  tags : Nat
  cls : Option (Bool × BitVec 3)
  ip : Option IpHeader
  l4 : Nat
  l4at : Nat
  exth : Nat
  frag : Bool
  l3cs : Nat
  marks : List Nat
  proto : Nat
  emp : Nat
  prof : Nat
  deriving DecidableEq, Repr

/-- Where a walk stands: at a node, waiting for nonets, ended at a leaf or stopped. -/
inductive WalkAt where
  | goes (w : Walk)
  | waits
  | leaf (w : Walk)
  | stops (w : Walk)
  deriving DecidableEq, Repr

/-- A walk about to enter its root. -/
def Walk.from (root : Nat) : Walk :=
  ⟨root, root, 0, 0, none, 511, 511, 0, none, none, 0, 0, 0, false, 0, [], 0, 0, 0⟩

/-- The octet at an offset; 0 beyond the end. -/
def octAt (d : List (BitVec 8)) (i : Nat) : Nat := (d.getD i 0).toNat
/-- n octets from an offset. -/
def octs (d : List (BitVec 8)) (i n : Nat) : List (BitVec 8) := (d.drop i).take n

/-- Header length by LMODE (R82), if its length octet lies before `lim`. -/
def headerLen (c1 : Cell) (d : List (BitVec 8)) (off lim : Nat) : Option Nat :=
  let p := off + fld c1 17 12
  match fld c1 11 10 with
  | 0 => some (fld c1 8 0)
  | 1 => if p < lim then some (4 * (octAt d p % 16)) else none
  | 2 => if p < lim then some (4 * (octAt d p / 16)) else none
  | _ => if p < lim then some (8 * (octAt d p + 1)) else none

/-- Steps 1 and 2 of R84: the mark and REC. -/
def Walk.record (w : Walk) (c0 : Cell) : Walk :=
  let w := { w with marks := if w.marks.contains w.off then w.marks else w.marks ++ [w.off] }
  match fld c0 11 10 with
  | 1 => { w with h1 := w.off }
  | 2 => { w with h2 := w.off }
  | 3 => { w with tags := w.tags + 1 }
  | _ => w

/-- CLSRC (R82, R85). -/
def Walk.source (w : Walk) (c0 : Cell) : Walk :=
  match fld c0 7 6 with
  | 1 => { w with cls := some (false, BitVec.ofNat 3 (fld c0 5 3)) }
  | 2 => { w with cls := some (true, 0) }
  | _ => w

/-- SPEC of a header of n nonets (R87). A header too short to hold a field leaves it as it is (DEDUCED entry 24). -/
def Walk.check (w : Walk) (c3 : Cell) (d : List (BitVec 8)) (n : Nat) : Walk :=
  let h := octs d w.off n
  match fld c3 17 14 with
  | 1 =>
    let w := { w with l3cs := if fold16 (sum16 h) = 0xFFFF then 1 else 2 }
    if n < 20 then w
    else { w with frag := beNat (octs h 6 2) % 0x4000 != 0,
                  ip := some ⟨false, octs h 12 4, octs h 16 4, octAt h 9, beNat (octs h 2 2) - n, w.off + n⟩ }
  | 2 =>
    if n < 40 then w else { w with ip := some ⟨true, octs h 8 16, octs h 24 16, 0, beNat (octs h 4 2), w.off + n⟩ }
  | 3 => { w with exth := w.exth + 1, frag := w.frag || w.key == 44 }
  | 4 => { w with l4 := 1, l4at := w.off }
  | 5 => { w with l4 := 2, l4at := w.off }
  | 6 => { w with l4 := 3, l4at := w.off }
  | 7 => { w with l4 := 4, l4at := w.off }
  | _ => w

/-- One node of a walk (R84); `final` where no further nonet counts: at EOF, or with 512 nonets. -/
def Mach.node1 (m : Mach) (bank : Bool) (d : List (BitVec 8)) (final : Bool) (w : Walk) : WalkAt :=
  let lim := min d.length 512
  if 510 < w.off then .stops w
  else
    let c0 := m.gauCell bank .gauNode (4 * w.node)
    let c2 := m.gauCell bank .gauNode (4 * w.node + 2)
    let c3 := m.gauCell bank .gauNode (4 * w.node + 3)
    let cut := fun (w : Walk) =>
      if !final then .waits else if w.off < lim then .stops (w.record c0) else .stops w
    let w := { w with last := w.node }
    match headerLen (m.gauCell bank .gauNode (4 * w.node + 1)) d w.off lim with
    | none => cut w
    | some n =>
      if lim < w.off + n then cut w
      else
        let start := w.off
        let w := (w.record c0).source c0
        if fld c3 17 14 = 3 ∧ 4 ≤ w.exth then .stops { w with exth := 7 }
        else
          let w := { w.check c3 d n with off := start + n }
          if bit c0 17 then .leaf { w with proto := fld c0 15 12, emp := fld c0 9 8, prof := fld c0 2 0 }
          else
            let ko := start + fld c2 17 12
            let kw := if bit c2 11 then 2 else 1
            if lim < ko + kw then (if final then .stops w else .waits)
            else
              let key := beNat (octs d ko kw)
              let w := { w with key := key, nh := if fld c3 17 14 = 2 ∨ fld c3 17 14 = 3 then some key else w.nh }
              .goes { w with node := m.nextNode bank w.last key (fld c2 7 0) }

/-- A walk on from a node, over at most sixteen (R84). -/
def Mach.walk (m : Mach) (bank : Bool) (d : List (BitVec 8)) (final : Bool) : Nat → Walk → WalkAt
  | 0, w => .stops w
  | n + 1, w =>
    match m.node1 bank d final w with
    | .goes w => m.walk bank d final n w
    | r => r

/-! ## Class, hash, checksum (R85 to R87) -/

/-- The class that the graph gives, if it gives one: CLASS, or PCPMAP of the first tag (R85). -/
def Mach.graphClass (m : Mach) (w : Walk) (d : List (BitVec 8)) : Option (BitVec 3) :=
  match w.cls with
  | none => none
  | some (false, c) => some c
  | some (true, _) =>
    if w.tags = 0 then none
    else
      let p := octAt d 14 / 32
      some (BitVec.ofNat 3 (fld (m.r .gauPcpmap (p / 4)) (3 * (p % 4) + 2) (3 * (p % 4))))

/-- A field of the frame, if it holds the field whole. -/
def fieldAt (d : List (BitVec 8)) (i n : Nat) : Option (List (BitVec 8)) :=
  if i + n ≤ d.length then some (octs d i n) else none

/-- A source and destination pair under SYM: the smaller half first, when both are there (R86). -/
def symPair (sym : Bool) (a b : Option (List (BitVec 8))) : List (BitVec 8) :=
  match a, b with
  | some a, some b => if sym && decide (beNat b < beNat a) then b ++ a else a ++ b
  | some a, none => a
  | none, some b => b
  | none, none => []

/-- The octets that a hash profile selects (R86). The VID enters as two octets, the TCI with PCP and DEI at 0 (DESIGN CHOICE entry 95). -/
def hashOctets (p : Cell) (w : Walk) (d : List (BitVec 8)) (root : Nat) : List (BitVec 8) :=
  let eth := root = 0
  let sel := fun (b : Nat) (x : Option (List (BitVec 8))) => if bit p b then x else none
  let sym := bit p 8
  let mac := symPair sym (sel 17 (if eth then fieldAt d 0 6 else none)) (sel 16 (if eth then fieldAt d 6 6 else none))
  let vid := sel 15 (if eth ∧ w.tags ≠ 0 then
    (fieldAt d 14 2).map fun v => beOctets (beNat v % 4096) 2 else none)
  let ety := sel 14 (if eth then fieldAt d (12 + 4 * w.tags) 2 else none)
  let at_ := fun (h : IpHeader) (v4 v6 n6 : Nat) =>
    if w.h1 = 511 then none else fieldAt d (w.h1 + if h.v6 then v6 else v4) (if h.v6 then n6 else 4)
  let l3 := symPair sym (sel 13 (w.ip.bind fun h => at_ h 12 8 16)) (sel 12 (w.ip.bind fun h => at_ h 16 24 16))
  let proto := sel 11 (match w.ip with
    | some h => if h.v6 then w.nh.map fun k => [BitVec.ofNat 8 k] else some [BitVec.ofNat 8 h.proto]
    | none => none)
  let hasL4 := (w.l4 = 1 ∨ w.l4 = 2) ∧ w.h2 ≠ 511
  let ports := symPair sym (sel 10 (if hasL4 then fieldAt d w.h2 2 else none))
    (sel 10 (if hasL4 then fieldAt d (w.h2 + 2) 2 else none))
  let can := sel 9 (match w.proto with
    | 7 => some (octs d 0 4 ++ octs d 6 1)
    | 8 => some (octs d 0 2 ++ octs d 4 1 ++ octs d 6 1)
    | _ => none)
  mac ++ vid.getD [] ++ ety.getD [] ++ l3 ++ proto.getD [] ++ ports ++ can.getD []

/-- The flow hash (R86). -/
def Mach.flowHash (m : Mach) (w : Walk) (d : List (BitVec 8)) (root : Nat) : Cell :=
  let c := crc32cFrom (0xFFFFFFFF#32 ^^^ (m.r .gauHseed).setWidth 32) (hashOctets (m.r .gauHprof w.prof) w d root)
  c.setWidth 18 ^^^ (c >>> 18).setWidth 18

/-- L4CS at EOF (R87): 0 not checked, 1 good, 2 bad. -/
def Walk.l4cs (w : Walk) (d : List (BitVec 8)) : Nat :=
  match w.ip with
  | none => 0
  | some h =>
    if w.frag ∨ (w.l4 ≠ 1 ∧ w.l4 ≠ 2) then 0
    else if w.l4 = 1 ∧ !h.v6 ∧ beNat (octs d (w.l4at + 6) 2) = 0 then 0
    else
      let skip := w.l4at - h.stop
      let need := if w.l4 = 1 then 8 else 4 * (octAt d (w.l4at + 12) / 16)
      let seg := h.len - skip
      if h.len < skip + need ∨ d.length < w.l4at + seg then 2
      else
        let pr := if h.v6 then w.nh.getD 0 else h.proto
        let pseudo := h.src ++ h.dst ++ (if h.v6 then beOctets seg 4 ++ beOctets pr 4 else beOctets pr 2 ++ beOctets seg 2)
        if fold16 (sum16 pseudo + sum16 (octs d w.l4at seg)) = 0xFFFF then 1 else 2

/-- The parse record of a walk that ended (R54, R84, R85). -/
def Mach.record (m : Mach) (w : Walk) (leaf : Bool) (d : List (BitVec 8)) (root : Nat) (cs : Nat) : Parse :=
  { cls := m.graphClass w d, hash := m.flowHash w d root, h1 := BitVec.ofNat 9 w.h1, h2 := BitVec.ofNat 9 w.h2,
    payoff := BitVec.ofNat 9 (min w.off 511), leaf := BitVec.ofNat 8 w.last, vlans := BitVec.ofNat 2 (min w.tags 3),
    proto := BitVec.ofNat 4 w.proto, l4 := BitVec.ofNat 3 w.l4, exth := BitVec.ofNat 3 w.exth, frag := w.frag,
    l3cs := BitVec.ofNat 2 w.l3cs, l4cs := BitVec.ofNat 2 cs, emp := BitVec.ofNat 2 w.emp, pstop := !leaf }

/-- A frame parsed as far as it has come (R38 step 3, R84): its record and the offsets marked, or none while the result
still waits for nonets. -/
def Mach.parse (m : Mach) (bank : Bool) (root : Nat) (d : List (BitVec 8)) (eof : Bool) : Option (Parse × List Nat) :=
  let cs := fun (w : Walk) => if eof then w.l4cs d else 0
  match m.walk bank d (eof || decide (512 ≤ d.length)) 16 (Walk.from root) with
  | .leaf w => some (m.record w true d root (cs w), w.marks)
  | .stops w => some (m.record w false d root (cs w), w.marks)
  | _ => none

/-- Cells 11 to 13 of the manifest (R54). -/
def Parse.cells (p : Parse) : List Cell :=
  [p.h1 ++ p.h2, p.payoff ++ (0#1) ++ p.leaf,
   p.vlans ++ p.proto ++ p.l4 ++ p.exth ++ BitVec.ofBool p.frag ++ p.l3cs ++ p.l4cs ++ (0#1)]

/-! ## Commands (R89) -/

/-- CSUM (R89): operands address and length, ARG bit 0 takes the first octet as a low one. -/
def Mach.csum (m : Mach) (t : Tid) (d : Dock) : Mach × Cell × List Cell :=
  let a := d.addr 0
  let n := (d.ops.getD 2 0).toNat
  if d.narg ≠ 3 ∨ 16368 < n then (m, status 9 0, [])
  else
    match m.opRead t d.helm a n with
    | (m, .error c) => (m, status c 0, [])
    | (m, .ok ns) =>
      let os := ns.map octet
      (m, status 0 0, [BitVec.ofNat 18 (fold16 (sum16 (if d.arg % 2 = 1 then 0 :: os else os)))])

/-- CSUM. -/
def execCsum (t : Tid) (slot : BitVec 2) (s : State) : Host.Outcome State Fault Refusal :=
  onThread t s fun m => m.helper t slot 4 0 fun m d => m.csum t d

/-- The address of frame nonet i along a chain. -/
def chainAt : List Link1 → Nat → Option Nat
  | [], _ => none
  | h :: r, i => if i < h.count then some (h.addr + i) else chainAt r (i - h.count)

/-- REPARSE of a frame (R89). -/
def Mach.reparse (m : Mach) (d : Dock) : Mach × Cell × List Cell :=
  let root := (d.ops.getD 0 0).toNat
  match m.manifest d.mf.toNat with
  | none => (m, status 9 0, [])
  | some (l, _) =>
    if d.narg ≠ 1 ∨ 256 ≤ root then (m, status 9 0, [])
    else
      let mf := d.mf.toNat
      let hs := m.chainOf l mf
      if hs.any fun h => m.badN none h.addr h.count then (m, status 12 0, [])
      else
        let os := (m.frameNonets l mf).map octet
        match m.parse m.gauBank root os true with
        | none => (m, status 0 0, [])
        | some (p, marks) =>
          let p := if m.mFlag mf 10 ∨ m.mFlag mf 9 then { p with l4cs := 0 } else p
          let m := (marks.filter fun i => i < os.length).foldl (fun m i =>
            match chainAt hs i with
            | some a => m.wrN none a ((m.rdN none a 1).map fun n => n ||| 0x100#9)
            | none => m) m
          let m := ((p.hash :: p.cells).zipIdx).foldl (fun m e => m.setMcell mf (10 + e.2) e.1) m
          let c1 := setBit (setFld (m.mcell mf 1) 5 4 p.emp.toNat) 0 p.pstop
          (m.setMcell mf 1 c1, status 0 p.leaf.toNat, [])

/-- REPARSE. -/
def execReparse (t : Tid) (slot : BitVec 2) (s : State) : Host.Outcome State Fault Refusal :=
  onThread t s fun m => m.helper t slot 4 1 fun m d => m.reparse d

end Sys2Proof.Machine
end

