-- ==== Sys2Proof/Machine/Seal.lean ====
section
/-!
DEFINITION. The seal (R93 to R98): secure associations, PROTECT and VALIDATE on a frame's chain, CMAC and DERIVE on the key
slots, the staging of keys. The layout of the SecTAG and of the two IVs is that of IEEE 802.1AE-2018 (PRESUMED, entry 54).
-/
namespace Sys2Proof.Machine

/-! ## Secure associations -/

/-- A secure association. -/
def Mach.sa (m : Mach) (i : Nat) : Sa := mget Sa.reset m.sealU.sas i
/-- The block with a secure association changed. -/
def Mach.updSa (m : Mach) (i : Nat) (f : Sa → Sa) : Mach :=
  { m with sealU := { m.sealU with sas := mset Sa.reset m.sealU.sas i (f (m.sa i)) } }
/-- EN. -/
def Sa.en (a : Sa) : Bool := bit a.ctl 17
/-- DIR: transmit. -/
def Sa.tx (a : Sa) : Bool := bit a.ctl 16
/-- CIPHER: 256-bit key. -/
def Sa.long (a : Sa) : Bool := bit a.ctl 14
/-- CIPHER: extended packet numbers. -/
def Sa.xpn (a : Sa) : Bool := bit a.ctl 15
/-- AN. -/
def Sa.an (a : Sa) : Nat := fld a.ctl 13 12
/-- CONF. -/
def Sa.conf (a : Sa) : Nat := fld a.ctl 11 10
/-- KVALID. -/
def Sa.kvalid (a : Sa) : Bool := bit a.ctl 5
/-- The key's octets. -/
def Sa.keyOctets (a : Sa) : List (BitVec 8) := beOctets a.key.toNat (if a.long then 32 else 16)
/-- The IV of a packet number: SCI and PN, or with XPN the salt added to SSCI and PN. -/
def Sa.iv (a : Sa) (pn : Nat) : BitVec 96 :=
  if a.xpn then a.salt ^^^ BitVec.ofNat 96 (a.ssci.toNat * 2 ^ 64 + pn)
  else BitVec.ofNat 96 (a.sci.toNat * 2 ^ 32 + pn % 2 ^ 32)
/-- The octets in clear before the confidential part. -/
def confOffset (conf : Nat) : Nat := match conf with | 1 => 30 | 2 => 50 | _ => 0

/-- The frame of a SecTAG's TCI and AN octet, SL, PN and SCI. -/
def secTag (a : Sa) (pn len : Nat) : List (BitVec 8) :=
  let enc := b2n (decide (a.conf ≠ 3))
  let tci := 64 * b2n (bit a.ctl 8) + 32 * b2n (bit a.ctl 9) + 16 * b2n (bit a.ctl 7) + 12 * enc + a.an
  [0x88, 0xE5, BitVec.ofNat 8 tci, BitVec.ofNat 8 (if len < 48 then len else 0)] ++ beOctets (pn % 2 ^ 32) 4 ++
    (if bit a.ctl 9 then beOctets a.sci.toNat 8 else [])

/-! ## A frame rewritten in its holds -/

/-- A chain's part that holds the first n nonets. -/
def chainTo : List Link1 → Nat → List Link1
  | [], _ => []
  | h :: r, n => if n ≤ h.count then [{ h with count := n }] else h :: chainTo r (n - h.count)
/-- The nonets of a chain. -/
def chainLen (hs : List Link1) : Nat := (hs.map Link1.count).sum
/-- A chain without its first n nonets; the holds stay. -/
def chainCut : List Link1 → Nat → List Link1
  | [], _ => []
  | h :: r, n =>
    if n ≤ h.count then { h with addr := h.addr + n, count := h.count - n } :: r
    else { h with addr := h.addr + h.count, count := 0 } :: chainCut r (n - h.count)

/-- NEXT of a hold. -/
def Mach.nextOf (m : Mach) (l : Nat) (h : Link1) : Nat := fld (m.rdDbl none (m.holdAddr l h.idx)) 27 0
/-- NEXT of a hold written. -/
def Mach.setNext (m : Mach) (l : Nat) (h : Link1) (a : Nat) : Mach := m.wrDbl none (m.holdAddr l h.idx) (BitVec.ofNat 36 a)
/-- START and COUNT of a hold written. -/
def Mach.setStart (m : Mach) (l : Nat) (h : Link1) : Mach :=
  let base := m.holdAddr l h.idx
  m.wrCell none (base + 4) (BitVec.ofNat 18 (512 * (h.addr - (base + 8)) + h.count))

/-- Nonets laid into the holds of a chain. -/
def Mach.putChain (m : Mach) : List Link1 → List Nonet → Mach
  | [], _ => m
  | h :: r, ns => (m.wrN none h.addr (ns.take h.count)).putChain r (ns.drop h.count)

/-- LEN of a manifest written. -/
def Mach.setLen (m : Mach) (mf n : Nat) : Mach := m.setMcell mf 0 (setFld (m.mcell mf 0) 13 0 n)

/-! ## PROTECT (R94, R96) -/

/-- The next packet number of an SA, which is never 0. -/
def Sa.next (a : Sa) : Nat := if a.pn = 0 then 1 else a.pn.toNat
/-- Whether the packet numbers of an SA are used up. -/
def Sa.spent (a : Sa) : Bool := a.exhausted || (!a.xpn && decide (2 ^ 32 - 1 < a.pn.toNat))

/-- A packet number taken, and the warning when the next one reaches the threshold (R96). -/
def Mach.takePn (m : Mach) (i : Nat) : Mach :=
  let a := m.sa i
  let n := a.next
  let last := decide (n = 2 ^ 64 - 1)
  let due := fld (m.r .sealCtl) 7 0 * 2 ^ (if a.xpn then 56 else 24)
  let warn := !a.warned && (last || decide (due ≤ n + 1))
  let m := m.updSa i fun a => { a with pn := BitVec.ofNat 64 (n + 1), exhausted := last, warned := a.warned || warn }
  if warn then m.withLines [(31, 35)] fun m => m.w .sealEvt (setFld (setBit (m.r .sealEvt) 17 true) 10 0 i) else m

/-- The words of a frame's chain read: whether one is bad, and the block with what reading them leaves. -/
def Mach.readChain (m : Mach) (hs : List Link1) : Mach × Bool :=
  (hs.foldl (fun m h => m.noteN none h.addr h.count) m, hs.any fun h => m.badN none h.addr h.count)

/-- The chain for a frame that grows by a tag in front and 16 nonets behind, or none where no hold can be taken. -/
def Mach.growChain (m : Mach) (l cls tag : Nat) (hs : List Link1) : Option (Mach × List Link1) :=
  let front : List Link1 := match hs with
    | [] => []
    | h :: r => { h with addr := h.addr - tag, count := h.count + tag } :: r
  match front.getLast? with
  | none => none
  | some z =>
    let room := m.holdAddr l z.idx + 8 + 256 - (z.addr + z.count)
    if 16 ≤ room then some (m, front.dropLast ++ [{ z with count := z.count + 16 }])
    else if !m.mayTake l cls false then none
    else
      match m.nextHold l with
      | none => none
      | some i =>
        let a := m.holdAddr l i
        let rest := m.nextOf l z
        let m := m.setHold l i true
        let m := m.wrN none a (unpack rest 4 ++ unpack 16 4)
        some (m.setNext l z a, front ++ [⟨i, a + 8, 16⟩])

/-- PROTECT of a frame by an SA whose operands were found good. -/
def Mach.protectFrame (m : Mach) (i l mf : Nat) (hs : List Link1) : Mach × Cell × List Cell :=
  let a := m.sa i
  let pn := a.next
  let ns := m.frameNonets l mf
  let tag := secTag a pn (ns.length - 12)
  let start := match hs.head? with
    | some h => h.addr - (m.holdAddr l h.idx + 8)
    | none => 0
  let r := m.readChain hs
  if a.spent then (m, status 5 0, [])
  else if r.2 then (r.1, status 12 0, [])
  else if start < tag.length then (m, status 13 0, [])
  else
    match r.1.growChain l (fld (m.mcell mf 1) 13 11) tag.length hs with
    | none => (m, status 13 0, [])
    | some (m, new) =>
      let os := ns.map octet
      let clear := if a.conf = 3 then os.length - 12 else min (confOffset a.conf) (os.length - 12)
      let aad := os.take 12 ++ tag ++ (os.drop 12).take clear
      let g := gcm a.keyOctets (a.iv pn) aad (os.drop (12 + clear)) false
      let body := List.zipWith (fun (n : Nonet) (o : BitVec 8) => setBit (nonet o) 8 (bit n 8)) (ns.drop (12 + clear)) g.1
      let out := ns.take 12 ++ tag.map nonet ++ (ns.drop 12).take clear ++ body ++ g.2.map nonet
      let m := new.foldl (fun m h => m.setStart l h) m
      let m := (m.putChain new out).setLen mf out.length
      (m.takePn i, status 0 0, (List.range 4).map fun k => BitVec.ofNat 18 (pn / 2 ^ (18 * k)))

/-- PROTECT with its checks (R77, R94). No key in the SA, or a frame of fewer than 12 octets, gives BADARG (DESIGN CHOICE entry 96). -/
def Mach.protect (m : Mach) (d : Dock) : Mach × Cell × List Cell :=
  let i := (d.ops.getD 0 0).toNat
  let a := m.sa i
  match m.manifest d.mf.toNat with
  | none => (m, status 9 0, [])
  | some (l, _) =>
    let mf := d.mf.toNat
    let len := m.mLen mf
    let hs := chainTo (m.chainOf l mf) len
    let tag := if bit a.ctl 9 then 16 else 8
    if d.narg ≠ 1 ∨ 2048 ≤ i ∨ !bit (m.r .sealCtl) 17 ∨ !a.en ∨ !a.tx ∨ !a.kvalid ∨ len < 12 ∨ 16368 < len + tag + 16 ∨
        chainLen hs ≠ len then (m, status 9 0, [])
    else m.protectFrame i l mf hs

/-- PROTECT. -/
def execProtect (t : Tid) (slot : BitVec 2) (s : State) : Host.Outcome State Fault Refusal :=
  onThread t s fun m => m.helper t slot 1 0 fun m d => m.protect d

/-! ## VALIDATE (R95) -/

/-- A SecTAG as received. -/
structure SecTagIn where
  tci : Nat
  sl : Nat
  pn : Nat
  sci : Option Nat
  deriving DecidableEq, Repr

/-- The SecTAG at offset 12, if a valid one stands there. -/
def secTagOf (os : List (BitVec 8)) : Option SecTagIn :=
  let tci := octAt os 14
  let sl := octAt os 15
  let sc := tci / 32 % 2 = 1
  let tag := if sc then 16 else 8
  let data := os.length - (28 + tag)
  if os.length < 28 + tag ∨ beNat (octs os 12 2) ≠ 0x88E5 ∨ 128 ≤ tci ∨ (sc ∧ (tci / 64 % 2 = 1 ∨ tci / 16 % 2 = 1)) ∨
      tci / 4 % 4 = 2 ∨ 48 ≤ sl ∨ (if sl = 0 then data < 48 else data < sl) then none
  else some ⟨tci, sl, beNat (octs os 16 4), if sc then some (beNat (octs os 20 8)) else none⟩

/-- The packet number of a received tag; with XPN its high half is recovered from the lowest acceptable one. -/
def Sa.recover (a : Sa) (pn : Nat) : Nat :=
  if !a.xpn then pn
  else
    let low := a.pn.toNat % 2 ^ 32
    let high := a.pn.toNat / 2 ^ 32
    ((if 2 ^ 31 ≤ low ∧ pn < 2 ^ 31 then high + 1 else high) * 2 ^ 32 + pn) % 2 ^ 64

/-- A frame that VALIDATE accepted, decrypted in place, without SecTAG and ICV. -/
def Mach.unwrap (m : Mach) (l mf tag : Nat) (hs : List Link1) (out : List Nonet) : Mach :=
  let rest := match hs.getLast? with
    | some h => m.nextOf l h
    | none => 0
  let all := chainCut hs tag
  let kept := chainTo all out.length
  let gone := (hs.drop kept.length).map Link1.idx
  let m := kept.foldl (fun m h => m.setStart l h) m
  let m := match kept.getLast? with
    | some h => if gone.isEmpty then m else m.setNext l h rest
    | none => m
  ((m.freeChain l gone).putChain kept out).setLen mf out.length

/-- VALIDATE of a frame by an SA whose operands were found good. -/
def Mach.validateFrame (m : Mach) (i l mf : Nat) (hs : List Link1) : Mach × Cell × List Cell :=
  let a := m.sa i
  let ns := m.frameNonets l mf
  let os := ns.map octet
  let r := m.readChain hs
  if r.2 then (r.1, status 12 0, [])
  else
    let m := r.1
    match secTagOf os with
    | none => (m, status 4 0, [])
    | some g =>
      let tag := if g.sci.isSome then 16 else 8
      let pn := a.recover g.pn
      let short := if g.sl = 0 then os.length - (28 + tag) else g.sl
      let enc := g.tci / 8 % 2 = 1
      if g.tci % 4 ≠ a.an ∨ (g.sci.getD a.sci.toNat) ≠ a.sci.toNat ∨ pn = 0 then (m, status 4 0, [])
      else
        let clear := if enc then min (confOffset a.conf) short else short
        let secure := (os.drop (12 + tag)).take short
        let aad := os.take (12 + tag) ++ secure.take clear
        let x := gcm a.keyOctets (a.iv pn) aad (secure.drop clear) true
        if x.2 ≠ (os.drop (12 + tag + short)).take 16 then (m, status 2 0, [])
        else if bit a.ctl 6 ∧ pn < a.pn.toNat then (m, status 3 0, [])
        else
          let low := max a.pn.toNat (min (pn + 1 - a.win.toNat) (2 ^ 64 - 1))
          let m := m.updSa i fun a => { a with pn := BitVec.ofNat 64 low }
          let marks := (ns.drop (12 + tag)).take short
          let body := List.zipWith (fun (n : Nonet) (o : BitVec 8) => setBit (nonet o) 8 (bit n 8)) (marks.drop clear) x.1
          let m := m.unwrap l mf tag hs (ns.take 12 ++ marks.take clear ++ body)
          (m, status 0 (g.tci % 4 * 4096 + g.tci / 32 % 2 * 2048 + g.tci / 8 % 2 * 1024 + g.tci / 4 % 2 * 512), [])

/-- VALIDATE with its checks (R77, R95). -/
def Mach.validate (m : Mach) (d : Dock) : Mach × Cell × List Cell :=
  let i := (d.ops.getD 0 0).toNat
  let a := m.sa i
  match m.manifest d.mf.toNat with
  | none => (m, status 9 0, [])
  | some (l, _) =>
    let mf := d.mf.toNat
    let len := m.mLen mf
    let hs := chainTo (m.chainOf l mf) len
    if d.narg ≠ 1 ∨ 2048 ≤ i ∨ !bit (m.r .sealCtl) 17 ∨ !a.en ∨ a.tx ∨ !a.kvalid ∨ chainLen hs ≠ len then (m, status 9 0, [])
    else m.validateFrame i l mf hs

/-- VALIDATE. -/
def execValidate (t : Tid) (slot : BitVec 2) (s : State) : Host.Outcome State Fault Refusal :=
  onThread t s fun m => m.helper t slot 1 1 fun m d => m.validate d

/-! ## CMAC and DERIVE (R98) -/

/-- The key of a CMAC slot. -/
def Mach.cmacKey (m : Mach) (i : Nat) : BitVec 128 := mget 0 m.sealU.slots i
/-- The key of a CMAC slot loaded. -/
def Mach.setCmacKey (m : Mach) (i : Nat) (k : BitVec 128) : Mach :=
  { m with sealU := { m.sealU with slots := mset 0 m.sealU.slots i k } }

/-- Whether R98 bars a command from a slot: slots 2 and 3 always, 0 to 7 and 16 to 31 without helm. -/
def slotBarred (slot : Nat) (helm : Bool) : Bool :=
  slot == 2 || slot == 3 || (!helm && (decide (slot < 8) || decide (16 ≤ slot)))

/-- A tag as the eight result cells, first octet in bits 7:0 of cell 1. -/
def tagCells : List (BitVec 8) → List Cell
  | a :: b :: r => ((b.setWidth 9) ++ (a.setWidth 9) : Cell) :: tagCells r
  | _ => []

/-- CMAC or DERIVE, with its checks (R77, R98). DERIVE names its target too. -/
def Mach.cmacOp (m : Mach) (t : Tid) (d : Dock) (derive : Bool) : Mach × Cell × List Cell :=
  let n := (d.ops.getD 2 0).toNat
  let target := (d.ops.getD 3 0).toNat
  let slot := d.arg % 32
  if d.narg ≠ (if derive then 4 else 3) ∨ 16368 < n ∨ !bit (m.r .sealCtl) 17 ∨ (derive ∧ (target < 16 ∨ 32 ≤ target)) ∨
      !m.opRange t d.helm (d.addr 0) n then (m, status 9 0, [])
  else if slotBarred slot d.helm || (derive && (slotBarred target d.helm || !Tid.tk t)) then (m, status 10 0, [])
  else
    match m.opRead t d.helm (d.addr 0) n with
    | (m, .error c) => (m, status c 0, [])
    | (m, .ok ns) =>
      let tag := aesCmac (m.cmacKey slot) (ns.map octet)
      if derive then (m.setCmacKey target (BitVec.ofNat 128 (beNat tag)), status 0 0, List.replicate 8 0)
      else (m, status 0 0, tagCells tag)

/-- CMAC. -/
def execCmac (t : Tid) (slot : BitVec 2) (s : State) : Host.Outcome State Fault Refusal :=
  onThread t s fun m => m.helper t slot 1 2 fun m d => m.cmacOp t d false

/-- DERIVE. -/
def execDerive (t : Tid) (slot : BitVec 2) (s : State) : Host.Outcome State Fault Refusal :=
  onThread t s fun m => m.helper t slot 1 3 fun m d => m.cmacOp t d true

/-! ## Registers of the seal (R97) -/

/-- The selected SA. -/
def Mach.saSel (m : Mach) : Nat := fld (m.r .sealSasel) 10 0

/-- A register of an SA as 18-bit pieces of a wider value. -/
def piece {w : Nat} (v : BitVec w) (i : Nat) : Cell := BitVec.ofNat 18 (v.toNat / 2 ^ (18 * i))
/-- A wider value with one of its 18-bit pieces replaced; bits above its width are dropped. -/
def setPiece {w : Nat} (v : BitVec w) (i : Nat) (c : Cell) : BitVec w := setFld v (18 * i + 17) (18 * i) c.toNat

/-- A register of the selected SA read. -/
def Mach.sealRead (m : Mach) (r : Reg) (i : Nat) : Cell :=
  let a := m.sa m.saSel
  match r with
  | .sealSactl => a.ctl
  | .sealSci => piece a.sci i
  | .sealPn => piece a.pn i
  | .sealWin => piece a.win i
  | .sealSsci => piece a.ssci i
  | _ => 0

/-- SEAL_SACTL written: a change of CIPHER or DIR clears KVALID. -/
def Mach.sactlWrite (m : Mach) (v : Cell) : Mach :=
  m.updSa m.saSel fun a =>
    let new := blend a.ctl 0x3FFC0 v
    { a with ctl := if fld new 16 14 = fld a.ctl 16 14 then new else setBit new 5 false }

/-- A register of the selected SA written. A packet number written, as a key loaded, starts its warning anew (DESIGN
CHOICE entry 97). -/
def Mach.sealWrite (m : Mach) (r : Reg) (i : Nat) (v : Cell) : Mach :=
  match r with
  | .sealSactl => m.sactlWrite v
  | .sealSci => m.updSa m.saSel fun a => { a with sci := setPiece a.sci i v }
  | .sealPn => m.updSa m.saSel fun a => { a with pn := setPiece a.pn i v, warned := false, exhausted := false }
  | .sealWin => m.updSa m.saSel fun a => { a with win := setPiece a.win i v }
  | .sealSsci => m.updSa m.saSel fun a => { a with ssci := setPiece a.ssci i v }
  | _ => m

/-- The staged words. -/
def Mach.setStage (m : Mach) (ws : List (BitVec 16)) : Mach := { m with sealU := { m.sealU with stage := ws } }
/-- SEAL_KSTAT as read: ERR and the number of staged words. -/
def Mach.kstat (m : Mach) : Cell := setFld (m.r .sealKstat) 4 0 m.sealU.stage.length
/-- SEAL_KDATA written (DESIGN CHOICE entry 55: a write beyond the 31 that STAGED can show is dropped). -/
def Mach.keyStage (m : Mach) (v : BitVec 16) : Mach :=
  if m.sealU.stage.length < 31 then m.setStage (m.sealU.stage ++ [v]) else m

/-- Staged words, most significant first, as a number. -/
def wordsNat (ws : List (BitVec 16)) : Nat := ws.foldl (fun n w => n * 65536 + w.toNat) 0

/-- SEAL_KCMD.LOAD (R97). -/
def Mach.keyLoad (m : Mach) (v : Cell) : Mach :=
  let ws := m.sealU.stage
  let bad := fun (m : Mach) => (m.setStage []).wbit .sealKstat 17 true
  if bit v 15 then
    if ws.length = 8 then (m.setStage []).setCmacKey (fld v 4 0) (BitVec.ofNat 128 (wordsNat ws)) else bad m
  else
    let a := m.sa m.saSel
    let nk := if a.long then 16 else 8
    if ws.length ≠ (if a.xpn then nk + 6 else nk) then bad m
    else
      (m.setStage []).updSa m.saSel fun a =>
        { a with key := BitVec.ofNat 256 (wordsNat (ws.take nk)), salt := BitVec.ofNat 96 (wordsNat (ws.drop nk)),
                 ctl := setBit a.ctl 5 true, warned := false, exhausted := false }

/-- SEAL_KCMD.CLEAR (R97). -/
def Mach.keyClear (m : Mach) (v : Cell) : Mach :=
  let m := m.setStage []
  if bit v 15 then m.setCmacKey (fld v 4 0) 0
  else m.updSa m.saSel fun a => { a with key := 0, salt := 0, ctl := setBit a.ctl 5 false }

/-- SEAL_KCMD written (DESIGN CHOICE entry 55: with both bits, the load comes first). -/
def Mach.keyCommand (m : Mach) (v : Cell) : Mach :=
  let m := if bit v 17 then m.keyLoad v else m
  if bit v 16 then m.keyClear v else m

end Sys2Proof.Machine
end

