-- ==== Sys2Proof/Machine/Waybill.lean ====
section
/-!
DEFINITION. The waybill (R90 to R92, R482): exact-match, longest-prefix and ternary tables, the thread commands on them and
the register window.
-/
namespace Sys2Proof.Machine

/-! ## Tables -/

/-- A table's descriptor. -/
def Mach.wbTable (m : Mach) (t : Nat) : WbTable := mget ⟨0, 0⟩ m.waybill.tables t
/-- A table's descriptor replaced. -/
def Mach.setWbTable (m : Mach) (t : Nat) (d : WbTable) : Mach :=
  { m with waybill := { m.waybill with tables := mset ⟨0, 0⟩ m.waybill.tables t d } }
/-- EN. -/
def WbTable.en (d : WbTable) : Bool := bit d.desc 17
/-- LEARN of an EM table; IPv6 for an LPM table. -/
def WbTable.learn (d : WbTable) : Bool := bit d.desc 16
/-- KCELLS of an EM table. -/
def WbTable.kcells (d : WbTable) : Nat := fld d.desc 15 13 + 1
/-- Slots of an EM table. -/
def WbTable.slots (d : WbTable) : Nat := 2 ^ (fld d.desc 12 10 + 12)
/-- First block and the block after the last of an EM table. -/
def WbTable.blocks (d : WbTable) : Nat × Nat := (fld d.desc 9 4, fld d.desc 9 4 + 2 ^ fld d.desc 12 10)

/-- Whether a descriptor's blocks run past block 63 or overlap another enabled EM table's (R482). -/
def Mach.wbClash (m : Mach) (t : Nat) (d : WbTable) : Bool :=
  let b := d.blocks
  decide (64 < b.2) || (List.range 64).any fun u =>
    let e := m.wbTable u
    u != t && e.en && decide (e.blocks.1 < b.2) && decide (b.1 < e.blocks.2)

/-- The entry of a key in an EM table. -/
def Mach.emFind (m : Mach) (t : Nat) (key : List Cell) : Option EmEntry :=
  m.waybill.em.find? fun e => e.table.toNat == t && e.key == key

/-- A key inserted or overwritten (R90): NOSPACE above 85 % fill, and where the part finds no place (a free value: entry
4); it can find none only with the stash full and two buckets full. -/
def Mach.emInsert (m : Mach) (t : Nat) (key : List Cell) (res : Dbl) : Mach × Nat :=
  let w := m.waybill
  match m.emFind t key with
  | some e => ({ m with waybill := { w with em := w.em.map fun x => if x = e then { e with res := res } else x } }, 0)
  | none =>
    let used := (w.em.filter fun e => e.table.toNat == t).length
    let add := { m with waybill := { w with em := w.em ++ [⟨BitVec.ofNat 7 t, key, res⟩] } }
    if 85 * (m.wbTable t).slots < 100 * used then (m, 13)
    else if w.em.length < 264 ∨ used < 8 then (add, 0)
    else if Config.insertFails m.free then (m.take, 13) else (add.take, 0)

/-- A key deleted: OK or NO. -/
def Mach.emDelete (m : Mach) (t : Nat) (key : List Cell) : Mach × Nat :=
  match m.emFind t key with
  | some e => ({ m with waybill := { m.waybill with em := m.waybill.em.erase e } }, 0)
  | none => (m, 1)

/-- A result in cells 1 and 2. -/
def resCells (r : Dbl) : List Cell := [Dbl.lo r, Dbl.hi r]

/-! ## Thread commands (R91) -/

/-- A lookup of a key. -/
def Mach.emLook (m : Mach) (t : Nat) (key : List Cell) : Mach × Cell × List Cell :=
  match m.emFind t key with
  | some e => (m, status 0 0, resCells e.res)
  | none => (m, status 1 0, [])

/-- EM. -/
def execEm (t : Tid) (slot : BitVec 2) (s : State) : Host.Outcome State Fault Refusal :=
  onThread t s fun m => m.helper t slot 0 0 fun m d =>
    let tb := m.wbTable d.arg
    if !tb.en ∨ d.narg ≠ tb.kcells then (m, status 9 0, []) else m.emLook d.arg d.ops

/-- Cells from nonets, marks ignored. -/
def plainCells : List Nonet → List Cell
  | a :: b :: r => ((octet b).setWidth 9 ++ (octet a).setWidth 9) :: plainCells r
  | _ => []

/-- EMX: the key is read from memory, marks ignored. -/
def execEmx (t : Tid) (slot : BitVec 2) (s : State) : Host.Outcome State Fault Refusal :=
  onThread t s fun m => m.helper t slot 0 1 fun m d =>
    let tb := m.wbTable d.arg
    if !tb.en ∨ d.narg ≠ 2 then (m, status 9 0, [])
    else
      match m.opRead t d.helm (d.addr 0) (2 * tb.kcells) with
      | (m, .error c) => (m, status c 0, [])
      | (m, .ok ns) => m.emLook d.arg (plainCells ns)

/-- INSERT: from a deck thread only into a table with LEARN. -/
def execInsert (t : Tid) (slot : BitVec 2) (s : State) : Host.Outcome State Fault Refusal :=
  onThread t s fun m => m.helper t slot 0 2 fun m d =>
    let tb := m.wbTable d.arg
    if !tb.en ∨ d.narg ≠ tb.kcells + 2 then (m, status 9 0, [])
    else if !d.helm && !tb.learn then (m, status 10 0, [])
    else
      let k := tb.kcells
      let r := m.emInsert d.arg (d.ops.take k) (mkDbl (d.ops.getD (k + 1) 0) (d.ops.getD k 0))
      (r.1, status r.2 0, [])

/-- DELETE. -/
def execDelete (t : Tid) (slot : BitVec 2) (s : State) : Host.Outcome State Fault Refusal :=
  onThread t s fun m => m.helper t slot 0 3 fun m d =>
    let tb := m.wbTable d.arg
    if !tb.en ∨ d.narg ≠ tb.kcells then (m, status 9 0, [])
    else if !d.helm && !tb.learn then (m, status 10 0, [])
    else
      let r := m.emDelete d.arg d.ops
      (r.1, status r.2 0, [])

/-- An address cut to its first n bits. -/
def prefixOf (a : BitVec 128) (n : Nat) : BitVec 128 := (a >>> (128 - n)) <<< (128 - n)

/-- The longest prefix of a table that matches an address. -/
def Mach.lpmFind (m : Mach) (t : Nat) (a : BitVec 128) : Option LpmEntry :=
  m.waybill.lpm.foldl (fun b e =>
    if e.table.toNat = t ∧ prefixOf a e.len = e.addr then
      match b with
      | some x => if x.len < e.len then some e else b
      | none => some e
    else b) none

/-- An address looked up in an LPM table; DETAIL is the prefix length. -/
def Mach.lpmLook (m : Mach) (t : Nat) (a : BitVec 128) : Mach × Cell × List Cell :=
  match m.lpmFind t a with
  | some e => (m, status 0 e.len, resCells e.res)
  | none => (m, status 1 0, [])

/-- Whether ARG names an enabled LPM table of an address family. -/
def Mach.lpmOk (m : Mach) (arg : Nat) (v6 : Bool) : Bool :=
  decide (arg < 16) && (m.wbTable (64 + arg)).en && (m.wbTable (64 + arg)).learn == v6

/-- LPM4. -/
def execLpm4 (t : Tid) (slot : BitVec 2) (s : State) : Host.Outcome State Fault Refusal :=
  onThread t s fun m => m.helper t slot 0 8 fun m d =>
    let hi := (d.ops.getD 0 0).toNat
    let lo := (d.ops.getD 1 0).toNat
    if d.narg ≠ 2 ∨ !m.lpmOk d.arg false ∨ 65536 ≤ hi ∨ 65536 ≤ lo then (m, status 9 0, [])
    else m.lpmLook (64 + d.arg) (BitVec.ofNat 128 ((hi * 65536 + lo) * 2 ^ 96))

/-- Sixteen octets of an address operand. -/
def Mach.key16 (m : Mach) (t : Tid) (d : Dock) : Mach × Except Nat (BitVec 128) :=
  match m.opRead t d.helm (d.addr 0) 16 with
  | (m, .error c) => (m, .error c)
  | (m, .ok ns) => (m, .ok (BitVec.ofNat 128 (beNat (ns.map octet))))

/-- LPM6. -/
def execLpm6 (t : Tid) (slot : BitVec 2) (s : State) : Host.Outcome State Fault Refusal :=
  onThread t s fun m => m.helper t slot 0 9 fun m d =>
    if d.narg ≠ 2 ∨ !m.lpmOk d.arg true then (m, status 9 0, [])
    else
      match m.key16 t d with
      | (m, .error c) => (m, status c 0, [])
      | (m, .ok k) => m.lpmLook (64 + d.arg) k

/-- A ternary entry. -/
def Mach.ternEntry (m : Mach) (i : Nat) : TernEntry := mget ⟨0, 0, 0⟩ m.waybill.tern i

/-- The lowest-numbered entry from i up, over n entries, that matches a key: a mask bit of 1 compares the key bit. -/
def Mach.ternFind (m : Mach) (k : BitVec 128) : Nat → Nat → Option Nat
  | 0, _ => none
  | n + 1, i =>
    let e := m.ternEntry i
    if (k ^^^ e.key) &&& e.mask = 0 then some i else m.ternFind k n (i + 1)

/-- TERN: the profile's range. -/
def execTern (t : Tid) (slot : BitVec 2) (s : State) : Host.Outcome State Fault Refusal :=
  onThread t s fun m => m.helper t slot 0 16 fun m d =>
    let tb := m.wbTable (80 + d.arg)
    if d.narg ≠ 2 ∨ 16 ≤ d.arg ∨ !tb.en then (m, status 9 0, [])
    else
      match m.key16 t d with
      | (m, .error c) => (m, status c 0, [])
      | (m, .ok k) =>
        let first := fld tb.desc 11 0
        match m.ternFind k (fld tb.desc2 11 0 + 1 - first) first with
        | some i => (m, status 0 i, resCells (m.ternEntry i).res)
        | none => (m, status 1 0, [])

/-! ## The window (R482) -/

/-- The selected table. -/
def Mach.wbSel (m : Mach) : Nat := (m.r .wbTsel).toNat
/-- WB_STAT.BUSY. -/
def Mach.wbBusy (m : Mach) : Bool := bit (m.r .wbStat) 17
/-- A command or write completes with a code: DONE, CODE. -/
def Mach.wbDone (m : Mach) (code : Nat) : Mach :=
  m.w .wbStat (BitVec.ofNat 18 (65536 + code * 4096))

/-- The bits of WB_TDESC that a table's kind stores (R482). -/
def tdescMask (t : Nat) : Cell := if t < 64 then 0x3FFF0 else if t < 80 then 0x30000 else if t < 96 then 0x20FFF else 0

/-- WB_TDESC written (R482). -/
def Mach.tdescWrite (m : Mach) (v : Cell) : Mach :=
  let t := m.wbSel
  let old := m.wbTable t
  if 96 ≤ t ∨ (old.en ∧ bit v 17) then m
  else
    let v := v &&& tdescMask t
    let v := if t < 64 ∧ fld v 12 10 = 7 then setFld v 12 10 6 else v
    let new := { old with desc := v }
    if new.en ∧ ((t < 64 ∧ m.wbClash t new) ∨ (80 ≤ t ∧ fld new.desc2 11 0 < fld v 11 0)) then m.wbDone 9
    else
      let m := m.setWbTable t new
      if t < 64 ∧ fld v 15 4 ≠ fld old.desc 15 4 then
        { m with waybill := { m.waybill with em := m.waybill.em.filter fun e => e.table.toNat != t } }
      else m

/-- WB_TDESC2 written: LAST of a ternary table. -/
def Mach.tdesc2Write (m : Mach) (v : Cell) : Mach :=
  let t := m.wbSel
  if 80 ≤ t ∧ t < 96 then m.setWbTable t { m.wbTable t with desc2 := v &&& 0xFFF } else m

/-- The sixteen octets of eight key or mask registers, two in bits 15:0 of each. -/
def Mach.wbOctets (m : Mach) (r : Reg) : BitVec 128 :=
  (List.range 8).foldl (fun a j => (a <<< 16) ||| ((m.r r j).extractLsb' 0 16).setWidth 128) 0
/-- The key cells of an EM command. -/
def Mach.wbCells (m : Mach) (t : Nat) : List Cell := (List.range (m.wbTable t).kcells).map fun j => m.r .wbKey j
/-- WB_RES as a double. -/
def Mach.wbResult (m : Mach) : Dbl := mkDbl (m.r .wbRes 1) (m.r .wbRes 0)
/-- WB_RES loaded. -/
def Mach.setWbResult (m : Mach) (d : Dbl) : Mach := (m.w .wbRes (Dbl.lo d) 0).w .wbRes (Dbl.hi d) 1

/-- A prefix from WB_KEY and WB_MASK0, or none where its length is out of range for the table. -/
def Mach.wbPrefix (m : Mach) (t : Nat) : Option (BitVec 128 × Nat) :=
  let n := fld (m.r .wbMask 0) 7 0
  if (if (m.wbTable t).learn then 128 else 32) < n then none else some (prefixOf (m.wbOctets .wbKey) n, n)

/-- The prefix entry of a table, address and length. -/
def Mach.lpmAt (m : Mach) (t : Nat) (a : BitVec 128) (n : Nat) : Option LpmEntry :=
  m.waybill.lpm.find? fun e => e.table.toNat == t && e.addr == a && e.len == n

/-- Prefixes of an address family that are in use (R90). -/
def Mach.lpmUsed (m : Mach) (v6 : Bool) : Nat :=
  (m.waybill.lpm.filter fun e => (m.wbTable e.table.toNat).learn == v6).length

/-- Window insert, delete and read by key on the selected table: the block and the code (R482). -/
def Mach.wbRun (m : Mach) (op : Nat) : Mach × Nat :=
  let t := m.wbSel
  if t < 64 then
    let d := m.wbTable t
    let key := m.wbCells t
    if !d.en && m.wbClash t d then (m, 9)
    else
      match op with
      | 1 => m.emInsert t key m.wbResult
      | 2 => m.emDelete t key
      | _ => match m.emFind t key with
        | some e => (m.setWbResult e.res, 0)
        | none => (m, 1)
  else if t < 80 then
    match m.wbPrefix t with
    | none => (m, 9)
    | some (a, n) =>
      let w := m.waybill
      match op, m.lpmAt t a n with
      | 1, some e => ({ m with waybill := { w with lpm := w.lpm.map fun x => if x = e then { e with res := m.wbResult } else x } }, 0)
      | 1, none =>
        let v6 := (m.wbTable t).learn
        if (if v6 then 16384 else 65536) ≤ m.lpmUsed v6 then (m, 13)
        else ({ m with waybill := { w with lpm := w.lpm ++ [⟨BitVec.ofNat 7 t, a, n, m.wbResult⟩] } }, 0)
      | 2, some e => ({ m with waybill := { w with lpm := w.lpm.erase e } }, 0)
      | _, some e => (m.setWbResult e.res, 0)
      | _, none => (m, 1)
  else (m, 9)

/-- Window write and read of a ternary entry. -/
def Mach.wbTern (m : Mach) (write : Bool) (i : Nat) : Mach × Nat :=
  if 96 ≤ m.wbSel then (m, 9)
  else if write then
    let e : TernEntry := ⟨m.wbOctets .wbKey, m.wbOctets .wbMask, m.wbResult⟩
    ({ m with waybill := { m.waybill with tern := mset ⟨0, 0, 0⟩ m.waybill.tern i e } }, 0)
  else
    let e := m.ternEntry i
    let m := (List.range 8).foldl (fun m j =>
      (m.w .wbKey (BitVec.ofNat 18 (fld e.key (127 - 16 * j) (112 - 16 * j))) j).w .wbMask
        (BitVec.ofNat 18 (fld e.mask (127 - 16 * j) (112 - 16 * j))) j) m
    (m.setWbResult e.res, 0)

/-- WB_CMD written (R482): OP 0 is no command, OP 6 and 7 complete at once with BADCMD, the others run and stay BUSY until
WB_CMD_DONE. -/
def Mach.wbCommand (m : Mach) (v : Cell) : Mach :=
  let op := fld v 17 15
  if m.wbBusy ∨ op = 0 then m
  else if 6 ≤ op then m.wbDone 8
  else
    let r := if op < 4 then m.wbRun op else m.wbTern (op == 4) (fld v 11 0)
    let m := r.1.w .wbStat (setBit (r.1.r .wbStat) 17 true)
    { m with waybill := { m.waybill with code := BitVec.ofNat 4 r.2 } }

/-- WB_CMD_DONE. -/
def execWbCmdDone (s : State) : Host.Outcome State Fault Refusal :=
  done s (if s.m.wbBusy then s.m.wbDone s.m.waybill.code.toNat else s.m)

end Sys2Proof.Machine
end

