-- ==== Sys2Proof/Machine/Power.lean ====
section
/-!
DEFINITION. Power and the states of locks (R368, R395 to R400, R408, R409): what a domain loses when it goes off, the
power handshake, admission, parking, and the exchange of roles of BLK_REMAP (R17, R410, R412).
-/
namespace Sys2Proof.Machine

/-! ## What a domain that goes off loses -/

/-- The register cells of an address range back at their reset values, but those a test keeps. -/
def Mach.dropRegs (m : Mach) (lo hi : Nat) (keep : Nat → Bool := fun _ => false) : Mach :=
  { m with regs := m.regs.filter fun e => !(decide (lo ≤ e.1) && decide (e.1 < hi) && !keep e.1) }

/-- Whether a memory key lies in a lock's stowage. -/
def inStow (p k : Nat) : Bool := decide (stowKey (16 * p) 0 ≤ k) && decide (k < stowKey (16 * p + 16) 0)
/-- Whether a memory key lies in a lock's basin banks. -/
def inBasin (p k : Nat) : Bool := (List.range 17).any fun b => inBank p b k

/-- The threads of a lock or of the tollkeepers lost: of each there stays a slot whose command a unit still holds, its result to be
discarded (R79, R398). -/
def Mach.loseThreads (m : Mach) (u : Nat) : Mach :=
  (m.listed u).foldl (fun m t => m.updThr t fun x =>
    { threadReset t.toNat with docks := x.docks.map fun d => if d.drop.owed = .nothing then Dock.empty else d.drop }) m

/-- A lock's state lost (R398): all of it but the epoch, what R326 keeps until PORST_N, and in retention the basin. -/
def Mach.loseLock (m : Mach) (p : Nat) (st : LockState) (basin : Bool) : Mach :=
  let k := m.lock p
  let banks := (List.range 16).filter fun b => m.retired p b
  let m := m.dropRegs (0x8300000 + p * 0x10000) (0x8300000 + (p + 1) * 0x10000)
  let m := m.withLines [(31, 37)] fun m => m.loseThreads p
  let m := { m with cores := m.cores.filter (fun e => e.1 / 16 != p),
                    counts := m.counts.filter fun e => !(decide (coreCntKey (16 * p) 0 ≤ e.1) &&
                      decide (e.1 < coreCntKey (16 * p + 16) 0)) }
  let m := m.zeroWhere fun a => inStow p a || (!basin && inBasin p a)
  let m := m.updLock p fun _ =>
    { Lock.off with state := st, epoch := k.epoch, everAdmitted := k.everAdmitted, spareRetired := k.spareRetired }
  (banks.foldl (fun m b => m.wubit .plBank p 14 true b) m).reServe p

/-- What the switched domains other than the locks lose (R397, R430; the units' domains are those of each chapter, and entry
63 for the registers that no chapter places). -/
def Mach.loseUnit (m : Mach) (d : Nat) : Mach :=
  match d with
  | 1 =>
    let m := (m.dropRegs 0x80B0000 0x80C0000).dropRegs 0x8000200 0x8000400
    let m := m.loseThreads 31
    let m := { m with cores := m.cores.filter (fun e => e.1 < 272), d0 := { m.d0 with tkHeldA := true, tkHeldB := true }, dict := Mach.reset.dict }
    let m := m.zeroWhere fun a => decide (stowKey 272 0 ≤ a) && decide (a < stowKey 274 0)
    (m.w .blkTkstat (m.r .blkTkstat &&& 0x200FF)).w .blkTkwd (Reg.reset .blkTkwd 0)
  | 2 =>
    let m := m.dropRegs 0x8000000 0x8010000 fun a =>
      a == 0x8000070 || a == 0x8000198 || a == 0x800019A || (decide (0x8000200 ≤ a) && decide (a < 0x8000400))
    let m := (m.dropRegs 0x8020000 0x8030000).dropRegs 0x8070000 0x8080000
    { m with bollards := [], links := [], host := Mach.reset.host, evac := none, xchg := none, oldVecs := [] }
  | 3 =>
    let m := m.abandonCmds 4
    { ((m.dropRegs 0x8030000 0x8032000).dropRegs 0x8034000 0x8040000).dropRegs 0x18034000 0x18040000 with
             iqs := [], doms := [] }
  | 4 =>
    let m := m.abandonCmds 2
    let m := (m.dropRegs 0x8032000 0x8034000).dropRegs 0x8040000 0x8050000
    let kept := m.sluice.filters.filterMap fun e =>
      let f : Filter := { Filter.reset with counts := e.2.counts }
      if f = Filter.reset then none else some (e.1, f)
    { m with gates := [], sluice := { Mach.reset.sluice with filters := kept },
             eqs := m.eqs.filterMap fun e =>
               let q : Eq := { Eq.idle with stamps := e.2.stamps, ovf := e.2.ovf }
               if q = Eq.idle then none else some (e.1, q) }
  | 5 =>
    let m := (m.abandonCmds 0).abandonCmds 1
    { m.dropRegs 0x8050000 0x8070000 with waybill := Mach.reset.waybill, sealU := Mach.reset.sealU }
  | 6 => { m.dropRegs 0x8080000 0x8090000 (fun a => a == 0x8080002 || a == 0x8080004) with keep := none, keepScrub := 0 }
  | _ => m

/-- The power state of a domain set. -/
def Mach.setPower (m : Mach) (d : Nat) (p : Power) : Mach :=
  { m with d0 := { m.d0 with power := mset .off m.d0.power d p } }

/-- A domain switched off. -/
def Mach.powerOff (m : Mach) (d : Nat) : Mach :=
  let m := m.setPower d .off
  if 7 ≤ d then m.loseLock (d - 7) (if (m.lock (d - 7)).state = .unfit then .unfit else .off) false else m.loseUnit d

/-! ## The handshake (R368) -/

/-- The next domain that waits is requested, once the handshake is free. -/
def Mach.pwrNext (m : Mach) : Mach :=
  match m.d0.hs, m.d0.wantDoms with
  | .idle, d :: r => { m with d0 := { m.d0 with hs := .requested d, wantDoms := r } }
  | _, _ => m

/-- A domain commanded ON: it changes, and its handshake comes in its turn. -/
def Mach.pwrRequest (m : Mach) (d : Nat) : Mach :=
  if m.power d = .off ∨ m.power d = .retention then
    let m := m.setPower d .changing
    { m with d0 := { m.d0 with wantDoms := m.d0.wantDoms ++ [d] } }.pwrNext
  else m

/-- PWRUP_GNT (R368): a rise while PWRUP_REQ is 0 is counted. -/
def execPwrupGnt (s : State) : Host.Outcome State Fault Refusal :=
  let m := s.m
  done s (match m.d0.hs with
    | .requested d => { m with d0 := { m.d0 with hs := .powering d } }
    | .powering _ => m
    | _ => m.count 0x7450 4)

/-- A domain that reached power good: a lock is HELD (R398), and with D5 the life-cycle controller loads its two slots
(R449). -/
def Mach.powerOn (m : Mach) (d : Nat) : Mach :=
  let m := m.setPower d .on
  if 7 ≤ d then m.updLock (d - 7) fun k => if k.state = .unfit then k else { k with state := .held }
  else if d = 5 then (m.setCmacKey 2 m.d0.custKey).setCmacKey 3 m.d0.makerKey
  else m

/-- POWER_GOOD (R368): PWRUP_REQ falls. -/
def execPowerGood (s : State) : Host.Outcome State Fault Refusal :=
  let m := s.m
  done s (match m.d0.hs with
    | .powering d => { m.powerOn d with d0 := { (m.powerOn d).d0 with hs := .falling d } }
    | _ => m)

/-- The end of a handshake: PWRUP_GNT falls. -/
def Mach.gntFall (m : Mach) : Mach :=
  match m.d0.hs with
  | .falling _ => { m with d0 := { m.d0 with hs := .idle } }.pwrNext
  | _ => m

/-- PWRUP_REQ and PWRUP_DOM as the block drives them. -/
def Mach.pwrPins (m : Mach) : Bool × Nat :=
  match m.d0.hs with
  | .requested d => (true, d)
  | .powering d => (true, d)
  | .falling d => (false, d)
  | .idle => (false, 0)

/-! ## PWR_DOMd (R397) -/

/-- STATE of PWR_ISO. -/
def Mach.isoState (m : Mach) : Nat := fld (m.r .pwrIso) 15 14

/-- Whether isolation has reached step 3 of R430: QUIESCING with every frame that was accepted out of the block and every
quay detached, and no evacuation under way (R466); or ISOLATED. -/
def Mach.isoStep3 (m : Mach) : Bool :=
  m.isoState == 2 ||
    (m.isoState == 1 && m.evac.isNone &&
      (List.range 16).all (fun q => !bit (m.r .qiCtl q) 17 && !bit (m.r .qeCtl q) 17 && (m.iq q).frame.isNone &&
        (m.iq q).ended.isEmpty && (m.iq q).waiting.isEmpty) &&
      (List.range 17).all (fun p => (m.lock p).queue.isEmpty) && m.threads.all (fun e => e.2.mf == 0) &&
      m.gates.all (fun e => e.2.held.isEmpty && e.2.pairs.isEmpty) &&
      m.sluice.quays.all (fun e => e.2.fly.all List.isEmpty && e.2.lane.all List.isEmpty) &&
      m.eqs.all (fun e => e.2.cur.isNone) && m.host.rx.all (fun e => e.2.isEmpty))

/-- Whether OFF of a domain is accepted. -/
def Mach.offOk (m : Mach) (d : Nat) : Bool :=
  if d = 0 then false
  else if 7 ≤ d then (m.lock (d - 7)).parked
  else if d = 5 then
    !bit (m.r .sealCtl) 17 && m.waybill.tables.all fun e => !(decide (80 ≤ e.1) && bit e.2.desc 17)
  else m.isoStep3

/-- PWR_DOMd written. -/
def Mach.pwrWrite (m : Mach) (d : Nat) (v : Cell) : Mach :=
  let m := if bit v 13 then m.wbit .pwrDom 13 false d else m
  match fld v 15 14 with
  | 1 => m.pwrRequest d
  | 2 =>
    if !m.offOk d then m.wbit .pwrDom 13 true d
    else if d = 1 then (m.powerOff 1).w .pwrIso (setFld (m.r .pwrIso) 15 14 2)
    else m.powerOff d
  | 3 =>
    if 7 ≤ d ∧ (m.lock (d - 7)).parked then (m.setPower d .retention).loseLock (d - 7) .retained true
    else m.wbit .pwrDom 13 true d
  | _ => m

/-- PWR_DOMd as read. -/
def Mach.pwrRead (m : Mach) (d : Nat) : Cell :=
  let st := match m.power d with
    | .off => 0
    | .on => 1
    | .retention => 2
    | .changing => 3
  setFld (m.r .pwrDom d) 17 16 st

/-! ## Lock states (R395, R396, R400, R408, R409) -/

/-- The code of a state. -/
def LockState.code : LockState → Nat
  | .off => 0
  | .held => 1
  | .retained => 2
  | .spare => 3
  | .serving => 4
  | .draining => 5
  | .unfit => 6
  | .admitting => 7

/-- PL_STATE as read. -/
def Mach.plStateRead (m : Mach) (p : Nat) : Cell :=
  let k := m.lock p
  setFld (setFld (m.ru .plState p) 17 15 k.state.code) 7 0 k.epoch.toNat

/-- BLK_LOCKMAPn as read: the epoch is that of the lock. -/
def Mach.lockmapRead (m : Mach) (n : Nat) : Cell := setFld (m.r .blkLockmap n) 12 5 (m.lock (m.plockOf n)).epoch.toNat

/-- READY of the spare (R409). -/
def Mach.spareReady (m : Mach) : Bool :=
  (m.lock m.spare).state == .spare && (tidsOf m.spare).all fun t => (m.thr t).hasBerthed && !(m.thr t).faulted

/-- BLK_SPARE as read. -/
def Mach.spareRead (m : Mach) : Cell :=
  setBit (setFld (m.r .blkSpare) 12 5 (m.lock m.spare).epoch.toNat) 17 m.spareReady

/-- A lock parked: its records leave every unit (R79, R126, R127, R400). -/
def Mach.parkLock (m : Mach) (p : Nat) : Mach :=
  let m := m.loseBollardsOf (m.listed p)
  let m := (m.listed p).foldl (fun m t =>
    (m.freeCtx t).updThr t fun x =>
      { x.dropTickets with resv := none, wdArmed := false, wait := none, ended := [], park := .none, haltReq := none }) m
  m.updLock p fun k => { k with state := .held }

/-- PARK; it waits for a shov-family instruction under way on a thread of the lock (R211). -/
def Mach.park_ (m : Mach) (p : Nat) : Mach :=
  let mine := fun (e : Nat × Option ShovHold) => e.1 / 128 == p && e.2.isSome
  if m.shovs.any mine then
    { m with shovs := m.shovs.map fun e => if mine e then (e.1, e.2.map fun h => { h with parks := true }) else e }
  else m.parkLock p

/-- A command of PL_STATE that is not accepted. -/
def Mach.plRefuse (m : Mach) (p : Nat) : Mach := (m.wubit .plState p 11 true).count 0x7B00 9

/-- Whether ADMIT is accepted (R396). -/
def Mach.admitOk (m : Mach) (p : Nat) : Bool :=
  let k := m.lock p
  k.state == .held && k.copy.isNone && k.march.isNone && (List.range 16).all fun x => m.ru .wlVer (16 * p + x) != 0

/-- A physical lock as the SOURCE of a dump (R432). -/
def lockSource (p : Nat) : Dbl := BitVec.ofNat 36 (0x800000000 + p)

/-- PL_STATE written. -/
def Mach.plStateWrite (m : Mach) (p : Nat) (v : Cell) : Mach :=
  let m := if bit v 11 then m.wubit .plState p 11 false else m
  let m := if !bit v 14 then m
    else if m.admitOk p then m.updLock p fun k => { k with state := .admitting } else m.plRefuse p
  let m := if !bit v 13 then m
    else if (m.lock p).state = .spare then m.park_ p else m.plRefuse p
  if !bit v 12 then m
  else if (m.lock p).state = .held then (m.updLock p fun k => { k with state := .unfit }).dumpCause 3 (lockSource p)
  else m.plRefuse p

/-- Whether some unit still holds a record of a lock: a dock that awaits a result, a bollard, a flit (R400). -/
def Mach.recorded (m : Mach) (p : Nat) : Bool :=
  let of_ := fun (r : BitVec 20) => Tid.lock (refTid r) == p
  m.threads.any (fun e => e.1 / 128 == p && e.2.docks.any fun d => d.owed != .nothing || d.state == .busy) ||
    m.bollards.any (fun e => (match e.2.owner with
      | some r => of_ r
      | none => false) || e.2.waiters.any of_) ||
    m.links.any (fun e => e.2.waiting.any (fun f => f.ref.any of_) || e.2.flying.any (fun f => f.1.ref.any of_) ||
      e.2.buffered.any fun f => f.1.ref.any of_)

/-- A thread as admission leaves it (R144, R262, R274, R408). -/
def Thread.admitted (x : Thread) : Thread :=
  { x.resetTo 0 with sb := [], docks := List.replicate 4 Dock.empty, halted := false, cause := 0, bySession := false,
                     haltReq := none }

/-- Admission completes (R400, R408): every thread at its reset entry, caches, predictor, pools and event state empty, the
epoch raised, the lock SERVING if it is mapped and SPARE if not. -/
def Mach.admitDone (m : Mach) (p : Nat) : Mach :=
  let m := (List.range 16).foldl (fun m x =>
    (m.icDrop (16 * p + x) fun _ => true).updCore (16 * p + x) fun c => { c with pred := [], main := none, reserved := none })
    (m.lccDrop p fun _ => true)
  let m := m.withLines [(p, 35), (31, 37)] fun m => (m.listed p).foldl (fun m t => m.updThr t Thread.admitted) m
  let m := (tidsOf p).foldl (fun m t => m.takeSlot t) m
  let m := (List.range 32).foldl (fun m i => (m.wu .evtPend p 0 i).wu .evtAct p 0 i) m
  let served := (List.range 16).any fun l => m.plockOf l == p
  m.updLock p fun k =>
    { k with state := if served then .serving else .spare, epoch := k.epoch + 1, everAdmitted := true, queue := [],
             holds := [], slots := [] }

/-- Admission of a lock ends once no unit and no flit names it under its previous epoch. -/
def Mach.admitStep (m : Mach) (p : Nat) : Mach :=
  if (m.lock p).state = .admitting ∧ !m.recorded p then m.admitDone p else m

/-! ## The lock map (R17, R410, R412) -/

/-- STATE of BLK_EVAC: 0 IDLE, 1 COPYING, 2 COPIED, 3 DRAINING, 4 EXPIRED. -/
def Mach.evacState (m : Mach) : Nat := fld (m.r .blkEvac) 15 13
/-- STATE of BLK_EVAC set. -/
def Mach.setEvac (m : Mach) (v : Nat) : Mach := m.w .blkEvac (setFld (m.r .blkEvac) 15 13 v)

/-- The roles of the lock that serves n and the spare exchanged; the former spare serves. -/
def Mach.exchange (m : Mach) (n : Nat) : Mach :=
  let old := m.plockOf n
  let new := m.spare
  let m := m.w .blkLockmap (setFld (m.r .blkLockmap n) 4 0 new) n
  let m := m.w .blkSpare (setFld (m.r .blkSpare) 4 0 old)
  m.updLock new fun k => { k with state := .serving }

/-- The switch of an evacuation (R412). -/
def Mach.switchOver (m : Mach) (n : Nat) : Mach :=
  let v := m.plockOf n
  let s := m.spare
  let k := m.lock v
  let m := m.exchange n
  let m := m.updLock v fun k => { k with state := .draining, queue := [], holds := [], slots := [] }
  let m := m.updLock s fun q => { q with queue := q.queue ++ k.queue, holds := k.holds, slots := k.slots }
  let m := (List.range 28).foldl (fun m i =>
    m.wu .evtPend s (m.ru .evtPend s (i + 4) ||| m.ru .evtPend v (i + 4)) (i + 4)) m
  ({ m with evac := m.evac.map fun (e : Evac) => { e with switched := m.now } }.setEvac 3).wakeEvents s

/-- BLK_REMAP written by the active tollkeeper. -/
def Mach.remapWrite (m : Mach) (v : Cell) : Mach :=
  let n := fld v 8 5
  let serving := (m.lock (m.plockOf n)).state = .serving
  let copied := m.evacState == 2 && fld (m.r .blkEvac) 3 0 == n && (match m.evac with
    | some e => e.lock.val == n
    | none => false)
  if fld v 4 0 ≠ m.spare ∨ !m.spareReady then m.count 0x7000 4
  else if !bit v 17 then m
  else if !serving then m.exchange n
  else if copied then m.switchOver n
  else m.count 0x7000 4

end Sys2Proof.Machine
end

