-- ==== Sys2Proof/Machine/Evac.lean ====
section
/-!
DEFINITION. Evacuation of a lock and the move of a thread (R410 to R417), the exchange of images (R420 to R422), failover
triggers, watchdogs, recalibration (R423 to R429) and the clocks of quays (R371).
-/
namespace Sys2Proof.Machine

/-! ## Evacuation -/

/-- Whether GO is accepted (R410). -/
def Mach.evacGoOk (m : Mach) (n : Nat) : Bool :=
  let v := m.plockOf n
  let s := m.spare
  m.evacState == 0 && m.spareReady && (m.lock v).state == .serving && m.serves v == 0x1F && m.serves s == 0x1F &&
    (m.lock v).march.isNone && (m.lock s).march.isNone &&
    (List.range 16).all fun x => m.ru .wlVer (16 * v + x) == m.ru .wlVer (16 * s + x)

/-- The evacuation of a logical lock begins: its basins form a pair (R411). -/
def Mach.evacStart (m : Mach) (n : Nat) : Mach :=
  { m with evac := some ⟨Fin.ofNat 17 (m.plockOf n), Fin.ofNat 17 m.spare, Fin.ofNat 16 n, 0⟩ }.setEvac 1

/-- The pairing ended before the switch (R417). -/
def Mach.evacEnd (m : Mach) : Mach := { m with evac := none }.setEvac 0

/-- BLK_EVAC written. -/
def Mach.evacWrite (m : Mach) (v : Cell) : Mach :=
  let r := m.r .blkEvac
  let r := if bit v 11 then setBit r 11 false else r
  let m := m.w .blkEvac (setFld (setBit r 12 (bit v 12)) 3 0 (fld v 3 0))
  let m := if bit v 16 ∧ (m.evacState = 1 ∨ m.evacState = 2) then m.evacEnd else m
  if !bit v 17 then m
  else if m.evacGoOk (fld v 3 0) then m.evacStart (fld v 3 0)
  else m.wbit .blkEvac 11 true

/-- One basin bank of the victim copied to the spare lock's (R320, R411). -/
def Mach.copyBasin (m : Mach) (v s : Nat) : Mach :=
  let shift := fun k => basinKey s (k - basinKey v 0)
  let inV := fun k => decide (basinKey v 0 ≤ k) && decide (k < basinKey v 0 + 0x200000)
  let m := m.zeroWhere fun k => decide (basinKey s 0 ≤ k) && decide (k < basinKey s 0 + 0x200000)
  let m := (m.mem.filter fun e => inV e.1).foldl (fun m e => m.put1 (shift e.1) e.2) m
  (m.ecc.filter fun e => inV (8 * e.1)).foldl (fun m e =>
    let off := 8 * e.1 - basinKey v 0
    let m := m.scrubWord v (off / 8 % 16) (off / 128)
    if e.2 = 2 then (m.setEcc (shift (8 * e.1) / 8) 2).count (0x7A00 + s) 3 else m) m

/-- EVAC_COPY_DONE (R411): STATE becomes COPIED. -/
def execEvacCopyDone (s : State) : Host.Outcome State Fault Refusal :=
  let m := s.m
  done s (match m.evac with
    | some e => if m.evacState = 1 then (m.copyBasin e.victim.val e.spare.val).setEvac 2 else m
    | none => m)

/-- The victim's threads that hold a frame (BLK_EVLEFT.LEFT). -/
def Mach.evacHolders (m : Mach) : List Tid :=
  match m.evac with
  | some e => if 3 ≤ m.evacState then (m.listed e.victim.val).filter fun t => (m.thr t).mf != 0 else []
  | none => []

/-- Whether the victim is drained: no thread holds a frame, and every store buffer is empty. -/
def Mach.drained (m : Mach) : Bool :=
  match m.evac with
  | some e => m.evacHolders.isEmpty && (m.listed e.victim.val).all fun t => (m.thr t).sb.isEmpty
  | none => false

/-- The end of an evacuation (R414): the victim is parked, its records dropped. -/
def Mach.evacFinish (m : Mach) : Mach :=
  match m.evac with
  | some e => if 3 ≤ m.evacState ∧ m.drained then ({ m with evac := none }.parkLock e.victim.val).setEvac 0 |>.count 0x7B00 1 else m
  | none => m

/-- EVAC_DRAIN_DONE. -/
def execEvacDrainDone (s : State) : Host.Outcome State Fault Refusal := done s s.m.evacFinish

/-- The thread of the spare at the same core and number. -/
def Mach.twin (m : Mach) (t : Tid) : Tid :=
  match m.evac with
  | some e => mkTid e.spare.val (Tid.core t) (Tid.num t)
  | none => t

/-- Whether a victim's thread takes the fault of R414 at expiry: T0, any thread under LATEPOL, and one that a debugger's halt
keeps from its move (R466). -/
def Mach.faultsLate (m : Mach) (t : Tid) : Bool :=
  Tid.num t == 0 || bit (m.r .blkEvac) 12 || (m.thr t).debugHalted || (m.thr (m.twin t)).debugHalted

/-- Whether DRAIN µs have passed since the switch (R414). -/
def Mach.drainPast (m : Mach) : Bool := m.evac.any fun e => m.past e.switched (1000 * fld (m.r .blkEvdrain) 13 0)

/-- EVAC_DRAIN_EXPIRE (R414): STATE becomes EXPIRED; each thread that is not to be moved takes a thread fault with TFC 4. -/
def execEvacDrainExpire (s : State) : Host.Outcome State Fault Refusal :=
  let m := s.m
  done s (if m.evacState = 3 ∧ !m.evacHolders.isEmpty ∧ m.drainPast then
      (m.evacHolders.filter m.faultsLate).foldl (fun m t => (m.threadFault t 4).count 0x7B00 3) (m.setEvac 4)
    else m)

/-! ## The move of a thread (R415) -/

/-- A halt requested for a move. -/
def Mach.moveHalt (m : Mach) (t : Tid) : Mach :=
  m.updThr t fun x => if x.halted then x else { x with haltReq := some (x.haltReq.getD 6) }

/-- A bollard record rewritten from one reference to another. -/
def Bollard.rename (b : Bollard) (x y : BitVec 20) : Bollard :=
  { b with owner := b.owner.map (fun r => if r = x then y else r), waiters := b.waiters.map fun r => if r = x then y else r }

/-- Whether GO is accepted for s and d. -/
def Mach.moveOk (m : Mach) (s d : Tid) : Bool :=
  let x := m.thr s
  let y := m.thr d
  x.halted && y.halted && !x.debugHalted && !y.debugHalted && !x.faulted && !y.faulted && x.shadow.isNone &&
    x.docks.all (fun k => k.state == .free && k.owed == .nothing) && (m.evacState == 3 || m.evacState == 4)

/-- The move completed: bollard records, priority record, watchdog and a due trap pass to d; s is reset, d released. -/
def Mach.moveDone (m : Mach) (s d : Tid) : Mach :=
  let x := m.thr s
  let rs := m.refOf s
  let rd := m.refOf d
  let m := (mkeys m.bollards fun _ b => b.owner == some rs || b.waiters.contains rs).foldl
    (fun m k => m.updBol k fun b => b.rename rs rd) m
  let m := m.updThr d fun y =>
    { m.armAgain { y with wdLeft := x.wdLeft, wdBudget := x.wdBudget } with
             cls := x.cls, inh := x.inh, waited := 0, wdArmed := x.wdArmed, wait := x.wait, ended := x.ended,
             tally := { y.tally with due := x.tally.due }, halted := false, cause := 0, berthed := false, park := .none }
  let m := m.setThr s { x.resetTo 0 with halted := false, cause := 0 }
  ((m.flushPred s).takeSlot s).count 0x7B00 2

/-- BLK_MOVE written. -/
def Mach.moveWrite (m : Mach) (v : Cell) : Mach :=
  let r := m.r .blkMove
  let r := if bit v 14 then setBit r 14 false else r
  let m := m.w .blkMove (setFld r 6 0 (fld v 6 0))
  match m.evac with
  | none => if bit v 16 then m.wbit .blkMove 14 true else m
  | some e =>
    let s := mkTid e.victim.val (fld v 6 3) (fld v 2 0)
    let d := mkTid e.spare.val (fld v 6 3) (fld v 2 0)
    let m := if bit v 17 then (m.moveHalt s).moveHalt d else m
    if !bit v 16 then m
    else if m.moveOk s d then m.moveDone s d
    else m.wbit .blkMove 14 true

/-- BLK_MOVE as read: BUSY while a halt of the pair is still to come. -/
def Mach.moveRead (m : Mach) : Cell :=
  let r := m.r .blkMove
  match m.evac with
  | none => r
  | some e =>
    let waits := fun p => (m.thr (mkTid p (fld r 6 3) (fld r 2 0))).haltReq == some 6
    setBit r 15 (waits e.victim.val || waits e.spare.val)

/-! ## The exchange of images (R420 to R422) -/

/-- BLK_XCHG written: one exchange is ordered; while one is under way a write orders none. -/
def Mach.xchgWrite (m : Mach) (v : Cell) : Mach :=
  let m := if bit v 14 then m.wbit .blkXchg 14 false else m
  if m.xchg.isSome then m
  else if bit v 17 then { m with xchg := some 0 }
  else if bit v 16 then { m with xchg := some 1 }
  else if bit v 15 then { m with xchg := some 2 }
  else m

/-- BLK_XCHG as read. -/
def Mach.xchgRead (m : Mach) : Cell := setBit (setBit (m.r .blkXchg) 13 m.ppOld) 12 m.xchg.isSome

/-- STATEFMT of an image entry (R405). -/
def Mach.stateFmt (m : Mach) (kind slot : Nat) : Cell :=
  match m.dirCopy with
  | some c => m.dirCell c (dirEntry kind slot) 1
  | none => 0

/-- Whether an exchange is refused (R420). -/
def Mach.xchgRefused (m : Mach) (kind : Nat) : Bool :=
  let new := 1 - m.actSlot kind
  !m.imageOk kind new || (kind == 1 && m.ppOld) ||
    (kind == 0 && (!bit (m.r .blkTkstat) 14 || m.stateFmt 0 new != m.stateFmt 0 (1 - new)))

/-- The other slot of a kind made active. -/
def Mach.flipAct (m : Mach) (kind : Nat) : Mach := m.w .keepAct (setFld (m.r .keepAct) kind kind (1 - m.actSlot kind))

/-- BLK_KENTRYk and every lock's vectors from the entry of the active packet program (R405, R421). -/
def Mach.loadEntries (m : Mach) : Mach :=
  match m.dirCopy with
  | none => m
  | some c =>
    let e := dirEntry 1 (m.actSlot 1)
    let cell := fun i => m.dirCell c (e + 2 + i / 4) (i % 4)
    (List.range 16).foldl (fun m i =>
      (List.range 17).foldl (fun m p => m.wu .evtVec p (cell (i + 16) &&& 0x2FFFF) i) (m.w .blkKentry (cell i &&& 0x2FFFF) i)) m

/-- The packet-program exchange (R421). -/
def Mach.xchgPp (m : Mach) : Mach :=
  let old : Map Cell := (List.range (17 * 16)).filterMap fun i =>
    let v := m.ru .evtVec (i / 16) (i % 16)
    if v = 0 then none else some (i, v)
  ({ m with oldVecs := old }.flipAct 1).loadEntries.dropCode 1 fun _ => true

/-- The exchange that was ordered performed or refused once the check is complete. A firmware exchange is a failover to the
new slot (R422). -/
def Mach.xchgCheck (m : Mach) : Mach :=
  match m.xchg with
  | none => m
  | some k =>
    let m := { m with xchg := none }
    if m.xchgRefused k.toNat then m.wbit .blkXchg 14 true
    else
      match k with
      | 0 => ((m.flipAct 0).dropCode 0 fun _ => true).failover
      | 1 => m.xchgPp
      | _ => m.flipAct 2

/-! ## Tollkeepers (R423 to R427) -/

/-- BLK_TKCTL written by the active tollkeeper: SWITCH is a failover trigger. -/
def Mach.tkctlWrite (m : Mach) (v : Cell) : Mach := if bit v 17 then m.tkTrigger else m

/-- BLK_TKWD written: the period; SVC restarts the count of the tollkeeper whose thread writes. -/
def Mach.tkwdWrite (m : Mach) (v : Cell) (who : Master) : Mach :=
  let m := m.w .blkTkwd (BitVec.ofNat 18 (max 10 (fld v 15 0)))
  match who with
  | .thread t => if bit v 17 then m.tkService (Tid.core t) else m
  | _ => m

/-- Whether a tollkeeper's watchdog has counted its period; the firmware starts it at step 8 (R402). -/
def Mach.tkwdPast (m : Mach) (b : Nat) : Bool :=
  decide (8 ≤ fld (m.r .pwrBoot) 17 14) &&
    m.past (if b = 0 then m.d0.tkSvcA else m.d0.tkSvcB) (1000 * fld (m.r .blkTkwd) 15 0)

/-- Whether a tollkeeper's watchdog is frozen (R427). -/
def Mach.tkFrozen (m : Mach) (b : Nat) : Bool :=
  bit (m.r .dbgCtl) 17 && (List.range 8).any fun i =>
    let x := m.thr (mkTid 31 b i)
    x.halted && !x.faulted

/-- Whether a tollkeeper runs. -/
def Mach.tkRuns (m : Mach) (b : Nat) : Bool := m.isOn 1 && !(if b = 0 then m.d0.tkHeldA else m.d0.tkHeldB)

/-- TK_WATCHDOG_EXPIRE (R427): a trigger on the active tollkeeper; the standby is reset, and MIRROR_OK clears. -/
def execTkWatchdogExpire (b : Bool) (s : State) : Host.Outcome State Fault Refusal :=
  let m := s.m
  let n := b2n b
  done s (if !m.tkRuns n ∨ m.tkFrozen n ∨ !m.tkwdPast n then m
    else if m.activeTk = n then m.tkTrigger
    else ((m.restartTk n).wbit .blkTkstat 14 false).tkOk n false)

/-- The active tollkeeper's stowage copied to the standby's (R423). -/
def Mach.mirrorStow (m : Mach) : Mach :=
  let a := stowKey (272 + m.activeTk) 0
  let b := stowKey (273 - m.activeTk) 0
  let at_ := fun (x k : Nat) => decide (x ≤ k) && decide (k < x + 0x4000)
  let m := m.zeroWhere (at_ b)
  let m := (m.mem.filter fun e => at_ a e.1).foldl (fun m e => m.put1 (b + (e.1 - a)) e.2) m
  (m.ecc.filter fun e => at_ a (8 * e.1)).foldl (fun m e => m.setEcc ((b + (8 * e.1 - a)) / 8) e.2) m

/-- MIRROR_COMPLETE (R423, R425 step 4): a former active that was held is released as standby; MIRROR_OK when its windlass
carries the active's version. -/
def execMirrorComplete (s : State) : Host.Outcome State Fault Refusal :=
  let m := s.m
  let b := 1 - m.activeTk
  done s (if !m.isOn 1 then m
    else
      let m := m.mirrorStow
      let m := if m.tkRuns b then m.tkOk b true else m.holdTk b false
      m.wbit .blkTkstat 14 (m.ru .wlVer (272 + m.activeTk) == m.ru .wlVer (272 + b)))

/-! ## The block watchdog (R429) -/

/-- PWR_BWD written: EN stays once set, PER takes the nearer limit. -/
def Mach.bwdWrite (m : Mach) (v : Cell) : Mach :=
  let on := bit (m.r .pwrBwd) 17
  let m := m.w .pwrBwd (setBit (setFld v 15 0 (min 60000 (max 10 (fld v 15 0)))) 17 (bit v 17 || on))
  if bit v 17 && !on then { m with d0 := { m.d0 with bwdAt := m.tb.mono } } else m

/-- PWR_BWDSVC written by a master. The firmware's writes are those of the active tollkeeper's helm threads; another thread's
are ignored. -/
def Mach.bwdService (m : Mach) (v : Cell) (who : Master) : Mach :=
  if who ≠ .host ∧ !m.isActiveTk who then m
  else if v = 0x05A5A then { m with d0 := { m.d0 with bwdAt := m.tb.mono } }
  else m.count 0x7B00 5

/-- PWR_BWDLEFT as read: ms left of the running count. -/
def Mach.bwdLeft (m : Mach) : Cell :=
  if bit (m.r .pwrBwd) 17 then BitVec.ofNat 18 (fld (m.r .pwrBwd) 15 0 - (m.tb.mono - m.d0.bwdAt).toNat / 1000000) else 0

/-- Whether the block watchdog is frozen: both tollkeepers halted, as R427 says it of one, at FULL access with FREEZE_WD (DEDUCED entry
68). -/
def Mach.bwdFrozen (m : Mach) : Bool :=
  let full := match m.d0.session with
    | some e => e.level == 2
    | none => false
  full && m.tkFrozen 0 && m.tkFrozen 1

/-- A REFCLK cycle that a frozen watchdog does not count (R427, R429): its count stands still until the release. -/
def Mach.holdFrozen (m : Mach) : Mach :=
  let d := m.d0
  let d := if m.tkFrozen 0 then { d with tkSvcA := d.tkSvcA + 4 } else d
  let d := if m.tkFrozen 1 then { d with tkSvcB := d.tkSvcB + 4 } else d
  { m with d0 := if m.bwdFrozen then { d with bwdAt := d.bwdAt + 4 } else d }

/-- BWD_EXPIRE: with no ms left, BLK_FLT.BWD, and with ACTION the restart of R426 of both tollkeepers. -/
def execBwdExpire (s : State) : Host.Outcome State Fault Refusal :=
  let m := s.m
  done s (if !bit (m.r .pwrBwd) 17 ∨ m.bwdFrozen ∨ m.bwdLeft ≠ 0 then m
    else
      let m := m.fltCause 3
      let m := { m with d0 := { m.d0 with bwdAt := m.tb.mono } }
      if !bit (m.r .pwrBwd) 16 ∨ !m.isOn 1 then m
      else
        let m := m.tkRestart
        let b := 1 - m.activeTk
        if m.tkRuns b then m.restartTk b else m)

/-! ## Recalibration (R428) and the clocks of quays -/

/-- PL_PACECAL written: RUN of a HELD lock starts a recalibration, which PACE_CAL_DONE ends. -/
def Mach.pacecalWrite (m : Mach) (p : Nat) (v : Cell) : Mach :=
  let m := m.wu .plPacecal p (m.ru .plPacecal p &&& ~~~(v &&& 0x18000))
  if bit v 17 ∧ (m.lock p).state = .held then m.updLock p fun k => { k with calibrating := true } else m

/-- PACE_CAL_DONE: TRIM, DONE, and LOW with the pace event. -/
def execPaceCalDone (p : PLock) (trim : BitVec 8) (low : Bool) (s : State) : Host.Outcome State Fault Refusal :=
  let m := s.m
  let p := p.val
  done s (if !(m.lock p).calibrating then m
    else
      let m := m.updLock p fun k => { k with calibrating := false }
      let v := setFld (setBit (m.ru .plPacecal p) 16 true) 7 0 trim.toNat
      if low then (((m.wu .plPacecal p (setBit v 15 true)).count 0x7B00 7).faultSource 31 32).wakeEvents 31
      else m.wu .plPacecal p v)

/-- CLKOK_CHANGE (R371): CLKOK of a quay. -/
def execClkokChange (egress : Bool) (q : Quay) (ok : Bool) (s : State) : Host.Outcome State Fault Refusal :=
  done s (if egress then s.m.wbit .qeCtl 13 ok q.val else s.m.wbit .qiPhy 15 ok q.val)

/-- FAULT_HOLD_END (R366): 1 µs after its entry the pair returns to OK when nothing holds it at FAULT. -/
def execFaultHoldEnd (s : State) : Host.Outcome State Fault Refusal :=
  done s (if s.m.past s.m.d0.fltAt 1000 then { s.m with d0 := { s.m.d0 with fltHold := false } } else s.m)

end Sys2Proof.Machine
end

