-- ==== Sys2Proof/Machine/Micro.lean ====
section
/-!
DEFINITION. What the built-in routines of the windlass share: progress in a context or a shadow, yield points and waits (R206, R224,
R306, R307), the lazy Tally save (R263), and a half-context restored into a thread (R210).
-/
namespace Sys2Proof.Machine

/-! ## Progress (R206, R308) -/

/-- What an element of a block operation comes to: done, an uncorrectable word, an error of the host, or a wait for the host. -/
inductive BlockOut where
  | ok
  | bad (a : Nat)
  | refused (a : Nat)
  | wait
  deriving DecidableEq, Repr

/-- A step of a block operation on the block and the routine's state. -/
abbrev BlockStep := Mach → Shadow → Mach × Shadow × BlockOut

/-- The state of a built-in routine: MT0, MT2 and MT3; MT1 holds the index of its next element in bits 5:0 and the value of
the element A in bits 33:6 (DESIGN CHOICE entry 20). -/
def builtinShadow (entry : BitVec 11) (ptr mask extra : Nat) : Shadow :=
  ⟨BitVec.ofNat 36 ptr, 0, BitVec.ofNat 36 mask, BitVec.ofNat 36 extra, false, false, false, [], entry, 0, false, 0⟩

/-- The index of the next element. -/
def Shadow.index (h : Shadow) : Nat := fld h.mt1 5 0
/-- The index of the next element set. -/
def Shadow.at_ (h : Shadow) (i : Nat) : Shadow := { h with mt1 := setFld h.mt1 5 0 i }
/-- The loaded value of the element A, which is written when `ldm` completes (R205). -/
def Shadow.held (h : Shadow) : DAddr := BitVec.ofNat 28 (fld h.mt1 33 6)
/-- The element A loaded. -/
def Shadow.hold (h : Shadow) (a : DAddr) : Shadow := { h with mt1 := setFld h.mt1 33 6 a.toNat }

/-- The progress a thread's shadow holds of a built-in routine. -/
def Thread.progress (x : Thread) (entry : BitVec 11) : Option Shadow :=
  x.shadow.filter fun h => !h.cust && h.mpc == entry

/-- The shadow is read back: the routine goes on in its context (R308). -/
def Mach.endProgress (m : Mach) (t : Tid) : Mach := m.updThr t fun x => { x with shadow := none, shWords := [] }

/-- Whether a yield point is honoured: an event or a halt request is presented to the thread, or another thread waits for the
context (R224, R306, R458). -/
def Mach.wantsYield (m : Mach) (t : Tid) : Bool :=
  !(m.thr t).stepping && ((m.thr t).haltReq.isSome || (m.presented t).isSome || m.contextWanted t)

/-- A routine's state saved in its thread's shadow, and its context freed (R306, R307). -/
def Mach.microSave (m : Mach) (t : Tid) (h : Shadow) : Mach :=
  (m.updThr t fun x => { x with shadow := some h, shWords := [] }).freeCtx t

/-- A routine that waits keeps its context (R224). -/
def Mach.holdCtx (m : Mach) (t : Tid) (h : Shadow) : Mach :=
  if (m.ctxOf t).isSome then
    let put := fun (k : Option Ctx) => k.map fun k => if k.tid = t then { k with sh := h } else k
    m.updCore (Tid.coreNo t) fun k => { k with main := put k.main, reserved := put k.reserved }
  else
    let c : Ctx := ⟨t, 0, h, 0, false, 0, false⟩
    m.updCore (Tid.coreNo t) fun k => if m.usesReserved t then { k with reserved := some c } else { k with main := some c }

/-- The steps of a block operation from an index on: a fault or an honoured yield keeps the index of the element to go on at;
outside a protected run every step but the last is followed by a yield point. -/
def Mach.runSteps (m : Mach) (t : Tid) (guarded : Bool) (fin : Mach → Shadow → Mach) : Shadow → List BlockStep → Mach
  | h, [] => fin (m.freeCtx t) h
  | h, f :: r =>
    let n := (f m h).1
    let k := (f m h).2.1
    match (f m h).2.2 with
    | .bad a => (n.microSave t k).mcheck t 1 a
    | .refused a => (n.microSave t k).dataFault t 5 false .block a
    | .wait => n.holdCtx t k
    | .ok =>
      let k := k.at_ (k.index + 1)
      if !r.isEmpty && !guarded && n.wantsYield t then (n.updThr t Thread.landAll).microSave t k
      else n.runSteps t guarded fin k r

/-- A routine begun or taken up: it waits while four transactions of its thread are outstanding (R36). -/
def Mach.begins (m : Mach) (t : Tid) (f : Mach → Mach) : Mach :=
  let m := m.flushMem t
  if 4 ≤ (m.thr t).txns then m.park t .retry else f m

/-- n nonets read, with the record of an error and what it comes to. -/
def Mach.readBlock (m : Mach) (t : Tid) (a n : Nat) : Mach × BlockOut × List Nonet :=
  (m.noteN (some t) a n, if m.badN (some t) a n then .bad a else .ok, m.rdN (some t) a n)

/-! ## The lazy Tally save (R263) -/

/-- Whether the first Tally use of a handler has the state to save. -/
def Mach.saveDue (m : Mach) (t : Tid) : Bool :=
  let x := m.thr t
  x.fdepth != 0 && !bit (m.rdCell (some t) (frameAddr t (x.fdepth.toNat - 1) + 6)) 17

/-- One basin word of the save: the Tally slot of the top frame. -/
def lazyStep (t : Tid) (j : Nat) : BlockStep := fun m h =>
  let x := m.thr t
  (m.wrCells t (frameAddr t (x.fdepth.toNat - 1) + 32 + 8 * j) ((x.tally.cells.drop (4 * j)).take 4), h, .ok)

/-- The save from a word on, and what the instruction does then; an event taken at a yield point leaves the instruction unissued. -/
def Mach.lazyRun (m : Mach) (t : Tid) (h : Shadow) (f : Mach → Mach) : Mach :=
  (m.endProgress t).begins t fun m =>
    m.runSteps t (!(m.thr t).atBoundary) (fun m _ =>
      let st := frameAddr t ((m.thr t).fdepth.toNat - 1) + 6
      f (m.wrCell (some t) st (setBit (m.rdCell (some t) st) 17 true))) h (((List.range 5).drop h.index).map (lazyStep t))

/-- A Tally syllable after the save that it may need (R263): the save waits for every earlier Tally operation. -/
def Mach.withSave (m : Mach) (t : Tid) (f : Mach → Mach) : Mach :=
  if !m.saveDue t then f m
  else m.routine t 0x080 fun m => (m.drainTally t).lazyRun t (((m.thr t).progress 0x080).getD (builtinShadow 0x080 0 0 0)) f

/-! ## Half-contexts (R209, R210) -/

/-- The 64 cells of a save area (R209): `hi` for the upper half, `p` the saved P. -/
def Thread.areaCells (x : Thread) (hi : Bool) (id : Tid) (next : Dbl) (p : BitVec 21) : List Cell :=
  let b := x.norm
  let depths := b.rs.length * 32 + b.ds.length
  let head := dcells next ++ [BitVec.ofNat 18 ((if hi then 2 else 1) * 65536 + depths), id.setWidth 18]
  let body := if hi then
      ((List.range 16).map fun i => b.ds.getD i 0) ++ (x.tally.f.flatMap fun d => dcells d) ++ [x.tally.tsr]
    else
      dcells (p.setWidth 20) ++ [b.flg, x.lvl.setWidth 18] ++ dcells b.a ++ dcells b.b ++ [x.i, 0] ++ dcells x.u ++
        (List.range 16).flatMap fun i => dcells (b.rs.getD i 0)
  (List.range 64).map fun i => (head ++ body).getD i 0

/-- A half restored into a thread from the cells of an area (R210). A saved depth above 16 is taken as 16 (DESIGN CHOICE
entry 22). -/
def Thread.restoreHalf (x : Thread) (cs : List Cell) : Thread :=
  let c := fun i => cs.getD i 0
  let d := fun i => mkDbl (c (i + 1)) (c i)
  let rd := min 16 (fld (c 2) 9 5)
  let dd := min 16 (fld (c 2) 4 0)
  let x := { x with resv := none, shadow := none, shWords := [] }
  if fld (c 2) 17 16 = 2 then
    { x with norm := { x.norm with ds := (List.range dd).map fun i => c (4 + i) }, tally := x.tally.ofCells (cs.drop 20) }
  else
    { x with p := BitVec.ofNat 21 (fld (d 4) 19 0), lvl := BitVec.ofNat 4 (fld (c 7) 3 0), i := c 12, u := (d 14).setWidth 28,
             norm := { x.norm with flg := c 6 &&& flgMask, a := (d 8).setWidth 28, b := (d 10).setWidth 28,
                                   rs := (List.range rd).map fun i => (d (16 + 2 * i)).setWidth 20 } }

/-- A half restored into a thread of the block: its Tally operations complete first where the half holds Tally state, and a
lower half flushes its predictor entries (R233). -/
def Mach.restoreInto (m : Mach) (id : Tid) (cs : List Cell) : Mach :=
  let m := m.dropShovs id
  if fld (cs.getD 2 0) 17 16 = 2 then
    let m := m.drainTally id
    m.setThrH id ((m.thr id).restoreHalf cs)
  else (m.setThrH id ((m.thr id).restoreHalf cs)).flushPred id

end Sys2Proof.Machine
end

