-- ==== Sys2Proof/Machine/Debug.lean ====
section
/-!
DEFINITION. Debug and life cycle behind the registers of D0: run control (R456 to R461), sessions (R435, R446, R461), block
reset (R438, R439), challenges and transitions (R446 to R453), virtual terminals (R464).
-/
namespace Sys2Proof.Machine

/-! ## Run control -/

/-- The threads that a run command names (R456). -/
def runTargets (tk all : Bool) (t : Tid) : List Tid :=
  if tk then (if all then tidsOf 31 else [mkTid 31 (t.toNat / 8 % 2) (t.toNat % 8)])
  else if 16 < Tid.lock t then []
  else if all then tidsOf (Tid.lock t)
  else [t]

/-- A thread released by the debugger (R456). -/
def Mach.resumeThread (m : Mach) (t : Tid) : Mach := m.updThr t m.released

/-- A release; while a shov-family instruction is under way on the thread it waits for its end (R211). -/
def Mach.releaseThread (m : Mach) (t : Tid) : Mach :=
  match m.shovOn t with
  | some h => { m with shovs := mset none m.shovs t.toNat (some { h with release := true }) }
  | none => m.resumeThread t

/-- The half-context of an area restored into a thread (R460); none where its KIND is not 1 or 2. -/
def Mach.loadHalf (m : Mach) (t : Tid) (area : Nat) : Option Mach :=
  let cs := (List.range 64).map fun i => m.rdCell none (area + 2 * i)
  let kind := fld (cs.getD 2 0) 17 16
  if kind = 1 ∨ kind = 2 then some (m.restoreInto t cs) else none

/-- One run command on one thread, or none where it is not accepted. -/
def Mach.runOne (m : Mach) (op : Nat) (wire : Bool) (area : Nat) (t : Tid) : Option Mach :=
  let x := m.thr t
  let runs := m.coreRuns t
  let held := x.halted && !x.faulted && runs
  match op with
  | 1 =>
    if x.faulted || !runs then none
    else if x.halted then some m
    else some (m.updThr t fun x => { x with haltReq := some 1, bySession := wire })
  | 2 => if held then some (m.releaseThread t) else none
  | 3 =>
    if held then some (m.updThr t fun x => { x with halted := false, cause := 0, stepping := true, bySession := wire }) else none
  | 4 => some (m.threadRst t)
  | 5 => if held && x.shadow.isNone then m.loadHalf t area else none
  | _ => none

/-- A run command on every thread it names: whether one of them refused it (R456). -/
def Mach.runAll (m : Mach) (op : Nat) (wire : Bool) (area : Nat) (ts : List Tid) : Mach × Bool :=
  ts.foldl (fun r t =>
    match r.1.runOne op wire area t with
    | some m => (m, r.2)
    | none => (r.1, true)) (m, ts.isEmpty)

/-- A run command: REFUSED where a thread does not accept it. -/
def Mach.run (m : Mach) (op : Nat) (tk all : Bool) (t : Tid) (wire : Bool) (area : Nat) : Mach × Bool :=
  let m := { m with d0 := { m.d0 with lastRun := some (tk, all, t) } }
  let r := m.runAll op wire area (runTargets tk all t)
  (if r.2 then r.1.wbit .dbgRstat 16 true else r.1, r.2)

/-- DBG_ARG. -/
def Mach.dbgArg (m : Mach) : Nat := (m.r .dbgArg 0).toNat + fld (m.r .dbgArg 1) 9 0 * 0x40000

/-- DBG_RUN written. -/
def Mach.dbgRunWrite (m : Mach) (v : Cell) : Mach :=
  if fld v 17 15 = 0 then m else (m.run (fld v 17 15) (bit v 14) (bit v 13) (BitVec.ofNat 12 (fld v 11 0)) false m.dbgArg).1

/-- The threads that the last run command named. -/
def Mach.lastRun (m : Mach) : List Tid :=
  match m.d0.lastRun with
  | some (tk, all, t) => runTargets tk all t
  | none => []

/-- Whether the last run command is still to complete: a halt not yet taken, or a step (R441, R456). -/
def Mach.runBusy (m : Mach) : Bool := m.lastRun.any fun t => (m.thr t).haltReq.isSome || (m.thr t).stepping

/-- DBG_RSTAT as read: HALTED and CAUSE of the last thread named. -/
def Mach.rstatRead (m : Mach) : Cell :=
  let v := setBit (m.r .dbgRstat) 17 m.runBusy
  match m.lastRun.getLast? with
  | some t =>
    let x := m.thr t
    setFld (setBit v 15 x.halted) 14 12 (if x.halted && x.cause != 6 then x.cause.toNat else 0)
  | none => v

/-! ## Sessions (R435, R437, R446, R461) -/

/-- The level that a life-cycle state leaves open (R446). -/
def openLevel (lc : Nat) : BitVec 2 := if lc ≤ 1 then 2 else if lc = 2 then 1 else 0

/-- The session ends: LOUD and BRKHALT clear, the threads it halted are released, a step of its completes (R461, R462). -/
def Mach.endSession (m : Mach) : Mach :=
  if m.d0.session.isNone then m
  else
    let m := (m.wbit .dbgCtl 16 false).wbit .dbgCtl 15 false
    let m := ((m.threads.filter fun e => e.2.bySession).map fun e => BitVec.ofNat 12 e.1).foldl (fun m t =>
      let x := m.thr t
      let m := m.setThr t { x with bySession := false, stepping := x.stepping && x.faulted,
                                   haltReq := if x.haltReq = some 1 && !x.faulted then none else x.haltReq }
      if x.halted && !x.faulted && x.cause != 6 then m.releaseThread t else m) m
    { m with d0 := { m.d0 with session := none, pulse := none } }

/-- A session opened (R446). -/
def Mach.openSession (m : Mach) : Mach :=
  let m := m.endSession
  { m with d0 := { m.d0 with session := some ⟨openLevel m.d0.lcState.toNat, none, [], [], 0, false, false, m.now, 0⟩ } }

/-- The level of the session. -/
def Mach.sessionLevel (m : Mach) : Nat :=
  match m.d0.session with
  | some e => e.level.toNat
  | none => 0

/-- DBG_STAT as read. -/
def Mach.dbgStatRead (m : Mach) : Cell :=
  setFld (setFld (setBit (m.r .dbgStat) 17 m.d0.session.isSome) 16 15 m.sessionLevel) 14 12 m.d0.lcState.toNat

/-! ## Block reset (R438, R439) -/

/-- A block reset begins: D1 to D23 off, D0 kept, the PORST cause set. Start-up follows at its end. -/
def Mach.blockReset (m : Mach) : Mach :=
  let m := (List.range 23).foldl (fun m i => m.powerOff (i + 1)) m
  let m := { m with d0 := { m.d0 with hs := .idle, wantDoms := [], lineLow := true, resuming := false, powerFail := false } }
  (m.w .pwrIso 0).fltCause 1

/-- DBG_CTL written: BRESET gives a block reset. -/
def Mach.dbgCtlWrite (m : Mach) (v : Cell) : Mach :=
  let m := m.w .dbgCtl (v &&& 0x3C000)
  if bit v 13 then m.blockReset else m

/-! ## The life-cycle record (R450) -/

/-- A cell of a record copy, by word and cell. -/
def Mach.lcCell (m : Mach) (copy word cell : Nat) : Cell :=
  BitVec.ofNat 18 (pack ((List.range 2).map fun i => m.mem1 (keepKey (m.physPage (0x40A + copy)) (8 * word + 2 * cell + i))))
/-- n nonets of a record copy from a word on. -/
def Mach.lcNonets (m : Mach) (copy word n : Nat) : List Nonet :=
  (List.range n).map fun i => m.mem1 (keepKey (m.physPage (0x40A + copy)) (8 * word + i))

/-- Whether a copy is valid. -/
def Mach.lcValid (m : Mach) (copy : Nat) : Bool :=
  m.lcNonets copy 0 2 == [0x4C, 0x43] && m.lcCell copy 0 1 == 1 &&
    m.lcCell copy 0 3 == (nonetCrc (m.lcNonets copy 1 64)).setWidth 18 &&
    m.lcCell copy 1 0 ^^^ m.lcCell copy 1 1 == 0x3FFFF

/-- The copy that the controller takes. -/
def Mach.lcCopy (m : Mach) : Option Nat :=
  match m.lcValid 0, m.lcValid 1 with
  | true, true => some (if laterGen (m.lcCell 1 0 2) (m.lcCell 0 0 2) then 1 else 0)
  | true, false => some 0
  | false, true => some 1
  | false, false => none

/-- A key of 16 nonets. -/
def recordKey (ns : List Nonet) : BitVec 128 := BitVec.ofNat 128 (beNat (ns.map octet))

/-- The record read (R402 step 4, R450): with no valid copy the block behaves as FIELD-SEALED. -/
def Mach.lcLoad (m : Mach) : Mach :=
  match m.lcCopy with
  | some c =>
    { m with d0 := { m.d0 with
        lcState := BitVec.ofNat 3 (fld (m.lcCell c 1 0) 2 0), ckey := bit (m.lcCell c 1 2) 17, lcBad := false,
        lcTrans := m.lcCell c 1 3, makerKey := recordKey (m.lcNonets c 2 16), custKey := recordKey (m.lcNonets c 4 16) } }
  | none => { m with d0 := { m.d0 with lcState := 3, ckey := false, lcBad := true, lcTrans := 0, makerKey := 0, custKey := 0 } }

/-- Nonets put into a record copy. -/
def Mach.lcPut (m : Mach) (copy word : Nat) (ns : List Nonet) : Mach :=
  let k := keepKey (m.physPage (0x40A + copy)) (8 * word)
  (ns.zipIdx).foldl (fun m e => (m.put1 (k + e.2) e.1).setEcc ((k + e.2) / 8) 0) m

/-- A record copy written from D0's state. -/
def Mach.lcCopyWrite (m : Mach) (copy : Nat) (gen : Cell) : Mach :=
  let cells := fun (cs : List Cell) => cs.flatMap fun c => unpack c.toNat 2
  let st : Cell := m.d0.lcState.setWidth 18
  let key := fun (k : BitVec 128) => (beOctets k.toNat 16).map nonet
  let body := cells [st, st ^^^ 0x3FFFF, BitVec.ofNat 18 (b2n m.d0.ckey * 0x20000), m.d0.lcTrans] ++ key m.d0.makerKey ++
    key m.d0.custKey ++ List.replicate 24 0
  let m := m.lcPut copy 1 body
  m.lcPut copy 0 ([0x4C, 0x43] ++ cells [1, gen, (nonetCrc body).setWidth 18])

/-- The record written: the copy not taken first, under GEN + 1 (R450). -/
def Mach.lcSave (m : Mach) : Mach :=
  match m.lcCopy with
  | none => m
  | some c =>
    let gen := m.lcCell c 0 2 + 1
    (m.lcCopyWrite (1 - c) gen).lcCopyWrite c gen

/-! ## Transitions (R448, R451) -/

/-- Whether a transition exists, and whether its key is the customer's (R448). -/
def lcRule (src dst : Nat) : Option Bool :=
  if src = 0 ∧ dst = 1 then some false
  else if src = 1 ∧ dst = 2 then some true
  else if src = 2 ∧ dst = 3 then some true
  else if (src = 1 ∨ src = 2 ∨ src = 3) ∧ dst = 4 then some true
  else if (src = 0 ∨ src = 4) ∧ dst = 5 then some false
  else if (src = 1 ∨ src = 2 ∨ src = 3) ∧ dst = 5 then some true
  else none

/-- Whether a keep key lies in what entry to RETURN erases (R331, R451): customer pages, and in each microcode image the
customer regions and the decode table. -/
def Mach.erased (m : Mach) : List (Nat × Nat) :=
  let pages := ((List.range 0x200).map (0x200 + ·)) ++ ((List.range 0x3B0).map (0x410 + ·))
  let whole := pages.map fun p => (keepKey (m.physPage p) 0, 0x1000)
  let mc := (List.range 2).flatMap fun s =>
    let pg := 0x400 + 4 * s
    [(keepKey (m.physPage pg) 0xE00, 0x200), (keepKey (m.physPage (pg + 2)) 0xC00, 0x400), (keepKey (m.physPage (pg + 3)) 0, 128)]
  whole ++ mc

/-- The erasure of R451. -/
def Mach.erase (m : Mach) : Mach :=
  let rs := m.erased
  m.zeroWhere fun k => decide (0x40000000 ≤ k) && rs.any fun r => decide (r.1 ≤ k) && decide (k < r.1 + r.2)

/-- A transition carried out: the record, the end of every session, the count; RETURN and VOID reset the block (R448,
R451). -/
def Mach.lcEnter (m : Mach) (st : Nat) : Mach :=
  let m := if st = 4 then m.erase else m
  let d := { m.d0 with lcState := BitVec.ofNat 3 st, lcTrans := m.d0.lcTrans + 1 }
  let d := if st = 4 then { d with custKey := 0, ckey := false } else d
  let m := ({ m with d0 := d }.lcSave.endSession).count 0x7C00 2
  if st = 4 ∨ st = 5 then m.blockReset else m

/-! ## Challenges (R449) -/

/-- The tag of a challenge. -/
def Mach.lcTag (m : Mach) (cust : Bool) (target : BitVec 8) (nonce : BitVec 64) : BitVec 64 :=
  let os : List (BitVec 8) := [0x4C, 0x43, target, m.d0.lcState.setWidth 8] ++ beOctets Config.serial.toNat 16 ++ beOctets nonce.toNat 8
  BitVec.ofNat 64 (beNat ((aesCmac (m.cmacKey (if cust then 2 else 3)) os).take 8))

/-- A challenge failed: AUTHFAIL, the count, and CHAL refused for 1 s. -/
def Mach.authFail (m : Mach) : Mach :=
  let m := (m.wbit .dbgStat 10 true).count 0x7C00 1
  { m with d0 := { m.d0 with lockout := true, lockAt := m.now } }

/-- Whether a target is one of R441's encodings. -/
def targetOk (target : BitVec 8) : Bool :=
  target == 1 || target == 2 || (decide (0x10 ≤ target.toNat) && decide (target.toNat ≤ 0x15))

/-- What a TARGET asks for: nothing more than the state leaves open, a level or transition under a key, or what no rule
permits. -/
inductive Ask where
  | granted
  | keyed (cust : Bool)
  | denied
  deriving DecidableEq, Repr

/-- A target judged by the state (R446, R448). -/
def Mach.ask (m : Mach) (target : BitVec 8) : Ask :=
  let lc := m.d0.lcState.toNat
  let n := target.toNat
  if n = 1 ∨ n = 2 then
    if n ≤ (openLevel lc).toNat then .granted
    else if lc = 2 ∧ n = 2 then .keyed true
    else if lc = 3 ∧ n = 1 then .keyed true
    else if lc = 4 then .keyed false
    else .denied
  else
    match lcRule lc (n - 16) with
    | some cust => if m.d0.lcBad ∨ (n = 18 ∧ !m.d0.ckey) then .denied else .keyed cust
    | none => .denied

/-- The outcome of a challenge: a STATUS code (R442), and the transition it makes. The nonce has been consumed. -/
def Mach.judge (m : Mach) (nonce : Option (BitVec 8 × BitVec 64)) (target : BitVec 8) (tag : BitVec 64) : Mach × Nat :=
  match nonce with
  | none => (m.authFail, 8)
  | some (g, n) =>
    if g ≠ target then (m.authFail, 8)
    else
      match m.ask target with
      | .denied => (m, 3)
      | .granted => (m, 0)
      | .keyed cust =>
        if !m.isOn 5 then (m, 9)
        else if m.lcTag cust target n ≠ tag then (m.authFail, 8)
        else if 16 ≤ target.toNat then (m.lcEnter (target.toNat - 16), 0)
        else (m, 0)

/-- CODE of LC_STAT set. -/
def Mach.lcCode (m : Mach) (c : Nat) : Mach := m.w .lcStat (setFld (m.r .lcStat) 10 7 c)

/-- LC_CHAL written. -/
def Mach.lcChalWrite (m : Mach) (v : Cell) : Mach :=
  let g := BitVec.ofNat 8 (fld v 7 0)
  if m.d0.lockout then m.lcCode 8
  else if !m.isOn 5 then m.lcCode 9
  else if !targetOk g then m.lcCode 2
  else { m.take with d0 := { m.d0 with lcNonce := some (g, Config.nonce m.free) } }.lcCode 0

/-- LC_NONCEk as read. -/
def Mach.lcNonceRead (m : Mach) (k : Nat) : Cell :=
  match m.d0.lcNonce with
  | some (_, n) => BitVec.ofNat 18 (fld n (63 - 16 * k) (48 - 16 * k))
  | none => 0

/-- LC_CMD written: GO checks the tag of LC_TAG and performs the transition that LC_CHAL named (R448, R449). -/
def Mach.lcCmdWrite (m : Mach) (v : Cell) : Mach :=
  if !bit v 17 then m
  else
    let tag : BitVec 64 := BitVec.ofNat 64 (((List.range 4).map fun k => fld (m.r .lcTag k) 15 0).foldl (fun a x => a * 65536 + x) 0)
    let nonce := m.d0.lcNonce
    let g := (nonce.getD (0, 0)).1
    let m := { m with d0 := { m.d0 with lcNonce := none } }
    let r := if nonce.isSome ∧ g.toNat < 16 then (m, 3) else m.judge nonce g tag
    (r.1.lcCode r.2).wbit .lcStat 11 true

/-- LC_STAT as read. -/
def Mach.lcStatRead (m : Mach) : Cell :=
  setBit (setBit (setFld (m.r .lcStat) 17 15 m.d0.lcState.toNat) 14 m.d0.ckey) 13 m.d0.lcBad

/-- LC_KDATA written: 16 bits of the customer key, the eighth storing it (R452). -/
def Mach.lcKdataWrite (m : Mach) (v : Cell) : Mach :=
  if m.d0.lcState ≠ 1 ∨ m.d0.ckey ∨ m.d0.lcBad then m.lcCode 6
  else
    let st := m.d0.stagedKey ++ [BitVec.ofNat 16 (fld v 15 0)]
    if st.length < 8 then { m with d0 := { m.d0 with stagedKey := st } }
    else
      let k : BitVec 128 := BitVec.ofNat 128 (st.foldl (fun a x => a * 65536 + x.toNat) 0)
      let m := { m with d0 := { m.d0 with stagedKey := [], custKey := k, ckey := true } }.lcSave
      if m.isOn 5 then m.setCmacKey 2 k else m

/-- AUTH_LOCKOUT_END (R449): one second after a failure CHAL is accepted again. -/
def execAuthLockoutEnd (s : State) : Host.Outcome State Fault Refusal :=
  done s (if s.m.past s.m.d0.lockAt 1000000000 then { s.m with d0 := { s.m.d0 with lockout := false } } else s.m)

/-! ## Virtual terminals (R464) -/

/-- A terminal. -/
def Mach.vt (m : Mach) (n : Nat) : Vt := mget Vt.empty m.d0.vts n
/-- A terminal changed. -/
def Mach.updVt (m : Mach) (n : Nat) (f : Vt → Vt) : Mach :=
  { m with d0 := { m.d0 with vts := mset Vt.empty m.d0.vts n (f (m.vt n)) } }

/-- An octet added to an output queue of 16. -/
def Mach.vtOut (m : Mach) (n : Nat) (o : BitVec 8) : Mach :=
  m.updVt n fun v => if v.out.length < 16 then { v with out := v.out ++ [o] } else { v with ovf := true }
/-- Octets added to an input queue, all or none. -/
def Mach.vtIn (m : Mach) (n : Nat) (os : List (BitVec 8)) : Mach × Bool :=
  if (m.vt n).inp.length + os.length ≤ 16 then (m.updVt n fun v => { v with inp := v.inp ++ os }, true) else (m, false)

/-- VALID and the octet of a queue's head. -/
def vtHead (q : List (BitVec 8)) : Cell :=
  match q with
  | o :: _ => 0x20000 ||| o.setWidth 18
  | [] => 0

/-- The terminal that DBG_VTSEL names, if there is one. -/
def Mach.vtSel (m : Mach) : Option Nat :=
  let n := fld (m.r .dbgVtsel) 8 0
  if n < 274 then some n else none

/-- DBG_VTOUT as read. -/
def Mach.vtoutGet (m : Mach) (quiet : Bool) : Mach × Cell :=
  match m.vtSel with
  | some n => (if quiet then m else m.updVt n fun v => { v with out := v.out.tail }, vtHead (m.vt n).out)
  | none => (m, 0)
/-- DBG_VT_RX as read by a thread's core. -/
def Mach.vtRxGet (m : Mach) (n : Nat) (quiet : Bool) : Mach × Cell :=
  (if quiet then m else m.updVt n fun v => { v with inp := v.inp.tail }, vtHead (m.vt n).inp)
/-- DBG_VT_TX as read: FREE of the own core's output queue. To a master without a core it reads 16, its reset value (DESIGN CHOICE entry
101). -/
def Mach.vtTxRead (m : Mach) (own : Option Nat) : Cell :=
  match own with
  | some n => BitVec.ofNat 18 (16 - (m.vt n).out.length)
  | none => 16
/-- DBG_VTSTAT as read. -/
def Mach.vtStat (m : Mach) : Cell :=
  match m.vtSel with
  | some n =>
    let v := m.vt n
    BitVec.ofNat 18 (b2n v.ovf * 0x20000 + v.out.length * 32 + v.inp.length)
  | none => 0

end Sys2Proof.Machine
end

