-- ==== Sys2Proof/Machine/Graph.lean ====
section
/-!
DEFINITION. The standard parse graph that the firmware image loads at start-up (R88, R480), and the LPP transition that the
firmware rewrites when the LPP EtherType changes. Which transition entry holds which key is the model's choice (entry 86).
-/
namespace Sys2Proof.Machine

/-- A node of the graph: what R82's cells hold. -/
structure GNode where
  leaf : Bool
  proto : Nat
  record : Nat
  clsrc : Nat
  prof : Nat
  lmode : Nat
  loff : Nat
  len : Nat
  koff : Nat
  wide : Bool
  next : Nat
  spec : Nat
  deriving DecidableEq, Repr

/-- A node that parses on: its length is fixed. -/
def GNode.mid (len koff : Nat) (wide : Bool) (next : Nat) (record : Nat := 0) (spec : Nat := 0) : GNode :=
  ⟨false, 0, record, 0, 0, 0, 0, len, koff, wide, next, spec⟩
/-- A leaf of a fixed length. -/
def GNode.leafAt (len proto prof : Nat) (record : Nat := 0) (spec : Nat := 0) : GNode :=
  ⟨true, proto, record, 0, prof, 0, 0, len, 0, false, 0, spec⟩

/-- The four cells of a node (R82). -/
def GNode.cells (n : GNode) : List Cell :=
  [BitVec.ofNat 18 (b2n n.leaf * 0x20000 + n.proto * 0x1000 + n.record * 0x400 + n.clsrc * 0x40 + n.prof),
   BitVec.ofNat 18 (n.loff * 0x1000 + n.lmode * 0x400 + n.len),
   BitVec.ofNat 18 (n.koff * 0x1000 + b2n n.wide * 0x800 + n.next),
   BitVec.ofNat 18 (n.spec * 0x4000)]

/-- Nodes 0 to 10: Ethernet II, three tags, an EtherType not listed, IPv4, IPv6, four extension headers (R480). -/
def graphLow : List GNode :=
  [.mid 14 12 true 4, { GNode.mid 4 2 true 4 3 with clsrc := 2 }, .mid 4 2 true 4 3, .leafAt 0 0 0 3, .leafAt 0 0 0,
   { GNode.mid 0 9 false 14 1 1 with lmode := 1 }, .mid 40 6 false 18 1 2] ++
  List.replicate 4 { GNode.mid 0 0 false 18 0 3 with lmode := 3, loff := 1 }

/-- Nodes 11 to 14 or 15 to 18: UDP, TCP, ICMP and other payloads after IPv4 or IPv6. -/
def graphL4 (proto : Nat) : List GNode :=
  [.leafAt 8 proto 1 2 4, { GNode.leafAt 0 proto 1 2 5 with lmode := 2, loff := 12 }, .leafAt 4 proto 1 2 6, .leafAt 0 proto 1 2 7]

/-- Nodes 19 to 32: IEEE 1722, LPP, IEEE 802.1AS, the SecTAG, the CAN images. -/
def graphHigh : List GNode :=
  [.mid 0 0 false 22 1, .mid 12 0 false 23, .mid 24 0 false 23, .leafAt 4 3 0, .leafAt 0 3 0 2, .leafAt 16 4 0 1,
   .leafAt 34 5 0 1, .mid 0 0 false 27 1, .leafAt 6 6 0, .leafAt 14 6 0] ++
  [.mid 16 0 false 30 1, .leafAt 0 7 2 2, .mid 16 0 false 32 1, .leafAt 0 8 2 2]

/-- Nodes 0 to 32 of the standard graph. -/
def graphNodes : List GNode := graphLow ++ graphL4 1 ++ graphL4 2 ++ graphHigh

/-- Transitions on an EtherType or TPID from a node whose next tag is at another (R480): key and next node, the LPP one
first. -/
def graphTypes (ety : Nat) (tag : Nat) : List (Nat × Nat) :=
  [(ety, 24), (0x88A8, tag), (0x8100, tag), (0x0800, 5), (0x86DD, 6), (0x22F0, 19), (0x88F7, 25), (0x88E5, 26)]

/-- Transitions on a Next Header, where the next extension header is at a node. -/
def graphNext (ext : Nat) : List (Nat × Nat) := [(0, ext), (43, ext), (44, ext), (60, ext), (17, 15), (6, 16), (58, 17)]

/-- Every transition: node, key, mask, next node. -/
def graphTrans (ety : Nat) : List (Nat × Nat × Nat × Nat) :=
  let of_ := fun (n mask : Nat) (l : List (Nat × Nat)) => l.map fun e => (n, e.1, mask, e.2)
  of_ 0 0xFFFF (graphTypes ety 1) ++ of_ 1 0xFFFF (graphTypes ety 2) ++ of_ 2 0xFFFF (graphTypes ety 3) ++
    of_ 5 0xFF [(17, 11), (6, 12), (1, 13)] ++ of_ 6 0xFF (graphNext 7) ++ of_ 7 0xFF (graphNext 8) ++
    of_ 8 0xFF (graphNext 9) ++ of_ 9 0xFF (graphNext 10) ++ of_ 10 0xFF (graphNext 10) ++
    of_ 19 0xFF [(0x82, 20), (0x83, 21)] ++ of_ 26 0x20 [(0x20, 28)]

/-- Cells put into one bank's memory from an index on. -/
def Mach.gauCells (m : Mach) (bank : Bool) (r : Reg) (i : Nat) (cs : List Cell) : Mach :=
  (cs.zipIdx).foldl (fun m e => m.gauPut bank r (i + e.2) e.1) m

/-- The graph put into the shadow bank. -/
def Mach.graphShadow (m : Mach) : Mach :=
  let bank := !m.gauBank
  let tr := fun (e : Nat × Nat × Nat × Nat) =>
    [BitVec.ofNat 18 (0x20000 + e.1), BitVec.ofNat 18 e.2.1, BitVec.ofNat 18 e.2.2.1, BitVec.ofNat 18 e.2.2.2]
  let m := m.gauCells bank .gauNode 0 (graphNodes.flatMap GNode.cells)
  m.gauCells bank .gauTrans 0 ((graphTrans (m.r .blkLppety).toNat).flatMap tr)

/-- The graph loaded at start-up: the shadow bank written, a swap, the new shadow bank written; the roots and the hash
profiles of R480. -/
def Mach.graphLoad (m : Mach) : Mach :=
  let m := m.graphShadow.gauSwap.graphShadow
  (((m.w .gauRoot 29 1).w .gauRoot 31 2).w .gauHprof 0x03C00 1).w .gauHprof 0x00200 2

/-- BLK_LPPETY written: a firmware that runs rewrites the transitions that lead to the LPP node, after a swap that is under way
(R386, R480). -/
def Mach.lppEtyWrite (m : Mach) (v : Cell) : Mach :=
  let m := m.w .blkLppety (v &&& 0xFFFF)
  if !m.coreRuns (mkTid 31 m.activeTk 0) ∨ !m.isOn 3 then m
  else
    let m := m.lppDue 1
    if m.swapping then m else m.lppStep

end Sys2Proof.Machine
end

