-- ==== Sys2Proof/Machine/Ingress.lean ====
section
/-!
DEFINITION. Ingress: the quay's beats, the seven steps of acceptance (R38 to R46, R48, R51 to R54, R138), the violations and
quarantine (R70 to R72, R346), the frames that are taken for the firmware (R386) and the lock-keeper's acceptance (R18,
R40).
-/
namespace Sys2Proof.Machine

/-! ## Violations and quarantine (R70, R71) -/

/-- Whether the window of the counted violations is over: WINDOW ms after the first of them (R71). -/
def Mach.windowPast (m : Mach) (q : Nat) : Bool := m.past (m.iq q).violAt (1000000 * fld (m.r .qiQthr q) 11 0)

/-- A violation: flag and counter of its cause, and quarantine when LIMIT of them fall in one window. -/
def Mach.viol (m : Mach) (q flag sub : Nat) : Mach :=
  let m := (m.wbit .qiViol flag true q).count (0x7100 + q) sub
  let limit := fld (m.r .qiQthr q) 17 12
  if bit (m.r .qiViol q) 17 ∨ limit = 0 then m
  else
    let first := (m.iq q).viols == 0 || m.windowPast q
    let m := m.updIq q fun i => { i with viols := if first then 1 else i.viols + 1, violAt := if first then m.now else i.violAt }
    if (m.iq q).viols < limit then m
    else (m.withLines [(31, 38 + q)] fun m => m.wbit .qiViol 17 true q).count (0x7100 + q) 0x0C

/-- Odd parity of four groups of four lanes (R342). -/
def parityOf (d : BitVec 144) : BitVec 4 :=
  let odd := fun (k : Nat) => (List.range 36).foldl (fun b i => xor b (bit d (36 * k + i))) true
  BitVec.ofBool (odd 3) ++ BitVec.ofBool (odd 2) ++ BitVec.ofBool (odd 1) ++ BitVec.ofBool (odd 0)

/-- The lanes of a beat. -/
def lanes (d : BitVec 144) : List Nonet := (List.range 16).map fun k => d.extractLsb' (9 * k) 9

/-- Whether CNT of an EOF beat is bad (R70). -/
def badCnt (c : BitVec 5) : Bool := c.toNat == 0 || decide (16 < c.toNat)

/-! ## Holds of a frame (R45, R46, R138) -/

/-- Holds that a frame of n nonets needs (R45). -/
def needHolds (start n : Nat) : Nat := if n ≤ 256 - start then 1 else 1 + (n - (256 - start) + 255) / 256

/-- Whether the home of a copy can give a hold. -/
def Mach.canTake (m : Mach) (f : OpenFrame) (c : Copy) : Bool :=
  let l := c.home.val
  let st := (m.lock (m.plockOf l)).state
  st != .off && st != .retained && m.mayTake l f.cls.toNat c.holds.isEmpty && (m.nextHold l).isSome

/-- One more hold for every copy, or none: the copies count as one frame (R138). -/
def Mach.takeHolds (m : Mach) (f : OpenFrame) : Option (Mach × OpenFrame) :=
  if f.copies.all (m.canTake f) then
    let r := f.copies.foldl (fun (r : Mach × List Copy) c =>
      match r.1.nextHold c.home.val with
      | some i => (r.1.setHold c.home.val i true, r.2 ++ [{ c with holds := c.holds ++ [i] }])
      | none => (r.1, r.2 ++ [c])) (m, [])
    some (r.1, { f with copies := r.2 })
  else none

/-- The lock that cannot give a hold. -/
def Mach.shortLock (m : Mach) (f : OpenFrame) : Nat :=
  match f.copies.find? fun c => !m.canTake f c with
  | some c => c.home.val
  | none => 0

/-- The address of nonet i of a copy. -/
def Mach.copyAt (m : Mach) (f : OpenFrame) (c : Copy) (i : Nat) : Nat :=
  let j := f.start + i
  m.holdAddr c.home.val (c.holds.getD (j / 256) 0) + 8 + j % 256

/-- The header of hold k of a copy that holds n nonets in all (R45). -/
def Mach.putHeader (m : Mach) (f : OpenFrame) (c : Copy) (n k : Nat) : Mach :=
  let l := c.home.val
  let a := m.holdAddr l (c.holds.getD k 0)
  let start := if k = 0 then f.start else 0
  let fills := min 256 (f.start + n - 256 * k) - start
  let next := match c.holds[k + 1]? with
    | some i => m.holdAddr l i
    | none => 0
  ((m.wrDbl none a (BitVec.ofNat 36 next)).wrCell none (a + 4) (BitVec.ofNat 18 (start * 512 + fills))).wrCell none (a + 6) 0

/-- Nonets from index `i` up written into a copy. -/
def Mach.putNonets (m : Mach) (f : OpenFrame) (c : Copy) (i : Nat) (ns : List Nonet) : Mach :=
  (ns.zipIdx).foldl (fun m e => m.wrN none (m.copyAt f c (i + e.2)) [e.1]) m

/-- What fits in the holds taken is stored (R38 steps 4 and 5). -/
def Mach.drain (m : Mach) (f : OpenFrame) : Mach × OpenFrame :=
  let cap := match f.copies.head? with
    | some c => 256 * c.holds.length - f.start
    | none => 0
  let n := min f.nonets.length cap
  if n ≤ f.stored ∧ f.stored ≠ 0 then (m, f)
  else
    let new := (f.nonets.take n).drop f.stored
    let m := f.copies.foldl (fun m c =>
      let m := m.putNonets f c f.stored new
      (List.range c.holds.length).foldl (fun m k => m.putHeader f c n k) m) m
    (m, { f with stored := n })

/-- Holds taken until the frame's nonets fit; the Bool says whether they do (R46). -/
def Mach.takeAll (m : Mach) : Nat → OpenFrame → Mach × OpenFrame × Bool
  | 0, f => (m, f, true)
  | n + 1, f =>
    let have_ := match f.copies.head? with
      | some c => c.holds.length
      | none => 0
    if needHolds f.start f.nonets.length ≤ have_ then (m, f, true)
    else
      match m.takeHolds f with
      | none => (m.holdFlag (m.shortLock f) 16, f, false)
      | some r => r.1.takeAll n r.2

/-- Holds taken and nonets stored as far as holds allow. -/
def Mach.storeFrame (m : Mach) (f : OpenFrame) : Mach × OpenFrame × Bool :=
  let r := m.takeAll 65 f
  let e := r.1.drain r.2.1
  (e.1, e.2, r.2.2)

/-- What a frame took is returned (R46, R70). -/
def Mach.giveBack (m : Mach) (f : OpenFrame) : Mach :=
  f.copies.foldl (fun m c =>
    let m := m.freeChain c.home.val c.holds
    match c.slot with
    | some s => m.setSlot c.home.val s false
    | none => m) m

/-! ## Steps 3 and 4 (R42 to R44, R85, R138, R386) -/

/-- Whether the distributor takes a frame for the firmware (R386). -/
def Mach.takesLpp (m : Mach) (q : Nat) (p : Parse) (d : List (BitVec 8)) : Bool :=
  let h := p.h1.toNat
  bit (m.r .blkLppctl) 17 && bit (m.r .blkLppq) q && p.proto == 4 &&
    (bit (d.getD h 0) 1 || beNat (octs d (h + 2) 2) % 4096 == fld (m.r .blkLppctl) 11 0)

/-- Whether start-up stopped at step 9 and serves LPP by the recovery path of R404. -/
def Mach.recovery (m : Mach) : Bool := fld (m.r .pwrBoot) 13 11 == 4 || fld (m.r .pwrBoot) 13 11 == 5

/-- The home lock of a flow hash (R43). -/
def Mach.homeLock (m : Mach) (q : Nat) (h : Cell) : Nat :=
  let c := m.r .qiMap q
  if bit c 17 then fld (m.r .qiSteer ((fld c 13 4 + h.toNat % 2 ^ fld c 16 14) % 1024)) 3 0 else fld c 3 0

/-- The order domain of a flow hash (R44). -/
def Mach.orderDomain (m : Mach) (q : Nat) (h : Cell) : Nat :=
  let c := m.r .qiOrd q
  (fld c 11 0 + h.toNat % 2 ^ fld c 15 12) % 4096

/-- Class of a frame (R42, R85). A DEFCLASS of 7 counts as class 7 assigned by the gauger (DESIGN CHOICE entry 94). -/
def Mach.frameClass (m : Mach) (q : Nat) (p : Parse) : Nat :=
  let c := match p.cls with
    | some c => c.toNat
    | none => fld (m.r .qiCtl q) 11 9
  if c = 7 ∧ !(bit (m.r .qiCtl q) 15 && m.fbOn) then 6 else c

/-- The result of step 3 and the choice of step 4. The Bool is false where the recovery path discards the frame (R404). -/
def Mach.route (m : Mach) (q : Nat) (f : OpenFrame) (p : Parse) (marks : List Nat) : Mach × OpenFrame × Bool :=
  let d := f.nonets.map octet
  let l := m.homeLock q p.hash
  let cls := m.frameClass q p
  let lpp := m.takesLpp q p d
  let part := m.r .blkFbpart l
  let paired := !lpp && decide (cls = 7) && bit (m.r .blkFbpairq) q && bit part 17
  let homes := if paired then [l, fld part 3 0] else [l]
  let f := { f with parse := some p, marks := marks, cls := BitVec.ofNat 3 cls,
                    dom := BitVec.ofNat 12 (m.orderDomain q p.hash), lpp := lpp,
                    nonets := (f.nonets.zipIdx).map fun e => if marks.contains e.2 then e.1 ||| 0x100#9 else e.1,
                    copies := homes.map fun h => ⟨Fin.ofNat 16 h, [], 0, none⟩ }
  if !lpp && m.recovery then (m.count 0x7460 9, f, false) else (m, f, true)

/-- The open frame of a quay replaced. -/
def Mach.setFrame (m : Mach) (q : Nat) (f : Option OpenFrame) : Mach := m.updIq q fun i => { i with frame := f }

/-- The open frame is discarded to its EOF, and what it took is returned (R46, R70). -/
def Mach.discard (m : Mach) (q : Nat) (f : OpenFrame) : Mach :=
  (m.giveBack f).setFrame q (some { f with discard := true, copies := [], stored := 0 })

/-- The open frame's nonets go to its holds; without a hold, BP decides (R46). -/
def Mach.storeOpen (m : Mach) (q : Nat) (f : OpenFrame) : Mach :=
  if f.parse.isNone ∨ f.discard then m.setFrame q (some f)
  else
    let r := m.storeFrame f
    if r.2.2 || bit (r.1.r .qiCtl q) 16 then r.1.setFrame q (some r.2.1)
    else (r.1.count (0x7100 + q) 3).discard q r.2.1

/-- Steps 3 and 4 as soon as the parse graph answers. -/
def Mach.deliver (m : Mach) (q : Nat) (f : OpenFrame) (eof : Bool) : Mach × OpenFrame × Bool :=
  if f.parse.isSome then (m, f, true)
  else
    match m.parse f.bank f.root (f.nonets.map octet) eof with
    | some (p, marks) => m.route q f p marks
    | none => (m, f, true)

/-! ## Steps 6 and 7 (R18, R39, R40, R48, R51) -/

/-- Whether a lock-keeper's queue has an entry for a class (R18). -/
def Mach.queueTakes (m : Mach) (l cls : Nat) : Bool :=
  let qs := (m.lock (m.plockOf l)).queue
  decide (qs.length < 1024) && (!m.fbOn || cls == 7 || decide ((qs.filter fun e => e.cls != 7#3).length < 960))

/-- A manifest joins its lock's queue. -/
def Mach.enqueue (m : Mach) (w : Waiting) : Mach :=
  m.updLock (m.plockOf w.lock.val) fun k => { k with queue := k.queue ++ [w.entry] }

/-- Manifests that wait on a quay are accepted as their locks have room (R40). -/
def Mach.acceptWaiting (m : Mach) (q : Nat) : Mach :=
  (m.iq q).waiting.foldl (fun m w =>
    if m.queueTakes w.lock.val w.entry.cls.toNat then
      (m.enqueue w).updIq q fun i => { i with waiting := i.waiting.erase w }
    else m) m

/-- A slot for every copy, or none (R48, R138). -/
def Mach.takeSlots (m : Mach) (f : OpenFrame) : Option (Mach × OpenFrame) :=
  if f.copies.all fun c => (m.nextSlot c.home.val).isSome then
    let r := f.copies.foldl (fun (r : Mach × List Copy) c =>
      match r.1.nextSlot c.home.val with
      | some i => (r.1.setSlot c.home.val i true, r.2 ++ [{ c with slot := some i }])
      | none => (r.1, r.2 ++ [c])) (m, [])
    some (r.1, { f with copies := r.2 })
  else none

/-- FLAGS of a frame's manifest (R52). -/
def OpenFrame.flags (f : OpenFrame) (p : Parse) (paired second : Bool) : Nat :=
  1024 * b2n f.err + 512 * b2n f.trunc + 128 * b2n paired + 64 * b2n second + 16 * p.emp.toNat + 8 * b2n f.tsv +
    4 * b2n f.fromHost + 2 * b2n f.viol + b2n p.pstop

/-- The sixteen cells of a manifest (R51). -/
def OpenFrame.manifest (f : OpenFrame) (p : Parse) (head : Nat) (seq : Cell) (paired second : Bool) : List Cell :=
  [BitVec.ofNat 18 (f.kind.toNat * 16384 + f.nonets.length),
   BitVec.ofNat 18 (f.iq.toNat * 16384 + f.cls.toNat * 2048 + f.flags p paired second),
   BitVec.ofNat 18 head, BitVec.ofNat 18 (head / 0x40000),
   f.time.extractLsb' 0 18, f.time.extractLsb' 18 18, f.time.extractLsb' 36 18, f.time.extractLsb' 54 18,
   f.dom.setWidth 18, seq, p.hash] ++ p.cells ++ [BitVec.ofNat 18 (p.emp.toNat * 512), 0]

/-- The manifest of one copy written; its address. -/
def Mach.putManifest (m : Mach) (f : OpenFrame) (p : Parse) (c : Copy) (seq : Cell) (paired second : Bool) : Mach × Nat :=
  let mf := m.slotAddr c.home.val (c.slot.getD 0)
  let head := m.holdAddr c.home.val (c.holds.getD 0 0)
  ((f.manifest p head seq paired second).zipIdx.foldl (fun m e => m.setMcell mf e.2 e.1) m, mf)

/-- A frame accepted on an ingress quay counted, with its nonets; q is 16 + t for host transmit ring t, which counts none. -/
def Mach.countFrame (m : Mach) (q n : Nat) : Mach :=
  if q < 16 then (m.count (0x7100 + q) 1).countN (0x7100 + q) 2 n else m

/-- A frame that lacks nothing is completed: taken for the firmware, or numbered, described and offered to its
lock-keepers (R38 steps 6 and 7, R386). -/
def Mach.finishFrame (m : Mach) (q : Nat) (f : OpenFrame) (p : Parse) : Mach :=
  if f.lpp then
    match f.copies.head? with
    | none => m
    | some c =>
      if 64 ≤ m.dict.lppQueue.length then ((m.giveBack f).count 0x7460 2).wbit .blkLppstat 17 true
      else
        let r := m.putManifest f p c 0 false false
        let m := { r.1 with dict := { r.1.dict with lppQueue := r.1.dict.lppQueue ++ [BitVec.ofNat 28 r.2] } }
        ((m.ring 31 320).count 0x7460 1).countFrame q f.nonets.length
  else
    let d := f.dom.toNat
    let seq := mget 0 m.doms d
    let m := { m with doms := mset 0 m.doms d (seq + 1) }
    let paired := decide (1 < f.copies.length)
    let m := (f.copies.zipIdx).foldl (fun m e =>
      let r := m.putManifest f p e.1 seq paired (e.2 == 1)
      r.1.updIq q fun i => { i with waiting := i.waiting ++ [⟨e.1.home, ⟨BitVec.ofNat 28 r.2, f.cls, f.kind, 0⟩⟩] }) m
    (m.countFrame q f.nonets.length).acceptWaiting q

/-- The first ended frame of a quay goes on as far as it can; the Bool says whether it left. -/
def Mach.pump1 (m : Mach) (q : Nat) (f : OpenFrame) : Mach × Bool :=
  let drop := fun (m : Mach) (f : OpenFrame) =>
    (((m.giveBack f).count (0x7100 + q) 3).updIq q fun i => { i with ended := i.ended.tail }, true)
  let keep := fun (m : Mach) (f : OpenFrame) => (m.updIq q fun i => { i with ended := f :: i.ended.tail }, false)
  let r := m.storeFrame f
  let bp := bit (m.r .qiCtl q) 16
  if !r.2.2 then (if bp then keep r.1 r.2.1 else drop r.1 r.2.1)
  else
    match r.1.takeSlots r.2.1 with
    | none =>
      let l := match r.2.1.copies.find? fun c => (r.1.nextSlot c.home.val).isNone with
        | some c => c.home.val
        | none => 0
      if bp then keep (r.1.holdFlag l 16) r.2.1 else drop (r.1.holdFlag l 16) r.2.1
    | some (m, f) =>
      match f.parse with
      | some p => ((m.finishFrame q f p).updIq q fun i => { i with ended := i.ended.tail }, true)
      | none => (m, false)

/-- The ended frames of a quay complete in order, each behind the acceptance of the one before (R40). -/
def Mach.pump (m : Mach) (q : Nat) : Nat → Mach
  | 0 => m
  | n + 1 =>
    let m := m.acceptWaiting q
    match (m.iq q).waiting, (m.iq q).ended with
    | [], f :: _ => let r := m.pump1 q f; if r.2 then r.1.pump q n else r.1
    | _, _ => m

/-- The waiting frames of a quay are tried again. -/
def Mach.resume (m : Mach) (q : Nat) : Mach := m.pump q ((m.iq q).ended.length + 1)

/-! ## The end of a frame (R70) -/

/-- The last stored nonet of a truncated frame is marked (R52, R56). -/
def markLast (ns : List Nonet) : List Nonet := ns.modify (ns.length - 1) fun n => n ||| 0x100#9

/-- The open frame is cut short: TRUNC, ERR and the mark, in its holds too where the nonet is stored. -/
def Mach.truncate (m : Mach) (f : OpenFrame) : Mach × OpenFrame :=
  let f := { f with trunc := true, err := true, nonets := markLast f.nonets }
  let i := f.nonets.length - 1
  if f.nonets.length ≠ 0 ∧ f.nonets.length ≤ f.stored then
    (f.copies.foldl (fun m c => m.putNonets f c i (f.nonets.drop i)) m, f)
  else (m, f)

/-- The open frame ends, by its EOF or by a truncation. -/
def Mach.closeFrame (m : Mach) (q : Nat) (f : OpenFrame) : Mach :=
  let gone := fun (m : Mach) => (m.setFrame q none).switchBank q
  if f.discard then gone m
  else if f.nonets.length < 14 then (gone (m.giveBack f)).viol q 7 0x0B
  else
    let d := f.nonets.map octet
    let cs := match m.parse f.bank f.root d true with
      | some (p, _) => if f.err then 0 else p.l4cs
      | none => 0
    let r := m.deliver q f true
    if !r.2.2 then gone r.1
    else
      let f := r.2.1
      let f := { f with parse := f.parse.map fun p => { p with l4cs := cs } }
      ((gone r.1).updIq q fun i => { i with ended := i.ended ++ [f] }).resume q

/-- The open frame ends with TRUNC and ERR. -/
def Mach.cutFrame (m : Mach) (q : Nat) (f : OpenFrame) : Mach :=
  if f.discard then m.closeFrame q f
  else let r := m.truncate f; r.1.closeFrame q r.2

/-! ## Beats (R344 to R346, R53) -/

/-- Bits 71:0 of TIME from the timebase (R51). -/
def Mach.timeNow (m : Mach) : BitVec 72 := (m.tb.frac.extractLsb' 24 8) ++ m.tb.ns
/-- A 32-bit capture extended: the latest value not later than the timebase (R53, R112). -/
def extend32 (now : BitVec 64) (ts : BitVec 32) : BitVec 64 :=
  let hi := now.extractLsb' 32 32
  if ts.toNat ≤ (now.setWidth 32).toNat then hi ++ ts else (hi - 1) ++ ts

/-- The frame that an SOF beat opens. -/
def Mach.openFrame (m : Mach) (q : Nat) (b : Beat) : OpenFrame :=
  let cap := bit (m.r .qiCtl q) 12 && b.tsv
  { kind := b.kind, time := if cap then (extend32 m.tb.ns b.ts).setWidth 72 else m.timeNow, tsv := cap,
    bank := (m.iq q).bank, root := fld (m.r .gauRoot b.kind.toNat) 7 0, start := fld (m.r .qiCtl q) 8 3, nonets := [], marks := [], stored := 0, err := false,
    viol := false, trunc := false, discard := false, oversize := false, parse := none, cls := 0, dom := 0, copies := [],
    iq := BitVec.ofNat 4 q, fromHost := false, lpp := false }

/-- Whether a kind is unknown on a quay (R41, R70). -/
def Mach.unknownKind (m : Mach) (k : BitVec 4) : Bool := k == 3 || k == 15 || !bit (m.r .blkKentry k.toNat) 17

/-- The lanes of a beat join the open frame, at most MAXLEN in all (R56, R70). -/
def Mach.addLanes (m : Mach) (q : Nat) (f : OpenFrame) (ns : List Nonet) : Mach :=
  let ns := if bit (m.r .qiCtl q) 14 then ns else ns.map fun n => n &&& 0xFF#9
  let at0 := f.nonets.length
  let ns := (ns.zipIdx).map fun e => if f.marks.contains (at0 + e.2) then e.1 ||| 0x100#9 else e.1
  let all := f.nonets ++ ns
  let max_ := fld (m.r .qiLim q) 13 0
  if all.length ≤ max_ then m.storeOpen q { f with nonets := all }
  else
    let r := m.truncate { f with nonets := all.take max_, oversize := true }
    (r.1.storeOpen q r.2).viol q 2 6

/-- The lanes of a transferred beat within an open frame: parity, CNT and ERR, then its nonets (R70). -/
def Mach.beatIn (m : Mach) (q : Nat) (f : OpenFrame) (b : Beat) : Mach :=
  let badPar := b.par != parityOf b.data
  let parDrop := bit (m.r .qiCtl q) 13
  let m := if badPar then m.viol q 6 0x0A else m
  let f := if badPar ∧ !parDrop then { f with err := true, viol := true } else f
  let m := m.setFrame q (some f)
  let m := if badPar ∧ parDrop ∧ !f.discard then m.discard q f else m
  let bad := b.eof && badCnt b.cnt
  let m := if bad then m.viol q 3 7 else m
  let n := if b.eof && !bad then b.cnt.toNat else 16
  match (m.iq q).frame with
  | none => m
  | some f =>
    let f := { f with err := f.err || bad || (b.eof && b.err), viol := f.viol || bad }
    let m := if f.discard ∨ f.oversize then m.setFrame q (some f) else m.addLanes q f ((lanes b.data).take n)
    if b.eof then
      match (m.iq q).frame with
      | some f => m.closeFrame q f
      | none => m
    else m

/-! ## IQn_READY (R343, R346) -/

/-- The frames of a quay that wait for a hold, a slot or an entry (R40, R46), and the nonets of its open frame that are not yet in a hold. -/
def Mach.iqWaits (m : Mach) (q : Nat) : Bool :=
  !(m.iq q).waiting.isEmpty || !(m.iq q).ended.isEmpty ||
    match (m.iq q).frame with
    | none => false
    | some f =>
      !f.discard && (decide (1024 ≤ f.nonets.length - f.stored) ||
        match f.copies.head? with
        | some c => decide (c.holds.length < needHolds f.start f.nonets.length)
        | none => false)

/-- IQn_READY as the block drives it (R346). A frame that was open when quarantine began completes under the other rows (R71). -/
def Mach.iqReady (m : Mach) (q : Nat) : Bool :=
  let fr := (m.iq q).frame
  if fr.isNone && !bit (m.r .qiCtl q) 17 then false
  else if bit (m.r .qiViol q) 17 && fr.all OpenFrame.discard then true
  else !m.iqWaits q

/-- Whether a beat that is presented transfers (R343): with RLAT 0 at an edge at which READY is 1. With RLAT 1 to 3 every beat does, and
`overrun` says whether READY was 1 RLAT edges before. -/
def Mach.transfers (m : Mach) (q : Nat) : Bool := fld (m.r .qiPhy q) 17 16 != 0 || m.iqReady q

/-! ## A beat that transfers -/

/-- A transferred beat (R344 to R346, R70, R71). In quarantine a frame is opened only to be discarded, so that its violations are
counted. The frame of an SOF beat whose own SOFIN violation begins the quarantine is discarded (DESIGN CHOICE entry 27). -/
def Mach.takeBeat (m : Mach) (q : Nat) (b : Beat) : Mach :=
  let en := bit (m.r .qiCtl q) 17
  let fr := (m.iq q).frame
  if fr.isNone ∧ !en then m
  else
    let quar := bit (m.r .qiViol q) 17 && (b.sof || fr.all OpenFrame.discard)
    let m := if quar then m.bareCount 2 q else m
    if b.overrun ∧ fld (m.r .qiPhy q) 17 16 ≠ 0 then
      let m := m.viol q 4 8
      match fr with
      | some f => m.cutFrame q f
      | none => m
    else if b.sof then
      let m := match fr with
        | some f => (m.viol q 0 4).cutFrame q f
        | none => m
      if !en then m
      else
        let quar := bit (m.r .qiViol q) 17
        let f := m.openFrame q b
        let bad := m.unknownKind b.kind
        let m := if bad then m.viol q 5 9 else m
        m.beatIn q { f with discard := bad || quar } b
    else
      match fr with
      | some f => m.beatIn q f b
      | none => m.count (0x7100 + q) 0x0D

/-- A beat that the partner presents on an ingress quay. -/
def Mach.beat (m : Mach) (q : Nat) (b : Beat) : Mach :=
  if m.transfers q then (m.updIq q fun i => { i with beatAt := m.now }).takeBeat q b else m

/-- INGRESS_SOF. -/
def execIngressSof (q : Quay) (b : Beat) (s : State) : Host.Outcome State Fault Refusal :=
  done s (s.m.beat q.val { b with sof := true })
/-- INGRESS_BEAT. -/
def execIngressBeat (q : Quay) (b : Beat) (s : State) : Host.Outcome State Fault Refusal :=
  done s (s.m.beat q.val { b with sof := false, eof := false })
/-- INGRESS_EOF. -/
def execIngressEof (q : Quay) (b : Beat) (s : State) : Host.Outcome State Fault Refusal :=
  done s (s.m.beat q.val { b with eof := true })

/-- GAUGER_LEAF: step 3 for the open frame, when its leaf or its 512th nonet has come, and step 4. -/
def execGaugerLeaf (q : Quay) (s : State) : Host.Outcome State Fault Refusal :=
  let m := s.m
  match (m.iq q.val).frame with
  | none => done s m
  | some f =>
    if f.discard ∨ f.parse.isSome then done s m
    else
      let r := m.deliver q.val f false
      if r.2.2 then done s (r.1.storeOpen q.val r.2.1) else done s (r.1.discard q.val r.2.1)

/-- Whether no beat has come for 2^EOFTMO µs (R70); EOFTMO 0 disables the timer. -/
def Mach.eofPast (m : Mach) (q : Nat) : Bool :=
  let t := fld (m.r .qiLim q) 17 14
  t != 0 && m.past (m.iq q).beatAt (1000 * 2 ^ t)

/-- MISSING_EOF (R70). -/
def execMissingEof (q : Quay) (s : State) : Host.Outcome State Fault Refusal :=
  let m := s.m
  match (m.iq q.val).frame with
  | some f => if m.eofPast q.val then done s ((m.viol q.val 1 5).cutFrame q.val f) else done s m
  | none => done s m

/-- QUAR_WINDOW_EXPIRE (R71). -/
def execQuarWindowExpire (q : Quay) (s : State) : Host.Outcome State Fault Refusal :=
  done s (if s.m.windowPast q.val then s.m.updIq q.val fun i => { i with viols := 0 } else s.m)

/-- INGRESS_HOLD_RESUME (R46): the open frame and the ended ones try again. -/
def execIngressHoldResume (q : Quay) (s : State) : Host.Outcome State Fault Refusal :=
  let m := s.m.resume q.val
  match (m.iq q.val).frame with
  | some f => done s (m.storeOpen q.val f)
  | none => done s m

/-- MANIFEST_ACCEPT (R40): of an ingress quay, and of the host transmit ring of that number. -/
def execManifestAccept (q : Quay) (s : State) : Host.Outcome State Fault Refusal :=
  done s ((s.m.resume q.val).acceptWaiting (16 + q.val))

end Sys2Proof.Machine
end

