-- ==== Sys2Proof/Machine/Gates.lean ====
section
/-!
DEFINITION. The timers of the ordering gates: the gap timer (R66, R68) and the wait for a paired copy (R141).
-/
namespace Sys2Proof.Machine

/-- The held frame nearest to NEXT. -/
def Mach.lowestHeld (m : Mach) (d : Nat) : Option Shipped :=
  (m.gate d).held.foldl (fun b f =>
    match b with
    | none => some f
    | some g => if m.ahead d f.seq < m.ahead d g.seq then some f else some g) none

/-- The gap timer reaches TMO (R66): NEXT moves to the lowest held number; each number skipped that no scuttle had
resolved is counted. -/
def Mach.gapTimeout (m : Mach) (d : Nat) : Mach :=
  if !m.gapDue d then m
  else
    match m.lowestHeld d with
    | none => m
    | some f =>
      let n := m.ahead d f.seq
      let passed := (m.gate d).resolved.filter fun s => decide (m.ahead d s < n)
      let m := m.countN 0x7300 1 (n - passed.length)
      (m.updGate d fun g => { g with resolved := g.resolved.filter fun s => !passed.contains s }).moveNext d f.seq

/-- GAP_TIMEOUT. -/
def execGapTimeout (d : BitVec 12) (s : State) : Host.Outcome State Fault Refusal := done s (s.m.gapTimeout d.toNat)

/-- PAIRTMO ns pass after the first copy ended (R141): the copy that has not ended counts as scuttled, and its later end is discarded. -/
def Mach.pairTimeout (m : Mach) (d : Nat) (seq : Cell) : Mach :=
  match (m.gate d).pairs.find? fun h => h.seq == seq with
  | none => m
  | some h =>
    if !m.past h.since (fld (m.r .blkFbctl) 9 0) then m
    else
      let m := m.updGate d fun g => { g with pairs := g.pairs.erase h, settled := g.settled ++ [seq] }
      if h.second then m.settlePair d seq .scuttled h.ended true else m.settlePair d seq h.ended .scuttled true

/-- PAIR_TIMEOUT. -/
def execPairTimeout (d : BitVec 12) (seq : Cell) (s : State) : Host.Outcome State Fault Refusal :=
  done s (s.m.pairTimeout d.toNat seq)

end Sys2Proof.Machine
end

