-- ==== Sys2Proof/Machine/Timebase.lean ====
section
/-!
DEFINITION. The timebase (R108 to R112): steered time and monotonic count, rate and step, alarms, snapshots, the egress
timestamp queues and the command NOW; and the clocks of gate lists and stream gates that run by it (R101, R103, R106).
-/
namespace Sys2Proof.Machine

/-! ## Gate lists and stream gates by the steered time -/

/-- The time since a base, modulo a cycle (R101, R109). -/
def phase (now base : BitVec 64) (cyc : Nat) : Nat := (((now.toNat : Int) - (base.toNat : Int)) % (cyc : Int)).toNat

/-- The entry of a list at a phase. -/
def entryAt : List (Nat × Nat) → Nat → Nat → Nat
  | [], _, i => i - 1
  | (d, _) :: r, p, i => if p < d then i else entryAt r (p - d) (i + 1)

/-- When the pending list change extends the cycle before it: the start of the short cycle (R103). -/
def Mach.extension (m : Mach) (q : Nat) : Option (BitVec 64) :=
  let s := m.shape q
  if bit (m.r .sluGst q) 17 ∧ s.operates then
    let past := phase s.changeAt s.oper.base s.oper.cyc.toNat
    if 0 < past ∧ past ≤ (m.r .sluExt q).toNat then some (s.changeAt - BitVec.ofNat 64 past) else none
  else none

/-- The entry that the steered time gives on a quay, the last one while a cycle is extended (R101, R103). -/
def Mach.gateIndex (m : Mach) (q : Nat) : Nat :=
  let s := m.shape q
  match m.gateList q with
  | none => s.index
  | some l =>
    let held := match m.extension q with
      | some x => decide (x ≤ m.tb.ns)
      | none => false
    if held then l.length - 1 else entryAt l (phase m.tb.ns s.oper.base s.oper.cyc.toNat) 0

/-- A quay's gates follow the steered time. -/
def Mach.syncGates (m : Mach) (q : Nat) : Mach :=
  let m := m.accrue q
  let i := m.gateIndex q
  m.updShape q fun s => { s with index := i }

/-- A stream gate. -/
def Mach.sgate (m : Mach) (g : Nat) : StreamGate := mget StreamGate.reset m.sluice.gates g
/-- A stream gate changed. -/
def Mach.updSgate (m : Mach) (g : Nat) (f : StreamGate → StreamGate) : Mach :=
  { m with sluice := { m.sluice with gates := mset StreamGate.reset m.sluice.gates g (f (m.sgate g)) } }

/-- The list of a stream gate over its cycle: durations and entry numbers, as R101 runs quay lists. -/
def StreamGate.segs (g : StreamGate) : List (Nat × Nat) :=
  let n := fld g.cfg 5 0 + 1
  gateSegs (fun i => mget 0 g.entries i) g.cyc.toNat n n 0

/-- A stream gate follows the steered time: it runs from its start on (R106), and one that runs goes on after a backward step (R109). -/
def Mach.syncSgate (m : Mach) (i : Nat) : Mach :=
  let g := m.sgate i
  if bit g.cfg 17 ∧ (g.running ∨ g.start ≤ m.tb.ns) then
    m.updSgate i fun g => { g with running := true, index := entryAt g.segs (phase m.tb.ns g.base g.cyc.toNat) 0 }
  else m

/-! ## Time (R108) -/

/-- The steered time with its fraction as one number. -/
def Timebase.steered (t : Timebase) : BitVec 96 := t.ns ++ t.frac
/-- The steered time set. -/
def Mach.setSteered (m : Mach) (v : BitVec 96) : Mach :=
  { m with tb := { m.tb with ns := v.extractLsb' 32 64, frac := v.setWidth 32 } }

/-- One REFCLK cycle (R108). -/
def Mach.tick (m : Mach) : Mach :=
  let inc : BitVec 96 := BitVec.ofNat 96 (4 * 2 ^ 32) + m.tb.rate.signExtend 96
  let m := m.setSteered (m.tb.steered + inc)
  { m with tb := { m.tb with mono := m.tb.mono + 4 } }

/-- A rate limited to −2^28 … 2^28 (R108). -/
def limitRate (v : Dbl) : Dbl :=
  if v.toInt < -(2 ^ 28) then BitVec.ofInt 36 (-(2 ^ 28)) else if 2 ^ 28 < v.toInt then BitVec.ofInt 36 (2 ^ 28) else v

/-- TB_RATE1 written: both cells apply (R108). -/
def Mach.rateWrite (m : Mach) (hi : Cell) : Mach :=
  let v := limitRate (mkDbl hi (m.r .tbRate 0))
  let m := (m.w .tbRate (Dbl.lo v) 0).w .tbRate (Dbl.hi v) 1
  { m with tb := { m.tb with rate := v } }

/-- A 64-bit value in cells as SNAP1 to SNAP4. -/
def cells64 (v : BitVec 64) : List Cell :=
  [v.extractLsb' 0 18, v.extractLsb' 18 18, v.extractLsb' 36 18, (v.extractLsb' 54 10).setWidth 18]

/-- TB_CTL.SNAP (R110). -/
def Mach.snap (m : Mach) : Mach :=
  let m1 := m.w .tbSnap ((m.tb.frac.extractLsb' 16 16).setWidth 18) 0
  let m1 := ((cells64 m.tb.ns).zipIdx).foldl (fun m e => m.w .tbSnap e.1 (e.2 + 1)) m1
  ((cells64 m.tb.mono).zipIdx).foldl (fun m e => m.w .tbSnapm e.1 e.2) m1

/-! ## Alarms (R111) -/

/-- An alarm. -/
def Mach.alarm (m : Mach) (a : Nat) : Alarm := mget ⟨0, 0, false, false, false⟩ m.tb.alarms a
/-- An alarm replaced, with the edges of its line. -/
def Mach.setAlarm (m : Mach) (a : Nat) (x : Alarm) : Mach :=
  m.withLines (everyCtl a) fun m =>
    { m with tb := { m.tb with alarms := mset ⟨0, 0, false, false, false⟩ m.tb.alarms a x } }

/-- Whether an alarm is armed and its time has come. -/
def Mach.alarmDue (m : Mach) (a : Nat) : Bool :=
  let x := m.alarm a
  x.en && x.armed && decide (x.time ≤ m.tb.ns)

/-- The compare time after a firing: the first in phase after the steered time (R111). -/
def nextTime (time now : BitVec 64) (per : Nat) : BitVec 64 :=
  time + BitVec.ofNat 64 (((now.toNat - time.toNat) / per + 1) * per)

/-- An alarm fires (R111). -/
def Mach.fireAlarm (m : Mach) (a : Nat) : Mach :=
  let x := m.alarm a
  if x.per = 0 then m.setAlarm a { x with fired := true, armed := false }
  else m.setAlarm a { x with fired := true, time := nextTime x.time m.tb.ns x.per.toNat }

/-- Event waits on every controller see what changed. -/
def Mach.wakeAll (m : Mach) : Mach := (31 :: List.range 17).foldl Mach.wakeEvents m

/-- ALARM_FIRE (R111). -/
def execAlarmFire (a : BitVec 4) (s : State) : Host.Outcome State Fault Refusal :=
  done s (if s.m.alarmDue a.toNat then (s.m.fireAlarm a.toNat).wakeAll else s.m)

/-- TB_CTL.STEPGO (R109): the step, then the alarms that it passes and the lists that it moves. -/
def Mach.step80 (m : Mach) : Mach :=
  let c := fun (n : Nat) => m.r .tbStep n
  let d : BitVec 80 := (c 4).extractLsb' 0 10 ++ c 3 ++ c 2 ++ c 1 ++ (c 0).extractLsb' 0 16
  let m := m.setSteered (m.tb.steered + (d.signExtend 96 <<< 16))
  let m := (List.range 16).foldl (fun m a => if m.alarmDue a then m.fireAlarm a else m) m
  let m := (m.sluice.quays.map Prod.fst).foldl Mach.syncGates m
  ((m.sluice.gates.map Prod.fst).foldl Mach.syncSgate m).wakeAll

/-- Alarm registers of the selected alarm read (section Timebase registers). -/
def Mach.alarmRead (m : Mach) (r : Reg) (i : Nat) : Cell :=
  let x := m.alarm (m.r .tbAlmsel).toNat
  match r with
  | .tbAlmctl => BitVec.ofNat 18 (131072 * b2n x.en + 65536 * b2n x.fired)
  | .tbAlmper => if i = 0 then Dbl.lo x.per else Dbl.hi x.per
  | _ => (cells64 x.time).getD i 0

/-- Bits of a 64-bit value replaced by cell i of the layout of SNAP1 to SNAP4. -/
def put64 (t : BitVec 64) (i : Nat) (v : Cell) : BitVec 64 := setFld t (min 63 (18 * i + 17)) (18 * i) v.toNat

/-- An alarm register of the selected alarm written (R111): a compare time, and EN from 0 to 1, arm it afresh. Each of the four cells of the
compare time arms it, with the time as it then stands (DESIGN CHOICE entry 100); an alarm that is due fires on the old time first. -/
def Mach.alarmWrite (m : Mach) (r : Reg) (i : Nat) (v : Cell) : Mach :=
  let a := (m.r .tbAlmsel).toNat
  let x := m.alarm a
  match r with
  | .tbAlmctl =>
    let en := bit v 17
    m.setAlarm a { x with en := en, armed := x.armed || (en && !x.en), fired := x.fired && !bit v 16 }
  | .tbAlmper => m.setAlarm a { x with per := if i = 0 then mkDbl (Dbl.hi x.per) v else mkDbl v (Dbl.lo x.per) }
  | _ =>
    let m := if m.alarmDue a then (m.fireAlarm a).wakeAll else m
    let x := m.alarm a
    m.setAlarm a { x with time := put64 x.time i v, armed := true }

/-! ## Egress timestamps (R112, R348) -/

/-- A MAC returns a timestamp. -/
def Mach.tsReturn (m : Mach) (q : Nat) (tag : BitVec 7) (ts : BitVec 32) : Mach :=
  if !bit (m.r .qeCtl q) 17 then m.count 0x7440 2
  else if 64 ≤ (m.eq q).stamps.length then (m.updEq q fun e => { e with ovf := true }).count 0x7440 1
  else
    (m.withLines (everyCtl (16 + q)) fun m =>
      m.updEq q fun e => { e with stamps := e.stamps ++ [(tag, extend32 m.tb.ns ts)] }).wakeAll

/-- TS_RETURN. -/
def execTsReturn (q : Quay) (tag : BitVec 7) (ts : BitVec 32) (s : State) : Host.Outcome State Fault Refusal :=
  done s (s.m.tsReturn q.val tag ts)

/-- TB_TSPOP read (section Timebase registers): the value, and the pop that a quiet read leaves out (R14). -/
def Mach.tsPop (m : Mach) (quiet : Bool) : Mach × Cell :=
  let q := (m.r .tbTssel).toNat
  let o := 65536 * b2n (m.eq q).ovf
  match (m.eq q).stamps with
  | [] => (m, BitVec.ofNat 18 o)
  | (tag, ns) :: r =>
    let v := BitVec.ofNat 18 (131072 + o + tag.toNat)
    if quiet then (m, v)
    else
      let m := m.withLines (everyCtl (16 + q)) fun m => m.updEq q fun e => { e with stamps := r }
      (((cells64 ns).zipIdx).foldl (fun m e => m.w .tbTsv e.1 e.2) m, v)

/-! ## NOW (R110) -/

/-- 72 bits in four cells, as manifest TIME (R51). -/
def cells72 (v : BitVec 72) : List Cell :=
  [v.extractLsb' 0 18, v.extractLsb' 18 18, v.extractLsb' 36 18, v.extractLsb' 54 18]

/-- NOW. -/
def execNow (t : Tid) (slot : BitVec 2) (s : State) : Host.Outcome State Fault Refusal :=
  onThread t s fun m => m.helper t slot 3 0 fun m d =>
    if d.narg ≠ 0 then (m, status 9 0, [])
    else (m, status 0 0, cells72 m.timeNow ++ cells64 m.tb.mono)

end Sys2Proof.Machine
end

