-- ==== Sys2Proof/Machine/Sluice.lean ====
section
/-!
DEFINITION. The sluice: gate control lists and their change (R101 to R103), the choice of the next frame (R100, R102, R104),
stream filters, their meters and stream gates with the command FILTER (R105 to R107).
-/
namespace Sys2Proof.Machine

/-! ## When a gate closes (R101 to R103) -/

/-- ns of open time from the head of a list; none where it never closes. -/
def openRun (j : Nat) : List (Nat × Nat) → Nat → Option Nat
  | [], _ => none
  | (d, k) :: r, n => if k / 2 ^ j % 2 = 0 then some n else openRun j r (n + d)

/-- A list from a phase on. -/
def dropTime : List (Nat × Nat) → Nat → List (Nat × Nat)
  | [], _ => []
  | (d, k) :: r, p => if p < d then (d - p, k) :: r else dropTime r (p - d)

/-- ns until queue j's gate closes from a phase of a list: 0 when closed, none when it never closes. -/
def closeIn (l : List (Nat × Nat)) (j p : Nat) : Option Nat := openRun j (dropTime l p ++ l ++ l) 0

/-- Admin base time and cycle of a quay. -/
def Mach.adminBase (m : Mach) (q : Nat) : BitVec 64 :=
  (m.r .sluBase3 q).extractLsb' 0 10 ++ m.r .sluBase2 q ++ m.r .sluBase1 q ++ m.r .sluBase0 q
/-- Admin cycle. -/
def Mach.adminCyc (m : Mach) (q : Nat) : BitVec 30 := (m.r .sluCyc1 q).extractLsb' 0 12 ++ m.r .sluCyc0 q
/-- The admin list of a quay over its cycle. -/
def Mach.adminList (m : Mach) (q : Nat) : List (Nat × Nat) :=
  let s := m.shape q
  let n := fld (m.r .sluLen q) 10 0
  gateSegs (s.entry !s.bank) (m.adminCyc q).toNat n n 0

/-- Whether a mask opens queue j. -/
def opens (mask j : Nat) : Bool := mask / 2 ^ j % 2 == 1

/-- ns from now until queue j's gate next closes, through a pending change (R102, R103). -/
def Mach.closesIn (m : Mach) (q j : Nat) : Option Nat :=
  let s := m.shape q
  let now := m.tb.ns
  if !bit (m.r .sluCtl q) 17 then none
  else
    let oper := match m.gateList q with
      | some l => closeIn l j (phase now s.oper.base s.oper.cyc.toNat)
      | none => none
    if !bit (m.r .sluGst q) 17 then oper
    else
      let after := (closeIn (m.adminList q) j 0).map fun n => s.changeAt.toNat - now.toNat + n
      match m.gateList q with
      | none => after
      | some l =>
        let last := opens (l.getD (l.length - 1) (0, 0)).2 j
        let ext := m.extension q
        let in_ := match ext with
          | some x => decide (x ≤ now)
          | none => false
        if in_ then (if last then after else some 0)
        else
          let lim := (ext.getD s.changeAt).toNat - now.toNat
          match oper with
          | some r => if r < lim then some r else if ext.isSome && !last then some lim else after
          | none => if ext.isSome && !last then some lim else after

/-! ## List changes (R103) -/

/-- The first time of a base and cycle that is not earlier than now. -/
def nextStart (base now : BitVec 64) (cyc : Nat) : BitVec 64 :=
  if now ≤ base then base else base + BitVec.ofNat 64 ((now.toNat - base.toNat + cyc - 1) / cyc * cyc)

/-- SLU_GOq.CHANGE written 1. -/
def Mach.gclChange (m : Mach) (q : Nat) : Mach :=
  if bit (m.r .sluGst q) 17 ∨ m.adminCyc q = 0 then m.wbit .sluErr 1 true
  else
    let at_ := nextStart (m.adminBase q) m.tb.ns (m.adminCyc q).toNat
    (m.wbit .sluGst 17 true q).updShape q fun s => { s with changeAt := at_ }

/-- The pending change takes effect. -/
def Mach.gclSwitch (m : Mach) (q : Nat) : Mach :=
  let m := m.accrue q
  let t : GateTime := ⟨m.adminBase q, m.adminCyc q, fld (m.r .sluLen q) 10 0⟩
  let m := (m.wbit .sluGst 17 false q).updShape q fun s => { s with bank := !s.bank, operates := true, oper := t }
  m.syncGates q

/-- GCL_CHANGE_TIME: a pending change whose time has come. -/
def execGclChangeTime (q : Quay) (s : State) : Host.Outcome State Fault Refusal :=
  let m := s.m
  done s (if bit (m.r .sluGst q.val) 17 ∧ (m.shape q.val).changeAt ≤ m.tb.ns then m.gclSwitch q.val else m)

/-- GATE_ENTRY_CHANGE: the gates of the entry that the steered time gives (R101). -/
def execGateEntryChange (q : Quay) (s : State) : Host.Outcome State Fault Refusal := done s (s.m.syncGates q.val)

/-- SG_ENTRY_CHANGE (R106). -/
def execSgEntryChange (g : BitVec 6) (s : State) : Host.Outcome State Fault Refusal := done s (s.m.syncSgate g.toNat)

/-! ## List registers -/

/-- SLU_GSTq as it reads. -/
def Mach.gstRead (m : Mach) (q : Nat) : Cell :=
  setFld (setBit (m.r .sluGst q) 16 (m.shape q).bank) 7 0 (m.gatesNow q)

/-- The quay, bank and entry that SLU_GCLSEL selects. -/
def Mach.gclEntry (m : Mach) : Nat × Bool × Nat :=
  let c := m.r .sluGclsel
  let q := fld c 17 14
  (q, if bit c 13 then (m.shape q).bank else !(m.shape q).bank, fld c 9 0)

/-- The selected entry. -/
def Mach.gclRead (m : Mach) : Dbl := let e := m.gclEntry; (m.shape e.1).entry e.2.1 e.2.2
/-- INDEX of SLU_GCLSEL advances. -/
def Mach.gclNext (m : Mach) : Mach := m.w .sluGclsel (setFld (m.r .sluGclsel) 9 0 (fld (m.r .sluGclsel) 9 0 + 1))

/-- SLU_GCLD0 written: staged, or refused with OPER at 1. -/
def Mach.gclStage (m : Mach) (v : Cell) : Mach :=
  if bit (m.r .sluGclsel) 13 then m.wbit .sluErr 1 true else { m with sluice := { m.sluice with stagedIvl := v } }

/-- SLU_GCLD1 written: the entry is committed, or refused with OPER at 1 or during PENDING. -/
def Mach.gclCommit (m : Mach) (v : Cell) : Mach :=
  let e := m.gclEntry
  if bit (m.r .sluGclsel) 13 ∨ bit (m.r .sluGst e.1) 17 then m.wbit .sluErr 1 true
  else
    let ivl := max 32 (m.sluice.stagedIvl.toNat + fld v 9 0 * 0x40000)
    let x := BitVec.ofNat 36 (fld v 17 10 * 2 ^ 28 + ivl)
    (m.updShape e.1 fun s =>
      if e.2.1 then { s with bank1 := mset 0 s.bank1 e.2.2 x } else { s with bank0 := mset 0 s.bank0 e.2.2 x }).gclNext

/-- SLU_GCLD1 read: the entry, and INDEX advances unless the read is quiet. -/
def Mach.gclRead1 (m : Mach) (quiet : Bool) : Mach × Cell :=
  let e := m.gclRead
  (if quiet then m else m.gclNext, BitVec.ofNat 18 (fld e 35 28 * 1024 + fld e 27 18))

/-! ## Selection (R100, R102, R104) -/

/-- The head frame of a queue: of its class-7 lane if it has one. -/
def Shape.headOf (s : Shape) (j : Nat) : Option Shipped :=
  match s.fly.getD j [] with
  | f :: _ => some f
  | [] => (s.lane.getD j []).head?

/-- The head frame taken from its lane. -/
def Shape.pop (s : Shape) (j : Nat) : Shape :=
  if (s.fly.getD j []).isEmpty then { s with lane := s.lane.modify j List.tail } else { s with fly := s.fly.modify j List.tail }

/-- Whether a queue is eligible with a head frame (R100). -/
def Mach.queueReady (m : Mach) (q j : Nat) (f : Shipped) : Bool :=
  let room := match m.closesIn q j with
    | none => true
    | some ns => m.fits q f.len ns
  let credit := !bit (m.r .sluCtl q) (8 + j) || decide (0 ≤ (m.shape q).credit.getD j 0) || f.cls == 7
  opens (m.gatesNow q) j && room && credit

/-- Whether a frame is longer than the longest opening of its queue (R102). -/
def Mach.tooLong (m : Mach) (q j : Nat) (f : Shipped) : Bool :=
  match m.longestOpening q j with
  | none => false
  | some ns => !m.fits q f.len ns

/-- Head frames longer than any opening of their queue are dropped (R102). -/
def Mach.dropLong (m : Mach) (q j : Nat) : Nat → Mach
  | 0 => m
  | n + 1 =>
    match (m.shape q).headOf j with
    | some f =>
      if m.tooLong q j f then
        (((m.updShape q fun s => s.pop j).dropFrame f).count (0x7500 + q) 1).dropLong q j n
      else m
    | none => m

/-- Frames queued in one queue. -/
def Shape.depth (s : Shape) (j : Nat) : Nat := (s.fly.getD j []).length + (s.lane.getD j []).length

/-- The queue that wins (R100). -/
def Mach.chooseQueue (m : Mach) (q : Nat) : Option (Nat × Shipped) :=
  let s := m.shape q
  let el := (List.range 8).reverse.filterMap fun j =>
    match s.headOf j with
    | some f => if m.queueReady q j f then some (j, f) else none
    | none => none
  match el.find? fun e => !(s.fly.getD e.1 []).isEmpty with
  | some e => some e
  | none => el.head?

/-- Every frame queued for a quay is discarded (R62). -/
def Mach.detach (m : Mach) (q : Nat) : Mach :=
  let s := m.shape q
  let fs := s.fly.flatten ++ s.lane.flatten
  let m := (m.accrue q).updShape q fun s => { s with fly := List.replicate 8 [], lane := List.replicate 8 [] }
  fs.foldl (fun m f => (m.dropFrame f).count 0x7300 4) m

/-! ## Stream filters (R105 to R107) -/

/-- A stream filter. -/
def Mach.flt (m : Mach) (f : Nat) : Filter := mget Filter.reset m.sluice.filters f
/-- A stream filter changed. -/
def Mach.updFlt (m : Mach) (i : Nat) (f : Filter → Filter) : Mach :=
  { m with sluice := { m.sluice with filters := mset Filter.reset m.sluice.filters i (f (m.flt i)) } }

/-- One octet in the units of a meter's content. -/
def octetTokens : Nat := 8000000

/-- A filter's buckets refilled up to now. -/
def Filter.refill (f : Filter) (now : BitVec 64) : Filter :=
  let dt := (now - f.at_).toNat
  { f with tc := min (f.cbs.toNat * octetTokens) (f.tc + dt * f.cir.toNat),
           tp := min (f.pbs.toNat * octetTokens) (f.tp + dt * f.pir.toNat), at_ := now }

/-- The meter of RFC 2698 on a frame of n octets with a colour in: 0 green, 1 yellow, 2 red. -/
def Filter.meter (f : Filter) (n colour : Nat) : Filter × Nat :=
  let b := n * octetTokens
  let c := if bit f.ctl 8 then colour else 0
  if c = 2 ∨ f.tp < b then (f, 2)
  else if c = 1 ∨ f.tc < b then ({ f with tp := f.tp - b }, 1)
  else ({ f with tp := f.tp - b, tc := f.tc - b }, 0)

/-- Counter k of a filter advanced. -/
def Filter.count (f : Filter) (k : Nat) : Filter := { f with counts := f.counts.modify k fun c => c + 1 }

/-- OPEN, IPVV and IPV of a stream gate now; a gate that does not run is open (DEDUCED entry 42). -/
def StreamGate.now (g : StreamGate) : Bool × Nat × Nat :=
  if g.running then let e := mget 0 g.entries g.index; (bit e 35, b2n (bit e 34), fld e 33 31) else (true, 0, 0)

/-- FILTER on a filter (R105): the filter after it, whether the frame passes, the reason and the colour. Without a meter (MEN 0) the
colour in stands and the frame passes, DROPY or not (DESIGN CHOICE entry 99). -/
def Filter.apply (f : Filter) (openNow : Bool) (n colour : Nat) : Filter × Bool × Nat × Nat :=
  let f := f.count 0
  if !bit f.ctl 17 then (f.count 1, true, 0, 0)
  else if f.sdu ≠ 0 ∧ f.sdu.toNat < n then (f.count 2, false, 1, colour)
  else if bit f.ctl 16 ∧ !openNow then (f.count 3, false, 2, colour)
  else if !bit f.ctl 9 then (f.count 1, true, 0, colour)
  else
    let r := if bit f.ctl 5 then (f, 2) else f.meter n colour
    let f := r.1
    match r.2 with
    | 2 => ({ f.count 4 with ctl := if bit f.ctl 6 then setBit f.ctl 5 true else f.ctl }, false, 3, 2)
    | 1 => if bit f.ctl 7 then (f, false, 3, 1) else (f.count 1, true, 0, 1)
    | _ => (f.count 1, true, 0, 0)

/-- FILTER. -/
def Mach.filterOp (m : Mach) (d : Dock) : Mach × Cell × List Cell :=
  let i := (d.ops.getD 0 0).toNat
  let colour := (d.ops.getD 2 0).toNat
  if (d.narg ≠ 2 ∧ d.narg ≠ 3) ∨ 4096 ≤ i ∨ 2 < colour then (m, status 9 0, [])
  else
    let f := (m.flt i).refill m.tb.mono
    let g := if bit f.ctl 17 ∧ bit f.ctl 16 then (m.sgate (fld f.ctl 15 10)).now else (true, 0, 0)
    let r := f.apply g.1 (d.ops.getD 1 0).toNat colour
    (m.updFlt i fun _ => r.1,
      status (if r.2.1 then 0 else 1) (r.2.2.1 * 2048 + r.2.2.2 * 512 + g.2.1 * 256 + g.2.2 * 32), [])

/-- FILTER. -/
def execFilter (t : Tid) (slot : BitVec 2) (s : State) : Host.Outcome State Fault Refusal :=
  onThread t s fun m => m.helper t slot 2 0 fun m d => m.filterOp d

/-- The filter window shows the selected filter (DESIGN CHOICE entry 41), and its counters are copied (R107). -/
def Mach.fselLoad (m : Mach) : Mach :=
  let f := m.flt (m.r .sluFsel).toNat
  let m := (m.w .sluFctl (f.ctl &&& 0x3FFC0#18)).w .sluFsdu (f.sdu.setWidth 18)
  let m := ([f.cir, f.pir, f.cbs, f.pbs].zipIdx).foldl (fun (m : Mach) (e : Dbl × Nat) =>
    (m.w .sluFrate (Dbl.lo e.1) (2 * e.2)).w .sluFrate (Dbl.hi e.1) (2 * e.2 + 1)) m
  (f.counts.zipIdx).foldl (fun (m : Mach) (e : Dbl × Nat) =>
    (m.w .sluFcnt (Dbl.lo e.1) (2 * e.2)).w .sluFcnt (Dbl.hi e.1) (2 * e.2 + 1)) m

/-- The window's filter is committed (R106). -/
def Mach.filterCommit (m : Mach) : Mach :=
  let d := fun (k : Nat) => mkDbl (m.r .sluFrate (2 * k + 1)) (m.r .sluFrate (2 * k))
  let ctl := m.r .sluFctl
  if (d 1).toNat < (d 0).toNat ∨ (bit ctl 9 ∧ (d 2 = 0 ∨ d 3 = 0)) then m.wbit .sluErr 0 true
  else
    m.updFlt (m.r .sluFsel).toNat fun f =>
      { f with ctl := blend f.ctl 0x3FFC0#18 ctl, sdu := (m.r .sluFsdu).setWidth 14, cir := d 0, pir := d 1, cbs := d 2,
               pbs := d 3, tc := (d 2).toNat * octetTokens, tp := (d 3).toNat * octetTokens, at_ := m.tb.mono }

/-! ## Stream gate registers (R106) -/

/-- The selected stream gate and entry. -/
def Mach.sgSel (m : Mach) : Nat × Nat := (fld (m.r .sluSgsel) 11 6, fld (m.r .sluSgsel) 5 0)

/-- The stream gate window shows the selected gate and entry (DESIGN CHOICE entry 41). -/
def Mach.sgLoad (m : Mach) : Mach :=
  let g := m.sgate m.sgSel.1
  let e := mget 0 g.entries m.sgSel.2
  let m := ((m.w .sluSgd0 (Dbl.lo e)).w .sluSgd1 (Dbl.hi e)).w .sluSgcfg g.cfg
  let m := ((cells64 g.base).zipIdx).foldl (fun m e => m.w .sluSgbase e.1 e.2) m
  (m.w .sluSgcyc (g.cyc.setWidth 18) 0).w .sluSgcyc ((g.cyc.extractLsb' 18 12).setWidth 18) 1

/-- SLU_SGD1 written: the entry is committed and INDEX advances. -/
def Mach.sgCommit (m : Mach) (v : Cell) : Mach :=
  let x := mkDbl (v &&& 0x3E3FF#18) (m.r .sluSgd0)
  let m := m.updSgate m.sgSel.1 fun g => { g with entries := mset 0 g.entries m.sgSel.2 x }
  m.w .sluSgsel (setFld (m.r .sluSgsel) 5 0 (m.sgSel.2 + 1))

/-- SLU_SGCFG written: the gate starts at the next base time or cycle boundary; a cycle of 0 is refused. -/
def Mach.sgConfig (m : Mach) (v : Cell) : Mach :=
  let base : BitVec 64 := (m.r .sluSgbase 3).extractLsb' 0 10 ++ m.r .sluSgbase 2 ++ m.r .sluSgbase 1 ++ m.r .sluSgbase 0
  let cyc : BitVec 30 := (m.r .sluSgcyc 1).extractLsb' 0 12 ++ m.r .sluSgcyc 0
  if bit v 17 ∧ cyc = 0 then m.wbit .sluErr 2 true
  else
    (m.w .sluSgcfg v).updSgate m.sgSel.1 fun g =>
      { g with cfg := v, base := base, cyc := cyc, start := nextStart base m.tb.ns cyc.toNat, running := false, index := 0 }

end Sys2Proof.Machine
end

