-- ==== Sys2Proof/Machine/LppRegs.lean ====
section
/-!
DEFINITION. The registers through which the firmware takes, sends and makes LPP frames (R386), the hold registers of a
lock (R47, R49, R50), and what the writes of ring and quay registers do beyond their bits (R62, R71, R88, R362, R363).
-/
namespace Sys2Proof.Machine

/-! ## The LPP queue (R386) -/

/-- BLK_LPPPOP0 read: the oldest manifest leaves the queue; BLK_LPPPOP1 takes VALID and bits 27:18. -/
def Mach.lppPop (m : Mach) (quiet : Bool) : Mach × Cell :=
  match m.dict.lppQueue with
  | [] => (if quiet then m else m.w .blkLpppop1 0, 0)
  | a :: r =>
    let lo : Cell := a.setWidth 18
    if quiet then (m, lo)
    else
      let m := { m with dict := { m.dict with lppQueue := r } }
      (m.w .blkLpppop1 (BitVec.ofNat 18 (0x20000 + a.toNat / 0x40000)), lo)

/-- The manifest address that BLK_LPPSHIP0 and BLK_LPPSHIP1 hold. -/
def Mach.lppMf (m : Mach) : Nat := (m.r .blkLppship 0).toNat + fld (m.r .blkLppship 1) 9 0 * 0x40000

/-- A frame sent past the gates to the sluice, or to a host ring; one of LEN 0 is released under R62. -/
def Mach.lppSend (m : Mach) (mf : Nat) (word : Cell) : Mach :=
  match m.manifest mf with
  | none => m
  | some (l, _) =>
    let m := m.setMcell mf 14 word
    let f := m.shippedOf l mf word false
    if bit word 7 then m.toRing f (fld word 13 11)
    else if f.len = 0 then (m.dropFrame f).count 0x7300 6
    else m.toSluice f

/-- BLK_LPPSHIP2 written. -/
def Mach.lppShip (m : Mach) (word : Cell) : Mach := m.lppSend m.lppMf word

/-- A slot and a hold allocated in a logical lock, with a manifest of KIND 0, CLASS 6, HOST and LEN 0: its address. -/
def Mach.lppAlloc (m : Mach) (l : Nat) : Option (Mach × Nat) :=
  if m.placeOff (.basin (m.plockOf l) 0) then none
  else
    match m.nextSlot l, m.nextHold l with
    | some s, some h =>
      if !m.mayTake l 6 true then none
      else
        let m := (m.setSlot l s true).setHold l h true
        let mf := m.slotAddr l s
        let a := m.holdAddr l h
        let m := m.wrN none a (List.replicate 8 0)
        let cells : List Cell := [0, BitVec.ofNat 18 (6 * 2048 + 4), BitVec.ofNat 18 a, BitVec.ofNat 18 (a / 0x40000)] ++
          List.replicate 12 0
        some (cells.zipIdx.foldl (fun (m : Mach) (e : Cell × Nat) => m.setMcell mf e.2 e.1) m, mf)
    | _, _ => none

/-- BLK_LPPNEW0 read. A quiet read allocates nothing and returns zero. -/
def Mach.lppNew (m : Mach) (quiet : Bool) : Mach × Cell :=
  let c := m.r .blkLppnew1
  if quiet then (m, 0)
  else
    match m.lppAlloc (fld c 16 13) with
    | some (m, mf) =>
      (m.w .blkLppnew1 (setFld (setBit c 17 true) 9 0 (mf / 0x40000)), BitVec.ofNat 18 mf)
    | none => (m.w .blkLppnew1 (setFld (setBit c 17 false) 9 0 0), 0)

/-! ## Holds (R47 to R50) -/

/-- Whether a pool of `count` holds at word `base` and the manifest area at word `man` lie in the basin, apart (R49). -/
def poolFits (base count man : Nat) : Bool :=
  let e := base + 33 * count
  decide (1 ≤ count) && decide (e ≤ 0x40000) && decide (man + 8192 ≤ 0x40000) &&
    (decide (e ≤ man) || decide (man + 8192 ≤ base))

/-- LK_HOLDBASE, LK_HOLDCNT or LK_MANBASE written (R49). -/
def Mach.poolWrite (m : Mach) (p : Nat) (r : Reg) (v : Cell) : Mach :=
  let v := v &&& r.info.rw
  let pick := fun (x : Reg) => if x = r then v.toNat else (m.ru x p).toNat
  if (m.lock p).parked && poolFits (pick .lkHoldbase) (pick .lkHoldcnt) (pick .lkManbase) then m.wu r p v
  else m.wubit .lkHoldstat p 17 true

/-- Effective class of a thread for R50: that of its manifest; another master takes as class 0. -/
def Mach.readerClass (m : Mach) (who : Master) : Nat :=
  match who with
  | .thread t => if (m.thr t).mf = 0 then 0 else (m.thr t).cls.toNat
  | _ => 0

/-- The lowest hold of a physical lock that is free. -/
def Mach.freeHold (m : Mach) (p : Nat) : Option Nat := lowestFree (m.lock p).holds (fld (m.ru .lkHoldcnt p) 12 0)

/-- LK_HOLDALLOC read (R50). -/
def Mach.holdAlloc (m : Mach) (p : Nat) (who : Master) (quiet : Bool) : Mach × Cell :=
  let free := m.freeHolds p
  if 7 ≤ m.readerClass who ∨ fld (m.ru .lkFrctl p) 9 0 < free then
    match m.freeHold p with
    | some i =>
      (if quiet then m else m.updLock p fun k => { k with holds := mset false k.holds i true }, BitVec.ofNat 18 (0x20000 + i))
    | none => (m, 0)
  else (m, 0)

/-- LK_HOLDRET written (R47): a hold already free sets DBLRET. -/
def Mach.holdRet (m : Mach) (p : Nat) (v : Cell) : Mach :=
  let i := fld v 12 0
  if mget false (m.lock p).holds i then m.updLock p fun k => { k with holds := mset false k.holds i false }
  else m.wubit .lkHoldstat p 14 true

/-- LK_HOLDSTAT as read. -/
def Mach.holdstatRead (m : Mach) (p : Nat) : Cell := setFld (m.ru .lkHoldstat p) 12 0 (m.freeHolds p)

/-! ## Rings (R361 to R363) -/

/-- The frames that wait for a ring that no longer lets them wait are dropped (R363). -/
def Mach.ringFlush (m : Mach) (r : Nat) : Mach :=
  let ctl := m.r .blkRctl r
  let empty := fld (m.r .blkRhead r) 11 0 == fld (m.r .blkRtail r) 11 0
  if 8 ≤ r ∨ (bit ctl 17 ∧ (bit ctl 15 ∨ !empty)) then m
  else
    let fs := m.rxWaiting r
    let m := { m with host := { m.host with rx := mset [] m.host.rx r [] } }
    fs.foldl (fun m f => ((m.dropFrame f).wbit .blkRstat 16 true r).count 0x7450 1) m

/-- BLK_RCTLg written: LOG2SZ as the nearer limit, kept with EN at 1; the fields of the other kind of ring are reserved. -/
def Mach.rctlWrite (m : Mach) (g : Nat) (v : Cell) : Mach :=
  let old := m.r .blkRctl g
  let v := setFld v 10 7 (if bit old 17 then fld old 10 7 else min 12 (max 3 (fld v 10 7)))
  let v := if g < 8 then setFld v 6 0 0 else setBit v 15 false
  (m.w .blkRctl v g).ringFlush g

/-- A base register of a ring written: ignored while EN is 1. -/
def Mach.rbaseWrite (m : Mach) (r : Reg) (g : Nat) (v : Cell) : Mach :=
  if bit (m.r .blkRctl g) 17 then m else m.w r (v &&& r.info.rw) g

/-- The event outputs EVO (R365). -/
def Mach.evo (m : Mach) (k : Nat) : Bool :=
  bit (m.r .blkEvosw) k || (List.range 24).any fun g =>
    bit (m.r .blkRctl g) 11 && fld (m.r .blkRctl g) 14 12 == k && bit (m.r .blkRstat g) 17

/-! ## Quays -/

/-- Whether an ingress quay has no frame open and nothing staged (QI_PHYn.IDLE). -/
def Mach.qiIdle (m : Mach) (q : Nat) : Bool := (m.iq q).frame.isNone && (m.iq q).ended.isEmpty && (m.iq q).waiting.isEmpty

/-- QI_CTLn written: with EN at 0 a due bank swap takes place at once (R88). -/
def Mach.qiCtlWrite (m : Mach) (q : Nat) (v : Cell) : Mach :=
  let m := m.w .qiCtl (v &&& 0x3FFF8) q
  if bit v 17 then m else m.switchBank q

/-- QI_PHYn written: RLAT only while EN is 0 and IDLE is 1. -/
def Mach.qiPhyWrite (m : Mach) (q : Nat) (v : Cell) : Mach :=
  if bit (m.r .qiCtl q) 17 || !m.qiIdle q then m else m.w .qiPhy (setFld (m.r .qiPhy q) 17 16 (fld v 17 16)) q

/-- QI_VIOLn written: 1 to QUAR ends quarantine and clears the window (R71). While QUAR is 0 it ends nothing, and the count stands: so a
write in the decision of the LIMIT-th violation, which applies first, leaves the quay quarantined (R12, R72; entry 10). -/
def Mach.qiViolWrite (m : Mach) (q : Nat) (v : Cell) : Mach :=
  m.withLines [(31, 38 + q)] fun m =>
    let quar := bit (m.r .qiViol q) 17
    let m := m.w .qiViol (m.r .qiViol q &&& ~~~v) q
    if bit v 17 && quar then m.updIq q fun i => { i with viols := 0 } else m

/-- QE_CTLn written: EN written 0 during a frame takes effect after its EOF; frames queued there are discarded under R62. -/
def Mach.qeCtlWrite (m : Mach) (q : Nat) (v : Cell) : Mach :=
  let old := m.r .qeCtl q
  let idle := (m.eq q).cur.isNone
  let rl := if !bit old 17 && idle then fld v 16 15 else fld old 16 15
  let new := setFld (setFld (if bit v 14 then setBit old 14 false else old) 3 0 (fld v 3 0)) 16 15 rl
  let m := m.w .qeCtl new q
  if bit v 17 then (m.wbit .qeCtl 17 true q).updEq q fun e => { e with enOff := false }
  else if !bit old 17 then m
  else if idle then ((m.wbit .qeCtl 17 false q).updEq q fun e => { e with enOff := false }).detach q
  else m.updEq q fun e => { e with enOff := true }

/-- QE_CTLn as read. -/
def Mach.qeCtlRead (m : Mach) (q : Nat) : Cell := setBit (m.r .qeCtl q) 12 (m.eq q).cur.isNone

/-! ## Isolation (R430) -/

/-- PWR_ISO written: ISO in RUNNING clears every quay's EN at a frame boundary, quiesces the initiator port and ends an
evacuation before its switch (R466); RESUME in ISOLATED begins start-up at step 3. -/
def Mach.isoWrite (m : Mach) (v : Cell) : Mach :=
  let st := m.isoState
  if bit v 17 ∧ st = 0 then
    let m := m.w .pwrIso (setFld (m.r .pwrIso) 15 14 1)
    let m := (List.range 16).foldl (fun m q =>
      (m.qiCtlWrite q (setBit (m.r .qiCtl q) 17 false)).qeCtlWrite q (setFld (m.r .qeCtl q) 17 17 0 &&& ~~~(0x4000#18))) m
    let m := m.wbit .blkHpctl 17 true
    if m.evacState = 1 ∨ m.evacState = 2 then m.evacEnd else m
  else if bit v 16 ∧ st = 2 then
    let m := m.w .pwrIso (setFld (m.r .pwrIso) 15 14 3)
    ({ m with d0 := { m.d0 with resuming := true } }.w .pwrBoot (setFld (setFld (m.r .pwrBoot) 13 11 0) 17 14 3)).pwrRequest 6
  else m

end Sys2Proof.Machine
end

