-- ==== Sys2Proof/Machine/RegAccess.lean ====
section
/-!
DEFINITION. Register accesses (R12 to R14, R157, R194, R354, R454, R476): what a read returns and does, what a write stores
and performs, and whose writes a register accepts. OD_CMD, whose commands act through registers themselves, stands with
the dictionary.
-/
namespace Sys2Proof.Machine

/-- A write of stored and write-one-to-clear bits alone (R12, R13). -/
def Mach.plainWrite (m : Mach) (r : RegRef) (v : Cell) : Mach :=
  let n := r.reg.info
  m.rset r (blend (m.rget r) n.rw v &&& ~~~(v &&& n.w1c))

/-- A plain write of a value whose field is first brought into its range. -/
def Mach.limWrite (m : Mach) (r : RegRef) (v : Cell) (hi lo least most : Nat) : Mach :=
  m.plainWrite r (setFld v hi lo (min most (max least (fld v hi lo))))

/-! ## Block registers -/

/-- A BLK_ register written. -/
def Mach.blkWrite (m : Mach) (r : RegRef) (v : Cell) (who : Master) : Mach :=
  let i := r.idx
  match r.reg with
  | .blkRemap => m.remapWrite v
  | .blkTkctl => m.tkctlWrite v
  | .blkTkwd => m.tkwdWrite v who
  | .blkPaceCtl => m.limWrite r v 12 0 0xC00 0x1FFF
  | .blkPaceCnt => m.withLines (if 6 ≤ i then [(i - 6, 32)] else []) fun m => m.plainWrite r v
  | .blkHlptmo => m.limWrite r v 11 0 1 0xFFF
  | .blkFbctl => m.fbctlWrite v
  | .blkFbpart => m.fbpartWrite i v
  | .blkHwbase1 =>
    let m := m.plainWrite r v
    { m with host := { m.host with base := (v.extractLsb' 0 4) ++ m.r .blkHwbase0 } }
  | .blkHpctl => m.limWrite r v 11 0 1 0xFFF
  | .blkFlt =>
    (if bit v 16 then m.fltEnter else m).plainWrite r v
  | .blkRbase0 => m.rbaseWrite .blkRbase0 i v
  | .blkRbase1 => m.rbaseWrite .blkRbase1 i v
  | .blkRbase2 => m.rbaseWrite .blkRbase2 i v
  | .blkRctl => m.rctlWrite i v
  | .blkLppety => m.lppEtyWrite v
  | .blkLppship => if i = 2 then m.lppShip v else m.plainWrite r v
  | .blkEvac => m.evacWrite v
  | .blkEvdrain => m.limWrite r v 13 0 1 10000
  | .blkMove => m.moveWrite v
  | .blkXchg => m.xchgWrite v
  | _ => m.plainWrite r v

/-- A BLK_ register read. -/
def Mach.blkRead (m : Mach) (r : RegRef) (quiet : Bool) : Mach × Cell :=
  let i := r.idx
  match r.reg with
  | .blkLockmap => (m, m.lockmapRead i)
  | .blkSpare => (m, m.spareRead)
  | .blkPaceCnt => (m, m.paceCnt i)
  | .blkFbctl => (m, m.fbctlRead)
  | .blkHpctl => (m, setBit (m.r .blkHpctl) 16 (m.hostQuiet && m.host.reqs.isEmpty))
  | .blkFlt => (m, setBit (m.r .blkFlt) 17 m.fault)
  | .blkLppstat => (m, setFld (m.r .blkLppstat) 6 0 m.dict.lppQueue.length)
  | .blkLpppop0 => m.lppPop quiet
  | .blkLppship => (m, 0)
  | .blkLppnew0 => m.lppNew quiet
  | .blkEvleft => (m, BitVec.ofNat 18 m.evacHolders.length)
  | .blkMove => (m, m.moveRead)
  | .blkXchg => (m, m.xchgRead)
  | _ => (m, m.rget r)

/-! ## Timebase, canal, quays, gauger -/

/-- A TB_, CNL_, QI_, QE_ or GAU_ register written. -/
def Mach.quayWrite (m : Mach) (r : RegRef) (v : Cell) : Mach :=
  let i := r.idx
  match r.reg with
  | .tbCtl =>
    let m := if bit v 17 then m.snap else m
    if bit v 16 then m.step80 else m
  | .tbRate => if i = 1 then m.rateWrite v else m.plainWrite r v
  | .tbAlmt => m.alarmWrite .tbAlmt i v
  | .tbAlmctl => (m.withLines (everyCtl (m.r .tbAlmsel).toNat) fun m => m.alarmWrite .tbAlmctl i v).wakeAll
  | .tbAlmper => m.alarmWrite .tbAlmper i v
  | .tbTspop => if bit v 16 then m.updEq (m.r .tbTssel).toNat fun e => { e with ovf := false } else m
  | .tbStep => m.plainWrite r (v &&& [0xFFFF, 0x3FFFF, 0x3FFFF, 0x3FFFF, 0x3FF].getD i 0)
  | .cnlVccfg => m.vccfg v
  | .qiCtl => m.qiCtlWrite i v
  | .qiOrd => m.limWrite r v 15 12 0 12
  | .qiLim => m.limWrite r v 13 0 64 16368
  | .qiViol => m.qiViolWrite i v
  | .qiQthr => m.limWrite r v 11 0 1 4095
  | .qiPhy => m.qiPhyWrite i v
  | .qeOrdcfg => m.updGate (m.r .qeOrdsel).toNat fun g => { g with prof := v.extractLsb' 15 3 }
  | .qeCtl => m.qeCtlWrite i v
  | .gauNode => m.gauMemWrite .gauNode i v
  | .gauTrans => m.gauMemWrite .gauTrans i v
  | .gauCtl => if bit v 16 then m.gauSwap else m
  | _ => m.plainWrite r v

/-- A TB_, CNL_, QI_, QE_ or GAU_ register read. -/
def Mach.quayRead (m : Mach) (r : RegRef) (quiet : Bool) : Mach × Cell :=
  let i := r.idx
  let g := m.gate (m.r .qeOrdsel).toNat
  match r.reg with
  | .tbAlmt => (m, m.alarmRead .tbAlmt i)
  | .tbAlmctl => (m, m.alarmRead .tbAlmctl i)
  | .tbAlmper => (m, m.alarmRead .tbAlmper i)
  | .tbTspop => m.tsPop quiet
  | .qiPhy => (m, setBit (m.r .qiPhy i) 14 (m.qiIdle i))
  | .qeOrdcfg => (m, BitVec.ofNat 18 (g.prof.toNat * 32768))
  | .qeOrdnext => (m, g.next)
  | .qeOrdstat => (m, BitVec.ofNat 18 (b2n (m.gapWait (m.r .qeOrdsel).toNat) * 131072 + g.held.length))
  | .qeCtl => (m, m.qeCtlRead i)
  | .gauNode => (m, m.gauMemRead .gauNode i)
  | .gauTrans => (m, m.gauMemRead .gauTrans i)
  | _ => (m, m.rget r)

/-! ## Sluice, waybill, seal, bollards -/

/-- A rate or shaper register of a quay written: credits and buckets are first brought up to now. -/
def Mach.rateReg (m : Mach) (q : Nat) (f : Mach → Mach) : Mach := f ((m.accrue q).refill q)

/-- An admin register of a quay written: refused while a change is PENDING (R103). -/
def Mach.adminWrite (m : Mach) (q : Nat) (f : Mach → Mach) : Mach :=
  if bit (m.r .sluGst q) 17 then m.wbit .sluErr 1 true else f m

/-- An SLU_IDLE value above RATE stored as RATE, when the high cell of the double is written (R104, DESIGN CHOICE entry 98). -/
def Mach.limIdle (m : Mach) (i : Nat) : Mach :=
  let q := i / 16
  let rate := fld (m.r .sluRate q) 10 0 * 100000
  if i % 2 = 1 ∧ rate < m.idleStored q (i % 16 / 2) then
    (m.w .sluIdle (BitVec.ofNat 18 rate) (i - 1)).w .sluIdle (BitVec.ofNat 18 (rate / 0x40000)) i
  else m

/-- An SLU_ register written. -/
def Mach.sluWrite (m : Mach) (r : RegRef) (v : Cell) : Mach :=
  let i := r.idx
  match r.reg with
  | .sluCtl => (m.rateReg i fun m => m.plainWrite r v).syncGates i
  | .sluRate => m.rateReg i fun m => m.limWrite r v 10 0 1 1024
  | .sluIdle => m.rateReg (i / 16) fun m => (m.plainWrite r v).limIdle i
  | .sluBase0 => m.adminWrite i fun m => m.plainWrite r v
  | .sluBase1 => m.adminWrite i fun m => m.plainWrite r v
  | .sluBase2 => m.adminWrite i fun m => m.plainWrite r v
  | .sluBase3 => m.adminWrite i fun m => m.plainWrite r v
  | .sluCyc0 => m.adminWrite i fun m => m.plainWrite r v
  | .sluCyc1 => m.adminWrite i fun m => m.plainWrite r v
  | .sluExt => m.adminWrite i fun m => m.plainWrite r v
  | .sluLen => m.adminWrite i fun m => m.limWrite r v 10 0 1 1024
  | .sluSgbase => m.plainWrite r (if i = 3 then v &&& 0x3FF else v)
  | .sluSgcyc => m.plainWrite r (if i = 1 then v &&& 0xFFF else v)
  | .sluGo => if bit v 17 then m.gclChange i else m
  | .sluFb => m.rateReg i fun m => m.plainWrite r (setFld v 7 0 (min (fld v 7 0) (fld v 15 8)))
  | .sluFbb => m.rateReg i fun m => m.limWrite r v 13 0 1546 16383
  | .sluGcld0 => m.gclStage v
  | .sluGcld1 => m.gclCommit v
  | .sluFsel => (m.plainWrite r v).fselLoad
  | .sluFctl =>
    let m := if bit v 5 then m.updFlt (m.r .sluFsel).toNat fun f => { f with ctl := setBit f.ctl 5 false } else m
    m.plainWrite r v
  | .sluFrate => if i = 7 then (m.plainWrite r v).filterCommit else m.plainWrite r v
  | .sluSgsel => (m.plainWrite r v).sgLoad
  | .sluSgd1 => m.sgCommit v
  | .sluSgcfg => m.sgConfig (v &&& 0x2003F)
  | _ => m.plainWrite r v

/-- An SLU_ register read. -/
def Mach.sluRead (m : Mach) (r : RegRef) (quiet : Bool) : Mach × Cell :=
  match r.reg with
  | .sluGst => (m, m.gstRead r.idx)
  | .sluGcld0 => (m, Dbl.lo m.gclRead)
  | .sluGcld1 => m.gclRead1 quiet
  | .sluFctl => (m, setBit (m.r .sluFctl) 5 (bit (m.flt (m.r .sluFsel).toNat).ctl 5))
  | _ => (m, m.rget r)

/-- A WB_, SEAL_ or BOL_ register written. -/
def Mach.helperWrite (m : Mach) (r : RegRef) (v : Cell) : Mach :=
  let i := r.idx
  match r.reg with
  | .wbTsel => if m.wbBusy then m else m.plainWrite r v
  | .wbTdesc => if m.wbBusy then m else m.tdescWrite v
  | .wbTdesc2 => if m.wbBusy then m else m.tdesc2Write v
  | .wbKey => if m.wbBusy then m else m.plainWrite r v
  | .wbMask => if m.wbBusy then m else m.plainWrite r v
  | .wbRes => if m.wbBusy then m else m.plainWrite r v
  | .wbCmd => m.wbCommand v
  | .wbStat => if m.wbBusy then m else m.plainWrite r v
  | .sealSactl => m.sactlWrite v
  | .sealSci => m.sealWrite .sealSci i v
  | .sealPn => m.sealWrite .sealPn i v
  | .sealWin => m.sealWrite .sealWin i v
  | .sealSsci => m.sealWrite .sealSsci i v
  | .sealKdata => m.keyStage (v.setWidth 16)
  | .sealKcmd => m.keyCommand v
  | .sealEvt => m.withLines [(31, 35)] fun m => m.plainWrite r v
  | .bolCfg => m.bolCfgWrite v
  | .bolForce => if bit v 17 then m.bolForceWrite else m
  | _ => m.plainWrite r v

/-- A WB_, SEAL_ or BOL_ register read. -/
def Mach.helperRead (m : Mach) (r : RegRef) : Cell :=
  let i := r.idx
  match r.reg with
  | .wbTdesc => if 96 ≤ m.wbSel then 0 else (m.wbTable m.wbSel).desc
  | .wbTdesc2 => if 96 ≤ m.wbSel then 0 else (m.wbTable m.wbSel).desc2
  | .sealSactl => m.sealRead .sealSactl i
  | .sealSci => m.sealRead .sealSci i
  | .sealPn => m.sealRead .sealPn i
  | .sealWin => m.sealRead .sealWin i
  | .sealSsci => m.sealRead .sealSsci i
  | .sealKstat => m.kstat
  | .bolCfg => m.bolRead .bolCfg
  | .bolState => m.bolRead .bolState
  | .bolOwner => m.bolRead .bolOwner
  | .bolWaitcnt => m.bolRead .bolWaitcnt
  | _ => m.rget r

/-! ## Keep controller, power, debug and life cycle -/

/-- The virtual terminal of a master's own core (R464). -/
def ownVt (who : Master) : Option Nat :=
  match who with
  | .thread t => some (Tid.coreNo t)
  | _ => none

/-- A KEEP_, PWR_, DBG_ or LC_ register written. -/
def Mach.ctlWrite (m : Mach) (r : RegRef) (v : Cell) (who : Master) : Mach :=
  let i := r.idx
  match r.reg with
  | .keepCtl => m.limWrite r v 7 0 1 255
  | .keepWp => m.keepWpWrite v
  | .keepDst => m.keepOperand .keepDst i v
  | .keepSrc => m.keepOperand .keepSrc i v
  | .keepWdata => m.keepOperand .keepWdata i v
  | .keepCmd => m.keepCommand v
  | .pwrDom => m.pwrWrite i v
  | .pwrBwd => m.bwdWrite v
  | .pwrBwdsvc => m.bwdService v who
  | .pwrIso => m.isoWrite v
  | .dbgCtl => m.dbgCtlWrite v
  | .dbgRun => m.dbgRunWrite v
  | .dbgArg => m.plainWrite r (if i = 1 then v &&& 0x3FF else v)
  | .lcChal => m.lcChalWrite v
  | .lcCmd => m.lcCmdWrite v
  | .lcKdata => m.lcKdataWrite v
  | .dbgVtTx =>
    match ownVt who with
    | some n => m.vtOut n (v.setWidth 8)
    | none => m
  | .dbgVtin =>
    match m.vtSel with
    | some n => (m.vtIn n [v.setWidth 8]).1
    | none => m
  | .dbgVtstat =>
    match m.vtSel with
    | some n => if bit v 17 then m.updVt n fun x => { x with ovf := false } else m
    | none => m
  | .dbgPatch => m.patchWrite i v
  | .dbgPram => m.pramWrite i v
  | _ => m.plainWrite r v

/-- A KEEP_, PWR_, DBG_ or LC_ register read. -/
def Mach.ctlRead (m : Mach) (r : RegRef) (who : Master) (quiet : Bool) : Mach × Cell :=
  let i := r.idx
  match r.reg with
  | .pwrDom => (m, m.pwrRead i)
  | .pwrBwdleft => (m, m.bwdLeft)
  | .dbgStat => (m, m.dbgStatRead)
  | .dbgRstat => (m, m.rstatRead)
  | .lcStat => (m, m.lcStatRead)
  | .lcNonce => (m, m.lcNonceRead i)
  | .lcTag => (m, 0)
  | .dbgVtTx => (m, m.vtTxRead (ownVt who))
  | .dbgVtRx =>
    match ownVt who with
    | some n => m.vtRxGet n quiet
    | none => (m, 0)
  | .dbgVtout => m.vtoutGet quiet
  | .dbgVtstat => (m, m.vtStat)
  | .dbgPstat => (m, m.pstatRead)
  | _ => (m, m.rget r)

/-! ## Locks, event controllers, cores -/

/-- A PL_, LK_, EVT_, CR_, WL_ or TH_ register written. -/
def Mach.lockWrite (m : Mach) (r : RegRef) (v : Cell) (who : Master) : Mach :=
  let i := r.idx
  let u := r.unit
  match r.reg with
  | .plState => m.plStateWrite u v
  | .plBank => m.bankWrite u i v
  | .plMarch => m.marchWrite u v
  | .plScrub => m.limWrite r v 9 0 1 1023
  | .plPacecal => m.pacecalWrite u v
  | .lkHoldbase => m.poolWrite u .lkHoldbase v
  | .lkHoldcnt => m.poolWrite u .lkHoldcnt v
  | .lkManbase => m.poolWrite u .lkManbase v
  | .lkHoldstat => m.withLines [(u, 33), (u, 34)] fun m => m.plainWrite r v
  | .lkHoldret => m.holdRet u v
  | .lkAgectl => m.limWrite r v 9 0 1 1000
  | .lkLccctl => m.lccctlWrite u v
  | .evtSrc => m.srcWrite u i v
  | .evtPend => m.pendClear u i v
  | .evtDone => m.evtDoneWrite u v
  | .evtRing => m.ringWrite u v
  | .evtThr => (m.thrWrite u i v).wakeEvents u
  | .evtDlb => m.plainWrite r (if fld v 17 16 = 3 then setFld v 17 16 2 else v)
  | .evtTflt => m.tfltWrite u i v
  | .crCtl => m.crCtlWrite u v
  | .crStat => m.crStatWrite u v
  | .wlVer => m.wlWrite u .wlVer i v who
  | .wlMaddr => m.wlWrite u .wlMaddr i v who
  | .wlMdata => m.wlWrite u .wlMdata i v who
  | .wlNaddr => m.wlWrite u .wlNaddr i v who
  | .wlNdata => m.wlWrite u .wlNdata i v who
  | .wlDt => m.wlWrite u .wlDt i v who
  | .crStwin => m.limWrite r v 10 0 0 1152
  | .thView => m.viewWrite u i v
  | _ => m.plainWrite r v

/-- A PL_, LK_, EVT_, CR_, WL_ or TH_ register read. -/
def Mach.lockRead (m : Mach) (r : RegRef) (who : Master) (quiet : Bool) : Mach × Cell :=
  let i := r.idx
  let u := r.unit
  match r.reg with
  | .plState => (m, m.plStateRead u)
  | .lkHoldstat => (m, m.holdstatRead u)
  | .lkHoldalloc => m.holdAlloc u who quiet
  | .evtPend => (m, m.pendCell u i)
  | .evtClaim => m.claim u who quiet
  | .evtThr => (m, m.thrRead u i)
  | .evtTflt => (m, m.tfltRead u i)
  | .crStat => (m, m.crStatRead u)
  | .crEpri => (m, m.epriRead u i)
  | .crSbocc => (m, m.sboccRead u i)
  | .crCnt => if i % 2 = 0 then m.cntRead u (i / 2) .crCnt i quiet else (m, m.rget r)
  | .crTlstat => (m, m.tlstatRead u)
  | .crTlops => if i = 0 then m.cntRead u 8 .crTlops 0 quiet else (m, m.rget r)
  | .crTlkill => if i = 0 then m.cntRead u 9 .crTlkill 0 quiet else (m, m.rget r)
  | .wlMdata => (m, m.wlRead u .wlMdata i)
  | .wlNdata => (m, m.wlRead u .wlNdata i)
  | .wlStat => (m, m.wlRead u .wlStat i)
  | .wlDt => (m, m.wlRead u .wlDt i)
  | .thView => (m, m.viewRead u i)
  | _ => (m, m.rget r)

/-! ## The one access -/

/-- A register written, whoever writes it. -/
def Mach.regStore (m : Mach) (r : RegRef) (v : Cell) (who : Master) : Mach :=
  if r.reg.info.space ≠ .abs then m.lockWrite r v who
  else
    let a := r.key
    if a < 0x8010000 then m.blkWrite r v who
    else if a < 0x8040000 then m.quayWrite r v
    else if a < 0x8050000 then m.sluWrite r v
    else if a < 0x8080000 then m.helperWrite r v
    else m.ctlWrite r v who

/-- A register read: the value, and the side effect that a quiet read leaves out (R14). -/
def Mach.regFetch (m : Mach) (r : RegRef) (who : Master) (quiet : Bool) : Mach × Cell :=
  if r.reg.info.space ≠ .abs then m.lockRead r who quiet
  else
    let a := r.key
    if a < 0x8010000 then m.blkRead r quiet
    else if a < 0x8040000 then m.quayRead r quiet
    else if a < 0x8050000 then m.sluRead r quiet
    else if a < 0x8080000 then (m, m.helperRead r)
    else m.ctlRead r who quiet

/-- Whether the master is a helm thread, the host, or the debug bus master at FULL access. -/
def Mach.stdWriter (m : Mach) (who : Master) : Bool :=
  match who with
  | .thread t => (m.thr t).helm
  | .host => true
  | .debug => m.sessionLevel == 2

/-- Whether the master is the debug bus master at FULL access. -/
def Mach.fullDebug (m : Mach) (who : Master) : Bool := who == .debug && m.sessionLevel == 2

/-- Whether a register accepts a write of a master (R12, R17, R21, R157, R179, R247, R262, R366 and the register tables). A
deck thread reaches only LK_HOLDRET of its own lock (R157). -/
def Mach.mayWrite (m : Mach) (r : RegRef) (who : Master) : Bool :=
  let tk := m.isActiveTk who
  match r.reg.info.writers with
  | .std => r.reg == .lkHoldret || m.stdWriter who
  | .tk => tk
  | .anyTk => (match who with
    | .thread t => Tid.tk t && (m.thr t).helm
    | _ => false)
  | .tkHost => tk || who == .host
  | .tkHostDbg => tk || who == .host || m.fullDebug who
  | .hostDbg => who == .host || m.fullDebug who
  | .evt => tk || who == .host || m.fullDebug who || (match who with
    | .thread t => Tid.ctl t == r.unit && (m.thr t).helm
    | _ => false)
  | .ring => who == .host || (match who with
    | .thread t => (m.thr t).helm
    | _ => false)
  | .thv => tk || who == .host || m.fullDebug who

/-- A write that a register does not accept changes nothing; the standby's is counted at OD 0x7000.05 (R21), and any of
BLK_REMAP at OD 0x7000.04 (R17). One of LC_KDATA sets LC_STAT.CODE 6 (R452). -/
def Mach.refusedWrite (m : Mach) (r : RegRef) (who : Master) : Mach :=
  let w := r.reg.info.writers
  let m := if r.reg == .blkRemap then m.count 0x7000 4 else if r.reg == .lcKdata then m.lcCode 6 else m
  if m.isStandbyTk who && (w == .tk || w == .tkHost || w == .tkHostDbg) then m.count 0x7000 5 else m

/-- A register written by a master. -/
def Mach.regWrite1 (m : Mach) (r : RegRef) (v : Cell) (who : Master) : Mach :=
  if m.mayWrite r who then m.regStore r v who else m.refusedWrite r who

end Sys2Proof.Machine
end

