-- ==== Sys2Proof/Machine/DictMap.lean ====
section
/-!
DEFINITION. The index map of the object dictionary (R373 to R380, R384, R407): which entries there are, their types and access
codes, and the registers, tables and counters behind them.
-/
namespace Sys2Proof.Machine

/-! ## Types (R374) -/

/-- Whether octets are an encoding of a type code. -/
def tyFits (ty : Nat) (os : List (BitVec 8)) : Bool :=
  let n := os.length
  let v := beNat os
  let sign := fun (w top : Nat) => decide (v < 2 ^ (w - 1)) || decide (2 ^ top - 2 ^ (w - 1) ≤ v)
  match ty with
  | 1 => n == 1 && decide (v ≤ 1)
  | 2 => n == 2 && decide (v < 512)
  | 3 => n == 3 && decide (v < 262144)
  | 4 => n == 3 && sign 18 24
  | 5 => n == 5 && decide (v < 2 ^ 36)
  | 6 => n == 5 && sign 36 40
  | 7 => n == 4
  | 8 => n == 10
  | 9 => true
  | 10 => n % 9 != 1
  | 11 => n % 3 == 0
  | _ => false

/-- A cell as a U18. -/
def u18 (c : Cell) : List (BitVec 8) := beOctets c.toNat 3
/-- Cells, the low one first, as one number. -/
def cellsNat (cs : List Cell) : Nat := cs.foldr (fun c n => c.toNat + 262144 * n) 0
/-- The value of a type that cells hold. TIME64 of five cells takes the fraction from the first one; of four it has none. -/
def tyOfCells (ty : Nat) (cs : List Cell) : List (BitVec 8) :=
  match ty with
  | 5 => beOctets (cellsNat cs) 5
  | 6 => beOctets (((BitVec.ofNat 36 (cellsNat cs)).signExtend 40).toNat) 5
  | 8 =>
    if cs.length = 5 then beOctets (cellsNat (cs.drop 1) % 2 ^ 64) 8 ++ beOctets (fld (cs.headD 0) 15 0) 2
    else beOctets (cellsNat cs % 2 ^ 64) 8 ++ [0, 0]
  | _ => cs.flatMap u18

/-- A number as n cells, the low one first. -/
def natCells (v : Nat) : Nat → List Cell
  | 0 => []
  | n + 1 => BitVec.ofNat 18 v :: natCells (v / 262144) n

/-- Octets cut in cells of three octets. -/
def cellsOfU18 : Nat → List (BitVec 8) → List Cell
  | 0, _ => []
  | n + 1, os => BitVec.ofNat 18 (beNat (os.take 3)) :: cellsOfU18 n (os.drop 3)

/-- The n cells that a value of a type writes. -/
def cellsOfTy (ty n : Nat) (os : List (BitVec 8)) : List Cell :=
  match ty with
  | 5 => natCells (beNat os) n
  | 6 => natCells (beNat os % 2 ^ 36) n
  | 8 =>
    let ns := natCells (beNat (os.take 8)) 4
    if n = 5 then BitVec.ofNat 18 (beNat (os.drop 8)) :: ns else ns
  | _ => cellsOfU18 n os

/-! ## Entries -/

/-- The access codes of R375. -/
inductive Acc where
  | ro | rw | wo | rwp | const
  deriving DecidableEq, Repr

/-- A table of elements: how many, the selection that shows an element, and its window registers in address order (R374). -/
structure OdTab where
  count : Nat
  sel : Nat → List (RegRef × Cell)
  cells : Nat → List RegRef

/-- What stands behind an entry. -/
inductive OdKind where
  | regs (l : List RegRef)
  | table (t : OdTab)
  | waybill (kind : Nat)
  | counter (key : Nat)
  | fixed (os : List (BitVec 8))
  | version (kind : Nat)
  | sessions
  | subs
  | var (dflt : List (BitVec 8))
  | param (v : OdVar)
  | restore
  | openSession
  | unfitClr
  | doorbell (p : Nat)

/-- A dictionary entry (R373). -/
structure OdEntry where
  ty : Nat
  acc : Acc
  kind : OdKind

/-- Registers of write-only fields alone. -/
def Reg.woOnly (r : Reg) : Bool := r == .blkTkctl || r == .pwrBwdsvc
/-- Registers whose only writable fields are write-only ones beside read-only ones: their entries are written and not
journalled (DEDUCED entry 75). -/
def Reg.woMixed (r : Reg) : Bool :=
  r == .blkXchg || r == .pwrDom || r == .plState || r == .pwrIso || r == .gauCtl || r == .plPacecal || r == .plBank ||
    r == .evtTflt

/-- The access code that the field types of an alias give (R380). -/
def aliasAcc (l : List RegRef) : Acc :=
  if l.any fun r => r.reg.info.rw != 0 then .rwp
  else if l.all fun r => r.reg.woOnly then .wo
  else if l.any fun r => r.reg.woMixed then .rw
  else .ro

/-- The entry of registers, of a type. -/
def odRegs (ty : Nat) (l : List RegRef) : OdEntry := ⟨ty, aliasAcc l, .regs l⟩
/-- The U18 entry of one block register. -/
def odReg (r : Reg) (i : Nat := 0) : OdEntry := odRegs 3 [⟨r, 0, i⟩]
/-- The U18 entry of one register of a unit. -/
def odUnit (r : Reg) (u : Nat) (i : Nat := 0) : OdEntry := odRegs 3 [⟨r, u, i⟩]
/-- Consecutive cells of a block register. -/
def regRun (r : Reg) (i n : Nat) : List RegRef := (List.range n).map fun j => ⟨r, 0, i + j⟩
/-- A DOMAIN entry. -/
def odTab (acc : Acc) (t : OdTab) : OdEntry := ⟨11, acc, .table t⟩
/-- A table of single registers, of a unit. -/
def odCells (r : Reg) (u n : Nat) : OdEntry :=
  odTab (aliasAcc [⟨r, u, 0⟩]) ⟨n, fun _ => [], fun i => [⟨r, u, i⟩]⟩
/-- A table behind a selection register. -/
def odSelect (n : Nat) (sel : Reg) (code : Nat → Nat) (l : List RegRef) : OdEntry :=
  odTab (aliasAcc l) ⟨n, fun i => [(⟨sel, 0, 0⟩, BitVec.ofNat 18 (code i))], fun _ => l⟩
/-- The counters 1 to n of an index (R378). -/
def odCounts (i n : Nat) : List OdEntry := (List.range n).map fun s => ⟨5, .ro, .counter (256 * i + s + 1)⟩
/-- A value the firmware keeps, persistent (R379). -/
def odVar (ty : Nat) (dflt : List (BitVec 8)) : OdEntry := ⟨ty, .rwp, .var dflt⟩

/-! ## The map (R378) -/

/-- Indices 0x1000 to 0x1FFF: identity, LPP, sessions (R379). -/
def odIdentity (i : Nat) : List OdEntry :=
  if i = 0x1000 then
    [⟨5, .const, .fixed (beOctets 0x17160004 5)⟩, ⟨5, .const, .fixed (beOctets 0x564F52 5)⟩,
     ⟨3, .const, .fixed (u18 Config.hwRev)⟩, ⟨9, .const, .fixed (beOctets Config.serial.toNat 16)⟩]
  else if i = 0x1001 then (List.range 3).map fun k => ⟨5, .ro, .version k⟩
  else if i = 0x1011 then [⟨5, .wo, .restore⟩]
  else if i = 0x1020 then [odReg .blkLppety, odReg .blkLppq, odReg .blkLppstat]
  else if i = 0x1021 then (List.range 16).map fun q => odVar 2 (beOctets (0x60 + q) 2)
  else if i = 0x1100 then [odReg .blkLppctl]
  else if i = 0x1200 then [⟨9, .wo, .openSession⟩, odVar 3 (beOctets 60 3), ⟨2, .ro, .sessions⟩]
  else if i = 0x1201 then [⟨2, .ro, .subs⟩]
  else []

/-- Indices 0x2000 to 0x2FFF: kinds, fly-boat, host, canal, quays, gates, bollards. -/
def odFabric (i : Nat) : List OdEntry :=
  let q := i % 16
  if i = 0x2010 then (List.range 16).map fun k => odReg .blkKentry k
  else if i = 0x2030 then [odReg .blkFbctl, odReg .blkFbpairq, odReg .blkFberr, odReg .blkFbmm]
  else if i = 0x2040 then
    [odRegs 5 [⟨.blkHwbase0, 0, 0⟩, ⟨.blkHwbase1, 0, 0⟩], odReg .blkHpctl, odReg .blkHperr, odReg .blkEvosw]
  else if i = 0x2041 then
    [odTab .rwp ⟨24, fun _ => [], fun g =>
      [⟨.blkRbase0, 0, g⟩, ⟨.blkRbase1, 0, g⟩, ⟨.blkRbase2, 0, g⟩, ⟨.blkRctl, 0, g⟩, ⟨.blkRhead, 0, g⟩,
       ⟨.blkRtail, 0, g⟩, ⟨.blkRstat, 0, g⟩, ⟨.blkRord, 0, g⟩]⟩]
  else if i = 0x2200 then [odReg .cnlVccfg, odReg .cnlErr]
  else if i / 16 = 0x240 then
    [odReg .qiCtl q, odReg .qiMap q, odReg .qiOrd q, odReg .qiLim q, odReg .qiViol q, odReg .qiQthr q, odReg .qiPhy q]
  else if i = 0x2410 then [odCells .qiSteer 0 1024]
  else if i = 0x2420 then (List.range 8).map fun p => odReg .qeOrdprof p
  else if i = 0x2421 then
    [odSelect 4096 .qeOrdsel (fun d => d) [⟨.qeOrdcfg, 0, 0⟩, ⟨.qeOrdnext, 0, 0⟩, ⟨.qeOrdstat, 0, 0⟩]]
  else if i / 16 = 0x243 then [odReg .qeCtl q]
  else if i = 0x2500 then [odReg .bolErr]
  else if i = 0x2501 then
    [odSelect 4096 .bolSel (fun b => b)
      [⟨.bolCfg, 0, 0⟩, ⟨.bolState, 0, 0⟩, ⟨.bolOwner, 0, 0⟩, ⟨.bolWaitcnt, 0, 0⟩]]
  else []

/-- The entries of a core at 0x3n3x (sections of the core, Tally, windlass and stowage registers). -/
def odCore (k : Nat) : List OdEntry :=
  [odUnit .crCtl k, odUnit .crStat k, odUnit .crEpri k 0, odUnit .crEpri k 1, odUnit .crSbocc k 0, odUnit .crSbocc k 1,
   odUnit .crTlstat k, odUnit .wlCtl k, odUnit .wlStat k, odUnit .wlVer k, odCells .wlDt k 64] ++
    (List.range 8).map (fun t => odUnit .crStwin k t) ++ [odUnit .crSterr k]

/-- The five event tables of a controller: sources, pending, active, threads, thread faults. -/
def odEvents (u : Nat) : List OdEntry :=
  let n := if u = 31 then 8 else 128
  [odCells .evtSrc u 512, odCells .evtPend u 32, odCells .evtAct u 32, odCells .evtThr u n, odCells .evtTflt u n]

/-- Indices 0x3n00 to 0x3n5F: logical lock n, served by a physical lock. -/
def odLock (n p i : Nat) : List OdEntry :=
  if i = 0 then [odReg .blkLockmap n]
  else if i = 0x10 then
    [odUnit .lkHoldbase p, odUnit .lkHoldcnt p, odUnit .lkManbase p, odUnit .lkFrctl p, odUnit .lkHoldstat p, odUnit .lkAgectl p]
  else if i = 0x20 then [odReg .blkFbpart n]
  else if i / 16 = 3 then odCore (16 * p + i % 16)
  else if i = 0x40 then odEvents p
  else if i = 0x41 then (List.range 16).map fun l => odUnit .evtVec p l
  else if i = 0x42 then (List.range 8).map fun c => odUnit .evtDlb p c
  else if i = 0x43 then [odUnit .evtErr p]
  else if i = 0x44 then [⟨3, .wo, .doorbell p⟩]
  else if i = 0x50 then [odUnit .lkLccctl p, odUnit .lkLccstat p]
  else []

/-- Indices 0x4000 to 0x4FFF: helpers and timebase. -/
def odHelpers (i : Nat) : List OdEntry :=
  let q := i % 16
  if i = 0x4000 then [odReg .blkHlptmo]
  else if i = 0x4010 then [odReg .gauCtl, odReg .gauHseed, odReg .gauPcpmap 0, odReg .gauPcpmap 1]
  else if i = 0x4011 then (List.range 8).map fun h => odReg .gauHprof h
  else if i = 0x4012 then (List.range 16).map fun k => odReg .gauRoot k
  else if i = 0x4013 then [odCells .gauNode 0 1024, odCells .gauTrans 0 4096]
  else if i = 0x4101 then (List.range 3).map fun k => ⟨11, .rw, .waybill k⟩
  else if i = 0x4200 then [odReg .sealCtl, odReg .sealKstat, odReg .sealEvt]
  else if i = 0x4201 then
    [odSelect 2048 .sealSasel (fun a => a)
      (⟨.sealSactl, 0, 0⟩ :: regRun .sealSci 0 4 ++ regRun .sealPn 0 4 ++ regRun .sealWin 0 2 ++ regRun .sealSsci 0 2)]
  else if i / 16 = 0x430 then
    [odReg .sluCtl q, odReg .sluRate q, odReg .sluGst q,
     odRegs 8 [⟨.sluBase0, 0, q⟩, ⟨.sluBase1, 0, q⟩, ⟨.sluBase2, 0, q⟩, ⟨.sluBase3, 0, q⟩],
     odRegs 5 [⟨.sluCyc0, 0, q⟩, ⟨.sluCyc1, 0, q⟩], odReg .sluExt q, odReg .sluLen q, odReg .sluFb q, odReg .sluFbb q]
  else if i / 16 = 0x431 then (List.range 8).map fun j => odRegs 5 (regRun .sluIdle (16 * q + 2 * j) 2)
  else if i = 0x4320 then
    [odSelect 16384 .sluGclsel (fun e => e / 1024 * 16384 + e % 1024) [⟨.sluGcld0, 0, 0⟩, ⟨.sluGcld1, 0, 0⟩]]
  else if i = 0x4321 then
    [odSelect 4096 .sluFsel (fun f => f) (⟨.sluFctl, 0, 0⟩ :: ⟨.sluFsdu, 0, 0⟩ :: regRun .sluFrate 0 8)]
  else if i = 0x4322 then
    [odSelect 4096 .sluSgsel (fun e => e)
      (⟨.sluSgd0, 0, 0⟩ :: ⟨.sluSgd1, 0, 0⟩ :: ⟨.sluSgcfg, 0, 0⟩ :: regRun .sluSgbase 0 4 ++ regRun .sluSgcyc 0 2)]
  else if i = 0x4323 then [odReg .sluErr]
  else if i = 0x4400 then
    [odRegs 8 (regRun .tbSnap 0 5), odRegs 8 (regRun .tbSnapm 0 4), odRegs 6 (regRun .tbRate 0 2), odRegs 8 (regRun .tbStep 0 5)]
  else if i = 0x4401 then
    [odSelect 16 .tbAlmsel (fun a => a) (regRun .tbAlmt 0 4 ++ [⟨.tbAlmctl, 0, 0⟩] ++ regRun .tbAlmper 0 2)]
  else []

/-- Indices 0x5000 to 0x6FFF: availability, pace, tollkeeper events, keep store, physical locks, debug. -/
def odService (i : Nat) : List OdEntry :=
  if i = 0x5000 then
    [odReg .blkSpare, odReg .blkSpare, odReg .blkTkstat, odReg .blkApsel, odReg .blkFlt, odReg .pwrBoot, odReg .blkTkctl,
     odReg .blkTkwd]
  else if i = 0x5002 then (List.range 24).map fun d => odReg .pwrDom d
  else if i = 0x5003 then
    [odReg .blkEvac, odReg .blkEvdrain, odReg .blkEvleft, odVar 3 (beOctets 24 3), ⟨2, .wo, .unfitClr⟩]
  else if i = 0x5004 then [odReg .blkXchg]
  else if i = 0x5005 then [odReg .pwrBwd, odReg .pwrBwdsvc, odReg .pwrBwdleft]
  else if i = 0x5006 then [odReg .pwrIso]
  else if i = 0x5007 then
    [odVar 2 [0, 1], odVar 3 (beOctets 0x3E 3), odVar 9 (List.replicate 6 0), odVar 2 [0, 0], ⟨2, .ro, .var [0, 0]⟩,
     odVar 3 (beOctets 1000 3), ⟨5, .ro, .var (List.replicate 5 0)⟩]
  else if i = 0x5100 then [odReg .blkPaceCtl, odReg .blkPaceStat]
  else if i = 0x5101 then (List.range 23).map fun d => odReg .blkPaceCnt d
  else if i = 0x5200 then odEvents 31
  else if i = 0x5201 then (List.range 16).map fun l => odUnit .evtVec 31 l
  else if i = 0x5203 then [odUnit .evtErr 31]
  else if i = 0x5300 then
    [odReg .keepCtl, odReg .keepWp, odReg .keepAct, odReg .keepStat, odReg .keepErr, odRegs 5 (regRun .keepErradr 0 2)]
  else if i = 0x5301 then [odCells .keepRemap 0 64]
  else if 0x5400 ≤ i ∧ i ≤ 0x5410 then
    let p := i - 0x5400
    [odCells .plBank p 17, odUnit .plSpare p, odUnit .plMarch p, odUnit .plMstat p,
     odRegs 5 [⟨.plMfail, p, 0⟩, ⟨.plMfail, p, 1⟩], odUnit .plEcc p, odUnit .plEccrow p, odUnit .plScrub p, odUnit .plState p,
     odUnit .plPacecal p]
  else if i = 0x6000 then [odReg .dbgCtl, odReg .dbgStat]
  else if i = 0x6001 then [odReg .lcStat]
  else if i = 0x6100 then [odCells .dbgPatch 0 64, odCells .dbgPram 0 2048, odReg .dbgPstat]
  else []

/-- How many counters an index of 0x7000 to 0x7FFF holds. -/
def countTop (i : Nat) : Nat :=
  if i = 0x7000 then 5 else if i / 16 = 0x710 then 13 else if i = 0x7300 then 7 else if i = 0x7400 then 3
  else if i = 0x7440 then 2 else if i = 0x7450 then 4 else if i = 0x7460 then 9 else if i / 16 = 0x750 then 3
  else if i = 0x7600 then 5 else if i = 0x7610 then 3 else if i / 256 = 0x77 ∧ i % 16 = 0 then 5
  else if i / 256 = 0x78 then 10 else if i = 0x7900 then 5
  else if i / 256 = 0x7A ∧ i % 256 ≤ 16 then 5 else if i = 0x7B00 then 9 else if i = 0x7C00 then 3
  else if i / 256 = 0x7D ∧ (i % 256 ≤ 16 ∨ i % 256 = 31) then 5
  else 0

/-- The entries of an index, subindex 1 first (R378). The counters at 0x78nx are those of the core of the physical lock that
serves n. -/
def Mach.odList (m : Mach) (i : Nat) : List OdEntry :=
  if i < 0x2000 then odIdentity i
  else if i < 0x3000 then odFabric i
  else if i < 0x4000 then odLock (i / 256 % 16) (m.plockOf (i / 256 % 16)) (i % 256)
  else if i < 0x5000 then odHelpers i
  else if i < 0x7000 then odService i
  else if i / 256 = 0x78 then
    (List.range 10).map fun s => ⟨5, .ro, .counter (coreCntKey (16 * m.plockOf (i / 16 % 16) + i % 16) s)⟩
  else if i = 0x7510 then [odSelect 4096 .sluFsel (fun f => f) (regRun .sluFcnt 0 10)]
  else if i < 0x8000 then odCounts i (countTop i)
  else []

/-- The customer parameters of an index, by subindex (R384). -/
def Mach.odParams (m : Mach) (i : Nat) : List (Nat × OdVar) :=
  if 0x8000 ≤ i ∧ i < 0xC000 then
    (m.dict.vars.filter fun e => e.1 / 256 == i && e.1 % 256 != 0).map fun e => (e.1 % 256, e.2)
  else []

/-- The access code of a stored entry: 0 RO, 1 RW, 2 WO, 3 RWP, 4 CONST. -/
def accOf (c : BitVec 3) : Acc := match c.toNat with | 0 => .ro | 1 => .rw | 2 => .wo | 3 => .rwp | _ => .const

/-- An entry, or the abort code of R373: no such object, no such subindex. Subindex 0 holds the highest one. -/
def Mach.odEntry (m : Mach) (i s : Nat) : Except Nat OdEntry :=
  if 0x8000 ≤ i then
    let ps := m.odParams i
    match ps.getLast? with
    | none => .error 0x30001
    | some z =>
      if s = 0 then .ok ⟨2, .const, .fixed (beOctets z.1 2)⟩
      else
        match ps.find? fun e => e.1 == s with
        | some e => .ok ⟨e.2.ty.toNat, accOf e.2.access, .param e.2⟩
        | none => .error 0x30002
  else
    let l := m.odList i
    if l.isEmpty then .error 0x30001
    else if s = 0 then .ok ⟨2, .const, .fixed (beOctets l.length 2)⟩
    else if i = 0x5000 ∧ s = 1 then .error 0x30002
    else
      match l[s - 1]? with
      | some e => .ok e
      | none => .error 0x30002

/-! ## Domains (R397) -/

/-- The power domain of a register. -/
def RegRef.domain (r : RegRef) : Nat :=
  match r.reg.info.space with
  | .abs =>
    let a := r.key
    if r.reg = .blkFlt ∨ r.reg = .blkEvosw then 0
    else if r.reg = .blkTkstat ∨ r.reg = .blkTkctl ∨ r.reg = .blkTkwd then 1
    else if a < 0x8010000 then 2
    else if a < 0x8020000 then 0
    else if a < 0x8030000 then 2
    else if 0x8032000 ≤ a ∧ a < 0x8034000 then 4
    else if a < 0x8040000 then 3
    else if a < 0x8050000 then 4
    else if a < 0x8070000 then 5
    else if a < 0x8080000 then 2
    else if a < 0x8090000 then 6
    else 0
  | .ctl => if r.unit = 31 then 1 else 7 + r.unit
  | .lock => 7 + r.unit
  | .core => if 272 ≤ r.unit then 1 else 7 + r.unit / 16

/-- Whether the unit behind an entry is powered (R381). -/
def Mach.odPowered (m : Mach) (e : OdEntry) : Bool :=
  match e.kind with
  | .regs l => l.all fun r => m.isOn r.domain
  | .table t => (t.cells 0).all fun r => m.isOn r.domain
  | .waybill _ => m.isOn 5
  | .doorbell p => m.isOn (7 + p)
  | _ => true

end Sys2Proof.Machine
end

