-- ==== Sys2Proof/Machine/Dict.lean ====
section
/-!
DEFINITION. The object dictionary at work: values read and written through registers and tables (R374, R380, R381), the
journal of persistent values (R339, R340, R376, R377), the UNFIT record (R407), and requests with their abort codes (R393).
The firmware of the active tollkeeper performs every request whole at its command (R382, DESIGN CHOICE entry 76).
-/
namespace Sys2Proof.Machine

/-- Whether the active tollkeeper's firmware runs and has its state (R426). -/
def Mach.fwRuns (m : Mach) : Bool := m.coreRuns (mkTid 31 m.activeTk 0) && !m.dict.fwDown

/-! ## The journal (R339, R340) -/

/-- First offset of a journal half. -/
def journalBase (half : Bool) : Nat := 0x410000 + b2n half * 0x40000
/-- Words in a half. -/
def journalWords : Nat := 32768
/-- A word of a half. -/
def Mach.jWord (m : Mach) (half : Bool) (w : Nat) : List Nonet := m.keepN (journalBase half + 8 * w) 8
/-- A cell of a word's nonets. -/
def nonetCell (ns : List Nonet) (i : Nat) : Cell := BitVec.ofNat 18 (pack ((ns.drop (2 * i)).take 2))
/-- CHK over header cells 0 to 2 and the data words. -/
def journalChk (head data : List Nonet) : Cell := (crc32c ((head.take 6 ++ data).map octet)).setWidth 18

/-- A header word. -/
def journalHead (kind key gen : Nat) (data : List Nonet) : List Nonet :=
  let cs := unpack (kind * 65536 + data.length / 8 * 256 + key % 256) 2 ++ unpack (key / 256) 2 ++ unpack gen 2
  cs ++ unpack (journalChk cs data).toNat 2

/-- Generation of a half whose header is valid. -/
def Mach.jGen (m : Mach) (half : Bool) : Option Cell :=
  let h := m.jWord half 0
  if fld (nonetCell h 0) 17 16 = 2 ∧ !m.badN none (0x4000000 + journalBase half) 8 ∧ nonetCell h 3 = journalChk h [] then
    some (nonetCell h 2)
  else none

/-- The active half and its generation: of two valid ones the later. -/
def Mach.jActive (m : Mach) : Option (Bool × Cell) :=
  match m.jGen false, m.jGen true with
  | some a, some b => some (if laterGen b a then (true, b) else (false, a))
  | some a, none => some (false, a)
  | none, some b => some (true, b)
  | none, none => none

/-- The record at a word: key and data, if it is one (R340). -/
def Mach.jRecord (m : Mach) (half : Bool) (gen : Cell) (w : Nat) : Option (Nat × List Nonet) :=
  let h := m.jWord half w
  let n := fld (nonetCell h 0) 15 8
  if w < journalWords ∧ fld (nonetCell h 0) 17 16 = 1 ∧ nonetCell h 2 = gen ∧ w + 1 + n ≤ journalWords ∧
      !m.badN none (0x4000000 + journalBase half + 8 * w) (8 * (n + 1)) then
    let data := m.keepN (journalBase half + 8 * (w + 1)) (8 * n)
    if nonetCell h 3 = journalChk h data then
      some (256 * fld (nonetCell h 1) 15 0 + fld (nonetCell h 0) 7 0, data)
    else none
  else none

/-- The records from a word on, the last of each entry, and the word after the last record. -/
def Mach.jRecords (m : Mach) (half : Bool) (gen : Cell) : Nat → Nat → Map (List Nonet) → Map (List Nonet) × Nat
  | 0, w, r => (r, w)
  | n + 1, w, r =>
    match m.jRecord half gen w with
    | some (k, d) => m.jRecords half gen n (w + 1 + d.length / 8) (mput r k d)
    | none => (r, w)

/-- The records that reading a journal leaves: both half headers, the records of the active half, and the word
that ends them with the data words it names (R334, R340). -/
def Mach.jNote (m : Mach) (half : Bool) (gen : Cell) (last : Nat) : Mach :=
  let h := m.jWord half last
  let n := if fld (nonetCell h 0) 17 16 = 1 ∧ nonetCell h 2 = gen then 1 + fld (nonetCell h 0) 15 8 else 1
  (m.noteKeep (journalBase (!half)) 1).noteKeep (journalBase half) (min journalWords (last + n))

/-- Words written one after the other. -/
def Mach.jPut (m : Mach) (half : Bool) (w : Nat) (ns : List Nonet) : Mach :=
  (List.range (ns.length / 8)).foldl (fun m i => m.keepPut (journalBase half + 8 * (w + i)) ((ns.drop (8 * i)).take 8)) m

/-- A record put at a word: data, a word of zeros past it, the header last. -/
def Mach.jRecordPut (m : Mach) (half : Bool) (gen : Cell) (w key : Nat) (data : List Nonet) : Mach :=
  let z := w + 1 + data.length / 8
  let m := m.jPut half (w + 1) data
  let m := if z < journalWords then m.jPut half z (List.replicate 8 0) else m
  m.jPut half w (journalHead 1 key gen.toNat data)

/-- A half begun under a generation with the records of a map: its header is written last. -/
def Mach.jFill (m : Mach) (half : Bool) (gen : Cell) (rs : Map (List Nonet)) : Mach :=
  let r := rs.foldl (fun (r : Mach × Nat) (e : Nat × List Nonet) =>
    (r.1.jRecordPut half gen r.2 e.1 e.2, r.2 + 1 + e.2.length / 8)) (m.jPut half 1 (List.replicate 8 0), 1)
  let m := r.1.jPut half 0 (journalHead 2 0 gen.toNat [])
  { m with dict := { m.dict with journalHalf := half, journalEnd := r.2 } }

/-- The journal with a half in force: the first one begun where neither is valid. -/
def Mach.jReady (m : Mach) : Mach × Bool × Cell :=
  match m.jActive with
  | some (h, g) => (m, h, g)
  | none => (m.jFill false 0 [], false, 0)

/-- A record appended, after a compaction into the other half where it does not fit; none where it fits in neither, or where the
keep controller starts no write (R340, R376, R469). -/
def Mach.jAppend (m : Mach) (key : Nat) (data : List Nonet) : Option Mach :=
  let n := 1 + data.length / 8
  let put := fun (m : Mach) (half : Bool) (gen : Cell) =>
    let w := m.dict.journalEnd
    let m := m.jRecordPut half gen w key data
    { m with dict := { m.dict with journalEnd := w + n, written := mput m.dict.written key true } }
  if !m.isOn 6 || m.d0.powerFail then none
  else
    let r := m.jReady
    let m := r.1
    if m.dict.journalEnd + n ≤ journalWords then some (put m r.2.1 r.2.2)
    else
      let m := (m.jNote r.2.1 r.2.2 m.dict.journalEnd).jFill (!r.2.1) (r.2.2 + 1) (m.jRecords r.2.1 r.2.2 journalWords 1 []).1
      if m.dict.journalEnd + n ≤ journalWords then some (put m (!r.2.1) (r.2.2 + 1)) else none

/-- A value as data words: one octet in each nonet, padded with zeros. -/
def journalData (os : List (BitVec 8)) : List Nonet :=
  os.map nonet ++ List.replicate ((8 - os.length % 8) % 8) 0

/-! ## Reading (R381) -/

/-- An element of a table selected. -/
def Mach.odSelectElem (m : Mach) (t : OdTab) (i : Nat) : Mach :=
  (t.sel i).foldl (fun m e => m.regStore e.1 e.2 .host) m

/-- The cells of registers as a dictionary read gives them, without side effects. -/
def Mach.regCells (m : Mach) (l : List RegRef) : List Cell := l.map fun r => (m.regFetch r .host true).2

/-- The 21 window cells of a waybill entry. -/
def Mach.wbEntryCells (m : Mach) (t : Nat) (key mask : List Cell) (res : Dbl) : List Cell :=
  [BitVec.ofNat 18 t, (m.wbTable t).desc, (m.wbTable t).desc2] ++ (key ++ List.replicate (8 - key.length) 0) ++
    (mask ++ List.replicate (8 - mask.length) 0) ++ resCells res

/-- The sixteen octets of a 128-bit value, two in each of eight cells. -/
def octetCells (v : BitVec 128) : List Cell := (List.range 8).map fun j => BitVec.ofNat 18 (fld v (127 - 16 * j) (112 - 16 * j))

/-- The value of a waybill table: the entries present of the EM or the LPM tables, or every ternary entry (DESIGN CHOICE entry
77). -/
def Mach.wbValue (m : Mach) (kind : Nat) : List Cell :=
  match kind with
  | 0 => m.waybill.em.flatMap fun e => m.wbEntryCells e.table.toNat e.key [] e.res
  | 1 => m.waybill.lpm.flatMap fun e => m.wbEntryCells e.table.toNat (octetCells e.addr) [BitVec.ofNat 18 e.len] e.res
  | _ => (List.range 4096).flatMap fun i =>
    let e := m.ternEntry i
    octetCells e.key ++ octetCells e.mask ++ resCells e.res

/-- VERSION of the active image of a kind (R405). -/
def Mach.imageVersion (m : Mach) (kind : Nat) : Nat :=
  match m.dirCopy with
  | some c => (m.keepDbl (dirBase c + 8 * dirEntry kind (m.actSlot kind) + 4)).toNat
  | none => 0

/-- The value that the firmware keeps under a key. -/
def Mach.odVarValue (m : Mach) (key : Nat) (dflt : List (BitVec 8)) : List (BitVec 8) :=
  match m.dict.vars.find? fun e => e.1 == key with
  | some e => e.2.value
  | none => dflt

/-- The value of an entry. -/
def Mach.odValue (m : Mach) (key : Nat) (e : OdEntry) : List (BitVec 8) :=
  match e.kind with
  | .regs l => tyOfCells e.ty (m.regCells l)
  | .table t => (List.range t.count).flatMap fun i => ((m.odSelectElem t i).regCells (t.cells i)).flatMap u18
  | .waybill k => (m.wbValue k).flatMap u18
  | .counter k => beOctets (m.cntKey k).toNat 5
  | .fixed os => os
  | .version k => beOctets (m.imageVersion k) 5
  | .sessions => beOctets m.dict.sessions.length 2
  | .subs => beOctets m.dict.subs.length 2
  | .var d => m.odVarValue key d
  | .param v => v.value
  | .restore => []
  | .openSession => []
  | .unfitClr => []
  | .doorbell _ => []

/-! ## Writing (R381) -/

/-- The error flags and refusal counts that tell a write which a register's rule ignores. -/
def RegRef.errFlags (r : RegRef) : List (RegRef × Cell) :=
  match r.reg with
  | .cnlVccfg => [(⟨.cnlErr, 0, 0⟩, 1)]
  | .lkHoldbase => [(⟨.lkHoldstat, r.unit, 0⟩, 0x20000)]
  | .lkHoldcnt => [(⟨.lkHoldstat, r.unit, 0⟩, 0x20000)]
  | .lkManbase => [(⟨.lkHoldstat, r.unit, 0⟩, 0x20000)]
  | .blkFbctl => [(⟨.blkFberr, 0, 0⟩, 5)]
  | .blkFbpart => [(⟨.blkFberr, 0, 0⟩, 5)]
  | .sluGcld0 => [(⟨.sluErr, 0, 0⟩, 7)]
  | .sluGcld1 => [(⟨.sluErr, 0, 0⟩, 7)]
  | .sluFrate => [(⟨.sluErr, 0, 0⟩, 7)]
  | .sluSgcfg => [(⟨.sluErr, 0, 0⟩, 7)]
  | .sluGst => [(⟨.sluErr, 0, 0⟩, 7)]
  | .sluBase0 => [(⟨.sluErr, 0, 0⟩, 7)]
  | .sluBase1 => [(⟨.sluErr, 0, 0⟩, 7)]
  | .sluBase2 => [(⟨.sluErr, 0, 0⟩, 7)]
  | .sluBase3 => [(⟨.sluErr, 0, 0⟩, 7)]
  | .sluCyc0 => [(⟨.sluErr, 0, 0⟩, 7)]
  | .sluCyc1 => [(⟨.sluErr, 0, 0⟩, 7)]
  | .sluExt => [(⟨.sluErr, 0, 0⟩, 7)]
  | .sluLen => [(⟨.sluErr, 0, 0⟩, 7)]
  | .plBank => [(⟨.plSpare, r.unit, 0⟩, 0x20000)]
  | .plMarch => [(⟨.plMstat, r.unit, 0⟩, 0x4000)]
  | .plState => [(r, 0x800)]
  | .pwrDom => [(r, 0x2000)]
  | .blkEvac => [(r, 0x800)]
  | .wlVer => [(⟨.wlStat, r.unit, 0⟩, 0x8000)]
  | .wlDt => [(⟨.wlStat, r.unit, 0⟩, 0x8000)]
  | .dbgPram => [(⟨.dbgPstat, 0, 0⟩, 0x10000)]
  | .dbgRun => [(⟨.dbgRstat, 0, 0⟩, 0x10000)]
  | _ => []

/-- The counts that rise with a refused write. -/
def RegRef.errCounts (r : RegRef) : List Nat := if r.reg = .pwrBwdsvc then [0x7B0005] else []

/-- Whether a write that acts on registers is refused by their rules: it raises an error flag or a refusal count (R381). -/
def Mach.ruleRefuses (m : Mach) (l : List RegRef) (write : Mach → Mach) : Bool :=
  let flags := l.flatMap RegRef.errFlags
  let counts := l.flatMap RegRef.errCounts
  if flags.isEmpty && counts.isEmpty then false
  else
    let m := flags.foldl (fun m e => m.rset e.1 (m.rget e.1 &&& ~~~e.2)) m
    let n := write m
    flags.any (fun e => n.rget e.1 &&& e.2 != 0) || counts.any fun k => n.cntKey k != m.cntKey k

/-- Cells written to registers in address order. -/
def Mach.regStores (m : Mach) (l : List RegRef) (cs : List Cell) : Mach :=
  (l.zip cs).foldl (fun m e => m.regStore e.1 e.2 .host) m

/-- A table written element by element; the selection returns to what it was. -/
def Mach.tableWrite (m : Mach) (t : OdTab) (cs : List Cell) : Mach :=
  let n := (t.cells 0).length
  let back := (t.sel 0).map fun e => (e.1, m.rget e.1)
  let m := (List.range t.count).foldl (fun m i => (m.odSelectElem t i).regStores (t.cells i) ((cs.drop (n * i)).take n)) m
  back.foldl (fun m e => m.regStore e.1 e.2 .host) m

/-- Window registers loaded for one entry of a waybill table. -/
def Mach.wbLoad (m : Mach) (cs : List Cell) : Mach :=
  let t := fld (cs.getD 0 0) 6 0
  let m := m.w .wbTsel (BitVec.ofNat 18 t)
  let m := if (m.wbTable t).desc = cs.getD 1 0 ∧ (m.wbTable t).desc2 = cs.getD 2 0 then m
    else (m.tdesc2Write (cs.getD 2 0)).tdescWrite (cs.getD 1 0)
  let m := (List.range 8).foldl (fun m j => (m.w .wbKey (cs.getD (3 + j) 0) j).w .wbMask (cs.getD (11 + j) 0) j) m
  (m.w .wbRes (cs.getD 19 0) 0).w .wbRes (cs.getD 20 0) 1

/-- The entries of an EM or LPM value inserted; the Bool says whether one was refused. -/
def Mach.wbInserts (m : Mach) : Nat → List Cell → Bool → Mach × Bool
  | 0, _, bad => (m, bad)
  | n + 1, cs, bad =>
    let r := (m.wbLoad (cs.take 21)).wbRun 1
    r.1.wbInserts n (cs.drop 21) (bad || decide (1 < r.2))

/-- A waybill value written: it replaces the entries of its tables; the window registers keep their contents. -/
def Mach.wbWrite (m : Mach) (kind : Nat) (cs : List Cell) : Mach × Bool :=
  let regs := m.regs
  let r := match kind with
    | 0 => ({ m with waybill := { m.waybill with em := [] } }).wbInserts (cs.length / 21) cs false
    | 1 => ({ m with waybill := { m.waybill with lpm := [] } }).wbInserts (cs.length / 21) cs false
    | _ =>
      let oct := fun (l : List Cell) => l.foldl (fun (a : BitVec 128) (c : Cell) => (a <<< 16) ||| (c.extractLsb' 0 16).setWidth 128) 0
      ((List.range 4096).foldl (fun (m : Mach) i =>
        let e := (cs.drop (18 * i)).take 18
        let x : TernEntry := ⟨oct (e.take 8), oct ((e.drop 8).take 8), mkDbl (e.getD 17 0) (e.getD 16 0)⟩
        { m with waybill := { m.waybill with tern := mset ⟨0, 0, 0⟩ m.waybill.tern i x } }) m, false)
  ({ r.1 with regs := regs }, r.2)

/-- A value the firmware keeps stored. -/
def Mach.odVarPut (m : Mach) (key : Nat) (v : OdVar) : Mach :=
  { m with dict := { m.dict with vars := mput m.dict.vars key v } }

/-- A customer parameter stored at its offset in the basin of every logical lock, in lock order (R384). -/
def Mach.paramStore (m : Mach) (v : OdVar) : Mach :=
  match v.offset with
  | none => m
  | some off => (List.range 16).foldl (fun m l =>
      if m.placeOff (.basin (m.plockOf l) 0) then m else m.wrN none (basinBase l + off) (v.value.map nonet)) m

/-- The UNFIT record of a physical lock in the directory's chosen copy (R405). -/
def Mach.unfitRecord (m : Mach) (p : Nat) : Bool :=
  match m.dirCopy with
  | some c => bit (m.dirCell c (104 + p) 1) 17
  | none => false
/-- The UNFIT record written in both copies (R406). -/
def Mach.putUnfit (m : Mach) (p : Nat) (b : Bool) : Mach :=
  match m.dirCopy with
  | some c => m.dirWrite (104 + p) (unpack (m.dirCell c (104 + p) 0).toNat 2 ++ unpack (b2n b * 131072) 2 ++ [0, 0, 0, 0])
  | none => m

/-- The effect of a write whose type and range are right, whether or not a rule refuses it. -/
def Mach.odPerform (m : Mach) (key : Nat) (e : OdEntry) (os : List (BitVec 8)) : Mach :=
  match e.kind with
  | .regs l => m.regStores l (cellsOfTy e.ty l.length os)
  | .table t => m.tableWrite t (cellsOfU18 (os.length / 3) os)
  | .waybill k => (m.wbWrite k (cellsOfU18 (os.length / 3) os)).1
  | .var _ => m.odVarPut key ⟨BitVec.ofNat 4 e.ty, 3, os, none⟩
  | .param v => (m.odVarPut key { v with value := os }).paramStore { v with value := os }
  | .restore => m.dict.written.foldl (fun m k => (m.jAppend k.1 []).getD m) m
  | .unfitClr => m.putUnfit (beNat os) false
  | .doorbell p => m.ringWrite p (BitVec.ofNat 18 (beNat os))
  | _ => m

/-- Whether the unit's rule refuses a write. -/
def Mach.odRefused (m : Mach) (key : Nat) (e : OdEntry) (os : List (BitVec 8)) : Bool :=
  match e.kind with
  | .regs l => m.ruleRefuses l fun m => m.odPerform key e os
  | .table t => m.ruleRefuses (t.cells 0) fun m => m.odPerform key e os
  | .waybill k => (m.wbWrite k (cellsOfU18 (os.length / 3) os)).2
  | .restore => m.dict.written.any fun k => (m.jAppend k.1 []).isNone
  | .unfitClr => bit (m.r .keepWp) 6
  | .doorbell p =>
    let n := (m.wu .evtErr p 0).odPerform key e os
    n.ru .evtErr p != 0
  | .openSession => true
  | _ => false

/-- The length that a value of an entry has, where it is fixed. -/
def OdEntry.size (e : OdEntry) : Option Nat :=
  match e.kind, e.ty with
  | .regs l, 9 => some (3 * l.length)
  | .table t, _ => some (3 * t.count * (t.cells 0).length)
  | .waybill k, _ => if k = 2 then some (3 * 18 * 4096) else none
  | .var d, 9 => some d.length
  | _, _ => none

/-- Whether type and length of a value are the entry's. -/
def OdEntry.fits (e : OdEntry) (ty : Nat) (os : List (BitVec 8)) : Bool :=
  ty == e.ty && tyFits ty os && (match e.size with
    | some n => os.length == n
    | none => (match e.kind with
      | .waybill _ => os.length % 63 == 0
      | _ => true))

/-- Whether a value lies in the entry's range (R377, R379, R407, R431). -/
def Mach.odInRange (m : Mach) (key : Nat) (e : OdEntry) (os : List (BitVec 8)) : Bool :=
  let v := beNat os
  match e.kind with
  | .restore => v == 0x6466
  | .unfitClr => decide (v ≤ 16) && m.unfitRecord v
  | _ =>
    if key = 0x120002 then decide (1 ≤ v) && decide (v ≤ 3600)
    else if key = 0x500706 then decide (1000 ≤ v)
    else if key = 0x500703 then v % 16 == 0
    else true

/-! ## Requests (R373, R375, R393, R447) -/

/-- What the life-cycle state refuses (R447): FIELD-SEALED is state 3, VOID state 5. -/
def Mach.lcRefuses (m : Mach) (write : Bool) (i s : Nat) : Bool :=
  let st := m.d0.lcState.toNat
  (st == 3 && write && i / 4096 == 6) ||
    (st == 5 && (write || !((i == 0x1000 || i == 0x1001) && s != 0)))

/-- A read: type and value, or the first abort code that applies. -/
def Mach.odGet (m : Mach) (i s : Nat) : Except Nat (Nat × List (BitVec 8)) :=
  match m.odEntry i s with
  | .error c => .error c
  | .ok e =>
    if e.acc = .wo then .error 0x30004
    else if m.lcRefuses false i s then .error 0x30008
    else if !m.odPowered e then .error 0x30009
    else .ok (e.ty, m.odValue (256 * i + s) e)

/-- A persistent entry's value read back and journalled (R376). A value longer than 2,040 nonets is not persistent (R339). -/
def Mach.odJournal (m : Mach) (key : Nat) (e : OdEntry) : Mach × Nat :=
  let e := match e.kind with
    | .param v => { e with kind := .var v.value }
    | _ => e
  let os := m.odValue key e
  if 2040 < os.length then (m, 0)
  else
    match m.jAppend key (journalData os) with
    | some m => (m, 0)
    | none => (m, 0x40002)

/-- A write: the code of the first abort that applies, 0 for none. A refused write leaves what its rule leaves. -/
def Mach.odPut (m : Mach) (i s ty : Nat) (os : List (BitVec 8)) : Mach × Nat :=
  match m.odEntry i s with
  | .error c => (m, c)
  | .ok e =>
    let key := 256 * i + s
    if e.acc = .ro ∨ e.acc = .const then (m, 0x30003)
    else if !e.fits ty os then (m, 0x30005)
    else if !m.odInRange key e os then (m, 0x30006)
    else
      let on := m.odPowered e
      let lc := m.lcRefuses true i s
      let wp := bit (m.r .keepWp) 7 && (e.acc == .rwp || (match e.kind with
        | .restore => true
        | _ => false))
      let refused := on && m.odRefused key e os
      if lc then (m, if refused then 0x30007 else 0x30008)
      else if !on then (m, 0x30009)
      else if wp then (m, if refused then 0x30007 else 0x40001)
      else if refused then
        (match e.kind with
          | .unfitClr => (m, 0x30007)
          | .restore => (m, 0x40002)
          | _ => (m.odPerform key e os, 0x30007))
      else
        let m := m.odPerform key e os
        if e.acc = .rwp then m.odJournal key e else (m, 0)

/-- At start-up every persistent entry that a test selects takes its last journalled value (R340, R376); a record that does
not fit its entry is skipped. -/
def Mach.replay (m : Mach) (sel : OdEntry → Bool) : Mach :=
  match m.jActive with
  | none => (m.noteKeep (journalBase false) 1).noteKeep (journalBase true) 1
  | some (half, gen) =>
    let r := m.jRecords half gen journalWords 1 []
    let m := m.jNote half gen r.2
    let m := { m with dict := { m.dict with journalHalf := half, journalEnd := r.2, written := r.1.map fun e => (e.1, true) } }
    r.1.foldl (fun m e =>
      match m.odEntry (e.1 / 256) (e.1 % 256) with
      | .error _ => m
      | .ok x =>
        let old := m.odValue e.1 x
        let os := (e.2.map octet).take old.length
        if x.acc = .rwp ∧ sel x ∧ e.2.length = 8 * ((old.length + 7) / 8) ∧ e.2.length ≠ 0 ∧ x.fits x.ty os ∧ m.odPowered x then
          m.odPerform e.1 x os
        else m) m

/-! ## The host window (R382) -/

/-- OD_DATAk octets from OD_DATA0 on, n of them. -/
def Mach.odData (m : Mach) (n : Nat) : List (BitVec 8) :=
  (List.range n).map fun j => BitVec.ofNat 8 (if j % 2 = 0 then fld (m.r .odData (j / 2)) 15 8 else fld (m.r .odData (j / 2)) 7 0)

/-- Octets put into OD_DATAk, two to a cell. -/
def Mach.odShow (m : Mach) (os : List (BitVec 8)) : Mach :=
  (List.range ((os.length + 1) / 2)).foldl (fun m k =>
    m.w .odData (BitVec.ofNat 18 ((os.getD (2 * k) 0).toNat * 256 + (os.getD (2 * k + 1) 0).toNat)) k) m

/-- A window command ends: DONE, ABORTED with the code, MORE and TYPE. -/
def Mach.odDone (m : Mach) (code : Nat) (more : Bool) (ty : Nat) : Mach :=
  let v : Cell := BitVec.ofNat 18 (0x10000 + b2n (code != 0) * 0x8000 + b2n more * 0x4000 + ty)
  let m := m.w .odStat v
  if code = 0 then m else (m.w .odAbort (BitVec.ofNat 18 (code % 65536)) 0).w .odAbort (BitVec.ofNat 18 (code / 65536)) 1

/-- Staged octets. -/
def Mach.odStaged (m : Mach) (os : List (BitVec 8)) : Mach := { m with dict := { m.dict with staged := os } }

/-- The octets of OD_DATAk staged at OFF, which must continue what is staged; OFF 0 begins anew. -/
def Mach.odStage (m : Mach) : Except Nat (List (BitVec 8)) :=
  let off := (m.r .odOff).toNat
  let n := (m.r .odLen).toNat
  let old := if off = 0 then [] else m.dict.staged
  if 256 < n then .error 0x10004
  else if off ≠ old.length then .error 0x50001
  else .ok (old ++ m.odData n)

/-- A window read. -/
def Mach.odWindowRead (m : Mach) : Mach :=
  match m.odGet (m.r .odIdx).toNat (m.r .odSub).toNat with
  | .error c => m.odDone c false 0
  | .ok (ty, os) =>
    let rest := os.drop (m.r .odOff).toNat
    let now := rest.take 256
    ((m.odShow now).w .odLen (BitVec.ofNat 18 now.length)).odDone 0 (decide (256 < rest.length)) ty

/-- A window write of a segment; `last` performs the write. -/
def Mach.odWindowWrite (m : Mach) (ty : Nat) (last : Bool) : Mach :=
  match m.odStage with
  | .error c => (m.odStaged []).odDone c false 0
  | .ok os =>
    if last then
      let r := (m.odStaged []).odPut (m.r .odIdx).toNat (m.r .odSub).toNat ty os
      r.1.odDone r.2 false 0
    else (m.odStaged os).odDone 0 false 0

/-- A window command performed. -/
def Mach.odWindow (m : Mach) (v : Cell) : Mach :=
  if fld v 17 16 = 1 then m.odWindowRead else m.odWindowWrite (fld v 3 0) (fld v 17 16 == 3)

/-! ## Dictionary calls (R383) -/

/-- A cell of a core's call block, at own-core stowage 0x000_23C0. -/
def Mach.callCell (m : Mach) (k i : Nat) : Cell :=
  BitVec.ofNat 18 (pack ((List.range 2).map fun j => m.mem1 (stowKey k (0x23C0 + 2 * i + j))))
/-- A nonet of a core's call block. -/
def Mach.callPut (m : Mach) (k off : Nat) (ns : List Nonet) : Mach :=
  ns.zipIdx.foldl (fun m e => m.putKey (stowKey k (0x23C0 + off + e.2)) e.1 true) m

/-- The request of a call block performed: the code, and for a read the value. -/
def Mach.callRequest (m : Mach) (k : Nat) : Mach × Nat × List (BitVec 8) :=
  let op := fld (m.callCell k 0) 17 16
  let i := fld (m.callCell k 1) 15 0
  let s := fld (m.callCell k 2) 7 0
  let n := (m.callCell k 3).toNat
  if op = 1 then
    match m.odGet i s with
    | .error c => (m, c, [])
    | .ok r => if 48 < r.2.length then (m, 0x10004, []) else (m, 0, r.2)
  else if op = 2 then
    if 48 < n then (m, 0x10004, [])
    else
      let os := (List.range n).map fun j => octet (m.mem1 (stowKey k (0x23C0 + 16 + j)))
      let r := m.odPut i s (fld (m.callCell k 0) 3 0) os
      (r.1, r.2, [])
  else (m, 0x10001, [])

/-- The end of a dictionary call: the abort code, the value of a read, DONE, and the caller's doorbell. -/
def Mach.callDone (m : Mach) (p k op code : Nat) (os : List (BitVec 8)) : Mach :=
  let m := if code = 0 ∧ op = 1 then (m.callPut k 16 (os.map nonet)).callPut k 6 (unpack os.length 2) else m
  let m := m.callPut k 8 (unpack (0x20000 + b2n (code != 0) * 0x10000) 2 ++ unpack code 4)
  m.ringWrite p (m.callCell k 7)

/-- A dictionary call of core x in logical lock l performed. -/
def Mach.dictCall (m : Mach) (l x : Nat) : Mach :=
  let p := m.plockOf l
  let k := 16 * p + x
  if m.placeOff (.stow k 0) then m
  else
    let op := fld (m.callCell k 0) 17 16
    let r := m.callRequest k
    r.1.callDone p k op r.2.1 r.2.2

/-! ## The queue of requests (R382) -/

/-- A request performed whole. -/
def Mach.odServe (m : Mach) (r : OdReq) : Mach :=
  match r with
  | .window v => m.odWindow v
  | .call l x => m.dictCall l x
/-- The requests that wait performed in arrival order, once the firmware runs. -/
def Mach.odServeAll (m : Mach) : Mach :=
  if m.fwRuns then m.dict.waits.foldl Mach.odServe { m with dict := { m.dict with waits := [] } } else m
/-- A request that finds 16 waiting ends with the busy abort. -/
def Mach.odBusy (m : Mach) (r : OdReq) : Mach :=
  match r with
  | .window _ => m.odDone 0x70001 false 0
  | .call l x => if m.placeOff (.stow (16 * m.plockOf l + x) 0) then m else m.callDone (m.plockOf l) (16 * m.plockOf l + x) 0 0x70001 []
/-- A request arrives: performed after those that wait, or made to wait while no firmware runs. -/
def Mach.odRequest (m : Mach) (r : OdReq) : Mach :=
  if m.fwRuns then m.odServeAll.odServe r
  else if m.dict.waits.length < 16 then
    let m := { m with dict := { m.dict with waits := m.dict.waits ++ [r] } }
    match r with
    | .window _ => m.wbit .odStat 17 true
    | .call _ _ => m
  else m.odBusy r

/-- OD_CMD written. While no firmware runs the command stays BUSY. -/
def Mach.odCommand (m : Mach) (v : Cell) : Mach :=
  if bit (m.r .odStat) 17 ∨ fld v 17 16 = 0 then m else m.odRequest (.window v)

/-! ## Rows -/

/-- DICT_CALL (R383). -/
def execDictCall (l : LLock) (x : Fin 16) (s : State) : Host.Outcome State Fault Refusal := done s (s.m.odRequest (.call l.val x.val))

/-- DICT_RESTORE: a write of OD 0x1011.01 (R377). -/
def execDictRestore (v : Dbl) (s : State) : Host.Outcome State Fault Refusal :=
  done s (if s.m.fwRuns then (s.m.odPut 0x1011 1 5 (beOctets v.toNat 5)).1 else s.m)

/-- UNFIT_CLEAR: a write of OD 0x5003.05 (R407). -/
def execUnfitClear (v : Nonet) (s : State) : Host.Outcome State Fault Refusal :=
  done s (if s.m.fwRuns then (s.m.odPut 0x5003 5 2 (beOctets v.toNat 2)).1 else s.m)

/-- REMOTE_DOORBELL: a write of OD 0x3n44.01 (R389). -/
def execRemoteDoorbell (l : LLock) (v : Cell) (s : State) : Host.Outcome State Fault Refusal :=
  done s (if s.m.fwRuns then (s.m.odPut (0x3044 + 256 * l.val) 1 3 (beOctets v.toNat 3)).1 else s.m)

end Sys2Proof.Machine
end

