-- ==== Sys2Proof/Machine/Lpp.lean ====
section
/-!
DEFINITION. LPP (R385 to R394): the header and its checks, sessions with their tags, the messages, block transfers,
subscriptions, and the frames that answer. The firmware serves a request whole at its command (R382).
-/
namespace Sys2Proof.Machine

/-! ## Frames -/

/-- An LPP frame in its holds: lock, manifest, octets before the header, octets from H1 on. -/
structure LppFrame where
  l : Nat
  mf : Nat
  iq : BitVec 4
  head : List (BitVec 8)
  os : List (BitVec 8)

/-- The LPP frame of a manifest. -/
def Mach.lppFrame (m : Mach) (mf : Nat) : Option LppFrame :=
  match m.manifest mf with
  | none => none
  | some (l, _) =>
    let os := (m.frameNonets l mf).map octet
    let h1 := fld (m.mcell mf 11) 17 9
    some ⟨l, mf, BitVec.ofNat 4 (fld (m.mcell mf 1) 17 14), os.take h1, os.drop h1⟩

/-- The header and body of a message (R385). -/
structure LppMsg where
  ver : Nat
  rsp : Bool
  auth : Bool
  bcast : Bool
  msg : Nat
  src : BitVec 12
  session : BitVec 16
  seq : BitVec 32
  len : Nat
  head : List (BitVec 8)
  body : List (BitVec 8)
  tag : List (BitVec 8)

/-- n octets at an offset as a number. -/
def numAt (os : List (BitVec 8)) (off n : Nat) : Nat := beNat ((os.drop off).take n)

/-- The message that octets spell, if header, body and tag lie in the frame. -/
def lppParse (os : List (BitVec 8)) : Option LppMsg :=
  let f := numAt os 0 1
  let auth := f / 4 % 2 == 1
  let len := numAt os 12 2
  if os.length < 16 ∨ os.length < 16 + len + 8 * b2n auth then none
  else some {
    ver := f / 16, rsp := f / 8 % 2 == 1, auth := auth, bcast := f / 2 % 2 == 1, msg := numAt os 1 1,
    src := BitVec.ofNat 12 (numAt os 4 2), session := BitVec.ofNat 16 (numAt os 6 2), seq := BitVec.ofNat 32 (numAt os 8 4),
    len := len, head := os.take 16, body := (os.drop 16).take len, tag := (os.drop (16 + len)).take 8 }

/-- The prefix of a reply: the Ethernet addresses swapped, tags and EtherType kept (R386). -/
def swapAddrs (head : List (BitVec 8)) : List (BitVec 8) := (head.drop 6).take 6 ++ head.take 6 ++ head.drop 12

/-- Nonets laid into a chain from a hold on, further holds taken where it ends (R46); none where no hold can be taken. -/
def Mach.layChain (m : Mach) (l : Nat) : Nat → List Link1 → List Nonet → Option Mach
  | 0, _, _ => none
  | _ + 1, [], _ => none
  | n + 1, h :: r, ns =>
    let n0 := min ns.length (m.holdAddr l h.idx + 264 - h.addr)
    let m := (m.setStart l { h with count := n0 }).wrN none h.addr (ns.take n0)
    let rest := ns.drop n0
    if !r.isEmpty then m.layChain l n r rest
    else if rest.isEmpty then some m
    else if !m.mayTake l 6 false then none
    else
      match m.nextHold l with
      | none => none
      | some i =>
        let a := m.holdAddr l i
        ((m.setHold l i true).wrN none a (List.replicate 8 0)).setNext l h a |>.layChain l n [⟨i, a + 8, 0⟩] rest

/-- The egress word of a quay's reply path: EQ and QUEUE of its RMAP entry (R379, R386). -/
def Mach.replyWord (m : Mach) (iq : BitVec 4) : Cell :=
  let v := beNat (m.odVarValue (0x102101 + iq.toNat) (beOctets (0x60 + iq.toNat) 2))
  BitVec.ofNat 18 (v % 16 * 16384 + v / 16 % 8 * 2048)

/-- A frame that draws no response released (R386). -/
def Mach.lppSilent (m : Mach) (mf : Nat) : Mach := (m.setLen mf 0).lppSend mf 0

/-- A frame of octets sent from a manifest's holds; where no hold can be taken the frame is released (DESIGN CHOICE entry 78). -/
def Mach.lppOut (m : Mach) (l mf : Nat) (iq : BitVec 4) (os : List (BitVec 8)) : Mach :=
  match m.layChain l 128 (m.chainOf l mf) (os.map nonet) with
  | some n => (n.setLen mf os.length).lppSend mf (n.replyWord iq)
  | none => m.lppSilent mf

/-! ## Sessions (R390, R391) -/

/-- Whether the seal can compute tags. -/
def Mach.cmacRuns (m : Mach) : Bool := m.isOn 5 && bit (m.r .sealCtl) 17
/-- The tag under a CMAC slot's key. -/
def Mach.lppTag (m : Mach) (slot : Nat) (os : List (BitVec 8)) : List (BitVec 8) := (aesCmac (m.cmacKey slot) os).take 8

/-- The session of a number: its slot and record. -/
def Mach.sessionOf (m : Mach) (s : BitVec 16) : Option (Nat × LppSession) := m.dict.sessions.find? fun e => e.2.num == s

/-- A session record stored. -/
def Mach.putSession (m : Mach) (n : Nat) (x : LppSession) : Mach :=
  { m with dict := { m.dict with sessions := mput m.dict.sessions n x } }

/-- A session ends: its transfer and subscriptions with it, and its key (R389, R390). -/
def Mach.endLpp (m : Mach) (n : Nat) : Mach :=
  { m with dict := { m.dict with sessions := mdel m.dict.sessions n, transfers := mdel m.dict.transfers n,
                                 subs := m.dict.subs.filter fun e => e.2.session != n } }.setCmacKey (16 + n) 0

/-- A message of the block: header, body, and the tag where a session slot is given; that session's next SEQ is used. -/
def Mach.lppBuild (m : Mach) (msg : Nat) (dst : BitVec 12) (slot : Option Nat) (seq : BitVec 32) (body : List (BitVec 8)) :
    Mach × List (BitVec 8) :=
  let node := fld (m.r .blkLppctl) 11 0
  let x := slot.map fun n => mget ⟨0, 0, n, 0, 0, 0⟩ m.dict.sessions n
  let q : BitVec 32 := match x with
    | some x => x.txSeq + 1
    | none => seq
  let num := match x with
    | some x => x.num.toNat
    | none => 0
  let head := beOctets (0x18 + 4 * b2n slot.isSome) 1 ++ beOctets msg 1 ++ beOctets dst.toNat 2 ++ beOctets node 2 ++
    beOctets num 2 ++ beOctets q.toNat 4 ++ beOctets body.length 2 ++ [0, 0]
  match slot, x with
  | some n, some x => (m.putSession n { x with txSeq := q }, head ++ body ++ m.lppTag (16 + n) (head ++ body))
  | _, _ => (m, head ++ body)

/-! ## Messages (R387 to R389) -/

/-- What a request draws: nothing, an abort code, or a body. -/
inductive Reply where
  | silent
  | abort (code : Nat)
  | body (os : List (BitVec 8))

/-- A block transfer stored, or dropped. -/
def Mach.putTransfer (m : Mach) (n : Nat) (t : Option Transfer) : Mach :=
  { m with dict := { m.dict with transfers := match t with
    | some t => mput m.dict.transfers n t
    | none => mdel m.dict.transfers n } }
/-- The block transfer of a session. -/
def Mach.transfer (m : Mach) (n : Nat) : Option Transfer := (m.dict.transfers.find? fun e => e.1 == n).map Prod.snd

/-- READ. -/
def Mach.lppRead (m : Mach) (b : List (BitVec 8)) : Reply :=
  match m.odGet (numAt b 0 2) (numAt b 2 1) with
  | .error c => .abort c
  | .ok (ty, os) => if 1000 < os.length then .abort 0x10004 else .body (b.take 3 ++ beOctets ty 1 ++ os)

/-- WRITE of an entry; one octet 0 to OD 0x1200.01 ends the session, once answered. -/
def Mach.lppWrite (m : Mach) (b : List (BitVec 8)) : Mach × Reply :=
  let r := m.odPut (numAt b 0 2) (numAt b 2 1) (numAt b 3 1) (b.drop 4)
  (r.1, if r.2 = 0 then .body (b.take 4) else .abort r.2)

/-- READ-BLOCK: a snapshot at OFFSET 0, from which later segments are served. -/
def Mach.lppReadBlock (m : Mach) (n : Nat) (b : List (BitVec 8)) : Mach × Reply :=
  let off := numAt b 4 4
  let cnt := numAt b 8 2
  let segment := fun (m : Mach) (t : Transfer) =>
    if t.octets.length < off then (m, Reply.abort 0x50001)
    else
      let fin := decide (t.octets.length ≤ off + cnt)
      let out := b.take 3 ++ [t.ty] ++ (b.drop 4).take 4 ++ beOctets (b2n fin) 1 ++ (t.octets.drop off).take cnt
      (m.putTransfer n (if fin then none else some { t with since := m.now }), Reply.body out)
  if cnt = 0 ∨ 1000 < cnt then (m, .abort 0x30006)
  else if off = 0 then
    match m.odGet (numAt b 0 2) (numAt b 2 1) with
    | .error c => (m, .abort c)
    | .ok (ty, os) =>
      let t : Transfer := ⟨false, BitVec.ofNat 16 (numAt b 0 2), BitVec.ofNat 8 (numAt b 2 1), BitVec.ofNat 8 ty, os, m.now⟩
      segment (m.putTransfer n (some t)) t
  else
    match m.transfer n with
    | some t =>
      if t.write ∨ t.index.toNat ≠ numAt b 0 2 ∨ t.sub.toNat ≠ numAt b 2 1 then (m, .abort 0x50001) else segment m t
    | none => (m, .abort 0x50001)

/-- WRITE-BLOCK: segments follow each other; the one with FINAL performs the write. -/
def Mach.lppWriteBlock (m : Mach) (n : Nat) (b : List (BitVec 8)) : Mach × Reply :=
  let off := numAt b 4 4
  let fin := numAt b 8 1 == 1
  let data := b.drop 9
  let old : Option Transfer :=
    if off = 0 then some ⟨true, BitVec.ofNat 16 (numAt b 0 2), BitVec.ofNat 8 (numAt b 2 1), BitVec.ofNat 8 (numAt b 3 1), [], m.now⟩
    else (m.transfer n).filter fun t =>
      t.write && t.index.toNat == numAt b 0 2 && t.sub.toNat == numAt b 2 1 && t.ty.toNat == numAt b 3 1 &&
        t.octets.length == off
  match old with
  | none => (m, .abort 0x50001)
  | some t =>
    let t := { t with octets := t.octets ++ data, since := m.now }
    if fin then
      let r := (m.putTransfer n none).odPut t.index.toNat t.sub.toNat t.ty.toNat t.octets
      (r.1, if r.2 = 0 then .body (b.take 8) else .abort r.2)
    else (m.putTransfer n (some t), .body (b.take 8))

/-- The lowest of 64 subscription places that is free. -/
def Mach.freeSub (m : Mach) : Option Nat := (List.range 64).find? fun i => !(m.dict.subs.any fun e => e.1 == i)

/-- SUBSCRIBE. -/
def Mach.lppSubscribe (m : Mach) (n : Nat) (f : LppFrame) (src : BitVec 12) (b : List (BitVec 8)) : Mach × Reply :=
  let id := BitVec.ofNat 8 (numAt b 6 1)
  let period := BitVec.ofNat 16 (numAt b 4 2)
  let mine := m.dict.subs.find? fun e => e.2.session == n && e.2.id == id
  match m.odGet (numAt b 0 2) (numAt b 2 1) with
  | .error c => (m, .abort c)
  | .ok (ty, os) =>
    let ok := Reply.body (b.take 3 ++ beOctets ty 1 ++ [id])
    if period = 0xFFFF then
      match mine with
      | some e => ({ m with dict := { m.dict with subs := mdel m.dict.subs e.1 } }, ok)
      | none => (m, .abort 0x60002)
    else
      let place := match mine with
        | some e => some e.1
        | none => m.freeSub
      match place with
      | none => (m, .abort 0x60001)
      | some i =>
        let x : Subscr := ⟨n, BitVec.ofNat 16 (numAt b 0 2), BitVec.ofNat 8 (numAt b 2 1), period, id, f.iq, src,
          (swapAddrs f.head).map nonet, os, m.now⟩
        ({ m with dict := { m.dict with subs := mput m.dict.subs i x } }, ok)

/-! ## Checks (R391, R392) -/

/-- Whether a body's length is right for its message (R387). -/
def bodyFits (msg n : Nat) : Bool :=
  match msg with
  | 1 => n == 4
  | 2 => decide (4 ≤ n)
  | 3 => n == 10
  | 4 => decide (9 ≤ n)
  | 5 => n == 7
  | _ => n == 8

/-- Whether a message is the open request's. -/
def LppMsg.opens (x : LppMsg) : Bool := x.msg == 2 && x.session == 0 && x.auth && numAt x.body 0 3 == 0x120001

/-- Whether it is a READ that needs no session: of OD 0x1000.01 to 0x1001.03. -/
def LppMsg.identity (x : LppMsg) : Bool :=
  x.msg == 1 && !x.auth && (numAt x.body 0 2 == 0x1000 || numAt x.body 0 2 == 0x1001) && numAt x.body 2 1 != 0

/-- The reply of a request sent, an abort counted at OD 0x7460.06. -/
def Mach.lppAnswer (m : Mach) (f : LppFrame) (x : LppMsg) (slot : Option Nat) (r : Reply) : Mach :=
  match r with
  | .silent => m.lppSilent f.mf
  | .abort c =>
    let o := (m.count 0x7460 6).lppBuild 7 x.src slot x.seq (x.body.take 3 ++ List.replicate (3 - x.body.length) 0 ++ [0] ++ beOctets c 4)
    o.1.lppOut f.l f.mf f.iq (swapAddrs f.head ++ o.2)
  | .body b =>
    let o := m.lppBuild x.msg x.src slot x.seq b
    o.1.lppOut f.l f.mf f.iq (swapAddrs f.head ++ o.2)

/-- The code that a message draws before its request is looked at: unknown message, version, body length. -/
def LppMsg.badForm (x : LppMsg) : Nat :=
  if x.msg = 0 ∨ x.msg = 6 ∨ 8 ≤ x.msg then 0x10001
  else if x.ver ≠ 1 then 0x10002
  else if !bodyFits x.msg x.body.length then 0x10003
  else 0

/-- The open request (R390): tag under the role key, a session number and a nonce chosen, the session key derived and
loaded; the response carries both and is tagged with it. -/
def Mach.lppOpen (m : Mach) (f : LppFrame) (x : LppMsg) : Mach :=
  let v := x.body.drop 4
  let role := numAt v 0 1
  let drop := fun (m : Mach) (sub : Nat) => (m.lppSilent f.mf).count 0x7460 sub
  if 2 ≤ role ∨ v.isEmpty ∨ !m.cmacRuns ∨ m.lppTag role (x.head ++ x.body) ≠ x.tag then drop m 4
  else if x.seq = 0 then drop m 5
  else if x.bcast then drop m 3
  else
    let bad := if x.badForm ≠ 0 then x.badForm
      else if numAt x.body 3 1 ≠ 9 ∨ v.length ≠ 9 then 0x30005
      else 0
    match (List.range 16).find? fun n => !(m.dict.sessions.any fun e => e.1 == n) with
    | none => m.lppAnswer f x none (.abort (if bad ≠ 0 ∧ bad < 0x20003 then bad else 0x20003))
    | some n =>
      if bad ≠ 0 then m.lppAnswer f x none (.abort bad)
      else if m.lcRefuses true 0x1200 1 then m.lppAnswer f x none (.abort 0x30008)
      else
        let start := Config.sessionNumber m.free
        let used := fun (s : BitVec 16) => s == 0 || (m.sessionOf s).isSome
        let num := match (List.range 17).find? fun d => !used (start + BitVec.ofNat 16 d) with
          | some d => start + BitVec.ofNat 16 d
          | none => start
        let nb := beOctets (Config.sessionNonce m.free).toNat 8
        let s := beOctets num.toNat 2
        let sk := aesCmac (m.cmacKey role) ([0x4C, 0x50, 0x50, 0x01] ++ v.drop 1 ++ nb ++ s)
        let m := m.take.setCmacKey (16 + n) (BitVec.ofNat 128 (beNat sk))
        let m := m.putSession n ⟨num, BitVec.ofNat 8 role, 16 + n, x.seq, 0, m.now⟩
        m.lppAnswer f x (some n) (.body (x.body.take 4 ++ s ++ nb))

/-- Whether a role permits a message: OBSERVE reads and aborts its transfers; it also ends its session. -/
def rolePermits (role : BitVec 8) (x : LppMsg) : Bool :=
  role == 1 || x.msg == 1 || x.msg == 3 || x.msg == 7 || (x.msg == 2 && x.body == [0x12, 0, 1, 9, 0])

/-- A request of a session performed. -/
def Mach.lppRequest (m : Mach) (f : LppFrame) (x : LppMsg) (n : Nat) : Mach × Reply :=
  match x.msg with
  | 1 => (m, m.lppRead x.body)
  | 2 => m.lppWrite x.body
  | 3 => m.lppReadBlock n x.body
  | 4 => m.lppWriteBlock n x.body
  | 5 => m.lppSubscribe n f x.src x.body
  | _ => (m.putTransfer n none, .silent)

/-- A session's message (R391): accepted when its tag holds and its SEQ is above the last one. -/
def Mach.lppInSession (m : Mach) (f : LppFrame) (x : LppMsg) (n : Nat) (e : LppSession) : Mach :=
  let drop := fun (m : Mach) (sub : Nat) => (m.lppSilent f.mf).count 0x7460 sub
  if !m.cmacRuns ∨ m.lppTag (16 + n) (x.head ++ x.body) ≠ x.tag then drop m 4
  else if x.seq ≤ e.rxSeq then drop m 5
  else if x.bcast then drop m 3
  else
    let m := m.putSession n { e with rxSeq := x.seq, heard := m.now }
    if x.badForm ≠ 0 then m.lppAnswer f x (some n) (.abort x.badForm)
    else if !rolePermits e.role x then m.lppAnswer f x (some n) (.abort 0x20002)
    else if x.msg = 2 ∧ x.body = [0x12, 0, 1, 9, 0] then
      (m.lppAnswer f x (some n) (.body (x.body.take 4))).endLpp n
    else
      let r := m.lppRequest f x n
      r.1.lppAnswer f x (some n) r.2

/-- A message checked and served. -/
def Mach.lppServe (m : Mach) (f : LppFrame) (x : LppMsg) : Mach :=
  let drop := fun (m : Mach) (sub : Nat) => (m.lppSilent f.mf).count 0x7460 sub
  if x.rsp then drop m 3
  else if x.auth then
    if x.opens then m.lppOpen f x
    else
      match m.sessionOf x.session with
      | some (n, e) => if x.session = 0 then drop m 4 else m.lppInSession f x n e
      | none => drop m 4
  else if x.bcast ∧ !x.identity then drop m 3
  else if x.badForm ≠ 0 then m.lppAnswer f x none (.abort x.badForm)
  else if !x.identity then m.lppAnswer f x none (.abort 0x20001)
  else m.lppAnswer f x none (m.lppRead x.body)

/-- The firmware takes an LPP request whose message the command names. -/
def Mach.lppTake (m : Mach) (mf : DAddr) (is : LppMsg → Bool) : Mach :=
  if !m.fwRuns then m
  else
    match m.lppFrame mf.toNat with
    | none => m
    | some f =>
      let taken := { m with dict := { m.dict with lppQueue := m.dict.lppQueue.filter fun a => a != mf } }
      match lppParse f.os with
      | none => (taken.lppSilent f.mf).count 0x7460 3
      | some x => if is x then taken.lppServe f x else m

/-! ## Rows -/

/-- LPP_READ: a READ, and every message that is none of the other rows' (R387, R392). -/
def execLppRead (mf : DAddr) (s : State) : Host.Outcome State Fault Refusal :=
  done s (s.m.lppTake mf fun x => !(x.msg == 2 || x.msg == 3 || x.msg == 4 || x.msg == 5 || x.msg == 7))
/-- LPP_WRITE. -/
def execLppWrite (mf : DAddr) (s : State) : Host.Outcome State Fault Refusal := done s (s.m.lppTake mf fun x => x.msg == 2 && !x.opens)
/-- SESSION_OPEN: the WRITE of OD 0x1200.01 outside a session (R390). -/
def execSessionOpen (mf : DAddr) (s : State) : Host.Outcome State Fault Refusal := done s (s.m.lppTake mf LppMsg.opens)
/-- LPP_READ_BLOCK. -/
def execLppReadBlock (mf : DAddr) (s : State) : Host.Outcome State Fault Refusal := done s (s.m.lppTake mf fun x => x.msg == 3)
/-- LPP_WRITE_BLOCK. -/
def execLppWriteBlock (mf : DAddr) (s : State) : Host.Outcome State Fault Refusal := done s (s.m.lppTake mf fun x => x.msg == 4)
/-- LPP_SUBSCRIBE. -/
def execLppSubscribe (mf : DAddr) (s : State) : Host.Outcome State Fault Refusal := done s (s.m.lppTake mf fun x => x.msg == 5)
/-- LPP_ABORT. -/
def execLppAbort (mf : DAddr) (s : State) : Host.Outcome State Fault Refusal := done s (s.m.lppTake mf fun x => x.msg == 7)

/-- A NOTIFY of a subscription (R389): every PERIOD ms, or for PERIOD 0 where the value changed, at most once per ms. It goes out from a hold of lock
BLK_LPPNEW1.LLOCK. -/
def Mach.notify (m : Mach) (i : Nat) : Mach :=
  match m.dict.subs.find? fun e => e.1 == i with
  | none => m
  | some (_, x) =>
    match m.odGet x.index.toNat x.sub.toNat with
    | .error _ => m
    | .ok (ty, os) =>
      if (x.period = 0 ∧ os = x.last) ∨ 1000 < os.length ∨ !m.past x.sent (1000000 * max 1 x.period.toNat) then m
      else
        let m := { m with dict := { m.dict with subs := mput m.dict.subs i { x with last := os, sent := m.now } } }
        let l := fld (m.r .blkLppnew1) 16 13
        match m.lppAlloc l with
        | none => m
        | some (m, mf) =>
          let body := beOctets x.index.toNat 2 ++ [x.sub] ++ beOctets ty 1 ++ [x.id] ++ os
          let o := m.lppBuild 6 x.dst (some x.session) 0 body
          (o.1.count 0x7460 7).lppOut l mf x.iq (x.head.map octet ++ o.2)

/-- NOTIFY_DUE. -/
def execNotifyDue (i : BitVec 6) (s : State) : Host.Outcome State Fault Refusal :=
  done s (if s.m.fwRuns then s.m.notify i.toNat else s.m)

/-- Whether a session accepted no request for IDLE seconds (R379, R390). -/
def Mach.idlePast (m : Mach) (e : LppSession) : Bool := m.past e.heard (1000000000 * beNat (m.odVarValue 0x120002 (beOctets 60 3)))

/-- SESSION_IDLE_EXPIRE (R390). -/
def execSessionIdleExpire (n : BitVec 4) (s : State) : Host.Outcome State Fault Refusal :=
  done s (if s.m.fwRuns && s.m.dict.sessions.any (fun e => e.1 == n.toNat && s.m.idlePast e.2) then (s.m.endLpp n.toNat).count 0x7460 8 else s.m)

/-- BLOCK_TRANSFER_EXPIRE (R388): 100 ms after the last segment. -/
def execBlockTransferExpire (n : BitVec 4) (s : State) : Host.Outcome State Fault Refusal :=
  done s (if (s.m.transfer n.toNat).any fun t => s.m.past t.since 100000000 then s.m.putTransfer n.toNat none else s.m)

end Sys2Proof.Machine
end

