-- ==== Sys2Proof/Machine/RegRows.lean ====
section
/-!
DEFINITION. Register accesses of any master, OD_CMD among them, and the commands that are one access of one register: each row
of the table that names a register field is the write or read of that register, with the rules the register has.
-/
namespace Sys2Proof.Machine

/-! ## Accesses -/

/-- A register written by a master. A register of a domain that is off takes no write (R158). -/
def Mach.regWrite (m : Mach) (r : RegRef) (v : Cell) (who : Master) : Mach :=
  if !m.isOn r.domain then m
  else if r.reg = .odCmd then (if m.mayWrite r who then m.odCommand v else m)
  else m.regWrite1 r v who

/-- Whether a master's reads are quiet: the debug bus master's, unless LOUD is set at FULL (R14, R455). -/
def Mach.quiet (m : Mach) (who : Master) : Bool := who == .debug && !(bit (m.r .dbgCtl) 16 && m.sessionLevel == 2)

/-- A register read by a master; one of a domain that is off reads zero. -/
def Mach.regRead (m : Mach) (r : RegRef) (who : Master) : Mach × Cell :=
  if !m.isOn r.domain then (m, 0) else m.regFetch r who (m.quiet who)

/-- The thread that a master is. -/
def Master.tid : Master → Option Tid
  | .thread t => some t
  | _ => none

/-- The register at an address of the block address map; a logical lock's registers are those of the physical lock that serves it
for the master (R15, R157, R413). -/
def Mach.regAt (m : Mach) (a : Nat) (who : Master) : Option RegRef :=
  match m.place (Master.tid who) a with
  | .reg a => Reg.ofAddr a
  | _ => none

/-- A cell written at a register address; an address that names no register ignores it (R13). -/
def Mach.addrWrite (m : Mach) (a : Nat) (v : Cell) (who : Master) : Mach :=
  match m.regAt a who with
  | some r => m.regWrite r v who
  | none => m

/-- A cell read at a register address; an address that names no register reads zero (R13). -/
def Mach.addrRead (m : Mach) (a : Nat) (who : Master) : Mach × Cell :=
  match m.regAt a who with
  | some r => m.regRead r who
  | none => (m, 0)

/-- The last value read. -/
def Mach.keepRead (r : Mach × Cell) : Mach := { r.1 with rdata := r.2 }

/-- Whether the life-cycle state bars the host from a register (R447). -/
def Mach.narrowed (m : Mach) (r : RegRef) (who : Master) (store : Bool) : Bool :=
  who == .host &&
    (if m.d0.lcState = 5 then store || !(r.reg == .dbgStat || r.reg == .lcStat)
     else m.d0.lcState == 3 && store && ((decide (0x80A0000 ≤ r.key) && decide (r.key < 0x80A2000)) || r.reg == .thView))

/-- A row that writes a register. Tollkeepers have no CR_ block that an address names, so a core number of theirs finds only
windlass registers. -/
def rowWrite (s : State) (r : RegRef) (v : Cell) (who : Master) : Host.Outcome State Fault Refusal :=
  done s (if r.reg.info.space = .core && decide (272 ≤ r.unit) && !r.reg.isWl || s.m.narrowed r who true then s.m
    else s.m.regWrite r v who)

/-- A row that reads a register. -/
def rowRead (s : State) (r : RegRef) (who : Master) : Host.Outcome State Fault Refusal :=
  done s (if r.reg.info.space = .core && decide (272 ≤ r.unit) && !r.reg.isWl || s.m.narrowed r who false then
      { s.m with rdata := 0 }
    else Mach.keepRead (s.m.regRead r who))

/-- The index in EVT_THRt and EVT_TFLTt of a controller: the tollkeepers' has eight. -/
def evtIdx (c : Ctl) (i : BitVec 7) : Nat := match c with | .lock _ => i.toNat | .tk => i.toNat % 8

/-! ## Rows -/

/-- TB_SNAP (R110). -/
def execTbSnap (who : Master) (s : State) : Host.Outcome State Fault Refusal := rowWrite s ⟨.tbCtl, 0, 0⟩ 0x20000 who

/-- TB_STEP (R109). -/
def execTbStep (who : Master) (s : State) : Host.Outcome State Fault Refusal := rowWrite s ⟨.tbCtl, 0, 0⟩ 0x10000 who

/-- TB_RATE_WRITE: TB_RATE1, which applies both halves (R108). -/
def execTbRateWrite (who : Master) (v : Cell) (s : State) : Host.Outcome State Fault Refusal :=
  rowWrite s ⟨.tbRate, 0, 1⟩ v who

/-- ALARM_ARM_WRITE: TB_ALMT0 to TB_ALMT3, then TB_ALMCTL (R111). -/
def execAlarmArmWrite (who : Master) (r : Fin 5) (v : Cell) (s : State) : Host.Outcome State Fault Refusal :=
  rowWrite s (if r.val < 4 then ⟨.tbAlmt, 0, r.val⟩ else ⟨.tbAlmctl, 0, 0⟩) v who

/-- TS_POP: a read of TB_TSPOP (R112). -/
def execTsPop (who : Master) (s : State) : Host.Outcome State Fault Refusal := rowRead s ⟨.tbTspop, 0, 0⟩ who

/-- VCCFG_WRITE (R26). -/
def execVccfgWrite (who : Master) (v : Cell) (s : State) : Host.Outcome State Fault Refusal :=
  rowWrite s ⟨.cnlVccfg, 0, 0⟩ v who

/-- REMAP (R17). -/
def execRemap (who : Master) (v : Cell) (s : State) : Host.Outcome State Fault Refusal :=
  rowWrite s ⟨.blkRemap, 0, 0⟩ v who

/-- POOL_PLACEMENT_WRITE: LK_HOLDBASE, LK_HOLDCNT, LK_MANBASE (R49). -/
def execPoolPlacementWrite (who : Master) (p : PLock) (r : Fin 3) (v : Cell) (s : State) : Host.Outcome State Fault Refusal :=
  rowWrite s (match r.val with | 0 => ⟨.lkHoldbase, p.val, 0⟩ | 1 => ⟨.lkHoldcnt, p.val, 0⟩ | _ => ⟨.lkManbase, p.val, 0⟩) v who

/-- HOLD_ALLOC: a read of LK_HOLDALLOC (R50). -/
def execHoldAlloc (who : Master) (p : PLock) (s : State) : Host.Outcome State Fault Refusal :=
  rowRead s ⟨.lkHoldalloc, p.val, 0⟩ who

/-- HOLD_RETURN (R47). -/
def execHoldReturn (who : Master) (p : PLock) (v : Cell) (s : State) : Host.Outcome State Fault Refusal :=
  rowWrite s ⟨.lkHoldret, p.val, 0⟩ v who

/-- QUAR_CLEAR (R71). -/
def execQuarClear (who : Master) (q : Quay) (s : State) : Host.Outcome State Fault Refusal :=
  rowWrite s ⟨.qiViol, 0, q.val⟩ 0x20000 who

/-- GAU_SWAP (R88). -/
def execGauSwap (who : Master) (s : State) : Host.Outcome State Fault Refusal := rowWrite s ⟨.gauCtl, 0, 0⟩ 0x10000 who

/-- WB_TDESC_WRITE (R482). -/
def execWbTdescWrite (who : Master) (v : Cell) (s : State) : Host.Outcome State Fault Refusal :=
  rowWrite s ⟨.wbTdesc, 0, 0⟩ v who

/-- WB_INSERT: WB_CMD with OP 1 (R482). -/
def execWbInsert (who : Master) (s : State) : Host.Outcome State Fault Refusal := rowWrite s ⟨.wbCmd, 0, 0⟩ 0x8000 who

/-- WB_DELETE: WB_CMD with OP 2 (R482). -/
def execWbDelete (who : Master) (s : State) : Host.Outcome State Fault Refusal := rowWrite s ⟨.wbCmd, 0, 0⟩ 0x10000 who

/-- WB_READ_KEY: WB_CMD with OP 3 (R482). -/
def execWbReadKey (who : Master) (s : State) : Host.Outcome State Fault Refusal := rowWrite s ⟨.wbCmd, 0, 0⟩ 0x18000 who

/-- WB_TERN_WRITE: WB_CMD with OP 4 (R482). -/
def execWbTernWrite (who : Master) (index : BitVec 12) (s : State) : Host.Outcome State Fault Refusal :=
  rowWrite s ⟨.wbCmd, 0, 0⟩ (BitVec.ofNat 18 (0x20000 + index.toNat)) who

/-- WB_TERN_READ: WB_CMD with OP 5 (R482). -/
def execWbTernRead (who : Master) (index : BitVec 12) (s : State) : Host.Outcome State Fault Refusal :=
  rowWrite s ⟨.wbCmd, 0, 0⟩ (BitVec.ofNat 18 (0x28000 + index.toNat)) who

/-- WB_BADCMD: WB_CMD with OP 6 or 7 (R482); another OP is another row's. -/
def execWbBadcmd (who : Master) (op : BitVec 3) (s : State) : Host.Outcome State Fault Refusal :=
  rowWrite s ⟨.wbCmd, 0, 0⟩ (if 6 ≤ op.toNat then BitVec.ofNat 18 (op.toNat * 0x8000) else 0) who

/-- KEY_STAGE (R97). -/
def execKeyStage (who : Master) (v : BitVec 16) (s : State) : Host.Outcome State Fault Refusal :=
  rowWrite s ⟨.sealKdata, 0, 0⟩ (v.setWidth 18) who

/-- KEY_LOAD: SEAL_KCMD with LOAD (R97). -/
def execKeyLoad (who : Master) (v : Cell) (s : State) : Host.Outcome State Fault Refusal :=
  rowWrite s ⟨.sealKcmd, 0, 0⟩ (setBit (setBit v 17 true) 16 false) who

/-- KEY_CLEAR: SEAL_KCMD with CLEAR (R97). -/
def execKeyClear (who : Master) (v : Cell) (s : State) : Host.Outcome State Fault Refusal :=
  rowWrite s ⟨.sealKcmd, 0, 0⟩ (setBit (setBit v 17 false) 16 true) who

/-- SACTL_WRITE (R97). -/
def execSactlWrite (who : Master) (v : Cell) (s : State) : Host.Outcome State Fault Refusal :=
  rowWrite s ⟨.sealSactl, 0, 0⟩ v who

/-- GCL_CHANGE: SLU_GOq with GO (R103). -/
def execGclChange (who : Master) (q : Quay) (s : State) : Host.Outcome State Fault Refusal :=
  rowWrite s ⟨.sluGo, 0, q.val⟩ 0x20000 who

/-- GCL_ENTRY_WRITE: SLU_GCLD1, which stores the staged entry (R103). -/
def execGclEntryWrite (who : Master) (v : Cell) (s : State) : Host.Outcome State Fault Refusal :=
  rowWrite s ⟨.sluGcld1, 0, 0⟩ v who

/-- GCL_ENTRY_READ: a read of SLU_GCLD1 (R101). -/
def execGclEntryRead (who : Master) (s : State) : Host.Outcome State Fault Refusal := rowRead s ⟨.sluGcld1, 0, 0⟩ who

/-- FILTER_COMMIT: SLU_FPBS1, which commits the filter (R106). -/
def execFilterCommit (who : Master) (v : Cell) (s : State) : Host.Outcome State Fault Refusal :=
  rowWrite s ⟨.sluFrate, 0, 7⟩ v who

/-- FSEL_WRITE (R107). -/
def execFselWrite (who : Master) (v : Cell) (s : State) : Host.Outcome State Fault Refusal :=
  rowWrite s ⟨.sluFsel, 0, 0⟩ v who

/-- SG_ENTRY_WRITE: SLU_SGD1, which stores the entry (R106). -/
def execSgEntryWrite (who : Master) (v : Cell) (s : State) : Host.Outcome State Fault Refusal :=
  rowWrite s ⟨.sluSgd1, 0, 0⟩ v who

/-- SGCFG_WRITE (R106). -/
def execSgcfgWrite (who : Master) (v : Cell) (s : State) : Host.Outcome State Fault Refusal :=
  rowWrite s ⟨.sluSgcfg, 0, 0⟩ v who

/-- FB_ENABLE: BLK_FBCTL (R131). -/
def execFbEnable (who : Master) (v : Cell) (s : State) : Host.Outcome State Fault Refusal :=
  rowWrite s ⟨.blkFbctl, 0, 0⟩ v who

/-- FBPART_WRITE (R142). -/
def execFbpartWrite (who : Master) (l : LLock) (v : Cell) (s : State) : Host.Outcome State Fault Refusal :=
  rowWrite s ⟨.blkFbpart, 0, l.val⟩ v who

/-- BOL_FORCE: the bollard that BOL_SEL names (R126). -/
def execBolForce (who : Master) (s : State) : Host.Outcome State Fault Refusal :=
  rowWrite s ⟨.bolForce, 0, 0⟩ 0x20000 who

/-- EVT_SRC_WRITE (R245). -/
def execEvtSrcWrite (who : Master) (c : Ctl) (src : BitVec 9) (v : Cell) (s : State) : Host.Outcome State Fault Refusal :=
  rowWrite s ⟨.evtSrc, (Ctl.unit c), src.toNat⟩ v who

/-- EVT_CLAIM: a read of EVT_CLAIM (R251). -/
def execEvtClaim (who : Master) (c : Ctl) (s : State) : Host.Outcome State Fault Refusal :=
  rowRead s ⟨.evtClaim, (Ctl.unit c), 0⟩ who

/-- EVT_DONE (R252). -/
def execEvtDone (who : Master) (c : Ctl) (v : Cell) (s : State) : Host.Outcome State Fault Refusal :=
  rowWrite s ⟨.evtDone, (Ctl.unit c), 0⟩ v who

/-- EVT_RING (R247). -/
def execEvtRing (who : Master) (c : Ctl) (v : Cell) (s : State) : Host.Outcome State Fault Refusal :=
  rowWrite s ⟨.evtRing, (Ctl.unit c), 0⟩ v who

/-- EVT_THR_WRITE (R265). -/
def execEvtThrWrite (who : Master) (c : Ctl) (i : BitVec 7) (v : Cell) (s : State) : Host.Outcome State Fault Refusal :=
  rowWrite s ⟨.evtThr, (Ctl.unit c), (evtIdx c i)⟩ v who

/-- THREAD_RESET: EVT_TFLTt with RST (R262). -/
def execThreadReset (who : Master) (c : Ctl) (i : BitVec 7) (s : State) : Host.Outcome State Fault Refusal :=
  rowWrite s ⟨.evtTflt, (Ctl.unit c), (evtIdx c i)⟩ 0x10000 who

/-- THREAD_VIEW_WRITE (R179). -/
def execThreadViewWrite (who : Master) (t : Tid) (r : BitVec 5) (v : Cell) (s : State) : Host.Outcome State Fault Refusal :=
  rowWrite s ⟨.thView, (Tid.coreNo t), (32 * Tid.num t + r.toNat)⟩ v who

/-- ICINV: CR_CTL with ICINV (R228); CNTRUN and the other stored bits keep their values. -/
def execIcinv (who : Master) (k : CoreRef) (s : State) : Host.Outcome State Fault Refusal :=
  rowWrite s ⟨.crCtl, k.val, 0⟩ (s.m.ru .crCtl k.val ||| 0x10000) who

/-- CNTCLR: CR_CTL with CNTCLR (R243). -/
def execCntclr (who : Master) (k : CoreRef) (s : State) : Host.Outcome State Fault Refusal :=
  rowWrite s ⟨.crCtl, k.val, 0⟩ (s.m.ru .crCtl k.val ||| 0x8000) who

/-- PFLUSH: CR_CTL with PFLUSH of the threads named (R233). -/
def execPflush (who : Master) (k : CoreRef) (mask : BitVec 8) (s : State) : Host.Outcome State Fault Refusal :=
  rowWrite s ⟨.crCtl, k.val, 0⟩ (s.m.ru .crCtl k.val ||| mask.setWidth 18) who

/-- CNT_LO_READ: a read of CR_CNTn low (R243). -/
def execCntLoRead (who : Master) (k : CoreRef) (n : BitVec 3) (s : State) : Host.Outcome State Fault Refusal :=
  rowRead s ⟨.crCnt, k.val, (2 * n.toNat)⟩ who

/-- TLOPS_READ (R294). -/
def execTlopsRead (who : Master) (k : CoreRef) (s : State) : Host.Outcome State Fault Refusal :=
  rowRead s ⟨.crTlops, k.val, 0⟩ who

/-- TLKILL_READ (R294). -/
def execTlkillRead (who : Master) (k : CoreRef) (s : State) : Host.Outcome State Fault Refusal :=
  rowRead s ⟨.crTlkill, k.val, 0⟩ who

/-- WL_MDATA_WRITE (R313). -/
def execWlMdataWrite (who : Master) (k : CoreRef) (v : Cell) (s : State) : Host.Outcome State Fault Refusal :=
  rowWrite s ⟨.wlMdata, k.val, 0⟩ v who

/-- WL_NDATA_STAGE: WL_NDATA0 to WL_NDATA6 (R313). -/
def execWlNdataStage (who : Master) (k : CoreRef) (i : Fin 7) (v : Cell) (s : State) : Host.Outcome State Fault Refusal :=
  rowWrite s ⟨.wlNdata, k.val, i.val⟩ v who

/-- WL_NDATA_STORE: WL_NDATA7, which stores the nano-word (R313). -/
def execWlNdataStore (who : Master) (k : CoreRef) (v : Cell) (s : State) : Host.Outcome State Fault Refusal :=
  rowWrite s ⟨.wlNdata, k.val, 7⟩ v who

/-- WL_DT_WRITE (R312). -/
def execWlDtWrite (who : Master) (k : CoreRef) (j : BitVec 5) (second : Bool) (v : Cell) (s : State) : Host.Outcome State Fault Refusal :=
  rowWrite s ⟨.wlDt, k.val, (2 * j.toNat + b2n second)⟩ v who

/-- BANK_HANDOVER_COPY: PL_BANKb with OWNER and COPY (R322). -/
def execBankHandoverCopy (who : Master) (p : PLock) (b : Fin 17) (owner : BitVec 2) (s : State) : Host.Outcome State Fault Refusal :=
  rowWrite s ⟨.plBank, p.val, b.val⟩ (bankValue owner true) who

/-- BANK_HANDOVER_NOW: PL_BANKb with OWNER (R322). -/
def execBankHandoverNow (who : Master) (p : PLock) (b : Fin 17) (owner : BitVec 2) (s : State) : Host.Outcome State Fault Refusal :=
  rowWrite s ⟨.plBank, p.val, b.val⟩ (bankValue owner false) who

/-- MARCH_GO: PL_MARCH with GO (R324). -/
def execMarchGo (who : Master) (p : PLock) (v : Cell) (s : State) : Host.Outcome State Fault Refusal :=
  rowWrite s ⟨.plMarch, p.val, 0⟩ (setBit v 17 true) who

/-- LCC_INVALIDATE: LK_LCCCTL with INV (R327). -/
def execLccInvalidate (who : Master) (p : PLock) (s : State) : Host.Outcome State Fault Refusal :=
  rowWrite s ⟨.lkLccctl, p.val, 0⟩ (s.m.ru .lkLccctl p.val ||| 0x20000) who

/-- PATCH_WRITE (R329). -/
def execPatchWrite (who : Master) (u : BitVec 6) (v : Cell) (s : State) : Host.Outcome State Fault Refusal :=
  rowWrite s ⟨.dbgPatch, 0, u.toNat⟩ v who

/-- PRAM_WRITE (R329). -/
def execPramWrite (who : Master) (i : BitVec 11) (v : Cell) (s : State) : Host.Outcome State Fault Refusal :=
  rowWrite s ⟨.dbgPram, 0, i.toNat⟩ v who

/-- KEEP_WRITE: KEEP_CMD with OP 1 and COUNT (R336). -/
def execKeepWrite (who : Master) (count : BitVec 12) (s : State) : Host.Outcome State Fault Refusal :=
  rowWrite s ⟨.keepCmd, 0, 0⟩ (BitVec.ofNat 18 (0x8000 + count.toNat)) who

/-- KEEP_COPY: KEEP_CMD with OP 2 and COUNT (R336). -/
def execKeepCopy (who : Master) (count : BitVec 12) (s : State) : Host.Outcome State Fault Refusal :=
  rowWrite s ⟨.keepCmd, 0, 0⟩ (BitVec.ofNat 18 (0x10000 + count.toNat)) who

/-- KEEP_FILL: KEEP_CMD with OP 3 and COUNT (R336). -/
def execKeepFill (who : Master) (count : BitVec 12) (s : State) : Host.Outcome State Fault Refusal :=
  rowWrite s ⟨.keepCmd, 0, 0⟩ (BitVec.ofNat 18 (0x18000 + count.toNat)) who

/-- KEEP_VERIFY: KEEP_CMD with OP 4 and COUNT (R336). -/
def execKeepVerify (who : Master) (count : BitVec 12) (s : State) : Host.Outcome State Fault Refusal :=
  rowWrite s ⟨.keepCmd, 0, 0⟩ (BitVec.ofNat 18 (0x20000 + count.toNat)) who

/-- KEEP_RETIRE: KEEP_CMD with OP 5 (R335). -/
def execKeepRetire (who : Master) (s : State) : Host.Outcome State Fault Refusal :=
  rowWrite s ⟨.keepCmd, 0, 0⟩ 0x28000 who

/-- HOST_QUIESCE: BLK_HPCTL.QUIESCE written 1 (R360). -/
def execHostQuiesce (who : Master) (s : State) : Host.Outcome State Fault Refusal :=
  rowWrite s ⟨.blkHpctl, 0, 0⟩ (s.m.r .blkHpctl ||| 0x20000) who

/-- HOST_RESUME: BLK_HPCTL.QUIESCE written 0 (R360). -/
def execHostResume (who : Master) (s : State) : Host.Outcome State Fault Refusal :=
  rowWrite s ⟨.blkHpctl, 0, 0⟩ (setBit (s.m.r .blkHpctl) 17 false) who

/-- PWR_ON: PWR_DOMd (R397). -/
def execPwrOn (who : Master) (d : Fin 24) (s : State) : Host.Outcome State Fault Refusal :=
  rowWrite s ⟨.pwrDom, 0, d.val⟩ 0x4000 who

/-- PWR_OFF: PWR_DOMd (R397). -/
def execPwrOff (who : Master) (d : Fin 24) (s : State) : Host.Outcome State Fault Refusal :=
  rowWrite s ⟨.pwrDom, 0, d.val⟩ 0x8000 who

/-- PWR_RETAIN: PWR_DOMd (R398). -/
def execPwrRetain (who : Master) (d : Fin 24) (s : State) : Host.Outcome State Fault Refusal :=
  rowWrite s ⟨.pwrDom, 0, d.val⟩ 0xC000 who

/-- LOCK_ADMIT: PL_STATE (R400). -/
def execLockAdmit (who : Master) (p : PLock) (s : State) : Host.Outcome State Fault Refusal :=
  rowWrite s ⟨.plState, p.val, 0⟩ 0x4000 who

/-- LOCK_PARK: PL_STATE (R396). -/
def execLockPark (who : Master) (p : PLock) (s : State) : Host.Outcome State Fault Refusal :=
  rowWrite s ⟨.plState, p.val, 0⟩ 0x2000 who

/-- LOCK_UNFIT: PL_STATE (R396). -/
def execLockUnfit (who : Master) (p : PLock) (s : State) : Host.Outcome State Fault Refusal :=
  rowWrite s ⟨.plState, p.val, 0⟩ 0x1000 who

/-- EVAC_GO: BLK_EVAC with GO (R410). -/
def execEvacGo (who : Master) (v : Cell) (s : State) : Host.Outcome State Fault Refusal :=
  rowWrite s ⟨.blkEvac, 0, 0⟩ (setBit (setBit v 17 true) 16 false) who

/-- EVAC_ABORT: BLK_EVAC with ABORT (R417). -/
def execEvacAbort (who : Master) (s : State) : Host.Outcome State Fault Refusal :=
  rowWrite s ⟨.blkEvac, 0, 0⟩ (s.m.r .blkEvac &&& 0x100F ||| 0x10000) who

/-- MOVE_HALT: BLK_MOVE with HALT (R415). -/
def execMoveHalt (who : Master) (thr : BitVec 7) (s : State) : Host.Outcome State Fault Refusal :=
  rowWrite s ⟨.blkMove, 0, 0⟩ (BitVec.ofNat 18 (0x20000 + thr.toNat)) who

/-- MOVE_GO: BLK_MOVE with GO (R415). -/
def execMoveGo (who : Master) (thr : BitVec 7) (s : State) : Host.Outcome State Fault Refusal :=
  rowWrite s ⟨.blkMove, 0, 0⟩ (BitVec.ofNat 18 (0x10000 + thr.toNat)) who

/-- XCHG_FW: BLK_XCHG (R422). -/
def execXchgFw (who : Master) (s : State) : Host.Outcome State Fault Refusal := rowWrite s ⟨.blkXchg, 0, 0⟩ 0x20000 who

/-- XCHG_PP: BLK_XCHG (R421). -/
def execXchgPp (who : Master) (s : State) : Host.Outcome State Fault Refusal := rowWrite s ⟨.blkXchg, 0, 0⟩ 0x10000 who

/-- XCHG_MC: BLK_XCHG (R422). -/
def execXchgMc (who : Master) (s : State) : Host.Outcome State Fault Refusal := rowWrite s ⟨.blkXchg, 0, 0⟩ 0x8000 who

/-- TK_SWITCH: BLK_TKCTL.SWITCH (R424). -/
def execTkSwitch (who : Master) (s : State) : Host.Outcome State Fault Refusal :=
  rowWrite s ⟨.blkTkctl, 0, 0⟩ 0x20000 who

/-- TK_WD_SERVICE: BLK_TKWD.SVC (R427). -/
def execTkWdService (who : Master) (s : State) : Host.Outcome State Fault Refusal :=
  rowWrite s ⟨.blkTkwd, 0, 0⟩ (s.m.r .blkTkwd ||| 0x20000) who

/-- BWD_SERVICE: PWR_BWDSVC (R429). -/
def execBwdService (who : Master) (v : Cell) (s : State) : Host.Outcome State Fault Refusal :=
  rowWrite s ⟨.pwrBwdsvc, 0, 0⟩ v who

/-- PACE_CAL_RUN: PL_PACECAL.RUN (R428). -/
def execPaceCalRun (who : Master) (p : PLock) (s : State) : Host.Outcome State Fault Refusal :=
  rowWrite s ⟨.plPacecal, p.val, 0⟩ 0x20000 who

/-- ISOLATE: PWR_ISO.ISO (R430). -/
def execIsolate (who : Master) (s : State) : Host.Outcome State Fault Refusal := rowWrite s ⟨.pwrIso, 0, 0⟩ 0x20000 who

/-- OD_READ: OD_CMD with OP 1 (R382). -/
def execOdRead (who : Master) (s : State) : Host.Outcome State Fault Refusal := rowWrite s ⟨.odCmd, 0, 0⟩ 0x10000 who

/-- OD_WRITE_SEGMENT: OD_CMD with OP 2 (R382). -/
def execOdWriteSegment (who : Master) (ty : BitVec 4) (s : State) : Host.Outcome State Fault Refusal :=
  rowWrite s ⟨.odCmd, 0, 0⟩ (BitVec.ofNat 18 (0x20000 + ty.toNat)) who

/-- OD_WRITE_COMMIT: OD_CMD with OP 3 (R382). -/
def execOdWriteCommit (who : Master) (ty : BitVec 4) (s : State) : Host.Outcome State Fault Refusal :=
  rowWrite s ⟨.odCmd, 0, 0⟩ (BitVec.ofNat 18 (0x30000 + ty.toNat)) who

/-- LPP_POP: a read of BLK_LPPPOP0 (R386). -/
def execLppPop (who : Master) (s : State) : Host.Outcome State Fault Refusal := rowRead s ⟨.blkLpppop0, 0, 0⟩ who

/-- LPP_SHIP: BLK_LPPSHIP2, which sends the frame (R386). -/
def execLppShip (who : Master) (v : Cell) (s : State) : Host.Outcome State Fault Refusal :=
  rowWrite s ⟨.blkLppship, 0, 2⟩ v who

/-- LPP_NEW: a read of BLK_LPPNEW0 (R386). -/
def execLppNew (who : Master) (s : State) : Host.Outcome State Fault Refusal := rowRead s ⟨.blkLppnew0, 0, 0⟩ who

/-- BRESET: DBG_CTL.BRESET; the stored bits keep their values (R438). -/
def execBreset (who : Master) (s : State) : Host.Outcome State Fault Refusal :=
  rowWrite s ⟨.dbgCtl, 0, 0⟩ (s.m.r .dbgCtl ||| 0x2000) who

/-- LC_CHAL (R449). -/
def execLcChal (who : Master) (target : BitVec 8) (s : State) : Host.Outcome State Fault Refusal :=
  rowWrite s ⟨.lcChal, 0, 0⟩ (target.setWidth 18) who

/-- LC_TRANSITION: LC_CMD.GO (R448). -/
def execLcTransition (who : Master) (s : State) : Host.Outcome State Fault Refusal :=
  rowWrite s ⟨.lcCmd, 0, 0⟩ 0x20000 who

/-- LC_KEY_WRITE: LC_KDATA (R452). -/
def execLcKeyWrite (who : Master) (v : BitVec 16) (s : State) : Host.Outcome State Fault Refusal :=
  rowWrite s ⟨.lcKdata, 0, 0⟩ (v.setWidth 18) who

/-- VTOUT_READ: a read of DBG_VTOUT (R464). -/
def execVtoutRead (who : Master) (s : State) : Host.Outcome State Fault Refusal := rowRead s ⟨.dbgVtout, 0, 0⟩ who

/-- VTIN_WRITE: DBG_VTIN (R464). -/
def execVtinWrite (who : Master) (octet : BitVec 8) (s : State) : Host.Outcome State Fault Refusal :=
  rowWrite s ⟨.dbgVtin, 0, 0⟩ (octet.setWidth 18) who

/-- ISO_RESUME: PWR_ISO.RESUME (R430). -/
def execIsoResume (who : Master) (s : State) : Host.Outcome State Fault Refusal := rowWrite s ⟨.pwrIso, 0, 0⟩ 0x10000 who

/-- VT_TX: a thread's write of DBG_VT_TX (R464). -/
def execVtTx (t : Tid) (octet : BitVec 8) (s : State) : Host.Outcome State Fault Refusal :=
  onThread t s fun m => m.regWrite ⟨.dbgVtTx, 0, 0⟩ (octet.setWidth 18) (.thread t)

/-- VT_RX: a thread's read of DBG_VT_RX, a helm access (R464). -/
def execVtRx (t : Tid) (s : State) : Host.Outcome State Fault Refusal :=
  onThread t s fun m => if (m.thr t).helm then Mach.keepRead (m.regRead ⟨.dbgVtRx, 0, 0⟩ (.thread t)) else m

/-- REGISTER_WRITE: any register by its address (R12, R13, R476). -/
def execRegisterWrite (who : Master) (a : DAddr) (v : Cell) (s : State) : Host.Outcome State Fault Refusal :=
  done s (match s.m.regAt a.toNat who with
    | some r => if s.m.narrowed r who true then s.m else s.m.regWrite r v who
    | none => s.m)

end Sys2Proof.Machine
end

