-- ==== Sys2Proof/Machine/HostPort.lean ====
section
/-!
DEFINITION. The host's target port (R351 to R356, R370, R447), the answers of its initiator port (R359), and the host channel's
rings (R361 to R364).
-/
namespace Sys2Proof.Machine

/-! ## Memory as the host and the debug bus master see it (R157, R354, R454) -/

/-- Where a nonet of the views lies: at a place of the map, or in the bank that BLK_APSEL selects. -/
inductive ExtAt where
  | mem (p : Place)
  | bank (k : Nat)

/-- The regions of the octet and nonet views: first address and the one after the last. -/
def extRegions : List (Nat × Nat) :=
  [(0x400000, 0x800000), (0x800000, 0xC40000), (0x2000000, 0x4000000), (0x4000000, 0x4800000), (0x5000000, 0x5020000),
   (0x6000000, 0x6020000)]

/-- Whether n nonets from an address lie in one region. -/
def extInRegion (a n : Nat) : Bool := extRegions.any fun r => decide (r.1 ≤ a) && decide (a + n ≤ r.2)

/-- Physical lock and bank of the aperture. -/
def Mach.apLock (m : Mach) : Nat := fld (m.r .blkApsel) 9 5
/-- The bank of the aperture. -/
def Mach.apBank (m : Mach) : Nat := fld (m.r .blkApsel) 4 0

/-- The place of a nonet. -/
def Mach.extAt (m : Mach) (a : Nat) : ExtAt :=
  if 0x5000000 ≤ a ∧ a < 0x5020000 then .bank (bankKey m.apLock m.apBank ((a - 0x5000000) / 8) + a % 8) else .mem (m.place none a)

/-- Whether a nonet's unit is off or in retention. -/
def Mach.extOff (m : Mach) (a : Nat) : Bool :=
  match m.extAt a with
  | .bank _ => !m.isOn (7 + m.apLock)
  | .mem (.keep _) => !m.isOn 6
  | .mem (.tern _) => !m.isOn 5
  | .mem p => m.placeOff p

/-- Whether an address lies in the aperture while its bank is not the host's (R321). -/
def Mach.notOwner (m : Mach) (a : Nat) : Bool :=
  decide (0x5000000 ≤ a) && decide (a < 0x5020000) &&
    (decide (16 < m.apLock) || decide (16 < m.apBank) || m.owner m.apLock m.apBank != 1)

/-- A nonet read. -/
def Mach.ext1 (m : Mach) (a : Nat) : Nonet :=
  match m.extAt a with
  | .bank k => m.mem1 k
  | .mem p => m.rd1 p

/-- Whether a nonet's word is uncorrectable (R320). -/
def Mach.extBad (m : Mach) (a : Nat) : Bool :=
  match m.extAt a with
  | .bank k => m.eccOf (k / 8) == 2
  | .mem p => m.bad1 p

/-- What a read of n nonets leaves in the error registers. -/
def Mach.extNote (m : Mach) (a n : Nat) : Mach :=
  match m.extAt a with
  | .bank _ => m.scrubWord m.apLock m.apBank ((a - 0x5000000) / 8)
  | .mem _ => m.noteN none a n

/-- Nonets written at an address, in one word of eight at most (R56, R317). -/
def Mach.extPut (m : Mach) (a : Nat) (ns : List Nonet) : Mach :=
  match m.extAt a with
  | .bank k =>
    let m := if ns.length = 8 then m else m.extNote a 1
    ns.zipIdx.foldl (fun m e => m.putKey (k + e.2) e.1 (ns.length == 8)) m
  | .mem _ => m.wrN none a ns

/-- The nonets of one word written where their flag says so: a write of part of the word, unless it is of all or none (R320). -/
def Mach.extPart (m : Mach) (a : Nat) (ns : List (Nonet × Bool)) : Mach :=
  if ns.all Prod.snd then m.extPut a (ns.map Prod.fst)
  else if !ns.any Prod.snd then m
  else
    (ns.zipIdx).foldl (fun m e =>
      if !e.1.2 then m
      else
        match m.extAt (a + e.2) with
        | .bank k => m.putKey k e.1.1 false
        | .mem p => m.wr1 p e.1.1 false none) (m.extNote a 8)

/-- Whether an address names a row that no pool access reaches: its bank is handed away and the spare serves another (R322). -/
def Mach.extLost (m : Mach) (a : Nat) : Bool :=
  match m.extAt a with
  | .mem (.basin l off) => (m.basinAt l off).isNone
  | _ => false

/-! ## Target port (R351 to R356) -/

/-- Whether the block answers through the responder of D0 (R370). -/
def Mach.responder (m : Mach) : Bool := !m.isOn 2 || m.isoState == 2

/-- Whether the responder performs requests to a register. -/
def RegRef.inD0 (r : RegRef) : Bool :=
  let a := r.key
  r.reg == .blkFlt || r.reg == .blkEvosw || (decide (0x8010000 ≤ a) && decide (a < 0x8020000)) ||
    (decide (0x8090000 ≤ a) && decide (a < 0x80B0000))

/-- The request that beats carry (R351): the header's fields, the data, and whether parity is right and LAST falls on the beat
that OP and LEN imply. -/
def HostReq.ofBeats (bs : List HostBeat) : HostReq :=
  let h := (bs.map HostBeat.data).headD 0
  let op := h.extractLsb' 68 4
  let len := h.extractLsb' 48 8
  let n := if op = 1 ∨ op = 2 then len.toNat + 2 else 1
  { op := op, space := h.extractLsb' 66 2, tag := h.extractLsb' 56 8, len := len, addr := h.extractLsb' 0 48,
    data := bs.tail.map HostBeat.data,
    wellFormed := bs.length == n && bs.zipIdx.all fun e => e.1.par == lanePar e.1.data && e.1.last == (e.2 + 1 == n) }

/-- A response as HT_RSP carries it: LAST is 0 on a header that data follows (R351, R355). -/
def HostRsp.beats (r : HostRsp) : List HostBeat := beatsOf (r.rsp ++ 0#4 ++ r.tag ++ 0#56) r.data

/-- HT_REQ_READY (R356): fewer than 32 answered requests are outstanding. -/
def Mach.hostReady (m : Mach) : Bool := decide (m.host.rsps.length < 32)

/-- Whether a request is malformed (R351). -/
def HostReq.malformed (r : HostReq) : Bool :=
  !r.wellFormed || decide (3 ≤ r.op.toNat) || r.space == 3 || (if r.op = 0 then !r.data.isEmpty else r.data.length != r.len.toNat + 1)

/-- The nonet address of word i of a register request (R353). -/
def HostReq.regAddr (r : HostReq) (i : Nat) : Nat := 0x8000000 + r.addr.toNat / 2 + 2 * i

/-- Whether address and length of a request keep R352 to R354. -/
def HostReq.inMap (r : HostReq) : Bool :=
  let n := r.len.toNat + 1
  if r.space = 0 then
    r.addr.toNat % 4 == 0 && decide (n ≤ 16) && decide (HostReq.regAddr r (n - 1) < 0x8410000)
  else r.addr.toNat % 8 == 0 && extInRegion r.addr.toNat (8 * n)

/-- Whether the life-cycle state refuses a request (R447). -/
def Mach.lcHost (m : Mach) (r : HostReq) : Bool :=
  let st := m.d0.lcState.toNat
  let n := r.len.toNat + 1
  let regs := (List.range n).map fun i => m.regAt (HostReq.regAddr r i) .host
  if st = 5 then
    !(r.op == 0 && r.space == 0 && regs.all fun x => match x with
      | some x => x.reg == .dbgStat || x.reg == .lcStat
      | none => false)
  else if st = 3 then
    r.op != 0 && r.space == 0 && ((List.range n).any fun i =>
      (decide (0x80A0000 ≤ HostReq.regAddr r i) && decide (HostReq.regAddr r i < 0x80A2000)) ||
        (match m.regAt (HostReq.regAddr r i) .host with
          | some x => x.reg == .thView
          | none => false))
  else false

/-- Whether a unit that a request needs is off, or the responder of D0 does not serve it (R354, R370). -/
def Mach.hostOff (m : Mach) (r : HostReq) : Bool :=
  let n := r.len.toNat + 1
  if r.space = 0 then
    (List.range n).any fun i =>
      match m.regAt (HostReq.regAddr r i) .host with
      | some x => !m.isOn x.domain || (m.responder && !x.inD0)
      | none => m.responder || m.placeOff (m.place none (HostReq.regAddr r i))
  else m.responder || (List.range (8 * n)).any fun i => m.extOff (r.addr.toNat + i)

/-- The code that refuses a well-formed request, 0 for none (R355). -/
def Mach.hostCode (m : Mach) (r : HostReq) : Nat :=
  let st := m.d0.lcState.toNat
  let a := r.addr.toNat
  let n := 8 * (r.len.toNat + 1)
  if st = 5 ∧ m.lcHost r then 4
  else if !(HostReq.inMap r) then 1
  else if m.lcHost r then 4
  else if m.hostOff r then 6
  else if r.space = 0 then 0
  else if r.op ≠ 0 ∧ ((0x4000000 ≤ a ∧ a < 0x4800000) ∨ (0x6000000 ≤ a ∧ a < 0x6020000)) then 4
  else if m.notOwner a then 2
  else if (List.range n).any fun i => m.extLost (a + i) || (r.op == 0 && m.extBad (a + i)) then 3
  else 0

/-- Data beats of a register read, word after word (R354: with the side effects of each). -/
def Mach.hostRegs (m : Mach) (r : HostReq) : Nat → Nat → Mach × List (BitVec 72)
  | 0, _ => (m, [])
  | n + 1, i =>
    let x := m.addrRead (HostReq.regAddr r i) .host
    let rest := x.1.hostRegs r n (i + 1)
    (rest.1, x.2.setWidth 72 :: rest.2)

/-- A data beat of a read: eight octets, or eight nonets. -/
def Mach.hostBeat (m : Mach) (space : BitVec 2) (a : Nat) : BitVec 72 :=
  let ns := (List.range 8).map fun j => m.ext1 (a + j)
  if space = 1 then BitVec.ofNat 72 ((ns.zipIdx.map fun e => (octet e.1).toNat * 2 ^ (8 * e.2)).sum) else BitVec.ofNat 72 (pack ns)

/-- A data beat written: the octets its enables name, or a word. -/
def Mach.hostBeatPut (m : Mach) (space : BitVec 2) (a : Nat) (d : BitVec 72) : Mach :=
  if space = 2 then m.extPut a (unpack d.toNat 8)
  else
    m.extPart a ((List.range 8).map fun j => ((BitVec.ofNat 9 (fld d (8 * j + 7) (8 * j)) : Nonet), bit d (64 + j)))

/-- A request that nothing refuses performed: the data of a read. -/
def Mach.hostPerform (m : Mach) (r : HostReq) : Mach × List (BitVec 72) :=
  let n := r.len.toNat + 1
  if r.op = 0 then
    if r.space = 0 then m.hostRegs r n 0
    else ((List.range n).foldl (fun m i => m.extNote (r.addr.toNat + 8 * i) 8) m,
      (List.range n).map fun i => m.hostBeat r.space (r.addr.toNat + 8 * i))
  else if r.space = 0 then
    (r.data.zipIdx.foldl (fun m e => m.addrWrite (HostReq.regAddr r e.2) (e.1.setWidth 18) .host) m, [])
  else (r.data.zipIdx.foldl (fun m e => m.hostBeatPut r.space (r.addr.toNat + 8 * e.2) e.1) m, [])

/-- The request flit of a target transaction, with effective priority 6 (R353). -/
def Mach.hostFlit (m : Mach) (r : HostReq) : Mach :=
  let p := if r.space = 0 then (m.place none (HostReq.regAddr r 0)).port
    else match m.extAt r.addr.toNat with
      | .bank _ => some m.apLock
      | .mem p => p.port
  match p with
  | some p => m.updLink (2 * p) fun l => { l with waiting := l.waiting ++ [⟨.normal, 6, 0, none, 25⟩] }
  | none => m

/-- A request served: its response is sent unless it was posted. -/
def Mach.hostServe (m : Mach) (r : HostReq) : Mach :=
  let answer := fun (m : Mach) (c : Nat) (d : List (BitVec 72)) =>
    if r.op = 2 then m else { m with host := { m.host with rsps := m.host.rsps ++ [⟨BitVec.ofNat 4 c, r.tag, d⟩] } }
  if HostReq.malformed r then answer (m.wbit .blkHperr 2 true) 5 []
  else
    let c := m.hostCode r
    if c = 0 then
      let x := (m.hostFlit r).hostPerform r
      answer x.1 0 x.2
    else if c = 3 ∧ r.op = 0 then answer ((List.range (r.len.toNat + 1)).foldl (fun m i => m.extNote (r.addr.toNat + 8 * i) 8) m) 3 []
    else answer m c []

/-- A request of one of some OPs, taken whole while the port is ready (R356). -/
def Mach.hostTake (m : Mach) (ops : BitVec 4 → Bool) (bs : List HostBeat) : Mach :=
  let r := HostReq.ofBeats bs
  if m.hostReady && ops r.op then m.hostServe r else m

/-- HOST_READ: a READ, or a request of a reserved OP, which is malformed. -/
def execHostRead (bs : List HostBeat) (s : State) : Host.Outcome State Fault Refusal :=
  done s (s.m.hostTake (fun op => op != 1 && op != 2) bs)
/-- HOST_WRITE_ANSWERED. -/
def execHostWriteAnswered (bs : List HostBeat) (s : State) : Host.Outcome State Fault Refusal :=
  done s (s.m.hostTake (· == 1) bs)
/-- HOST_WRITE_POSTED. -/
def execHostWritePosted (bs : List HostBeat) (s : State) : Host.Outcome State Fault Refusal :=
  done s (s.m.hostTake (· == 2) bs)

/-! ## Initiator port (R358, R359) -/

/-- The value of a load from the host window arrives, or the data-access fault of reason 5. -/
def Mach.loadAnswer (m : Mach) (t : Tid) (q : InitReq) (d : Option (BitVec 72)) : Mach :=
  let mine := fun (l : Load) => l.value.isNone && decide (0xC000000 ≤ l.addr.toNat) && m.hostAddr l.addr.toNat == q.addr
  match (m.thr t).loads.find? mine with
  | none => m
  | some l =>
    match d with
    | none => (m.updThr t fun x => { x with loads := x.loads.erase l }).dataFault t 5 false l.width l.addr.toNat
    | some d => m.loadArrives t l (BitVec.ofNat 36 (pack (beatNonets q.addr.toNat l.width.nonets d)))

/-- A request answered, with data or as an error. -/
def Mach.initAnswer (m : Mach) (q : InitReq) (d : Option (BitVec 72)) : Mach :=
  let m := { m with host := { m.host with reqs := m.host.reqs.erase q } }
  match q.for_ with
  | .load t => (m.loadAnswer t q d).keepRetry
  | .store _ => m.keepRetry
  | .micro t depth =>
    match (m.thr t).rsps.find? fun r => r.depth == depth && r.value.isNone && m.hostAddr r.addr.toNat == q.addr with
    | some r =>
      (m.updThr t fun x => { x with rsps := x.rsps.map fun e => if e = r then { r with value := some d } else e }).keepRetry
    | none => m.keepRetry
  | .keep => m.keepHost d

/-- The header beat of a response: RSP in bits 71:68, TAG in bits 63:56 (R355). -/
def rspHeader (tag : BitVec 8) (rsp : BitVec 4) : BitVec 72 := rsp ++ 0#4 ++ tag ++ 0#56

/-- INIT_RESPONSE (R359): a response with no request is discarded, flagged and counted; a parity error is an error response. -/
def Mach.initRsp (m : Mach) (tag : BitVec 8) (rsp : BitVec 4) (data : List HostBeat) (par : BitVec 8) : Mach :=
  let good := par == lanePar (rspHeader tag rsp) && data.all fun b => b.par == lanePar b.data
  let m := if good then m else m.wbit .blkHperr 0 true
  match m.host.reqs.find? fun q => q.tag == tag with
  | none => (m.wbit .blkHperr 1 true).count 0x7450 3
  | some q => m.initAnswer q (if good ∧ rsp = 0 then some ((data.map HostBeat.data).headD 0) else none)

/-! ## The host channel (R361 to R364) -/

/-- The base of a ring. -/
def Mach.ringBase (m : Mach) (g : Nat) : Nat :=
  (m.r .blkRbase0 g).toNat * 2 ^ 4 + (m.r .blkRbase1 g).toNat * 2 ^ 22 + fld (m.r .blkRbase2 g) 7 0 * 2 ^ 40
/-- HEAD of a ring. -/
def Mach.ringHead (m : Mach) (g : Nat) : Nat := fld (m.r .blkRhead g) 11 0
/-- Whether a ring runs and owns a descriptor, with the port not quiesced and a tag free (R357, R360, R362). -/
def Mach.ringReady (m : Mach) (g : Nat) : Bool :=
  bit (m.r .blkRctl g) 17 && m.ringHead g != fld (m.r .blkRtail g) 11 0 && !m.hostQuiet && m.isOn 2 && m.freeTag.isSome
/-- A ring access failed (R362). -/
def Mach.ringError (m : Mach) (g : Nat) : Mach :=
  ((m.wbit .blkRstat 15 true g).wbit .blkRctl 17 false g).ringFlush g
/-- The descriptor at HEAD read (R361). -/
def Mach.ringFetch (m : Mach) (g : Nat) : Mach := m.hostFetch false (BitVec.ofNat 48 (m.ringBase g + 16 * m.ringHead g)) 16
/-- A descriptor completed: written back, HEAD advanced, DONE set (R361, R362). -/
def Mach.ringDone (m : Mach) (g : Nat) (os : List (BitVec 8)) : Mach :=
  let h := m.ringHead g
  let m := m.hostWrite 1 (BitVec.ofNat 48 (m.ringBase g + 16 * h)) os
  let size := 2 ^ fld (m.r .blkRctl g) 10 7
  (m.w .blkRhead (BitVec.ofNat 18 ((h + 1) % size)) g).wbit .blkRstat 17 true g

/-- A descriptor as written back. -/
def descOctets (d : Desc) (len flags kindIq time : Nat) : List (BitVec 8) :=
  leOctets d.buf.toNat 6 ++ leOctets len 2 ++ leOctets flags 1 ++ leOctets kindIq 1 ++ [0, 0] ++ leOctets time 4

/-- The frame at the front of a receive ring copied into the buffer of its descriptor (R363). -/
def Mach.rxCopy (m : Mach) (r : Nat) (f : Shipped) (d : Desc) : Mach :=
  let mf := f.mf.toNat
  let ns := m.frameNonets f.lock.val mf
  let n := min ns.length d.len.toNat
  let cut := decide (d.len.toNat < ns.length)
  let flag := fun (i : Nat) => b2n (m.mFlag mf i)
  let flags := 0x80 + 64 * flag 10 + 32 * flag 9 + 16 * b2n f.late + 8 * flag 7 + 4 * flag 3 + 2 * b2n cut
  let kindIq := fld (m.mcell mf 0) 17 14 * 16 + fld (m.mcell mf 1) 17 14
  let time := (m.mcell mf 4).toNat + fld (m.mcell mf 5) 13 0 * 2 ^ 18
  let m := m.hostBuffer (bit (m.r .blkRctl r) 16) d.buf (ns.take n)
  let m := m.ringDone r (descOctets d n flags kindIq time)
  let m := if cut then m.count 0x7450 2 else m
  let m := { m with host := { m.host with rx := mset [] m.host.rx r ((m.rxWaiting r).drop 1) } }
  m.dropFrame f

/-- RX_RING_COPY: the descriptor at HEAD as read, or an error response of an access. -/
def Mach.rxRing (m : Mach) (r : Nat) (d : Desc) (err : Bool) : Mach :=
  match m.rxWaiting r with
  | [] => m
  | f :: _ =>
    if !m.ringReady r then m
    else
      let m := m.ringFetch r
      if err then m.ringError r else m.rxCopy r f d

/-- A host-injected frame of transmit ring t (R364). -/
def Mach.hostFrame (m : Mach) (t : Nat) (ns : List Nonet) : OpenFrame :=
  let c := m.r .blkRctl (8 + t)
  let cls := fld c 6 4
  { kind := 3, time := m.timeNow, tsv := false, bank := m.gauBank, root := fld (m.r .gauRoot 3) 7 0, start := 0, nonets := ns,
    marks := [], stored := 0, err := false, viol := false, trunc := false, discard := false, oversize := false,
    parse := none, cls := BitVec.ofNat 3 (if cls = 7 then 6 else cls),
    dom := BitVec.ofNat 12 (fld (m.r .blkRord (8 + t)) 11 0), copies := [⟨Fin.ofNat 16 (fld c 3 0), [], 0, none⟩],
    iq := BitVec.ofNat 4 t, fromHost := true, lpp := false }

/-- A host-injected frame parsed, stored and queued; none while a hold or a slot is lacking. -/
def Mach.inject (m : Mach) (t : Nat) (ns : List Nonet) : Option Mach :=
  let f := m.hostFrame t ns
  match m.parse f.bank f.root (ns.map octet) true with
  | none => none
  | some (p, marks) =>
    let ns := ns.zipIdx.map fun e => if marks.contains e.2 then e.1 ||| 0x100#9 else e.1
    let r := m.storeFrame { f with nonets := ns, marks := marks, parse := some p }
    if !r.2.2 then none
    else
      match r.1.takeSlots r.2.1 with
      | none => none
      | some (m, f) => some (m.finishFrame (16 + t) f p)

/-- TX_DESCRIPTOR: the descriptor at HEAD and its frame as read. While holds are lacking the descriptor stays at HEAD. -/
def Mach.txRing (m : Mach) (t : Nat) (d : Desc) (data : List Nonet) (err : Bool) : Mach :=
  let g := 8 + t
  let m := m.acceptWaiting (16 + t)
  if !m.ringReady g ∨ !(m.iq (16 + t)).waiting.isEmpty then m
  else if err then (m.ringFetch g).ringError g
  else
    let len := d.len.toNat
    let m := m.ringFetch g
    if len < 14 ∨ 16368 < len ∨ !bit (m.r .blkKentry 3) 17 then m.ringDone g (descOctets d len 0xC0 0 0)
    else
      let m := m.hostFetch (bit (m.r .blkRctl g) 16) d.buf len
      let ns := (data.take len ++ List.replicate (len - data.length) 0).map fun n => if bit (m.r .blkRctl g) 16 then n else n &&& 0xFF#9
      match m.inject t ns with
      | none => m
      | some m => m.ringDone g (descOctets d len 0x80 0 0)

/-! ## Rows -/

/-- INIT_RESPONSE. -/
def execInitResponse (tag : BitVec 8) (rsp : BitVec 4) (data : List HostBeat) (par : BitVec 8) (s : State) : Host.Outcome State Fault Refusal :=
  done s (s.m.initRsp tag rsp data par)

/-- INIT_TIMEOUT (R359): TMO µs after issue. -/
def execInitTimeout (tag : BitVec 8) (s : State) : Host.Outcome State Fault Refusal :=
  done s (match s.m.host.reqs.find? fun q => q.tag == tag with
    | some q => if s.m.past q.since (1000 * fld (s.m.r .blkHpctl) 11 0) then s.m.initAnswer q none else s.m
    | none => s.m)

/-- RX_RING_COPY. -/
def execRxRingCopy (r : Fin 8) (desc : Desc) (err : Bool) (s : State) : Host.Outcome State Fault Refusal :=
  done s (s.m.rxRing r.val desc err)

/-- TX_DESCRIPTOR. -/
def execTxDescriptor (r : Fin 16) (desc : Desc) (data : List Nonet) (err : Bool) (s : State) :
    Host.Outcome State Fault Refusal := done s (s.m.txRing r.val desc data err)

end Sys2Proof.Machine
end

