-- ==== Sys2Proof/Machine/Dump.lean ====
section
/-!
DEFINITION. Fault dumps (R431, R432): the record the firmware writes for a cause, into the dump ring of the keep store and to
host memory.
-/
namespace Sys2Proof.Machine

/-! ## The sections of a record -/

/-- A register's value as a dump shows it; a domain that is off shows zero. -/
def Mach.dumpReg (m : Mach) (r : Reg) (u i : Nat) : Cell :=
  if m.isOn (RegRef.domain ⟨r, u, i⟩) then (m.regFetch ⟨r, u, i⟩ .host true).2 else 0

/-- Cells padded with zeros, or cut, to a number of words. -/
def padWords (n : Nat) (cs : List Cell) : List Cell := cs.take (4 * n) ++ List.replicate (4 * n - cs.length) 0

/-- The shadow of a thread, or the words loaded into an empty one, as 12 cells. -/
def Thread.shadowCells (x : Thread) : List Cell :=
  match x.shadow with
  | some h => h.cells
  | none => padWords 3 x.shWords

/-- The element of a thread: 33 words and 12 for each frame. -/
def Mach.dumpThread (m : Mach) (t : Tid) : List Cell :=
  let x := m.thr t
  let head := dcells ((m.refOf t).setWidth 36) ++ [m.thStat t, m.dumpReg .evtThr (Tid.ctl t) (Tid.idx t)]
  let frame := fun (j : Nat) => (List.range 48).map fun c =>
    (BitVec.ofNat 18 (pack ((List.range 2).map fun b => m.mem1 (stowKey (Tid.coreNo t) (frameAddr t j + 2 * c + b)))) : Cell)
  head ++ x.areaCells false t 0 x.p ++ x.areaCells true t 0 x.p ++ (List.range x.fdepth.toNat).flatMap frame

/-- The element of a physical lock. -/
def Mach.dumpLock (m : Mach) (p : Nat) : List Cell :=
  let level := fun (c : Nat) => BitVec.ofNat 18 ((m.lock p).queue.filter fun e => e.cls.toNat == c).length
  padWords 16 ([m.dumpReg .plState p 0] ++ ((List.range 17).map fun b => m.dumpReg .plBank p b) ++
    [m.dumpReg .plSpare p 0, m.dumpReg .plMstat p 0, m.dumpReg .plEcc p 0, m.dumpReg .plEccrow p 0,
      m.dumpReg .lkHoldstat p 0] ++ (List.range 8).map level ++
    [match m.llockOf p with | some l => m.dumpReg .blkLockmap 0 l | none => 0])

/-- The element of an event controller. -/
def Mach.dumpEvents (m : Mach) (u : Nat) : List Cell :=
  let run := fun (r : Reg) (n : Nat) => (List.range n).map fun i => m.dumpReg r u i
  run .evtSrc 512 ++ run .evtPend 32 ++ run .evtAct 32 ++ run .evtVec 16 ++ run .evtThr 128 ++ run .evtTflt 128

/-- The element of a bollard. -/
def Mach.dumpBollard (m : Mach) (b : Nat) : List Cell :=
  let m := m.w .bolSel (BitVec.ofNat 18 b)
  [m.dumpReg .bolState 0 0, m.dumpReg .bolOwner 0 0, m.dumpReg .bolWaitcnt 0 0, 0]

/-- The counters of an index. -/
def Mach.dumpCounters (m : Mach) (i : Nat) : List Cell :=
  ((m.odList i).zipIdx.flatMap fun e =>
    match e.1.kind with
    | .counter k => [BitVec.ofNat 18 i, BitVec.ofNat 18 (e.2 + 1)] ++ dcells (m.cntKey k)
    | _ => [])

/-- The physical lock that a source names, none for a tollkeeper thread. -/
def dumpLockOf (src : Dbl) : Option Nat :=
  if bit src 35 then some (fld src 4 0)
  else
    let t : Tid := src.setWidth 12
    if Tid.tk t then none else some (Tid.lock t)

/-- The six sections of a record, in the order of its table. -/
def Mach.dumpSections (m : Mach) (src : Dbl) : List (List Cell) :=
  let lock := dumpLockOf src
  let own := match lock with | some p => tidsOf p | none => []
  [(own ++ tidsOf 31).flatMap m.dumpThread,
   (List.range 17).flatMap m.dumpLock,
   (match lock with | some p => m.dumpEvents p | none => []) ++ m.dumpEvents 31,
   (List.range 4096).flatMap m.dumpBollard,
   (List.range 4096).flatMap fun i => m.dumpCounters (0x7000 + i),
   match lock with
   | some p => (own.flatMap fun t => (m.thr t).shadowCells) ++ (List.range 16).map fun k => m.dumpReg .wlStat (16 * p + k) 0
   | none => []]

/-- Words 1 to LENGTH − 1 of a record. -/
def Mach.dumpBody (m : Mach) (seq : Dbl) (cause : BitVec 8) (src : Dbl) : List Cell :=
  let secs := m.dumpSections src
  let lens := secs.map fun s => s.length / 4
  let table := (List.range 6).flatMap fun i =>
    dcells (BitVec.ofNat 36 (16 + (lens.take i).sum)) ++ dcells (BitVec.ofNat 36 (lens.getD i 0))
  let version := fun (k : Nat) => dcells (BitVec.ofNat 36 (m.imageVersion k))
  dcells seq ++ [cause.setWidth 18, 0] ++ dcells src ++ dcells (BitVec.ofNat 36 (16 + lens.sum)) ++ cells64 m.tb.ns ++
    cells64 m.tb.mono ++ version 0 ++ version 1 ++ version 2 ++ [0, 0] ++ List.replicate 4 0 ++ table ++ List.replicate 8 0 ++
    secs.flatten

/-- Word 0 of a record. -/
def dumpHead (body : List Nonet) : List Nonet :=
  [0x44, 0x55, 0x4D, 0x50] ++ unpack 1 2 ++ unpack ((nonetCrc body).toNat % 2 ^ 18) 2

/-! ## Writing -/

/-- The number an entry of the firmware holds. -/
def Mach.odVarNat (m : Mach) (key dflt : Nat) : Nat :=
  match m.dict.vars.find? fun e => e.1 == key with
  | some e => beNat e.2.value
  | none => dflt

/-- A value of an entry that the firmware itself sets. -/
def Mach.fwVar (m : Mach) (key : Nat) (ty : BitVec 4) (os : List (BitVec 8)) : Mach := m.odVarPut key ⟨ty, 0, os, none⟩

/-- Words of a record put into a ring slot from a word on. -/
def Mach.dumpPut (m : Mach) (base : Nat) : Nat → List Nonet → Mach
  | 0, _ => m
  | n + 1, ns => if ns.isEmpty then m else (m.keepPut base (ns.take 8)).dumpPut (base + 8) n (ns.drop 8)

/-- The oldest ring slot that PIN does not protect. -/
def Mach.dumpSlot (m : Mach) : Option Nat :=
  let next := m.odVarNat 0x500705 0
  let pin := m.odVarNat 0x500704 0
  ((List.range 4).map fun j => (next + j) % 4).find? fun i => !pin.testBit i

/-- The record put into the ring: the word of zeros, the sections, the header, and word 0 last. -/
def Mach.dumpRing (m : Mach) (head body : List Nonet) : Mach × Bool :=
  match m.dumpSlot with
  | none => (m.count 0x7B00 6, false)
  | some i =>
    let base := (0x490 + 128 * i) * 0x1000
    if !m.isOn 6 ∨ m.d0.powerFail ∨ (m.keepRefusal base (body.length / 8 + 1)).isSome then (m, false)
    else
      let n := body.length
      let m := m.keepPut base (List.replicate 8 0)
      let m := m.dumpPut (base + 128) n (body.drop 120)
      let m := m.dumpPut (base + 8) 15 (body.take 120)
      ((m.keepPut base head).fwVar 0x500705 2 (beOctets ((i + 1) % 4) 2), true)

/-- The record put into host memory, in the nonet view (R357). -/
def Mach.dumpHost (m : Mach) (head body : List Nonet) : Mach × Bool :=
  if !m.isOn 2 ∨ m.hostQuiet then (m, false)
  else
    let at_ := match m.dict.vars.find? fun e => e.1 == 0x500703 with | some e => beNat e.2.value | none => 0
    (m.hostBuffer true (BitVec.ofNat 48 at_) (head ++ body), true)

/-- A dump of a cause. -/
def Mach.dumpNow (m : Mach) (cause : BitVec 8) (src : Dbl) : Mach :=
  let dest := m.odVarNat 0x500701 1
  let seq : Dbl := BitVec.ofNat 36 (m.odVarNat 0x500707 0 + 1)
  let body := (m.dumpBody seq cause src).flatMap fun c => unpack c.toNat 2
  let head := dumpHead body
  let m := { m with dict := { m.dict with dumpAt := some m.tb.mono } }
  let a := if dest.testBit 0 then m.dumpRing head body else (m, false)
  let b := if dest.testBit 1 then a.1.dumpHost head body else (a.1, false)
  if a.2 || b.2 then (b.1.fwVar 0x500707 5 (beOctets seq.toNat 5)).count 0x7B00 4 else b.1

/-- Whether the shortest interval since the last dump has passed. -/
def Mach.dumpReady (m : Mach) : Bool :=
  match m.dict.dumpAt with
  | none => true
  | some t => decide (m.odVarNat 0x500706 1000 * 1000000 ≤ (m.tb.mono - t).toNat)

/-- A cause served: dumped if DUMPCAUSE enables it, counted if the interval has not passed. -/
def Mach.dumpServe (m : Mach) (e : BitVec 8 × Dbl) : Mach :=
  if !(m.odVarNat 0x500702 0x3E).testBit e.1.toNat then m
  else if m.dumpReady then m.dumpNow e.1 e.2
  else m.count 0x7B00 6

/-- The firmware serves the causes that wait. -/
def Mach.serveDumps (m : Mach) : Mach :=
  if m.dict.dumpDue.isEmpty ∨ !m.fwRuns then m
  else m.dict.dumpDue.foldl (fun m e => m.dumpServe e) { m with dict := { m.dict with dumpDue := [] } }

end Sys2Proof.Machine
end

