-- ==== Sys2Proof/Machine/LoadStore.lean ====
section
/-!
DEFINITION. Loads, stores and atomics (R148, R162 to R178, R192 to R195, R238, R239).
-/
namespace Sys2Proof.Machine

/-! ## The access -/

/-- Whether an address lies in the register range. -/
def inRegs (a : Nat) : Bool := decide (0x8000000 ≤ a) && decide (a < 0x9000000)

/-- The effective address of the thread's instruction (R193): A or B, and the sign-extended cell T. -/
def Thread.effAddr (x : Thread) (useB : Bool) : DAddr :=
  (if useB then x.bank.b else x.bank.a) + (x.bank.at_ 0).signExtend 28

/-- The reason of the data-access fault that an access meets, if it meets one: no right, absent, or a register access of another
width or at an odd address (R157, R194). -/
def Mach.accessFault (m : Mach) (t : Tid) (store : Bool) (w : Width) (a : Nat) : Option Nat :=
  match m.noRightN t store a w.nonets with
  | some r => some r
  | none => if inRegs a ∧ (w ≠ .cell ∨ a % 2 ≠ 0) then some 3 else none

/-- The reason of the fault that an atomic meets (R176). -/
def Mach.atomicFault (m : Mach) (t : Tid) (store : Bool) (a : Nat) : Option Nat :=
  if a < 0x2000000 ∨ 0x4000000 ≤ a ∨ a % 8 = 7 then some 4 else m.noRightN t store a 2

/-- The reservation granule of an address in a basin. -/
def Mach.granuleAt (m : Mach) (t : Tid) (a : Nat) : Nat :=
  match m.place (some t) a with
  | .basin p off => granule p off
  | _ => 0

/-! ## Loads -/

/-- A load retires: the operand stays in its slot until the value lands, and a double's upper slot is new and zero (R162, R192). -/
def Mach.loadIssue (m : Mach) (t : Tid) (w : Width) (a : DAddr) (v : Option Dbl) (isTas : Bool) : Mach :=
  let x := m.thr t
  let l : Load := ⟨x.bank.ds.length - 1, w, a, m.places t a.toNat w.nonets, m.priOf t, 0, x.p, x.fastOn, 0, v, isTas⟩
  let b := if w = .double then x.bank.push 0 else x.bank
  m.retire t ({ x with loads := x.loads ++ [l] }.setBank b) 1

/-- Whether a place lies in a thread's own core's stowage. -/
def ownStow (t : Tid) (p : Place) : Bool := match p with | .stow k _ => k == Tid.coreNo t | _ => false

/-- A load that no buffered store serves. A register's value and one from own stowage are read at once, for the load never waits
for the latter (R223); another value from memory comes with LOAD_VALUE_LANDS, one from the host with its response. -/
def Mach.loadMem (m : Mach) (t : Tid) (w : Width) (a : DAddr) : Mach :=
  let n := a.toNat
  if inRegs n then
    let r := (m.flitTo t n).addrRead n (.thread t)
    r.1.loadIssue t w a (some (r.2.setWidth 36)) false
  else if 0xC000000 ≤ n then
    match (m.flitTo t n).initiate (m.hostAddr n) (.load t) with
    | (m, .sent) => m.loadIssue t w a none false
    | (_, .quiet) => m.dataFault t 5 false w n
    | (_, .full) => m.park t .retry
  else if m.badN (some t) n w.nonets then m.wordCheck t n w.nonets
  else if (m.places t n w.nonets).all (ownStow t) then
    (m.noteN (some t) n w.nonets).loadIssue t w a (some (BitVec.ofNat 36 (pack (m.rdN (some t) n w.nonets)))) false
  else (m.flitTo t n).loadIssue t w a none false

/-- A load (R192). -/
def Mach.loadOp (m : Mach) (t : Tid) (useB : Bool) (w : Width) : Mach :=
  m.issue t (dEff 1 (if w = .double then 2 else 1)) fun m =>
    let x := m.thr t
    let a := x.effAddr useB
    match m.accessFault t false w a.toNat with
    | some r => m.dataFault t r false w a.toNat
    | none =>
      if 4 ≤ x.txns then m.park t .retry
      else
        match m.forward t a.toNat w.nonets with
        | .wait => (m.coreCount (Tid.coreNo t) 6 1).park t (.drain a w.nonets)
        | .value v => m.loadIssue t w a (some v) false
        | .memory => m.loadMem t w a

/-- LD_N (R148, R192). -/
def execLdN (t : Tid) (s : State) : Host.Outcome State Fault Refusal := onThread t s fun m => m.loadOp t false .nonet
/-- LD_C (R192). -/
def execLdC (t : Tid) (s : State) : Host.Outcome State Fault Refusal := onThread t s fun m => m.loadOp t false .cell
/-- LD_D (R192). -/
def execLdD (t : Tid) (s : State) : Host.Outcome State Fault Refusal := onThread t s fun m => m.loadOp t false .double
/-- LDB_N (R148, R192). -/
def execLdbN (t : Tid) (s : State) : Host.Outcome State Fault Refusal := onThread t s fun m => m.loadOp t true .nonet
/-- LDB_C (R192). -/
def execLdbC (t : Tid) (s : State) : Host.Outcome State Fault Refusal := onThread t s fun m => m.loadOp t true .cell
/-- LDB_D (R192). -/
def execLdbD (t : Tid) (s : State) : Host.Outcome State Fault Refusal := onThread t s fun m => m.loadOp t true .double

/-- The value of a thread's oldest load from memory returns (R163). -/
def Mach.loadValue (m : Mach) (t : Tid) : Mach :=
  match (m.thr t).loads.find? fun l => l.value.isNone && !l.fromHost with
  | none => m
  | some l =>
    match m.readLoad l with
    | (n, some v) => n.loadArrives t l v
    | (n, none) =>
      if m.ctxHeld t && !(m.thr t).fastOn then m
      else (n.updThr t fun x => { x with loads := x.loads.erase l, park := .none }).loadFails t l

/-- LOAD_VALUE_LANDS (R163, R320). -/
def execLoadValueLands (t : Tid) (s : State) : Host.Outcome State Fault Refusal := onThread t s fun m => m.loadValue t

/-! ## Stores -/

/-- A store (R192, R238): the buffer takes it, or the thread parks. -/
def Mach.storeOp (m : Mach) (t : Tid) (useB : Bool) (w : Width) : Mach :=
  let n := if w = .double then 3 else 2
  m.issue t (dEff n 0) fun m =>
    let x := m.thr t
    let a := x.effAddr useB
    match m.accessFault t true w a.toNat with
    | some r => m.dataFault t r true w a.toNat
    | none =>
      if 0xC000000 ≤ a.toNat ∧ m.hostQuiet then m.dataFault t 5 true w a.toNat
      else if 4 ≤ x.sb.length ∨ 4 ≤ x.txns then m.park t .retry
      else
        let v : Dbl := if w = .double then x.bank.dblAt 1 else (x.bank.at_ 1).setWidth 36
        let e : SbEntry := ⟨a, w, v, x.helm, m.priOf t, 0⟩
        m.retire t ({ x with sb := x.sb ++ [e] }.setBank (x.bank.pop n)) 1

/-- ST_N (R148, R192). -/
def execStN (t : Tid) (s : State) : Host.Outcome State Fault Refusal := onThread t s fun m => m.storeOp t false .nonet
/-- ST_C (R192). -/
def execStC (t : Tid) (s : State) : Host.Outcome State Fault Refusal := onThread t s fun m => m.storeOp t false .cell
/-- ST_D (R192). -/
def execStD (t : Tid) (s : State) : Host.Outcome State Fault Refusal := onThread t s fun m => m.storeOp t false .double
/-- STB_N (R148, R192). -/
def execStbN (t : Tid) (s : State) : Host.Outcome State Fault Refusal := onThread t s fun m => m.storeOp t true .nonet
/-- STB_C (R192). -/
def execStbC (t : Tid) (s : State) : Host.Outcome State Fault Refusal := onThread t s fun m => m.storeOp t true .cell
/-- STB_D (R192). -/
def execStbD (t : Tid) (s : State) : Host.Outcome State Fault Refusal := onThread t s fun m => m.storeOp t true .double

/-- The banks, unit or window whose order an entry keeps (R172, R175, R238). -/
def orderOf (p : Place) : Nat × Nat × Nat :=
  match p with
  | .stow k off => (0, k, off / 8 % 2)
  | .basin l off => (1, l, off / 8 % 16)
  | .reg a => (2, a / 0x10000, 0)
  | .host _ => (3, 0, 0)
  | _ => (4, 0, 0)

/-- Whether an older entry holds back another. -/
def Mach.holdsBack (m : Mach) (t : Tid) (old e : SbEntry) : Bool :=
  let os := (m.places t old.addr.toNat old.width.nonets).map orderOf
  (m.places t e.addr.toNat e.width.nonets).any fun p => os.contains (orderOf p)

/-- A register store performed with the privilege it was issued at. -/
def Mach.drainReg (m : Mach) (t : Tid) (e : SbEntry) : Mach :=
  let x := m.thr t
  let v : Cell := e.value.setWidth 18
  if x.helm ∨ !e.helm then m.addrWrite e.addr.toNat v (.thread t)
  else
    let raised := x.setFlg (setBit x.flg 17 true)
    let m := (m.setThr t raised).addrWrite e.addr.toNat v (.thread t)
    let y := m.thr t
    if y.p = x.p ∧ y.flg = raised.flg then m.setThr t (y.setFlg x.flg) else m

/-- A buffered entry performed where it goes. -/
def Mach.drainEntry (m : Mach) (t : Tid) (e : SbEntry) : Mach :=
  let a := e.addr.toNat
  if e.toMem then m.storeMem t e
  else if inRegs a then (m.flitAs t a e.pri e.waited).drainReg t e
  else if m.hostQuiet then m
  else (m.flitAs t a e.pri e.waited).hostWrite 2 (m.hostAddr a) (e.nonets.map octet)

/-- STORE_DRAIN (R238): an entry drains unless an older one of its bank, unit or window waits. -/
def execStoreDrain (t : Tid) (i : Fin 4) (s : State) : Host.Outcome State Fault Refusal :=
  onThread t s fun m =>
    let sb := (m.thr t).sb
    match sb[i.val]? with
    | none => m
    | some e =>
      if (sb.take i.val).any fun o => m.holdsBack t o e then m
      else ((m.updThr t fun x => { x with sb := x.sb.eraseIdx i.val }).drainEntry t e).wakeMem t

/-! ## Atomics and the fence -/

/-- An atomic (R176): its address checks, the fence before it, and its effect. -/
def Mach.atomicOp (m : Mach) (t : Tid) (e : Effect) (store : Bool) (f : Mach → DAddr → Mach) : Mach :=
  m.issue t e fun m =>
    let x := m.thr t
    let a := x.effAddr false
    match m.atomicFault t store a.toNat with
    | some r => m.dataFault t r store .cell a.toNat
    | none =>
      if !x.quietMem ∨ 4 ≤ x.txns then m.park t .retry
      else f (m.flitTo t a.toNat) a

/-- LR_C (R177). -/
def execLrC (t : Tid) (s : State) : Host.Outcome State Fault Refusal :=
  onThread t s fun m => m.atomicOp t (dEff 1 1) false fun m a =>
    if m.badN (some t) a.toNat 2 then m.wordCheck t a.toNat 2
    else
      let v := (m.rdCell (some t) a.toNat).setWidth 36
      let m := (m.noteN (some t) a.toNat 2).updThr t fun x => { x with resv := some (m.granuleAt t a.toNat) }
      m.loadIssue t .cell a (some v) false

/-- SC_C (R177, R195). -/
def execScC (t : Tid) (s : State) : Host.Outcome State Fault Refusal :=
  onThread t s fun m => m.atomicOp t (dEff 2 0) true fun m a =>
    let x := m.thr t
    let ok := x.resv == some (m.granuleAt t a.toNat)
    let m := if ok then m.wrN (some t) a.toNat (unpack (x.bank.at_ 1).toNat 2) (some t) else m
    let b := x.bank.pop 2
    m.retire t ({ m.thr t with resv := none }.setBank { b with flg := setBit b.flg 3 ok }) 1

/-- TAS (R195). -/
def execTas (t : Tid) (s : State) : Host.Outcome State Fault Refusal :=
  onThread t s fun m => m.atomicOp t (dEff 1 1) true fun m a =>
    if m.badN (some t) a.toNat 2 then m.wordCheck t a.toNat 2
    else
      let v := (m.rdCell (some t) a.toNat).setWidth 36
      ((m.noteN (some t) a.toNat 2).wrCell (some t) a.toNat 0x3FFFF).loadIssue t .cell a (some v) true

/-- FENCE (R173, R195). -/
def execFence (t : Tid) (s : State) : Host.Outcome State Fault Refusal :=
  onThread t s fun m => m.select t fun m =>
    let x := m.thr t
    if x.quietMem then m.retire t x 1 else m.park t .fence

end Sys2Proof.Machine
end

