-- ==== Sys2Proof/Machine/Blocks.lean ====
section
/-!
DEFINITION. The block operations with their yield points: `stm`, `ldm` (R202 to R206), the shov family (R207 to R211),
`tsave` and `trest` (R213). A paused or faulted operation keeps its pointer, index and masks in the temporaries of the shadow
(DESIGN CHOICE entry 20).
-/
namespace Sys2Proof.Machine

/-! ## Places -/

/-- Whether an address names stowage or a basin. -/
def Mach.blockPlace (m : Mach) (t : Tid) (a : Nat) : Bool :=
  match m.place (some t) a with
  | .stow _ _ => true
  | .basin _ _ => true
  | _ => false

/-- The reason why a block of n nonets is refused: a pointer that is not aligned or lies outside stowage and basins has
reason 0 (R203, R208, R213; DEDUCED entry 21). -/
def Mach.blockFault (m : Mach) (t : Tid) (store : Bool) (a n align : Nat) : Option Nat :=
  if a % align ≠ 0 ∨ !((List.range n).all fun i => m.blockPlace t (a + i)) then some 0 else m.noRightN t store a n

/-! ## stm and ldm -/

/-- The elements of a save block (R203). -/
inductive BlockElem where
  | header | cell | a | b | i | u | flg | depth | entry
  deriving DecidableEq, Repr

/-- The count k of a DATA field of the form 2^k - 1 (R202). -/
def dataCount (mask : Nat) : Option Nat := (List.range 13).find? fun k => 2 ^ k - 1 == mask % 4096

/-- The elements of a block in ascending order, for a mask and a return depth (R203). -/
def blockElems (mask rd : Nat) : List BlockElem :=
  let has := fun (i : Nat) => mask.testBit i
  let pick := fun (i : Nat) (e : BlockElem) => if has i then [e] else []
  [.header] ++ List.replicate ((dataCount mask).getD 0) .cell ++ pick 12 .a ++ pick 13 .b ++ pick 14 .i ++ pick 15 .u ++
    pick 16 .flg ++ (if has 17 then .depth :: List.replicate rd .entry else [])

/-- What `stm` writes for an element (R203, R204). -/
def Thread.elemOut (x : Thread) (mask rd : Nat) (e : BlockElem) : Nat :=
  match e with
  | .header => mask
  | .cell => (x.norm.ds.getD 0 0).toNat
  | .a => x.norm.a.toNat
  | .b => x.norm.b.toNat
  | .i => x.i.toNat
  | .u => x.u.toNat
  | .flg => x.norm.flg.toNat
  | .depth => rd
  | .entry => (x.norm.rs.getD 0 0).toNat

/-- The thread after `stm` has written an element: a data cell or return entry is popped. -/
def Thread.elemPop (x : Thread) (e : BlockElem) : Thread :=
  match e with
  | .cell => { x with norm := { x.norm with ds := x.norm.ds.drop 1 } }
  | .entry => { x with norm := { x.norm with rs := x.norm.rs.drop 1 } }
  | _ => x

/-- One element of `stm`. -/
def stmStep (t : Tid) (mask rd : Nat) (e : BlockElem × Nat) : BlockStep := fun m h =>
  ((m.wrThr t e.2 (unpack ((m.thr t).elemOut mask rd e.1) 4)).updThr t fun x => x.elemPop e.1, h, .ok)

/-- The active bank with its pointer A set (R202). -/
def Thread.setPtr (x : Thread) (a : Nat) : Thread := x.setBank { x.bank with a := BitVec.ofNat 28 a }

/-- `stm` from an element on: MT0 is the start of the block, MT2 the mask and MT3 the return depth (R204). -/
def Mach.stmRun (m : Mach) (t : Tid) (guarded : Bool) (h : Shadow) : Mach :=
  let start := h.mt0.toNat
  let mask := h.mt2.toNat
  let rd := h.mt3.toNat
  let steps := ((blockElems mask rd).zipIdx.map fun e => (e.1, start + 4 * e.2)).reverse
  m.runSteps t guarded (fun m _ => m.retire t ((m.thr t).setPtr start) 1) h ((steps.drop h.index).map (stmStep t mask rd))

/-- `stm`: continued from its shadow, or started (R202 to R206). -/
def Mach.stmOp (m : Mach) (t : Tid) : Mach :=
  m.select t fun m => m.routine t 0x100 fun m =>
    let x := m.thr t
    match x.progress 0x100 with
    | some h => (m.endProgress t).begins t fun m => m.stmRun t false h
    | none =>
      match x.stackErr (dEff 1 0) with
      | some i => m.stackFault t i
      | none =>
        let mask := (x.bank.at_ 0).toNat
        match dataCount mask with
        | none => m.operandTrap t 1
        | some k =>
          let have_ := if x.fastOn then x.norm.ds.length else x.norm.ds.length - 1
          if have_ < k then m.stackFault t (x.norm.ds.length * 4 + 1)
          else
            let rd := x.norm.rs.length
            let size := 4 * (blockElems mask rd).length
            let start := (x.bank.a.toNat + 0x10000000 - size) % 0x10000000
            match m.blockFault t true start size 4 with
            | some r => m.dataFault t r true .block start
            | none =>
              m.begins t fun m =>
                (m.updThr t fun x => x.setBank (x.bank.pop 1)).stmRun t (!x.atBoundary) (builtinShadow 0x100 start mask rd)

/-- STM (R202). -/
def execStm (t : Tid) (s : State) : Host.Outcome State Fault Refusal := onThread t s fun m => m.stmOp t

/-- FLG's flags N, Z, C, V, M of a loaded FLG; of the normal bank the whole while the fast bank is active (R155). -/
def Thread.flagsIn (x : Thread) (v : Cell) : Thread :=
  if x.fastOn then { x with norm := { x.norm with flg := v &&& flgMask } } else x.setFlg (blend x.flg 0x1F v)

/-- A loaded element written to the thread. Data cells land as a load's value does (R205); A, where it is the pointer,
and the modes of FLG are written when the instruction completes. FLG is the value that was checked before any change. -/
def Thread.elemIn (x : Thread) (e : BlockElem) (a : Nat) (v : Dbl) (flg : Cell) : Thread :=
  match e with
  | .cell =>
    { x with norm := { x.norm with ds := 0 :: x.norm.ds },
             loads := x.loads ++ [⟨x.norm.ds.length, .cell, BitVec.ofNat 28 a, [], 0, 0, x.p, false, 0, some v, false⟩] }
  | .a => if x.fastOn then { x with norm := { x.norm with a := v.setWidth 28 } } else x
  | .b => { x with norm := { x.norm with b := v.setWidth 28 } }
  | .i => { x with i := v.setWidth 18 }
  | .u => { x with u := v.setWidth 28 }
  | .flg => x.flagsIn flg
  | .depth => { x with norm := { x.norm with rs := [] } }
  | .entry => { x with norm := { x.norm with rs := v.setWidth 20 :: x.norm.rs } }
  | .header => x

/-- One element of `ldm`. -/
def ldmStep (t : Tid) (e : BlockElem × Nat) : BlockStep := fun m h =>
  let r := m.readBlock t e.2 4
  let v : Dbl := BitVec.ofNat 36 (pack r.2.2)
  match r.2.1 with
  | .ok => (r.1.updThr t fun x => x.elemIn e.1 e.2 v (Dbl.hi h.mt2), if e.1 = .a then h.hold (v.setWidth 28) else h, .ok)
  | o => (r.1, h, o)

/-- The elements that `ldm` loads, with their addresses: those that operand and header both select (R205). -/
def ldmElems (ptr mask head rd : Nat) : List (BlockElem × Nat) :=
  let sel := fun (e : BlockElem × Nat) => match e.1 with
    | .header => false
    | .cell => mask % 4096 != 0
    | .a => mask.testBit 12
    | .b => mask.testBit 13
    | .i => mask.testBit 14
    | .u => mask.testBit 15
    | .flg => mask.testBit 16
    | .depth => mask.testBit 17
    | .entry => mask.testBit 17
  ((blockElems head rd).zipIdx.map fun e => (e.1, ptr + 4 * e.2)).filter sel

/-- The end of `ldm`: the pointer, A where it was loaded, and the mode change of FLG (R166, R205). -/
def Mach.ldmEnd (m : Mach) (t : Tid) (h : Shadow) (es : List (BlockElem × Nat)) (size : Nat) : Mach :=
  let has := fun (e : BlockElem) => es.any fun q => q.1 == e
  let x := (m.thr t).setPtr (h.mt0.toNat + size)
  let x := if has .a && !x.fastOn then x.setPtr h.held.toNat else x
  let x := if has .flg && !x.fastOn then x.writeFlg (blend (Dbl.hi h.mt2) 0x1F x.flg) else x
  m.retire t x 1

/-- `ldm` from an element on: MT0 is the pointer, MT2 the mask with the checked FLG above it, MT3 the header's mask and the return
depth above it. -/
def Mach.ldmRun (m : Mach) (t : Tid) (guarded : Bool) (h : Shadow) : Mach :=
  let head := (Dbl.lo h.mt3).toNat
  let rd := (Dbl.hi h.mt3).toNat
  let es := ldmElems h.mt0.toNat (Dbl.lo h.mt2).toNat head rd
  m.runSteps t guarded (fun m h => m.ldmEnd t h es (4 * (blockElems head rd).length)) h ((es.drop h.index).map (ldmStep t))

/-- The privilege check of the FLG and U elements that `ldm` will load (R205). -/
def Mach.ldmDenied (m : Mach) (t : Tid) (es : List (BlockElem × Nat)) : Bool :=
  let x := m.thr t
  !x.helm && es.any fun e => match e.1 with
    | .u => true
    | .flg => (Dbl.lo (m.rdDbl (some t) e.2) ^^^ x.norm.flg) &&& modeMask != 0
    | _ => false

/-- `ldm` with its header read: the checks that come before any change (R153, R205). -/
def Mach.ldmStart (m : Mach) (t : Tid) (ptr mask k head : Nat) : Mach :=
  match dataCount head with
  | none => m.operandTrap t 2
  | some _ =>
    if k ≠ 0 ∧ mask % 4096 ≠ head % 4096 then m.operandTrap t 2
    else
      let dAt := ptr + 4 * ((blockElems head 0).length - 1)
      let rd := if head.testBit 17 then fld (m.rdDbl (some t) dAt) 4 0 else 0
      let x := m.thr t
      let n := (blockElems head rd).length
      let es := ldmElems ptr mask head rd
      let after := (if x.fastOn then x.norm.ds.length else x.norm.ds.length - 1) + k
      if 16 < after then m.stackFault t (x.norm.ds.length * 4)
      else if mask.testBit 17 ∧ 16 < rd then m.stackFault t (x.norm.rs.length * 4 + 2)
      else
        match m.blockFault t false ptr (4 * n) 4 with
        | some r => m.dataFault t r false .block ptr
        | none =>
          let bad := (es.filter fun e => e.1 == .flg || e.1 == .u).find? fun e => m.badN (some t) e.2 4
          match bad with
          | some e => m.wordCheck t e.2 4
          | none =>
            if m.ldmDenied t es then m.privTrap t 0x073
            else
              let flg := match es.find? fun e => e.1 == .flg with
                | some e => (Dbl.lo (m.rdDbl (some t) e.2)).toNat
                | none => 0
              (m.updThr t fun x => x.setBank (x.bank.pop 1)).ldmRun t (!x.atBoundary)
                (builtinShadow 0x140 ptr (flg * 2 ^ 18 + mask) (rd * 2 ^ 18 + head))

/-- `ldm`: continued from its shadow, or started (R205, R206). -/
def Mach.ldmOp (m : Mach) (t : Tid) : Mach :=
  m.select t fun m => m.routine t 0x140 fun m =>
    let x := m.thr t
    match x.progress 0x140 with
    | some h => (m.endProgress t).begins t fun m => m.ldmRun t false h
    | none =>
      match x.stackErr (dEff 1 0) with
      | some i => m.stackFault t i
      | none =>
        let mask := (x.bank.at_ 0).toNat
        match dataCount mask with
        | none => m.operandTrap t 1
        | some k =>
          let ptr := x.bank.a.toNat
          match m.blockFault t false ptr 4 4 with
          | some r => m.dataFault t r false .block ptr
          | none => m.begins t fun m =>
            let r := m.readBlock t ptr 4
            match r.2.1 with
            | .ok => r.1.ldmStart t ptr mask k (pack r.2.2 % 2 ^ 18)
            | _ => r.1.mcheck t 1 ptr

/-- LDM (R205). -/
def execLdm (t : Tid) (s : State) : Host.Outcome State Fault Refusal := onThread t s fun m => m.ldmOp t

/-! ## tsave and trest -/

/-- What the host answers to a routine that reads its window (R306, R358). -/
inductive HostAns where
  | got (ns : List Nonet)
  | failed
  | wait

/-- n nonets of the host window asked for by a routine: the answer that came, else a request, which waits for a tag and for the
host (R357 to R360). -/
def Mach.askHost (m : Mach) (t : Tid) (a n : Nat) : Mach × HostAns :=
  let d := (m.thr t).fdepth
  match (m.thr t).rsps.find? fun r => r.depth == d && r.addr.toNat == a && r.len == n with
  | some r =>
    let gone := m.updThr t fun x => { x with rsps := x.rsps.erase r }
    match r.value with
    | none => (m, .wait)
    | some (some v) => (gone, .got (beatNonets (m.hostAddr a).toNat n v))
    | some none => (gone, .failed)
  | none =>
    match m.initiate (m.hostAddr a) (.micro t d) with
    | (m, .sent) => (m.updThr t fun x => { x with rsps := x.rsps ++ [⟨d, BitVec.ofNat 28 a, n, none⟩] }, .wait)
    | (_, .quiet) => (m, .failed)
    | (_, .full) => (m, .wait)

/-- The reason why a Tally block is refused: not a multiple of 8, no right, or in the register range (R157, R194, R213). -/
def Mach.tallyFault (m : Mach) (t : Tid) (store : Bool) (a : Nat) : Option Nat :=
  if a % 8 ≠ 0 then some 0
  else
    match m.noRightN t store a 40 with
    | some r => some r
    | none => if inRegs a then some 3 else none

/-- One basin word of `tsave`; in the host window a posted write (R358). -/
def tsaveStep (t : Tid) (a j : Nat) : BlockStep := fun m h =>
  let cs := ((m.thr t).tally.cells.drop (4 * j)).take 4
  let b := a + 8 * j
  if b < 0xC000000 then (m.wrCells t b cs, h, .ok)
  else if m.hostQuiet then (m, h, .refused b)
  else (m.hostWrite 2 (m.hostAddr b) ((cs.flatMap fun c => unpack c.toNat 2).map octet), h, .ok)

/-- Two registers, or TSR, as one basin word of a block holds them. -/
def Tally.wordIn (y : Tally) (j : Nat) (ns : List Nonet) : Tally :=
  let d := fun (i : Nat) => BitVec.ofNat 36 (pack ((ns.drop (4 * i)).take 4))
  if j < 4 then { y with f := (y.f.set (2 * j) (d 0)).set (2 * j + 1) (d 1) } else { y with tsr := tsrStored (Dbl.lo (d 0)) }

/-- One basin word of `trest`. -/
def trestStep (t : Tid) (a j : Nat) : BlockStep := fun m h =>
  let b := a + 8 * j
  let put := fun (m : Mach) (ns : List Nonet) => m.updThr t fun x => { x with tally := x.tally.wordIn j ns }
  if b < 0xC000000 then
    let r := m.readBlock t b 8
    match r.2.1 with
    | .ok => (put r.1 r.2.2, h, .ok)
    | o => (r.1, h, o)
  else
    match m.askHost t b 8 with
    | (m, .got ns) => (put m ns, h, .ok)
    | (m, .failed) => (m, h, .refused b)
    | (m, .wait) => (m, h, .wait)

/-- `tsave` or `trest` from a word on: MT0 is the block. -/
def Mach.tallyRun (m : Mach) (t : Tid) (guarded load : Bool) (h : Shadow) : Mach :=
  let a := h.mt0.toNat
  m.runSteps t guarded (fun m _ => m.retire t (m.thr t) 1) h
    (((List.range 5).drop h.index).map fun j => if load then trestStep t a j else tsaveStep t a j)

/-- Micro address of `trest` or `tsave` (R297). -/
def tallyEntry (load : Bool) : BitVec 11 := if load then 0x1C0 else 0x180

/-- `tsave` and `trest` (R213, R263): every Tally operation of the thread completes first. -/
def Mach.tallyBlock (m : Mach) (t : Tid) (load : Bool) : Mach :=
  m.select t fun m => m.routine t (tallyEntry load).toNat fun m =>
    let x := m.thr t
    match x.progress (tallyEntry load) with
    | some h => (m.endProgress t).begins t fun m => m.tallyRun t false load h
    | none =>
      match x.stackErr (dEff 1 0) with
      | some i => m.stackFault t i
      | none =>
        let a := (x.bank.a + (x.bank.at_ 0).signExtend 28).toNat
        match m.tallyFault t (!load) a with
        | some r => m.dataFault t r (!load) .block a
        | none =>
          let go := fun (m : Mach) => (m.drainTally t).begins t fun m =>
            (m.updThr t fun x => x.setBank (x.bank.pop 1)).tallyRun t (!x.atBoundary) load (builtinShadow (tallyEntry load) a 0 0)
          if load then m.withSave t go else go m

/-- TSAVE (R213). -/
def execTsave (t : Tid) (s : State) : Host.Outcome State Fault Refusal := onThread t s fun m => m.tallyBlock t false
/-- TREST (R213). -/
def execTrest (t : Tid) (s : State) : Host.Outcome State Fault Refusal := onThread t s fun m => m.tallyBlock t true

/-! ## The shov family -/

/-- The target of a shov-family operand, if the instruction may act on it (R207, R208); a lock that was parked first gives none
(R211). -/
def Mach.shovTarget (m : Mach) (t : Tid) (d : Dbl) : Option Tid :=
  let id : Tid := d.setWidth 12
  if id = 0xFFF ∨ id = t then some t
  else if Tid.ok id && m.current (d.setWidth 20) && (m.thr id).halted && (Tid.lock id == Tid.lock t || Tid.tk t) &&
      (Tid.tk id || (m.lock (Tid.lock id)).state != .held) then some id
  else none

/-- Whether another thread's shov-family instruction is under way on a target (R211). -/
def Mach.shovBusy (m : Mach) (t id : Tid) : Bool :=
  match m.shovOn id with
  | some h => h.by_ != t
  | none => false

/-- A shov-family instruction on a thread begins: another one on it has been performed whole, and what the target buffered has
drained before a save (R211, R238). -/
def Mach.shovBegins (m : Mach) (t id : Tid) (load : Bool) (f : Mach → Mach) : Mach :=
  m.begins t fun m =>
    let m := m.flushMem id
    if m.shovBusy t id || (!load && !(m.thr id).sb.isEmpty) then m.park t (.shov id)
    else f (if id = t then m else { m with shovs := mset none m.shovs id.toNat (some ⟨t, load, false, [], false⟩) })

/-- What waited for a shov-family instruction on a thread (R211): view writes stand over its result, then a release and the parking
of the lock apply, and the threads that wait for the target try again. -/
def Mach.shovEnds (m : Mach) (id : Tid) : Mach :=
  let m : Mach := match m.shovOn id with
    | none => m
    | some h =>
      let m := { m with shovs := mset none m.shovs id.toNat none }
      let m := h.views.foldl (fun (m : Mach) w => m.viewPut w.1 w.2.1 w.2.2) m
      let m := if h.release then m.resumeThread id else m
      if h.parks && (m.lock (Tid.lock id)).state == .spare then m.parkLock (Tid.lock id) else m
  m.wakeShov id

/-- One basin word of a save. -/
def shovStep (t id : Tid) (hi : Bool) (area : Nat) (next : Dbl) (j : Nat) : BlockStep := fun m h =>
  let x := m.thr id
  let p := if id = t then x.p + 1 else x.p
  (m.wrCells t (area + 8 * j) (((x.areaCells hi id next p).drop (4 * j)).take 4), h, .ok)

/-- FLG.Z of the active bank, and a double pushed. -/
def Thread.pushNext (x : Thread) (d : Dbl) (z : Bool) : Thread :=
  let b := x.bank.pushD d
  x.setBank { b with flg := setBit b.flg 3 z }

/-- Micro address of `shov.hi` or `shov.lo` (R297). -/
def shovEntry (hi : Bool) : BitVec 11 := if hi then 0x240 else 0x200

/-- `shov.lo` or `shov.hi` from a word on: MT0 is the area, MT2 the target and MT3 the head. -/
def Mach.shovRun (m : Mach) (t : Tid) (guarded hi : Bool) (h : Shadow) : Mach :=
  let id : Tid := h.mt2.setWidth 12
  let area := h.mt0.toNat
  m.runSteps t guarded (fun m _ => (m.retire t ((m.thr t).pushNext (BitVec.ofNat 36 area) true) 1).shovEnds id) h
    (((List.range 16).drop h.index).map (shovStep t id hi area h.mt3))

/-- `shov.lo` and `shov.hi` ( head area t -- head' ) (R207 to R209). -/
def Mach.shovOp (m : Mach) (t : Tid) (hi : Bool) : Mach :=
  m.select t fun m =>
    let x := m.thr t
    if !x.helm then m.privTrap t (if hi then 0x075 else 0x074)
    else m.routine t (shovEntry hi).toNat fun m =>
      match x.progress (shovEntry hi) with
      | some h => (m.endProgress t).begins t fun m => m.shovRun t false hi h
      | none =>
        match x.stackErr (dEff 6 2) with
        | some i => m.stackFault t i
        | none =>
          let head := x.bank.dblAt 4
          let area := ((x.bank.dblAt 2).setWidth 28).toNat
          match m.blockFault t true area 128 8 with
          | some r => m.dataFault t r true .block area
          | none =>
            match m.shovTarget t (x.bank.dblAt 0) with
            | none => m.retire t ((x.setBank (x.bank.pop 6)).pushNext head false) 1
            | some id => m.shovBegins t id false fun m =>
              let m := m.updThr t fun x => x.setBank (x.bank.pop 6)
              (if hi then m.drainTally id else m).shovRun t (!x.atBoundary) hi
                (builtinShadow (shovEntry hi) area id.toNat head.toNat)

/-- SHOV_LO (R209). -/
def execShovLo (t : Tid) (s : State) : Host.Outcome State Fault Refusal := onThread t s fun m => m.shovOp t false
/-- SHOV_HI (R209). -/
def execShovHi (t : Tid) (s : State) : Host.Outcome State Fault Refusal := onThread t s fun m => m.shovOp t true

/-- The end of `unshov`: the restore of the half that KIND named, then NEXT pushed; a restored P stands (R210). -/
def Mach.unshovEnd (m : Mach) (t id : Tid) (area kind : Nat) : Mach :=
  let cs := m.rdCells t area 64
  let cs := cs.set 2 (setFld (cs.getD 2 0) 17 16 kind)
  let next := mkDbl (cs.getD 1 0) (cs.getD 0 0)
  let upper := kind = 2
  let m := if id = t ∧ upper then m.lazySave t else m
  let m := m.restoreInto id cs
  let x := m.thr t
  let x := if id = t ∧ !upper then { x with modes := [] } else x
  (m.retire t (x.pushNext next true) (if id = t ∧ !upper then 0 else 1)).shovEnds id

/-- One basin word of `unshov` read. -/
def unshovStep (t : Tid) (area j : Nat) : BlockStep := fun m h =>
  let r := m.readBlock t (area + 8 * j) 8
  (r.1, h, r.2.1)

/-- `unshov` from a word on: MT0 is the area, MT2 the target and MT3 KIND. -/
def Mach.unshovRun (m : Mach) (t : Tid) (guarded : Bool) (h : Shadow) : Mach :=
  let area := h.mt0.toNat
  m.runSteps t guarded (fun m h => m.unshovEnd t (h.mt2.setWidth 12) area h.mt3.toNat) h
    (((List.range 16).drop h.index).map (unshovStep t area))

/-- `unshov` ( head t -- next ) (R207, R210). -/
def Mach.unshovOp (m : Mach) (t : Tid) : Mach :=
  m.select t fun m =>
    let x := m.thr t
    if !x.helm then m.privTrap t 0x076
    else m.routine t 0x280 fun m =>
      match x.progress 0x280 with
      | some h => (m.endProgress t).begins t fun m => m.unshovRun t false h
      | none =>
        match x.stackErr (dEff 4 2) with
        | some i => m.stackFault t i
        | none =>
          let head := x.bank.dblAt 2
          let area := (head.setWidth 28 : DAddr).toNat
          match m.blockFault t false area 128 8 with
          | some r => m.dataFault t r false .block area
          | none =>
            match m.shovTarget t (x.bank.dblAt 0) with
            | none => m.retire t ((x.setBank (x.bank.pop 4)).pushNext head false) 1
            | some id => m.begins t fun m =>
              let c := m.rdCell (some t) (area + 4)
              let kind := fld c 17 16
              if m.badN (some t) area 8 then m.wordCheck t area 8
              else if kind ≠ 1 ∧ kind ≠ 2 then m.operandTrap t 3
              else if id = t ∧ !x.fastOn ∧ kind = 2 ∧ 14 < fld c 4 0 then m.stackFault t (x.norm.ds.length * 4)
              else m.shovBegins t id true fun m =>
                (m.updThr t fun x => x.setBank (x.bank.pop 4)).unshovRun t (!x.atBoundary)
                  (builtinShadow 0x280 area id.toNat kind)

/-- UNSHOV (R210). -/
def execUnshov (t : Tid) (s : State) : Host.Outcome State Fault Refusal := onThread t s fun m => m.unshovOp t

end Sys2Proof.Machine
end

