-- ==== Sys2Proof/Machine/Wire.lean ====
section
/-!
DEFINITION. The Oxian wire: pulses and slots (R435 to R438), packets (R440 to R444), the debug bus master (R454, R455), run
commands (R456), and the terminals (R464). A command of the table stands for a whole packet with its CRC octet.
-/
namespace Sys2Proof.Machine

/-! ## Packets -/

/-- One bit of CRC-8 with polynomial 0x07. -/
def crc8Bit (c : BitVec 8) : BitVec 8 := if bit c 7 then (c <<< 1) ^^^ 0x07#8 else c <<< 1
/-- CRC-8 over octets, initial value 0 (R440). -/
def crc8 (os : List (BitVec 8)) : BitVec 8 :=
  os.foldl (fun c o => crc8Bit (crc8Bit (crc8Bit (crc8Bit (crc8Bit (crc8Bit (crc8Bit (crc8Bit (c ^^^ o))))))))) 0

/-- The session changed, where one is open. -/
def Mach.updSession (m : Mach) (f : Session → Session) : Mach :=
  { m with d0 := { m.d0 with session := m.d0.session.map f } }

/-- Octets that wait to be read. -/
def Mach.sendWire (m : Mach) (os : List (BitVec 8)) : Mach :=
  m.updSession fun e => { e with tx := e.tx ++ os, cmdBusy := false }

/-- The response to a command: STATUS, data and CRC; REPEAT may send it again. -/
def Mach.respond (m : Mach) (st : Nat) (data : List (BitVec 8)) : Mach :=
  let body := BitVec.ofNat 8 st :: (if st = 0 then data else [])
  let os := body ++ [crc8 body]
  (m.updSession fun e => { e with last := os }).sendWire os

/-- A packet received in an open session: its CRC, then its own arguments, then the level it needs (R440 to R442). What the
host had not read of an earlier response is abandoned. -/
def Mach.packet (m : Mach) (body : List (BitVec 8)) (crc : BitVec 8) (ok : Bool) (level : Nat) (f : Mach → Mach) : Mach :=
  if m.d0.session.isNone ∨ m.d0.porst then m
  else
    let m := m.updSession fun e => { e with tx := [], txBit := 0, cmdBusy := false, endAfter := false, slotAt := m.now, cmdAt := m.now }
    if crc8 body ≠ crc then m.respond 1 []
    else if !ok then m.respond 2 []
    else if m.sessionLevel < level then m.respond 3 []
    else f m

/-! ## The debug bus master (R454) -/

/-- STATUS of an access of n nonets at an address, 0 where it may be performed. -/
def Mach.dbgCode (m : Mach) (store : Bool) (a n : Nat) : Nat :=
  if inRegs a then
    match m.regAt a .debug with
    | some r => if m.isOn r.domain then 0 else 9
    | none => if m.placeOff (m.place none a) then 9 else 0
  else if !extInRegion a n then 4
  else if store ∧ ((0x4000000 ≤ a ∧ a < 0x4800000) ∨ (0x6000000 ≤ a ∧ a < 0x6020000)) then 4
  else if 0x800000 ≤ a ∧ a < 0xC40000 ∧ m.sessionLevel < 2 then 4
  else if (List.range n).any fun i => m.extOff (a + i) then 9
  else if m.notOwner a then 4
  else if (List.range n).any fun i => m.extLost (a + i) || (!store && m.extBad (a + i)) then 5
  else 0

/-- An item of a cell read: 3 octets. -/
def Mach.dbgCell (m : Mach) (a : Nat) : Mach × List (BitVec 8) :=
  if inRegs a then
    let r := m.addrRead a .debug
    (r.1, beOctets r.2.toNat 3)
  else (m.extNote a 2, beOctets (pack [m.ext1 a, m.ext1 (a + 1)]) 3)

/-- An item of a word read: eight octets and their marks (R374). -/
def Mach.dbgWord (m : Mach) (a : Nat) : Mach × List (BitVec 8) :=
  let ns := (List.range 8).map fun i => m.ext1 (a + i)
  let marks := (ns.zipIdx.map fun e => b2n (bit e.1 8) * 2 ^ e.2).sum
  (m.extNote a 8, ns.map octet ++ [BitVec.ofNat 8 marks])

/-- The items of a RD from an address up: the STATUS of the first that fails. -/
def Mach.dbgRead (m : Mach) (word : Bool) : Nat → Nat → Mach × Except Nat (List (BitVec 8))
  | 0, _ => (m, .ok [])
  | n + 1, a =>
    let size := if word then 8 else 2
    let c := if word ∧ inRegs a then 4 else m.dbgCode false a size
    if c = 5 then (m.extNote a size, .error 5)
    else if c ≠ 0 then (m, .error c)
    else
      let x := if word then m.dbgWord a else m.dbgCell a
      match x.1.dbgRead word n (a + size) with
      | (m, .ok os) => (m, .ok (x.2 ++ os))
      | r => r

/-- Whether a register's rule ignores a write by the debug bus master: it says so in an error flag, or the thread of a view is not
halted (R179, R442). -/
def Mach.dbgRefused (m : Mach) (a : Nat) (v : Cell) : Bool :=
  match m.regAt a .debug with
  | none => false
  | some r =>
    if r.reg = .thView then !(m.thr (viewOf r.unit r.idx).1).halted
    else m.ruleRefuses [r] fun m => m.addrWrite a v .debug

/-- The nonets of a word item. -/
def itemNonets (x : BitVec 72) : List Nonet :=
  (List.range 8).map fun i => (BitVec.ofNat 9 (fld x (71 - 8 * i) (64 - 8 * i) + b2n (bit x i) * 256) : Nonet)

/-- The items of a WR in ascending order: those before the one that fails stand. -/
def Mach.dbgWrite (m : Mach) (word : Bool) : Nat → List (BitVec 72) → Mach × Nat
  | _, [] => (m, 0)
  | a, x :: rest =>
    let size := if word then 8 else 2
    let c := if word ∧ inRegs a then 4 else m.dbgCode true a size
    let v : Cell := x.setWidth 18
    if c ≠ 0 then (m, c)
    else if word then (m.extPut a (itemNonets x)).dbgWrite word (a + size) rest
    else if inRegs a then
      let refused := m.dbgRefused a v
      let m := m.addrWrite a v .debug
      if refused then (m, 6) else m.dbgWrite word (a + size) rest
    else (m.extPut a (unpack v.toNat 2)).dbgWrite word (a + size) rest

/-- Whether SPACE and ADDR of an access are among their encodings (R441). -/
def accessOk (space : BitVec 8) (a : BitVec 32) : Bool :=
  decide (a.toNat < 0x10000000) && ((space == 0 && a.toNat % 2 == 0) || (space == 1 && a.toNat % 8 == 0))

/-! ## Rows: pulses -/

/-- BREAK (R435): a session opens, and one that was open ends. -/
def execOxBreak (s : State) : Host.Outcome State Fault Refusal := done s (if s.m.d0.porst then s.m else s.m.openSession)
/-- SESSION_END_PULSE (R435). -/
def execSessionEndPulse (s : State) : Host.Outcome State Fault Refusal := done s s.m.endSession
/-- SESSION_TIMEOUT (R437): 10 s without a slot. -/
def execSessionTimeout (s : State) : Host.Outcome State Fault Refusal :=
  done s (if s.m.d0.session.any fun e => s.m.past e.slotAt 10000000000 then s.m.endSession else s.m)
/-- BLOCK_RESET_LOW (R438): the block is held in block reset; PORST_N overrides it. -/
def execBlockResetLow (s : State) : Host.Outcome State Fault Refusal := done s (if s.m.d0.porst then s.m else s.m.blockReset)

/-- PACKET_GAP_EXPIRE (R437): a partial command is discarded and counted, a partial response abandoned. -/
def execPacketGapExpire (inCommand : Bool) (s : State) : Host.Outcome State Fault Refusal :=
  done s (
    if s.m.d0.session.isNone then s.m
    else if inCommand then (s.m.wbit .dbgStat 11 true).count 0x7C00 3
    else
      let m := s.m.updSession fun e => { e with tx := [], txBit := 0 }
      if (s.m.d0.session.map fun e => e.endAfter && !e.tx.isEmpty) = some true then m.endSession else m)

/-- The run command of the session is done once its threads are halted. -/
def Mach.wirePoll (m : Mach) : Mach :=
  match m.d0.session with
  | some e => if e.cmdBusy && !m.runBusy then m.respond 0 [] else m
  | none => m

/-- DBG_CMD_TIMEOUT (R443, R444): a command that completes in this decision keeps its own STATUS. -/
def execDbgCmdTimeout (s : State) : Host.Outcome State Fault Refusal :=
  done s (
    let m := s.m.wirePoll
    match m.d0.session with
    | some e => if e.cmdBusy && m.past e.cmdAt 100000 then m.respond 7 [] else m
    | none => m)

/-- READ_SLOT (R436, R437, R443): one bit of the response, most significant first; 0xFF while it is not ready. With nothing to
send the slot is a write slot, in which the block sends no pulse. -/
def execReadSlot (s : State) : Host.Outcome State Fault Refusal :=
  done s (
    let m := s.m.wirePoll.updSession fun e => { e with slotAt := s.m.now }
    match m.d0.session with
    | none => { m with d0 := { m.d0 with pulse := none } }
    | some e =>
      let tx := if e.tx.isEmpty && e.cmdBusy then [0xFF#8] else e.tx
      match tx with
      | [] => { m with d0 := { m.d0 with pulse := none } }
      | o :: rest =>
        let m := { m with d0 := { m.d0 with pulse := some (bit o (7 - e.txBit)) } }
        let m := m.updSession fun e => { e with tx := if e.txBit = 7 then rest else tx, txBit := (e.txBit + 1) % 8 }
        if e.txBit = 7 ∧ rest.isEmpty ∧ !e.cmdBusy ∧ e.endAfter then
          let p := m.d0.pulse
          { m.endSession with d0 := { m.endSession.d0 with pulse := p } }
        else m)

/-! ## Rows: packets -/

/-- IDENT (R441). -/
def execDbgIdent (crc : BitVec 8) (s : State) : Host.Outcome State Fault Refusal :=
  done s (s.m.packet [1] crc true 0 fun m =>
    m.respond 0 (beOctets 0x17160004 5 ++ [m.d0.lcState.setWidth 8, BitVec.ofNat 8 m.sessionLevel]))

/-- CHAL (R449): a nonce from the random source, held in the session. -/
def execDbgChal (target crc : BitVec 8) (s : State) : Host.Outcome State Fault Refusal :=
  done s (s.m.packet [2, target] crc (targetOk target) 0 fun m =>
    if m.d0.lockout then m.respond 8 []
    else if !m.isOn 5 then m.respond 9 []
    else
      let n := Config.nonce m.free
      (m.take.updSession fun e => { e with nonce := some (target, n) }).respond 0 (beOctets n.toNat 8))

/-- AUTH (R449): the nonce is consumed; a level is entered, or a transition made, which ends the session. -/
def execDbgAuth (target : BitVec 8) (tag : BitVec 64) (crc : BitVec 8) (s : State) : Host.Outcome State Fault Refusal :=
  done s (s.m.packet ([3, target] ++ beOctets tag.toNat 8) crc (targetOk target) 0 fun m =>
    let nonce := (m.d0.session.map fun e => e.nonce).join
    let r := (m.updSession fun e => { e with nonce := none }).judge nonce target tag
    let level := if r.2 = 0 ∧ target.toNat < 16 then max m.sessionLevel target.toNat else m.sessionLevel
    (r.1.updSession fun e => { e with level := BitVec.ofNat 2 level }).respond r.2 [BitVec.ofNat 8 level])

/-- RD (R441, R454). -/
def execDbgRd (space : BitVec 8) (addr : BitVec 32) (count crc : BitVec 8) (s : State) : Host.Outcome State Fault Refusal :=
  done s (s.m.packet ([4, space] ++ beOctets addr.toNat 4 ++ [count]) crc (accessOk space addr) 1 fun m =>
    match m.dbgRead (space == 1) (count.toNat + 1) addr.toNat with
    | (m, .ok os) => m.respond 0 os
    | (m, .error c) => m.respond c [])

/-- WR (R441, R454). -/
def execDbgWr (space : BitVec 8) (addr : BitVec 32) (count : BitVec 8) (items : List (BitVec 72)) (crc : BitVec 8) (s : State) :
    Host.Outcome State Fault Refusal :=
  let size := if space = 1 then 9 else 3
  done s (s.m.packet ([5, space] ++ beOctets addr.toNat 4 ++ [count] ++ items.flatMap fun x => beOctets x.toNat size) crc
    (accessOk space addr && items.length == count.toNat + 1) 2 fun m =>
    let r := m.dbgWrite (space == 1) addr.toNat items
    r.1.respond r.2 [])

/-- VTRD (R464): up to MAX octets leave the output queue. -/
def execDbgVtrd (term : BitVec 16) (max crc : BitVec 8) (s : State) : Host.Outcome State Fault Refusal :=
  done s (s.m.packet ([7] ++ beOctets term.toNat 2 ++ [max]) crc
    (decide (term.toNat < 274) && decide (1 ≤ max.toNat) && decide (max.toNat ≤ 16)) 1 fun m =>
    let os := (m.vt term.toNat).out.take max.toNat
    (m.updVt term.toNat fun v => { v with out := v.out.drop max.toNat }).respond 0 (BitVec.ofNat 8 os.length :: os))

/-- VTWR (R464): all octets enter the input queue, or none. -/
def execDbgVtwr (term : BitVec 16) (n : BitVec 8) (octets : List (BitVec 8)) (crc : BitVec 8) (s : State) :
    Host.Outcome State Fault Refusal :=
  done s (s.m.packet ([8] ++ beOctets term.toNat 2 ++ [n] ++ octets) crc
    (decide (term.toNat < 274) && decide (1 ≤ n.toNat) && decide (n.toNat ≤ 16) && octets.length == n.toNat) 2 fun m =>
    let r := m.vtIn term.toNat octets
    r.1.respond (if r.2 then 0 else 6) [])

/-- REPEAT (R441, R444): the last response of the session again. -/
def execDbgRepeat (crc : BitVec 8) (s : State) : Host.Outcome State Fault Refusal :=
  done s (s.m.packet [9] crc true 0 fun m =>
    match m.d0.session with
    | some e => if e.last.isEmpty then m.respond 2 [] else m.sendWire e.last
    | none => m)

/-- END (R441): the session ends after the response. -/
def execDbgEnd (crc : BitVec 8) (s : State) : Host.Outcome State Fault Refusal :=
  done s (s.m.packet [10] crc true 0 fun m => (m.respond 0 []).updSession fun e => { e with endAfter := true })

/-! ## Rows: run control (R456 to R460) -/

/-- A run command from the wire or by a write of DBG_RUN. A HALT or STEP on the wire completes when its threads are halted. -/
def Mach.runVia (m : Mach) (via : RunVia) (op : Nat) (tk all : Bool) (t : Tid) (area : DAddr) : Mach :=
  match via with
  | .wire crc =>
    m.packet ([6, BitVec.ofNat 8 op] ++ beOctets (b2n tk * 0x8000 + b2n all * 0x4000 + t.toNat) 2 ++ beOctets area.toNat 4) crc true 2
      fun m =>
        let r := m.run op tk all t true area.toNat
        if r.2 then r.1.respond 6 []
        else if r.1.runBusy then r.1.updSession fun e => { e with cmdBusy := true }
        else r.1.respond 0 []
  | .reg w =>
    if m.narrowed ⟨.dbgRun, 0, 0⟩ w true then m
    else
      let m := if op = 5 then
          (m.regWrite ⟨.dbgArg, 0, 0⟩ (area.setWidth 18) w).regWrite ⟨.dbgArg, 0, 1⟩ ((area >>> 18).setWidth 18) w
        else m
      m.regWrite ⟨.dbgRun, 0, 0⟩ (BitVec.ofNat 18 (op * 0x8000 + b2n tk * 0x4000 + b2n all * 0x2000 + t.toNat)) w

/-- HALT. -/
def execDbgHalt (via : RunVia) (tk all : Bool) (ptid : Tid) (s : State) : Host.Outcome State Fault Refusal :=
  done s (s.m.runVia via 1 tk all ptid 0)
/-- RESUME. -/
def execDbgResume (via : RunVia) (tk all : Bool) (ptid : Tid) (s : State) : Host.Outcome State Fault Refusal :=
  done s (s.m.runVia via 2 tk all ptid 0)
/-- STEP. -/
def execDbgStep (via : RunVia) (tk all : Bool) (ptid : Tid) (s : State) : Host.Outcome State Fault Refusal :=
  done s (s.m.runVia via 3 tk all ptid 0)
/-- DEBUG_RESET. -/
def execDbgReset (via : RunVia) (tk all : Bool) (ptid : Tid) (s : State) : Host.Outcome State Fault Refusal :=
  done s (s.m.runVia via 4 tk all ptid 0)
/-- LOAD. -/
def execDbgLoad (via : RunVia) (tk all : Bool) (ptid : Tid) (area : DAddr) (s : State) : Host.Outcome State Fault Refusal :=
  done s (s.m.runVia via 5 tk all ptid area)

end Sys2Proof.Machine
end

