-- ==== Sys2Proof/Machine/Windlass.lean ====
section
/-!
DEFINITION. The windlass (R214, R224, R225, R295 to R311): customer slots, the microword and nano-word as the stores hold them,
contexts and yield points, the yield watchdog.
-/
namespace Sys2Proof.Machine

/-! ## The nano-word (R302) -/

/-- Field k of a nano-word. -/
def nanoField (n : BitVec 144) (k : Nat) : Nat := fld n (9 * k + 8) (9 * k)

/-- SEL and IDX of an operand field. -/
def selOf (f : Nat) : Nat := f / 32
/-- IDX of an operand field. -/
def idxOf (f : Nat) : Nat := f % 32

/-- An ALU operation at a width (R302): shifts count by B; operations 24 and up give zero. -/
def microAlu {w : Nat} (op : Nat) (a b : BitVec w) (mc : Bool) (cell : Cell → Cell) : AluOut w :=
  let n := b.toNat % 64
  let n := if w = 18 then n % 32 else n
  match op with
  | 1 => aluNz a
  | 2 => aluNz b
  | 3 => aluAdd a b false
  | 4 => aluAdd a b mc
  | 5 => aluSub a b false
  | 6 => aluSub a b mc
  | 7 => aluNz (a &&& b)
  | 8 => aluNz (a ||| b)
  | 9 => aluNz (a ^^^ b)
  | 10 => aluNz (~~~a)
  | 11 => aluShl a n
  | 12 => aluShr a n
  | 13 => aluSar a n
  | 14 => aluRol a n
  | 15 => aluAdd a 1 false
  | 16 => aluSub a 1 false
  | 17 => aluNz ((cell (a.setWidth 18)).setWidth w)
  | 18 => aluNz (BitVec.ofNat w (clzOf a))
  | 19 => aluNz (BitVec.ofNat w (popOf a))
  | 20 => aluNz (aluMin a b)
  | 21 => aluNz (aluMax a b)
  | 22 => aluNz ((cell (a.setWidth 18)).setWidth w)
  | 23 => aluNz ((cell (a.setWidth 18)).setWidth w)
  | _ => aluNz 0

/-- The cell operation of `nswap`, `be16>` and `>be16`. -/
def cellOp (op : Nat) : Cell → Cell := if op = 17 then nswapOf else if op = 22 then be16FromOf else toBe16Of

/-- FLG as the Bolcia operation of an ALU operation leaves it (R187, R188, R190, SF of R302): `clz` and `popc` write Z alone; a
pass writes N and Z as `tst` does (DEDUCED entry 84). -/
def microFlg {w : Nat} (op : Nat) (o : AluOut w) (f : Cell) : Cell :=
  if op = 0 ∨ 24 ≤ op then f
  else if op = 18 ∨ op = 19 then setBit f 3 (o.r == 0)
  else setNzcv f o

/-! ## Operands (R303) -/

/-- A source read at a width. -/
def Mach.microSrc (m : Mach) (t : Tid) (c : Ctx) (kconst f : Nat) (wide : Bool) : Dbl :=
  let x := m.thr t
  let i := idxOf f
  let b := if bit (BitVec.ofNat 5 i) 4 then x.norm else x.bank
  let j := i % 16
  match selOf f with
  | 1 => if wide then b.dblAt j else (b.at_ j).setWidth 36
  | 2 => (b.rs.getD j 0).setWidth 36
  | 3 => match i % 4 with | 0 => c.sh.mt0 | 1 => c.sh.mt1 | 2 => c.sh.mt2 | _ => c.sh.mt3
  | 4 => b.a.setWidth 36
  | 5 => b.b.setWidth 36
  | 6 => x.i.setWidth 36
  | 7 => x.u.setWidth 36
  | 8 => b.flg.setWidth 36
  | 9 => x.lvl.setWidth 36
  | 10 => x.mf.setWidth 36
  | 11 => (x.p.setWidth 20).setWidth 36
  | 12 => let k := BitVec.ofNat 9 kconst; if i % 2 = 1 then k.signExtend 36 else k.setWidth 36
  | 13 => if i % 2 = 1 then x.mr.extractLsb' 36 36 else x.mr.extractLsb' 0 36
  | 14 => BitVec.ofNat 36 (b.rs.length * 32 + b.ds.length)
  | 15 =>
    match i with
    | 0 => m.readCtl t 6
    | 1 => m.readCtl t 5
    | 2 => x.fdepth.setWidth 36
    | 3 => BitVec.ofNat 36 (frameAddr t x.fdepth.toNat)
    | _ => 0
  | _ => 0

/-- Whether a destination is one that a deck customer microword must not write (R303, R305). -/
def Thread.guardedDest (x : Thread) (f : Nat) (r : Dbl) : Bool :=
  let i := idxOf f
  let b := if 16 ≤ i then x.norm else x.bank
  let s := selOf f
  s == 7 || s == 9 || s == 10 || (s == 15 && i == 2) || (s == 8 && (Dbl.lo r ^^^ b.flg) &&& modeMask != 0)

/-- FLG of a bank written whole; a change of K in the active bank's switches the bank. -/
def Thread.microFlgPut (x : Thread) (norm : Bool) (v : Cell) : Thread :=
  let v := v &&& 0x3C01F
  if norm && x.fastOn then { x with norm := { x.norm with flg := v } }
  else { x with fastOn := bit v 15 }.setFlg v

/-- A destination written (R303): the thread's part. P is kept for END with IMM bit 0 at 1. -/
def Thread.microDest (x : Thread) (f : Nat) (r : Dbl) (wide : Bool) : Thread :=
  let i := idxOf f
  let norm := decide (16 ≤ i)
  let j := i % 16
  let upd := fun (g : Bank → Bank) => if norm then { x with norm := g x.norm } else x.setBank (g x.bank)
  match selOf f with
  | 1 => upd fun b => if wide then { b with ds := (b.ds.set j (Dbl.hi r)).set (j + 1) (Dbl.lo r) } else { b with ds := b.ds.set j (Dbl.lo r) }
  | 2 => upd fun b => { b with rs := b.rs.set j (r.setWidth 20) }
  | 4 => upd fun b => { b with a := r.setWidth 28 }
  | 5 => upd fun b => { b with b := r.setWidth 28 }
  | 6 => { x with i := Dbl.lo r }
  | 7 => { x with u := r.setWidth 28 }
  | 8 => x.microFlgPut norm (Dbl.lo r)
  | 9 => { x with lvl := r.setWidth 4 }
  | 10 => { x with mf := r.setWidth 28 }
  | 11 => { x with np := some ((r.setWidth 20).setWidth 21) }
  | 13 =>
    if i % 2 = 1 then { x with md := r ++ x.md.extractLsb' 0 36 } else { x with md := (x.md.extractLsb' 36 36) ++ r }
  | 15 => if i = 2 then { x with fdepth := BitVec.ofNat 4 (min 8 (r.toNat % 16)) } else x
  | _ => x

/-- A temporary written. -/
def Shadow.setMt (h : Shadow) (i : Nat) (r : Dbl) : Shadow :=
  match i % 4 with | 0 => { h with mt0 := r } | 1 => { h with mt1 := r } | 2 => { h with mt2 := r } | _ => { h with mt3 := r }

/-! ## Stacks -/

/-- N cells of a result, the lowest pushed first. -/
def microCells (r : Dbl) (n : Nat) : List Cell := ((List.range n).map fun i => (r >>> (18 * i)).setWidth 18).reverse

/-- INFO of the stack fault that DSTK or RSTK meets (R259, R311). -/
def Thread.microStack (x : Thread) (floor dstk rstk : Nat) (r : Dbl) : Option Nat :=
  let dn := dstk / 8 % 2 = 1
  let rn := rstk / 32 % 2 = 1
  let db := if dn then x.norm else x.bank
  let rb := if rn then x.norm else x.bank
  let dlim := if dn then 16 else x.limit
  let rlim := if rn then 16 else x.limit
  let n := dstk / 16 % 4 + 1
  let low := if dn && x.fastOn then 0 else floor
  let d := db.ds.length
  let k := rb.rs.length
  if dstk / 64 = 1 ∧ d < low + n then some (d * 4 + 1)
  else if dstk / 64 = 2 ∧ dlim < d + n then some (d * 4)
  else if rstk / 64 = 1 ∧ k = 0 then some (k * 4 + 3)
  else if (rstk / 64 = 2 ∧ rlim ≤ k) ∨ (rstk / 64 = 4 ∧ rlim < r.toNat % 32) then some (k * 4 + 2)
  else none

/-- A list cut or padded at its top to a length; the head is the top. -/
def toDepth {α : Type} (z : α) (l : List α) (n : Nat) : List α := List.replicate (n - l.length) z ++ l.drop (l.length - n)

/-- DSTK, then RSTK (R302, R304). -/
def Thread.microStacks (x : Thread) (dstk rstk : Nat) (r : Dbl) : Thread :=
  let n := dstk / 16 % 4 + 1
  let d := fun (b : Bank) => match dstk / 64 with
    | 1 => { b with ds := b.ds.drop n }
    | 2 => { b with ds := microCells r n ++ b.ds }
    | 3 => { b with ds := [] }
    | _ => b
  let k := fun (b : Bank) => match rstk / 64 with
    | 1 => { b with rs := b.rs.drop 1 }
    | 2 => { b with rs := r.setWidth 20 :: b.rs }
    | 3 => { b with rs := [] }
    | 4 => { b with rs := toDepth 0 b.rs (r.toNat % 32) }
    | _ => b
  let x := if dstk / 8 % 2 = 1 then { x with norm := d x.norm } else x.setBank (d x.bank)
  if rstk / 32 % 2 = 1 then { x with norm := k x.norm } else x.setBank (k x.bank)

/-! ## Resources of step 5 -/

/-- SHADOW (R302). -/
def Thread.microShadow (x : Thread) (f : Nat) : Thread :=
  let i := f % 4 % 3
  let cs := x.shadowCells
  match f / 64 with
  | 1 => { x with md := BitVec.ofNat 72 (pack ((cs.drop (4 * i)).take 4 |>.flatMap fun c => unpack c.toNat 2)) }
  | 2 =>
    let ws := (List.range 4).map fun j => ((x.mr >>> (18 * j)).setWidth 18 : Cell)
    let cs := cs.take (4 * i) ++ ws ++ cs.drop (4 * i + 4)
    match Shadow.ofCells cs with
    | some h => { x with shadow := some h, shWords := [] }
    | none => { x with shadow := none, shWords := if cs.all (· == 0) then [] else cs }
  | 3 => { x with shadow := none, shWords := [] }
  | _ => x

/-- The address that AGEN forms (R302). -/
def Thread.agen (x : Thread) (t : Tid) (f : Nat) (mt0 r : Dbl) : Nat :=
  let base := match f / 64 with
    | 1 => x.bank.a.toNat
    | 2 => x.bank.b.toNat
    | 3 => mt0.toNat % 0x10000000
    | 4 => frameAddr t x.fdepth.toNat
    | 5 => frameAddr t (x.fdepth.toNat - 1)
    | 6 => frameAddr t x.fdepth.toNat + 72
    | 7 => r.toNat % 0x10000000
    | _ => 0
  (base + 4 * (f % 64)) % 0x10000000

/-- The width of a memory command. -/
def microWidth (f : Nat) : Width := match f / 16 % 8 with | 0 => .nonet | 1 => .cell | 2 => .double | _ => .block

/-- What became of a microword's memory command: done, waiting, or the fault it meets. -/
inductive MicroMem where
  | ok (m : Mach) (c : Ctx)
  | wait (m : Mach)
  | fault (m : Mach) (reason : Nat) (store : Bool) (a : Nat)
  | bad (m : Mach) (a : Nat)

/-- The request of a load from the host window: its response is outstanding from now on (R304, R358). -/
def Mach.microHost (m : Mach) (t : Tid) (c : Ctx) (n a : Nat) : MicroMem :=
  let d := (m.thr t).fdepth
  match m.initiate (m.hostAddr a) (.micro t d) with
  | (m, .sent) => .ok (m.updThr t fun x => { x with rsps := x.rsps ++ [⟨d, BitVec.ofNat 28 a, n, none⟩] }) c
  | (_, .quiet) => .fault m 5 false a
  | (_, .full) => .wait m

/-- A memory command performed for the thread (R302, R304): m holds the microword's earlier steps. -/
def Mach.microMem (m : Mach) (t : Tid) (c : Ctx) (f a : Nat) : MicroMem :=
  let w := microWidth f
  let n := w.nonets
  let store := f / 128 = 2
  let sys := f / 8 % 2 = 1
  let mh := if sys then m.updThr t fun x => x.setFlg (setBit x.flg 17 true) else m
  match mh.accessFault t store w a with
  | some r => .fault m r store a
  | none =>
    let m := m.flushMem t
    let x := m.thr t
    let c := { c with lastEa := BitVec.ofNat 28 a, error := c.error && store }
    let ns := unpack x.md.toNat n
    if ((inRegs a || decide (0xC000000 ≤ a)) && !x.sb.isEmpty) || decide (4 ≤ x.txns) then .wait m
    else if inRegs a then
      if store then .ok ((m.flitTo t a).drainReg t ⟨BitVec.ofNat 28 a, w, x.md.setWidth 36, x.helm || sys, m.priOf t, 0⟩) c
      else
        let r := (m.flitTo t a).addrRead a (.thread t)
        .ok (r.1.updThr t fun x => { x with mr := r.2.setWidth 72 }) c
    else if 0xC000000 ≤ a then
      if !store then (m.flitTo t a).microHost t c n a
      else if m.hostQuiet then .fault m 5 true a
      else .ok ((m.flitTo t a).hostWrite 2 (m.hostAddr a) (ns.map octet)) c
    else if store then .ok ((m.flitTo t a).wrThr t a ns) c
    else if m.badN (some t) a n then .bad m a
    else
      let v := pack (m.rdN (some t) a n)
      .ok (((m.flitTo t a).noteN (some t) a n).updThr t fun x => { x with mr := BitVec.ofNat 72 v }) c

/-- The responses of a routine: those of its thread at its FDEPTH. -/
def Thread.responses (x : Thread) : List MicroRsp := x.rsps.filter fun r => r.depth == x.fdepth
/-- Whether a response of the routine is outstanding. -/
def Thread.awaitsRsp (x : Thread) : Bool := x.responses.any fun r => r.value.isNone

/-- A response that came lands in MR; an error is seen by conditions 6 and 7 (R300, R304, R306). -/
def Mach.microDeliver (m : Mach) (t : Tid) (c : Ctx) : Mach × Ctx :=
  match (m.thr t).responses.find? fun r => r.value.isSome with
  | none => (m, c)
  | some r =>
    let gone := fun (x : Thread) => { x with rsps := x.rsps.erase r }
    match r.value.getD none with
    | some d =>
      let v := pack (beatNonets (m.hostAddr r.addr.toNat).toNat r.len d)
      (m.updThr t fun x => { gone x with mr := BitVec.ofNat 72 v }, { c with error := false })
    | none => (m.updThr t gone, { c with error := true })

/-- EXT of a built-in microword: the unit answers a free value (DESIGN CHOICE entry 84). -/
def Mach.microExt (m : Mach) (t : Tid) (c : Ctx) (f : Nat) : Mach × Ctx :=
  if f / 64 = 0 then (m, c)
  else
    let v := Config.extResponse m.free
    (m.take.updThr t fun x => { x with mr := v.setWidth 72 }, { c with error := bit v 72 })

/-- TALLY (R302); its first use in a handler saves the state as any other does (R263). -/
def Mach.microTally (m : Mach) (t : Tid) (cust : Bool) (f : Nat) (r : Dbl) : Mach :=
  if f / 64 = 0 ∨ 4 < f / 64 then m
  else
    let m := if cust then m.lazySave t else m
    let i := f % 16
    match f / 64 with
    | 1 => m.drainTally t
    | 2 =>
      (m.drainTally t).updThr t fun x =>
        let v : Dbl := if i < 8 then x.tally.f.getD i 0 else if i = 8 then x.tally.tsr.setWidth 36 else 0
        { x with mr := (x.mr.extractLsb' 36 36) ++ v }
    | 3 =>
      (m.drainTally t).updThr t fun x =>
        if i < 8 then { x with tally := { x.tally with f := x.tally.f.set i r } }
        else if i = 8 then { x with tally := { x.tally with tsr := tsrStored (Dbl.lo r) } }
        else x
    | _ =>
      let n := (m.thr t).tally.queue.length
      (m.updThr t fun x => { x with tally := { x.tally with queue := [] } }).coreCount (Tid.coreNo t) 9 n

/-- MULT (R302): the product lands in MR bits 35:0. -/
def Mach.microMult (m : Mach) (t : Tid) (f : Nat) (a b : Dbl) : Mach :=
  let put := fun (v : Dbl) => m.updThr t fun x => { x with mr := (x.mr.extractLsb' 36 36) ++ v }
  let x := Dbl.lo a
  let y := Dbl.lo b
  if f = 1 then put (x.setWidth 36 * y.setWidth 36) else if f = 2 then put (x.signExtend 36 * y.signExtend 36) else m

/-- STATE (R302), but for K. -/
def Mach.microState (m : Mach) (t : Tid) (f : Nat) : Mach :=
  let m := if f / 128 % 2 = 1 then m.flushPred t else m
  m.updThr t fun x =>
    let x := if f / 256 = 1 then { x with resv := none } else x
    let d := x.fdepth.toNat
    match f / 32 % 4 with
    | 1 => { x with fdepth := BitVec.ofNat 4 (min 8 (d + 1)) }
    | 2 => { x with fdepth := BitVec.ofNat 4 (d - 1) }
    | _ => x

/-- K as STATE bit 4 sets it, from the next microword (R302). -/
def Thread.microK (x : Thread) (f : Nat) (r : Dbl) : Thread :=
  if f / 16 % 2 = 1 then x.microFlgPut false (setBit x.flg 15 (bit r 0)) else x

/-! ## Sequencing (R299 to R301) -/

/-- An address as the region of the microword makes it (R299, R301). -/
def microAddr (cust : Bool) (a : Nat) : BitVec 11 := if cust then BitVec.ofNat 11 (0x700 + a % 256) else BitVec.ofNat 11 a

/-- Whether a routine runs in the reserved context. -/
def Mach.inReserved (m : Mach) (t : Tid) : Bool :=
  match (m.core (Tid.coreNo t)).reserved with
  | some k => k.tid == t
  | none => false

/-- A condition of BRT and BRF, with the micro flags that the microword before left (R300). -/
def Mach.microCond (m : Mach) (t : Tid) (c : Ctx) (i : Nat) : Bool :=
  let x := m.thr t
  match i with
  | 0 => c.sh.mz
  | 1 => !c.sh.mz
  | 2 => c.sh.mc
  | 3 => !c.sh.mc
  | 4 => c.sh.mn
  | 5 => !c.sh.mn
  | 6 => c.error
  | 7 => !c.error
  | 8 => bit x.flg 15
  | 9 => x.helm
  | 10 => x.haltReq.isSome || (m.presented t).isSome
  | 11 => m.contextWanted t
  | 12 => !x.tally.queue.isEmpty
  | 13 => m.inReserved t
  | 14 => true
  | _ => false

/-- What follows a microword: the next one, a yield point, a trap, or the end. -/
inductive MicroNext where
  | goto (h : Shadow) (yld : Bool)
  | end_ (wroteP : Bool)
  | trap (code : Nat)

/-- The sequencing operation of a microword. -/
def Mach.microSeq (m : Mach) (t : Tid) (c : Ctx) (h : Shadow) (target seq imm : Nat) (r : Dbl) : MicroNext :=
  let pc := h.mpc.toNat
  let cust := decide (0x700 ≤ pc)
  let go := fun (a : Nat) => MicroNext.goto { h with mpc := microAddr cust a } false
  match seq with
  | 1 => .goto { h with mpc := microAddr cust (pc + 1) } true
  | 2 => go target
  | 3 => go (if m.microCond t c imm then target else pc + 2)
  | 4 => go (if m.microCond t c imm then pc + 2 else target)
  | 5 =>
    if 4 ≤ h.stack.length then go target
    else .goto { h with mpc := microAddr cust target, stack := h.stack ++ [BitVec.ofNat 11 (pc + 2)] } false
  | 6 =>
    match h.stack.getLast? with
    | some a => .goto { h with mpc := microAddr cust a.toNat, stack := h.stack.dropLast } false
    | none => .end_ false
  | 7 =>
    let n := Dbl.lo h.mt3 - 1
    .goto { h with mt3 := mkDbl (Dbl.hi h.mt3) n, mpc := microAddr cust (if n = 0 then pc + 2 else target) } false
  | 8 => go (target + (r.toNat % 16 &&& imm))
  | 9 => .goto { h with mpc := microAddr cust (pc + 1) } (imm % 2 == 1)
  | 10 => .end_ (imm % 2 == 1)
  | 11 => .trap (if imm = 0 ∨ 10 ≤ imm then 3 else imm)
  | _ => go (pc + 1)

/-! ## Running -/

/-- A routine's context changed. -/
def Mach.putCtx (m : Mach) (t : Tid) (c : Ctx) : Mach :=
  let put := fun (k : Option Ctx) => k.map fun k => if k.tid = t then c else k
  m.updCore (Tid.coreNo t) fun k => { k with main := put k.main, reserved := put k.reserved }

/-- A trap that SEQ raises: the routine has ended and nothing is saved (R299). -/
def Mach.seqTrap (m : Mach) (t : Tid) (code : Nat) (r : Dbl) (ea : DAddr) : Mach :=
  let info := (Dbl.lo r).toNat
  let m := m.freeCtx t
  if code = 4 then
    m.settled t fun m => if (m.thr t).fastOn then m.threadFault t 1 else m.enter t .fast (m.thr t).p 1 4 ea.toNat info
  else if code = 8 then m.mcheck t info ea.toNat
  else m.trap t code info ea.toNat

/-- The routine's end (R299, R311): a customer routine leaves FLOOR + OUT cells, and K is what STATE made it. -/
def Mach.microEnd (m : Mach) (t : Tid) (h : Shadow) (wroteP : Bool) (k : Thread → Thread) : Mach :=
  let m := m.freeCtx t
  let x := m.thr t
  let x := if h.cust then x.setBank { x.bank with ds := toDepth 0 x.bank.ds (h.floor.toNat + h.out.toNat) } else x
  let x := { k x with np := none }
  if wroteP then m.retireAt t { x with p := (m.thr t).np.getD x.p } else m.retire t x 1

/-- Whether a yield point is honoured (R306). -/
def Mach.honoured (m : Mach) (t : Tid) : Bool := (m.thr t).atBoundary && m.wantsYield t

/-- How a microword leaves its routine: running, held for a response, or gone. -/
inductive Micro where
  | run (c : Ctx)
  | hold
  | gone

/-- A WAIT that has acted (R299, R306, R310): it ends once its response is in; at IMM bit 0 it is a yield point, saved at the WAIT
itself while the response is out. -/
def Mach.microWait (m : Mach) (t : Tid) (c : Ctx) (yld : Bool) : Mach × Micro :=
  let (m, c) := m.microDeliver t c
  if (m.thr t).awaitsRsp then
    if yld && m.honoured t then (m.microSave t c.sh, .gone)
    else
      let c := { c with waits := true, ran := if yld then 0 else c.ran }
      (m.putCtx t c, .hold)
  else
    let pc := c.sh.mpc.toNat
    let h := { c.sh with mpc := microAddr (decide (0x700 ≤ pc)) (pc + 1) }
    if yld && m.honoured t then (m.microSave t h, .gone)
    else
      let c := { c with sh := h, waits := false, ran := if yld then 0 else c.ran + 1 }
      (m.putCtx t c, .run c)

/-- What follows the microword's action; `k` sets the K of the next microword. -/
def Mach.microAfter (m : Mach) (t : Tid) (c : Ctx) (h : Shadow) (target seq imm : Nat) (r : Dbl) (k : Thread → Thread) :
    Mach × Micro :=
  match m.microSeq t c h target seq imm r with
  | .end_ w => (m.microEnd t h w k, .gone)
  | .trap code => ((m.updThr t k).seqTrap t code r c.lastEa, .gone)
  | .goto g yld =>
    let m := m.updThr t k
    if seq = 9 then m.microWait t { c with sh := h } yld
    else if yld && !(m.thr t).awaitsRsp && m.honoured t then (m.microSave t g, .gone)
    else
      let c := { c with sh := g, ran := if yld then 0 else c.ran + 1 }
      (m.putCtx t c, .run c)

/-- Whether a microword needs MR or sends another request, so that it waits for an outstanding response (R304). -/
def needsRsp (f : Nat → Nat) : Bool :=
  selOf (f 1) == 13 || selOf (f 2) == 13 || f 12 / 64 == 2 || f 7 / 128 == 1 || f 9 / 64 != 0 || f 8 / 64 == 2 || f 13 == 1 || f 13 == 2

/-- One microword (R304). A fault saves the context at this microword, with nothing of it performed (R307). -/
def Mach.microAct (m : Mach) (t : Tid) (c : Ctx) : Mach × Micro :=
  let core := m.core (Tid.coreNo t)
  let pc := c.sh.mpc.toNat
  let cust := decide (0x700 ≤ pc)
  let w := core.micro1 pc
  let f := nanoField (core.nano1 (fld w 17 9))
  let x := m.thr t
  let alu := f 0
  let op := alu / 8
  let wide := alu / 4 % 2 = 1
  let a := m.microSrc t c (f 11) (f 1) wide
  let b := m.microSrc t c (f 11) (f 2) wide
  let oc := microAlu op (Dbl.lo a) (Dbl.lo b) c.sh.mc (cellOp op)
  let od := microAlu op a b c.sh.mc (cellOp op)
  let r : Dbl := if wide then od.r else oc.r.setWidth 36
  let saved := fun (m : Mach) => m.microSave t c.sh
  let drained := if f 7 / 4 % 2 = 1 then m.flushMem t else m
  if cust ∧ (f 9 ≠ 0 ∨ f 7 / 8 % 2 = 1) then ((saved m).privTrap t c.syl.toNat, .gone)
  else if cust ∧ !x.helm ∧ x.guardedDest (f 3) r then ((saved m).privTrap t c.syl.toNat, .gone)
  else if f 7 / 4 % 2 = 1 ∧ !(drained.thr t).sb.isEmpty then (drained.putCtx t c, .hold)
  else
    let y := x.microDest (f 3) r wide
    match y.microStack c.sh.floor.toNat (f 4) (f 5) r with
    | some i => ((saved m).stackFault t i, .gone)
    | none =>
      let y := (y.microStacks (f 4) (f 5) r).microShadow (f 12)
      let h := if selOf (f 3) = 3 then c.sh.setMt (f 3) r else c.sh
      let ea := y.agen t (f 6) h.mt0 r
      let acted := drained.setThr t { y with sb := (drained.thr t).sb, loads := (drained.thr t).loads }
      let cmd := f 7 / 128
      match if cmd = 0 ∨ cmd = 3 then MicroMem.ok acted c else acted.microMem t c (f 7) ea with
      | .wait _ => ((m.flushMem t).putCtx t c, .hold)
      | .fault _ reason store a => ((saved m).dataFault t reason store (microWidth (f 7)) a, .gone)
      | .bad _ a => ((saved m).wordCheck t a (microWidth (f 7)).nonets, .gone)
      | .ok m2 c =>
        let (m2, c) := m2.microExt t c (f 9)
        let c := if f 8 / 64 = 2 ∨ f 13 = 1 ∨ f 13 = 2 then { c with error := false } else c
        let m2 := (m2.microTally t cust (f 8) r).microMult t (f 13) a b
        let nf := if wide then microFlg op od (m2.thr t).flg else microFlg op oc (m2.thr t).flg
        let m2 := if alu % 2 = 1 then m2.updThr t fun x => x.setFlg nf else m2
        let m2 := m2.microState t (f 10)
        let hf := if alu / 2 % 2 = 1 then
            { h with mz := r == 0, mn := if wide then od.r.msb else oc.r.msb, mc := ((if wide then od.c else oc.c).getD h.mc) }
          else h
        let m2 := m2.setThr t (m2.newMf x (m2.thr t))
        let m2 := if x.helm = (m2.thr t).helm then m2 else m2.flushPred t
        let target := fld (core.micro1 (microAddr cust (pc + 1)).toNat) 10 0
        m2.microAfter t c hf target (fld w 8 4) (fld w 3 0) r fun x => x.microK (f 10) r

/-- Whether a sequencing operation reads the following microword as its target. -/
def branches (seq : Nat) : Bool := (decide (2 ≤ seq) && decide (seq ≤ 5)) || seq == 7 || seq == 8

/-- A handshake of a routine (R298): its response lands; a word of bad parity ends it (R295); a microword that needs a response
waits for it, which costs no slot (R304). -/
def Mach.microStep (m : Mach) (t : Tid) (c : Ctx) : Mach × Micro :=
  let core := m.core (Tid.coreNo t)
  let pc := c.sh.mpc.toNat
  let w := core.micro1 pc
  if c.waits then m.microWait t c (bit w 0)
  else if core.fetchBad pc || (branches (fld w 8 4) && mget false core.badMicro (microAddr (decide (0x700 ≤ pc)) (pc + 1)).toNat) then
    (m.microParity t, .gone)
  else
    let (m, c) := m.microDeliver t c
    if (m.thr t).awaitsRsp && needsRsp (nanoField (core.nano1 (fld w 17 9))) then (m.putCtx t c, .hold) else m.microAct t c

/-- Microwords run until the routine ends, traps, waits, pauses because the core chooses another thread (R221, R224), is about to
run its thirty-third without a yield point, or the fuel is spent; it keeps its context in the last four cases. -/
def Mach.microRun : Nat → Mach → Tid → Ctx → Mach
  | 0, m, _, _ => m
  | n + 1, m, t, c =>
    if 32 ≤ c.ran then m
    else
      match m.microStep t c with
      | (m, .run c) => if m.outranked t then m else microRun n m t c
      | (m, .hold) => m
      | (m, .gone) => m

/-- The microwords of one command at most; MICRO_RESUME goes on from there. -/
def microFuel : Nat := 256

/-- A context taken for a routine (R224, R225), and the routine run; the thread stalls while the context is another's. -/
def Mach.startCtx (m : Mach) (t : Tid) (syl : Nonet) (h : Shadow) : Mach :=
  let c : Ctx := ⟨t, syl, h, 0, false, 0, false⟩
  if m.ctxBusy t then m.stall t .context
  else
    (m.updCore (Tid.coreNo t) fun k => if m.usesReserved t then { k with reserved := some c } else { k with main := some c }).microRun
      microFuel t c

/-- The syllable at a code address of the thread's image, as the keep store holds it. -/
def Mach.syllable (m : Mach) (t : Tid) : Nonet :=
  m.rd1 (.keep (imageBase (codeKind t) (m.slotOf t) + (m.thr t).p.toNat))

/-- A routine that a shadow holds taken up again through the resumption routine: a built-in operation at its element, any other in
its context (R264, R297, R308). -/
def Mach.resumeShadow (m : Mach) (t : Tid) (h : Shadow) : Mach :=
  let entry := if h.cust then 0 else h.mpc.toNat
  if (m.core (Tid.coreNo t)).fetchBad 0x0C0 then m.select t fun m => m.microParity t
  else
    match entry with
    | 0x080 => m.select t fun m => m.withSave t fun m => m
    | 0x100 => m.stmOp t
    | 0x140 => m.ldmOp t
    | 0x180 => m.tallyBlock t false
    | 0x1C0 => m.tallyBlock t true
    | 0x200 => m.shovOp t false
    | 0x240 => m.shovOp t true
    | 0x280 => m.unshovOp t
    | _ => m.select t fun m =>
      if m.ctxBusy t then m.stall t .context else (m.endProgress t).startCtx t (m.syllable t) h

/-- A routine that holds its context goes on: `trest` at its word, any other at its microword. -/
def Mach.resumeCtx (m : Mach) (t : Tid) (c : Ctx) : Mach :=
  let m := m.updCore (Tid.coreNo t) fun c => { c with last := BitVec.ofNat 3 (Tid.num t) }
  if !c.sh.cust && c.sh.mpc == tallyEntry true then m.tallyRun t false true c.sh else m.microRun microFuel t c

/-! ## Rows -/

/-- CUSTOMER_SLOT (R214, R311): a thread that holds a paused customer routine takes it up again. -/
def execCustomerSlot (t : Tid) (j : BitVec 5) (s : State) : Host.Outcome State Fault Refusal :=
  onThread t s fun m => m.select t fun m =>
    let x := m.thr t
    let k := Tid.coreNo t
    let d0 := m.ru .wlDt k (2 * j.toNat)
    let d1 := m.ru .wlDt k (2 * j.toNat + 1)
    let syl := 0x140 + j.toNat
    match x.shadow.filter fun h => h.cust with
    | some h => m.resumeShadow t h
    | none =>
      if !bit d0 17 then m.illegal t syl
      else if bit d0 16 && !x.helm then m.privTrap t syl
      else
        match x.stackErr (dEff (fld d1 5 3) (fld d1 2 0)) with
        | some i => m.stackFault t i
        | none =>
          let floor := x.bank.ds.length - fld d1 5 3
          (m.updThr t fun x => { x with np := none }).startCtx t (BitVec.ofNat 9 syl)
            ⟨0, 0, 0, 0, false, false, false, [], BitVec.ofNat 11 (0x700 + fld d0 7 0), BitVec.ofNat 3 (fld d1 2 0), true,
              BitVec.ofNat 5 floor⟩

/-- MICRO_RESUME (R224, R308): the routine of a shadow, or one that paused in its context. -/
def execMicroResume (t : Tid) (s : State) : Host.Outcome State Fault Refusal :=
  onThread t s fun m =>
    let x := m.thr t
    match m.ctxOf t with
    | some c => if m.coreRuns t && !x.halted && !x.faulted && !m.outranked t then m.resumeCtx t c else m
    | none =>
      match x.shadow with
      | some h => m.resumeShadow t h
      | none => m

/-- YIELD_WATCHDOG (R309): the thirty-third microword is not run; the context is discarded. -/
def execYieldWatchdog (t : Tid) (s : State) : Host.Outcome State Fault Refusal :=
  onThread t s fun m =>
    match m.ctxOf t with
    | some c => if 32 ≤ c.ran then ((m.freeCtx t).wubit .wlStat (Tid.coreNo t) 16 true).mcheck t 2 0 else m
    | none => m

end Sys2Proof.Machine
end

