-- ==== Sys2Proof/Machine/Boot.lean ====
section
/-!
DEFINITION. Start-up (R401 to R407), PORST_N, the end of a block reset (R439), and the commands that start-up waits for. The
D0 sequencer goes on at every step that these commands and the ticks of an idle queue leave free to go (entry 85).
-/
namespace Sys2Proof.Machine

/-! ## PWR_BOOT -/

/-- STEP. -/
def Mach.bootStep (m : Mach) : Nat := fld (m.r .pwrBoot) 17 14
/-- ERR. -/
def Mach.bootErr (m : Mach) : Nat := fld (m.r .pwrBoot) 13 11
/-- STEP set. -/
def Mach.setBoot (m : Mach) (n : Nat) : Mach := m.w .pwrBoot (setFld (m.r .pwrBoot) 17 14 n)
/-- Start-up stops with a code (R403): the fault pair shows FAULT by the PORST cause. -/
def Mach.bootFail (m : Mach) (e : Nat) : Mach := m.w .pwrBoot (setFld (m.r .pwrBoot) 13 11 e)

/-! ## Steps 3 to 7: the D0 sequencer -/

/-- Step 3: KEEP_REMAP from the directory copy that R406 chooses. -/
def Mach.bootDir (m : Mach) : Mach :=
  let n := (m.noteKeep (dirBase 0) 512).noteKeep (dirBase 1) 512
  match m.dirCopy with
  | none => n.bootFail 1
  | some c =>
    let n := (List.range 64).foldl (fun n k => n.w .keepRemap (m.dirCell c (128 + k) 0 &&& 0x207FF) k) n
    let used := ((List.range 64).filter fun k => bit (n.r .keepRemap k) 17).length
    (n.w .keepErr (setFld (n.r .keepErr) 6 0 (64 - used))).lcLoad.setBoot 4

/-- What the active microcode image holds for a core's stores (R333). -/
structure WlImage where
  micro : Map Cell
  nano : Map (BitVec 144)
  table : List Cell
  version : Cell

/-- The active microcode image; none if a word of it is uncorrectable. -/
def Mach.wlImage (m : Mach) : Option WlImage :=
  let base := imageBase 2 (m.actSlot 2)
  if m.keepBad base 2048 then none
  else some
    { micro := (List.range 2048).filterMap fun a =>
        let v := m.keepCell (base + 2 * a)
        if v = 0 then none else some (a, v),
      nano := (List.range 512).filterMap fun a =>
        let v := BitVec.ofNat 144 (pack (m.keepN (base + 0x1000 + 16 * a) 16))
        if v = 0 then none else some (a, v),
      table := (List.range 64).map fun i => m.keepCell (base + 0x3000 + 2 * i),
      version := m.keepCell (base + 0x3080) }

/-- The stores of a core loaded from an image. -/
def Mach.putWindlass (m : Mach) (w : WlImage) (k : Nat) : Mach :=
  let m := m.updCore k fun c => { c with micro := w.micro, nano := w.nano }
  let m := (w.table.zipIdx).foldl (fun m e => m.wlWrite1 .wlDt e.2 e.1 k) m
  m.wlWrite1 .wlVer 0 w.version k

/-- The stores of cores loaded from the active image; false if it cannot be read. -/
def Mach.loadWindlass (m : Mach) (ks : List Nat) : Mach × Bool :=
  let n := m.noteKeep (imageBase 2 (m.actSlot 2)) 2048
  match m.wlImage with
  | none => (n, false)
  | some w => (ks.foldl (fun m k => m.putWindlass w k) n, true)

/-- Step 5: both tollkeepers' stowage zero, TK-A's windlass loaded. -/
def Mach.bootTk (m : Mach) : Mach :=
  let m := m.zeroWhere fun a => decide (stowKey 272 0 ≤ a) && decide (a < stowKey 274 0)
  match m.loadWindlass [272] with
  | (m, true) => m.setBoot 5
  | (m, false) => (m.setBoot 5).bootFail 2

/-- Steps 6 and 9 for a kind: the active image, or the other slot made active, which a flag says; no flag if both are bad. -/
def Mach.bootImage (m : Mach) (kind : Nat) : Mach × Option Bool :=
  let a := m.actSlot kind
  let read := fun (m : Mach) (slot : Nat) => if kind = 2 then m else m.noteKeep (imageBase kind slot) ((m.imageLen kind slot + 7) / 8)
  let both := read (read m a) (1 - a)
  if m.imageOk kind a then (read m a, some false)
  else if m.imageOk kind (1 - a) then (both.flipAct kind, some true)
  else (both, none)

/-- Step 6: the firmware image. -/
def Mach.bootFirmware (m : Mach) : Mach :=
  match m.bootImage 0 with
  | (m, none) => (m.setBoot 6).bootFail 3
  | (m, some alt) => (m.wbit .pwrBoot 10 alt).setBoot 6

/-- Whether a session at FULL has TK-A halted at its reset entries (DBG_CTL.BOOTHALT, R439). -/
def Mach.bootHalts (m : Mach) : Bool := bit (m.r .dbgCtl) 14 && m.sessionLevel == 2

/-- Step 7: TK-A active, TK-B standby, every thread at its reset entry. -/
def Mach.bootRelease (m : Mach) : Mach :=
  let m := m.w .blkTkstat (setBit (setBit (m.r .blkTkstat) 17 false) 14 false)
  let m := ((m.resetTk 0 false).resetTk 1 false).holdTk 0 false
  let m := m.holdTk 1 false
  let m := if m.bootHalts then ((List.range 8).map (mkTid 31 0)).foldl (fun m t =>
      m.updThr t fun x => { x with halted := true, cause := 5, bySession := false }) m
    else m
  m.setBoot 7

/-! ## Steps 8 to 14: the firmware -/

/-- Whether the firmware carries start-up on: its tollkeeper runs and its first thread is not halted. -/
def Mach.bootRuns (m : Mach) : Bool := m.fwRuns && !(m.thr (mkTid 31 m.activeTk 0)).halted

/-- Registers by which the dictionary enables quays and host rings, which step 14 alone writes. -/
def enables (r : RegRef) : Bool := r.reg == .qiCtl || r.reg == .qeCtl || r.reg == .blkRctl
/-- Whether an entry holds such a register. -/
def OdEntry.enabling (e : OdEntry) : Bool :=
  match e.kind with
  | .regs l => l.any enables
  | .table t => (t.cells 0).any enables
  | _ => false

/-- SEQ of the valid record of a dump slot (R432). -/
def Mach.dumpSeqAt (m : Mach) (i : Nat) : Option Nat :=
  let base := (0x490 + 128 * i) * 0x1000
  let len := (m.keepDbl (base + 20)).toNat
  if m.keepN base 4 = [0x44, 0x55, 0x4D, 0x50] ∧ m.keepCell (base + 4) = 1 ∧ 16 ≤ len ∧ len ≤ 65536 ∧
      m.keepCell (base + 6) = (nonetCrc (m.keepN (base + 8) (8 * len - 8))).setWidth 18 then
    some (m.keepDbl (base + 8)).toNat
  else none

/-- LASTSEQ and NEXT of the dump ring from its valid records (R431). -/
def Mach.bootDumps (m : Mach) : Mach :=
  (List.range 4).foldl (fun m i =>
    match m.dumpSeqAt i with
    | some n =>
      if m.odVarNat 0x500707 0 < n then (m.fwVar 0x500707 5 (beOctets n 5)).fwVar 0x500705 2 (beOctets ((i + 1) % 4) 2) else m
    | none => m) m

/-- Step 8: the journal, TK-B's windlass, the watchdogs, and the lock of R453. -/
def Mach.bootJournal (m : Mach) : Mach :=
  let m := m.replay fun e => !e.enabling
  let m := (m.loadWindlass [273]).1.bootDumps
  let m := ((m.tkService 0).tkService 1).bwdWrite (setBit (m.r .pwrBwd) 17 true)
  let m := if m.d0.lcState = 3 then m.wbit .keepWp 17 true else m
  m.setBoot 8

/-- Step 9: the packet program and the microcode. -/
def Mach.bootImages (m : Mach) : Mach :=
  let m := m.setBoot 9
  match m.bootImage 1 with
  | (m, none) => m.bootFail 4
  | (m, some _) =>
    match m.bootImage 2 with
    | (m, none) => m.bootFail 5
    | (m, some _) => m

/-- Step 10: D3, D4, D5 and every lock. -/
def Mach.bootPower (m : Mach) : Mach :=
  ([3, 4, 5] ++ (List.range 17).map (· + 7)).foldl Mach.pwrRequest (m.setBoot 10)

/-- Whether a list of domains is on. -/
def Mach.allOn (m : Mach) (ds : List Nat) : Bool := ds.all m.isOn

/-- The bank that a lock's bank-repair record names. -/
def Mach.bankRecord (m : Mach) (p : Nat) : Nat :=
  match m.dirCopy with
  | some c => fld (m.dirCell c (104 + p) 0) 4 0
  | none => 31

/-- A new retirement recorded by the firmware, unless KEEP_WP.DIR forbids it (R326, R466). -/
def Mach.recordBank (m : Mach) (p b : Nat) : Mach :=
  match m.dirCopy with
  | none => m
  | some c =>
    if bit (m.r .keepWp) 6 then m.count 0x7B00 8
    else m.dirWrite (104 + p) (unpack b 2 ++ unpack (m.dirCell c (104 + p) 1).toNat 2 ++ [0, 0, 0, 0])

/-- Step 11, first part: the recorded bank retired and the march of a HELD lock begun (R324, R430). -/
def Mach.bootMarch (m : Mach) (p : Nat) : Mach :=
  if (m.lock p).state ≠ .held then m
  else
    let b := m.bankRecord p
    let m := if b ≤ 16 ∧ !(m.retired p b || (b == 16 && (m.lock p).spareRetired)) then m.retireBank p b else m
    m.marchWrite p (if m.d0.resuming then 0x2D010 else 0x35000)

/-- Step 11 begun. -/
def Mach.bootLocks (m : Mach) : Mach := ((List.range 17).foldl Mach.bootMarch m.graphLoad).setBoot 11

/-- A lock marked UNFIT and recorded. -/
def Mach.bootUnfit (m : Mach) (p : Nat) : Mach :=
  let m := m.plStateWrite p 0x1000
  if bit (m.r .keepWp) 6 then m.count 0x7B00 8 else m.putUnfit p true

/-- Step 11, second part, for one lock: its windlass, or UNFIT. -/
def Mach.bootLoad (w : Option WlImage) (m : Mach) (p : Nat) : Mach :=
  if (m.lock p).state ≠ .held then m
  else
    match w with
    | some w =>
      if (m.lock p).stowageFailed then m.bootUnfit p
      else ((List.range 16).map (16 * p + ·)).foldl (fun m k => m.putWindlass w k) m
    | none => m.bootUnfit p

/-- Whether a lock is out of service: UNFIT, or recorded so (R406). -/
def Mach.unfitNow (m : Mach) (p : Nat) : Bool := (m.lock p).state == .unfit || m.unfitRecord p

/-- Step 11's end and step 12's beginning: windlass, configuration, and the spare lock admitted. -/
def Mach.bootSpare (m : Mach) : Mach :=
  let m := (List.range 17).foldl (Mach.bootLoad m.wlImage) m
  let m := m.loadEntries.replay fun e => !e.enabling
  let m := if m.unfitNow m.spare then m else m.plStateWrite m.spare 0x4000
  m.setBoot 12

/-- The first logical lock that an unfit lock serves. -/
def Mach.unfitServed (m : Mach) : Option Nat := (List.range 16).find? fun n => m.unfitNow (m.plockOf n)

/-- Step 13: every mapped lock that is HELD and fit is admitted. -/
def Mach.bootAdmit (m : Mach) : Mach :=
  ((List.range 16).foldl (fun m n =>
    let p := m.plockOf n
    if (m.lock p).state = .held ∧ !m.unfitRecord p then m.plStateWrite p 0x4000 else m) m).setBoot 13

/-- Step 12's remap (R17), once the spare is READY; none while it is awaited. -/
def Mach.bootRemap (m : Mach) : Option Mach :=
  match m.unfitServed with
  | none => some m.bootAdmit
  | some n =>
    let s := (m.lock m.spare).state
    if s ≠ .spare then some m.bootAdmit
    else if m.spareReady then some (m.exchange n).bootAdmit
    else none

/-- Step 14: the quays and rings that the dictionary names; the PORST cause cleared; an isolation ended. -/
def Mach.bootQuays (m : Mach) : Mach :=
  let m := m.replay OdEntry.enabling
  let m := m.wbit .blkFlt 1 false
  let m := if m.isoState = 3 then m.w .pwrIso 0 else m
  { m with d0 := { m.d0 with resuming := false } }.setBoot 14

/-! ## The recovery path of R404 -/

/-- The ingress quays that step 14 would enable, from the journal. -/
def Mach.bootIngress (m : Mach) : List Nat :=
  let n := m.replay fun e =>
    match e.kind with
    | .regs l => l.any fun r => r.reg == .qiCtl
    | _ => false
  (List.range 16).filter fun q => bit (n.r .qiCtl q) 17

/-- Whether an entry is one of L0's hold-pool registers. -/
def Mach.poolEntry (m : Mach) (e : OdEntry) : Bool :=
  match e.kind with
  | .regs l => l.any fun r => r.unit == m.plockOf 0 && (r.reg == .lkHoldbase || r.reg == .lkHoldcnt || r.reg == .lkManbase)
  | _ => false

/-- One quay of the recovery path. -/
def Mach.recoverQuay (m : Mach) (q : Nat) : Mach :=
  let m := m.w .qiMap 0 q
  let eq := m.odVarNat (0x102101 + q) (0x60 + q) % 16
  (m.qiCtlWrite q (setBit (m.r .qiCtl q) 17 true)).qeCtlWrite eq (setBit (m.r .qeCtl eq) 17 true)

/-- The next step of the recovery path, or none. -/
def Mach.recover (m : Mach) : Option Mach :=
  let qs := m.bootIngress
  let k := m.lock 0
  if !m.allOn [3, 4, 7] then
    let waits := [3, 4, 7].any fun d => m.power d == .off || m.power d == .retention
    if waits then some ([3, 4, 7].foldl Mach.pwrRequest m) else none
  else if k.march.isSome then none
  else if !bit (m.ru .plMstat 0) 16 then some (m.marchWrite 0 0x35000)
  else if (List.range 16).any fun q => bit (m.r .qiCtl q) 17 then none
  else if qs.isEmpty then none
  else
    let m := m.replay m.poolEntry
    some (qs.foldl Mach.recoverQuay m)

/-- Start-up resumed at step 9 after an exchange: the quays disabled, the queued LPP frames answered or released. -/
def Mach.bootResume (m : Mach) : Mach :=
  let m := (List.range 16).foldl (fun m q =>
    (m.qiCtlWrite q (setBit (m.r .qiCtl q) 17 false)).qeCtlWrite q (setBit (m.r .qeCtl q) 17 false &&& ~~~(0x4000#18))) m
  (m.dict.lppQueue.foldl (fun m mf => m.lppTake mf fun _ => true) m).bootFail 0

/-- Step 9 after a stop. -/
def Mach.bootStopped (m : Mach) : Option Mach :=
  if m.imageOk 1 (m.actSlot 1) && m.imageOk 2 (m.actSlot 2) then some m.bootResume else m.recover

/-! ## One step after the other -/

/-- What the D0 sequencer does next, or none while it waits. -/
def Mach.bootD0 (m : Mach) : Option Mach :=
  match m.bootStep with
  | 2 => some ((m.setBoot 3).pwrRequest 6)
  | 3 => if m.isOn 6 then some m.bootDir else none
  | 4 =>
    if m.d0.lcState = 5 then none
    else if m.allOn [1, 2] then some m.bootTk
    else if m.power 1 = .off ∨ m.power 2 = .off then some ((m.pwrRequest 1).pwrRequest 2)
    else none
  | 5 => some m.bootFirmware
  | 6 => some m.bootRelease
  | _ => none

/-- What the firmware does next, or none while it waits. -/
def Mach.bootFw (m : Mach) : Option Mach :=
  match m.bootStep with
  | 7 => some m.bootJournal
  | 8 => some m.bootImages
  | 9 => if m.bootErr = 0 then some m.bootPower else m.bootStopped
  | 10 => if m.allOn ([3, 4, 5] ++ (List.range 17).map (· + 7)) then some m.bootLocks else none
  | 11 => if (List.range 17).all fun p => (m.lock p).march.isNone then some m.bootSpare else none
  | 12 => if (m.lock m.spare).state = .admitting then none else m.bootRemap
  | 13 => if (List.range 17).any fun p => (m.lock p).state == .admitting then none else some m.bootQuays
  | _ => none

/-- The next piece of start-up, or none. -/
def Mach.bootOnce (m : Mach) : Option Mach :=
  if m.d0.porst ∨ m.d0.lineLow then none
  else if m.bootStep < 7 then (if m.bootErr = 0 then m.bootD0 else none)
  else if m.bootRuns then m.bootFw
  else none

/-- Start-up carried on as far as nothing is awaited. -/
def Mach.bootGoN (m : Mach) : Nat → Mach
  | 0 => m
  | n + 1 =>
    match m.bootOnce with
    | none => m
    | some x => x.bootGoN n

/-- Start-up carried on. -/
def Mach.bootGo (m : Mach) : Mach := m.bootGoN 16

/-! ## The idle block -/

/-- The firmware of a restarted tollkeeper has its state again: its restart is taken to reach step 8 at the next idle tick (R426,
DESIGN CHOICE entry 76). -/
def Mach.fwRebuilds (m : Mach) : Mach :=
  if m.coreRuns (mkTid 31 m.activeTk 0) then { m with dict := { m.dict with fwDown := false } } else m

/-- The oldest response leaves the target port: the host is taken to accept it at the next idle tick (DESIGN CHOICE entry 80). -/
def Mach.rspLeaves (m : Mach) : Mach := { m with host := { m.host with rsps := m.host.rsps.drop 1 } }

/-- What the block does while no command waits (entry 35): one REFCLK cycle, which frozen watchdogs do not count, the event waits that it ends, a response that the host
takes, the firmware's requests and dumps, and start-up. With PORST_N low nothing happens. -/
def Mach.idle (m : Mach) : Mach := if m.d0.porst then m else m.tick.holdFrozen.wakeAll.rspLeaves.fwRebuilds.odServeAll.serveDumps.bootGo

/-! ## Rows -/

/-- PORST_N low (R367): everything but the keep store at its reset state. -/
def Mach.porstLow (m : Mach) : Mach :=
  { Mach.reset with mem := m.mem.filter fun e => decide (0x40000000 ≤ e.1),
                    ecc := m.ecc.filter fun e => decide (0x8000000 ≤ e.1), rdata := m.rdata, free := m.free }

/-- PORST. -/
def execPorst (s : State) : Host.Outcome State Fault Refusal := done s s.m.porstLow

/-- PORST_RELEASE (R402): steps 1 and 2, and what follows at once. -/
def execPorstRelease (s : State) : Host.Outcome State Fault Refusal :=
  let m := s.m
  done s (if !m.d0.porst then m
    else ({ m with d0 := { m.d0 with porst := false } }.fltCause 1).setBoot 2 |>.bootGo)

/-- PWRUP_GNT_FALL (R368): the handshake ends, and start-up goes on with a domain that it waited for. -/
def execPwrupGntFall (s : State) : Host.Outcome State Fault Refusal := done s s.m.gntFall.bootGo

/-- ADMIT_COMPLETE (R400). -/
def execAdmitComplete (p : PLock) (s : State) : Host.Outcome State Fault Refusal := done s (s.m.admitStep p.val).bootGo

/-- XCHG_CHECK_DONE (R420); after a stop at step 9 start-up resumes (R403). -/
def execXchgCheckDone (s : State) : Host.Outcome State Fault Refusal := done s s.m.xchgCheck.bootGo

/-- A march test ends; the firmware records a bank that it retired (R325, R326). -/
def Mach.marchRow (m : Mach) (p : Nat) (fails : List MarchFail) : Mach :=
  let n := m.marchTest p fails
  let new := (List.range 17).filter fun b =>
    if b = 16 then (n.lock p).spareRetired && !(m.lock p).spareRetired else n.retired p b && !m.retired p b
  if n.fwRuns then new.foldl (fun n b => n.recordBank p b) n else n

/-- MARCH_TEST_DONE. -/
def execMarchTestDone (p : PLock) (fails : List MarchFail) (s : State) : Host.Outcome State Fault Refusal :=
  done s (s.m.marchRow p.val fails).bootGo

/-- BLOCK_RESET_RELEASE (R439): start-up from step 3, D0 kept. -/
def execBlockResetRelease (s : State) : Host.Outcome State Fault Refusal :=
  let m := s.m
  done s (if !m.d0.lineLow ∨ m.d0.porst then m
    else ({ m with d0 := { m.d0 with lineLow := false } }.w .pwrBoot 0).setBoot 2 |>.bootGo)

/-- The next SERVING logical lock after the one that BLK_EVAC names. -/
def Mach.nextTest (m : Mach) : Option Nat :=
  let l := fld (m.r .blkEvac) 3 0
  ((List.range 16).map fun j => (l + 1 + j) % 16).find? fun n => (m.lock (m.plockOf n)).state == .serving

/-- PERIODIC_TEST (R417): the firmware orders the evacuation of the next SERVING lock; 0 disables the test. -/
def execPeriodicTest (s : State) : Host.Outcome State Fault Refusal :=
  let m := s.m
  done s (if !m.fwRuns ∨ m.odVarNat 0x500304 24 = 0 then m
    else
      match m.nextTest with
      | none => m
      | some n => m.evacWrite (BitVec.ofNat 18 (0x20000 + b2n (bit (m.r .blkEvac) 12) * 0x1000 + n)))

end Sys2Proof.Machine
end

