-- ==== Sys2Proof/Machine/Arith.lean ====
section
/-!
DEFINITION. Arithmetic and logic on cells (R187 to R189) and on doubles (R190).
-/
namespace Sys2Proof.Machine

/-- An operation that takes n cells and leaves one result with its flags. -/
def Mach.alu (m : Mach) (t : Tid) (n : Nat) (f : Bank → AluOut 18) : Mach :=
  m.onBank t (dEff n 1) fun b => { (b.pop n).push (f b).r with flg := setNzcv b.flg (f b) }

/-- An operation that takes n cells and leaves one double with its flags. -/
def Mach.aluD (m : Mach) (t : Tid) (n : Nat) (f : Bank → AluOut 36) : Mach :=
  m.onBank t (dEff n 2) fun b => { (b.pop n).pushD (f b).r with flg := setNzcv b.flg (f b) }

/-- FLG.C of a bank. -/
def Bank.c (b : Bank) : Bool := bit b.flg 2

/-- ADD (R187). -/
def execAdd (t : Tid) (s : State) : Host.Outcome State Fault Refusal :=
  onThread t s fun m => m.alu t 2 fun b => aluAdd (b.at_ 1) (b.at_ 0) false
/-- SUB (R187). -/
def execSub (t : Tid) (s : State) : Host.Outcome State Fault Refusal :=
  onThread t s fun m => m.alu t 2 fun b => aluSub (b.at_ 1) (b.at_ 0) false
/-- ADDC (R187). -/
def execAddc (t : Tid) (s : State) : Host.Outcome State Fault Refusal :=
  onThread t s fun m => m.alu t 2 fun b => aluAdd (b.at_ 1) (b.at_ 0) b.c
/-- SUBC (R187). -/
def execSubc (t : Tid) (s : State) : Host.Outcome State Fault Refusal :=
  onThread t s fun m => m.alu t 2 fun b => aluSub (b.at_ 1) (b.at_ 0) b.c
/-- NEGATE (R187). -/
def execNegate (t : Tid) (s : State) : Host.Outcome State Fault Refusal :=
  onThread t s fun m => m.alu t 1 fun b => aluSub 0 (b.at_ 0) false
/-- CMP (R187): both cells are taken, nothing is kept. -/
def execCmp (t : Tid) (s : State) : Host.Outcome State Fault Refusal :=
  onThread t s fun m => m.onBank t (dEff 2 0) fun b =>
    { b.pop 2 with flg := setNzcv b.flg (aluSub (b.at_ 1) (b.at_ 0) false) }
/-- INC (R187). -/
def execInc (t : Tid) (s : State) : Host.Outcome State Fault Refusal :=
  onThread t s fun m => m.alu t 1 fun b => aluAdd (b.at_ 0) 1 false
/-- DEC (R187). -/
def execDec (t : Tid) (s : State) : Host.Outcome State Fault Refusal :=
  onThread t s fun m => m.alu t 1 fun b => aluSub (b.at_ 0) 1 false
/-- AND (R187). -/
def execAndOp (t : Tid) (s : State) : Host.Outcome State Fault Refusal :=
  onThread t s fun m => m.alu t 2 fun b => aluNz (b.at_ 1 &&& b.at_ 0)
/-- OR (R187). -/
def execOrOp (t : Tid) (s : State) : Host.Outcome State Fault Refusal :=
  onThread t s fun m => m.alu t 2 fun b => aluNz (b.at_ 1 ||| b.at_ 0)
/-- XOR (R187). -/
def execXorOp (t : Tid) (s : State) : Host.Outcome State Fault Refusal :=
  onThread t s fun m => m.alu t 2 fun b => aluNz (b.at_ 1 ^^^ b.at_ 0)
/-- NOT (R187). -/
def execNotOp (t : Tid) (s : State) : Host.Outcome State Fault Refusal :=
  onThread t s fun m => m.alu t 1 fun b => aluNz (~~~ b.at_ 0)
/-- SHL (R188): the count is bits 4:0 of its cell. -/
def execShl (t : Tid) (s : State) : Host.Outcome State Fault Refusal :=
  onThread t s fun m => m.alu t 2 fun b => aluShl (b.at_ 1) (fld (b.at_ 0) 4 0)
/-- SHR (R188). -/
def execShr (t : Tid) (s : State) : Host.Outcome State Fault Refusal :=
  onThread t s fun m => m.alu t 2 fun b => aluShr (b.at_ 1) (fld (b.at_ 0) 4 0)
/-- SAR (R188). -/
def execSar (t : Tid) (s : State) : Host.Outcome State Fault Refusal :=
  onThread t s fun m => m.alu t 2 fun b => aluSar (b.at_ 1) (fld (b.at_ 0) 4 0)
/-- ROL (R188). -/
def execRol (t : Tid) (s : State) : Host.Outcome State Fault Refusal :=
  onThread t s fun m => m.alu t 2 fun b => aluRol (b.at_ 1) (fld (b.at_ 0) 4 0)
/-- TST (R187). -/
def execTst (t : Tid) (s : State) : Host.Outcome State Fault Refusal :=
  onThread t s fun m => m.alu t 1 fun b => aluNz (b.at_ 0)
/-- ABS (R188). -/
def execAbsOp (t : Tid) (s : State) : Host.Outcome State Fault Refusal :=
  onThread t s fun m => m.alu t 1 fun b => aluAbs (b.at_ 0)
/-- MIN (R187). -/
def execMinOp (t : Tid) (s : State) : Host.Outcome State Fault Refusal :=
  onThread t s fun m => m.alu t 2 fun b => aluNz (aluMin (b.at_ 1) (b.at_ 0))
/-- MAX (R187). -/
def execMaxOp (t : Tid) (s : State) : Host.Outcome State Fault Refusal :=
  onThread t s fun m => m.alu t 2 fun b => aluNz (aluMax (b.at_ 1) (b.at_ 0))
/-- MUL (R189). -/
def execMul (t : Tid) (s : State) : Host.Outcome State Fault Refusal :=
  onThread t s fun m => m.aluD t 2 fun b => aluNz ((b.at_ 1).setWidth 36 * (b.at_ 0).setWidth 36)
/-- MULS (R189). -/
def execMuls (t : Tid) (s : State) : Host.Outcome State Fault Refusal :=
  onThread t s fun m => m.aluD t 2 fun b => aluNz ((b.at_ 1).signExtend 36 * (b.at_ 0).signExtend 36)

/-- DSTEP (R189): v on top, the high cell of dq below it, its low cell third. -/
def execDstep (t : Tid) (s : State) : Host.Outcome State Fault Refusal :=
  onThread t s fun m => m.onBank t (dEff 3 3) fun b =>
    let r := dstepOf (b.at_ 1) (b.at_ 2) (b.at_ 0)
    { b with ds := b.at_ 0 :: r.1 :: r.2.1 :: b.ds.drop 3, flg := setBit (setBit b.flg 2 r.2.2.1) 1 r.2.2.2 }

/-- An operation that takes one cell, leaves a count and writes Z alone. -/
def Mach.countOp (m : Mach) (t : Tid) (f : Cell → Nat) : Mach :=
  m.onBank t (dEff 1 1) fun b =>
    let r := BitVec.ofNat 18 (f (b.at_ 0))
    { (b.pop 1).push r with flg := setBit b.flg 3 (r == 0) }

/-- CLZ (R187). -/
def execClz (t : Tid) (s : State) : Host.Outcome State Fault Refusal := onThread t s fun m => m.countOp t clzOf
/-- POPC (R187). -/
def execPopc (t : Tid) (s : State) : Host.Outcome State Fault Refusal := onThread t s fun m => m.countOp t popOf
/-- NSWAP (R187). -/
def execNswap (t : Tid) (s : State) : Host.Outcome State Fault Refusal :=
  onThread t s fun m => m.alu t 1 fun b => aluNz (nswapOf (b.at_ 0))
/-- BE16_FROM (R187). -/
def execBe16From (t : Tid) (s : State) : Host.Outcome State Fault Refusal :=
  onThread t s fun m => m.alu t 1 fun b => aluNz (be16FromOf (b.at_ 0))
/-- TO_BE16 (R187). -/
def execToBe16 (t : Tid) (s : State) : Host.Outcome State Fault Refusal :=
  onThread t s fun m => m.alu t 1 fun b => aluNz (toBe16Of (b.at_ 0))

/-! ## Doubles (R190) -/

/-- ADD_D (R190). -/
def execAddD (t : Tid) (s : State) : Host.Outcome State Fault Refusal :=
  onThread t s fun m => m.aluD t 4 fun b => aluAdd (b.dblAt 2) (b.dblAt 0) false
/-- SUB_D (R190). -/
def execSubD (t : Tid) (s : State) : Host.Outcome State Fault Refusal :=
  onThread t s fun m => m.aluD t 4 fun b => aluSub (b.dblAt 2) (b.dblAt 0) false
/-- NEGATE_D (R190). -/
def execNegateD (t : Tid) (s : State) : Host.Outcome State Fault Refusal :=
  onThread t s fun m => m.aluD t 2 fun b => aluSub 0 (b.dblAt 0) false
/-- CMP_D (R190). -/
def execCmpD (t : Tid) (s : State) : Host.Outcome State Fault Refusal :=
  onThread t s fun m => m.onBank t (dEff 4 0) fun b =>
    { b.pop 4 with flg := setNzcv b.flg (aluSub (b.dblAt 2) (b.dblAt 0) false) }
/-- SHL_D (R190): the count is bits 5:0 of its cell. -/
def execShlD (t : Tid) (s : State) : Host.Outcome State Fault Refusal :=
  onThread t s fun m => m.aluD t 3 fun b => aluShl (b.dblAt 1) (fld (b.at_ 0) 5 0)
/-- SHR_D (R190). -/
def execShrD (t : Tid) (s : State) : Host.Outcome State Fault Refusal :=
  onThread t s fun m => m.aluD t 3 fun b => aluShr (b.dblAt 1) (fld (b.at_ 0) 5 0)
/-- SAR_D (R190). -/
def execSarD (t : Tid) (s : State) : Host.Outcome State Fault Refusal :=
  onThread t s fun m => m.aluD t 3 fun b => aluSar (b.dblAt 1) (fld (b.at_ 0) 5 0)
/-- S_TO_D (R190). -/
def execSToD (t : Tid) (s : State) : Host.Outcome State Fault Refusal :=
  onThread t s fun m => m.onBank t (dEff 1 2) fun b => (b.pop 1).pushD ((b.at_ 0).signExtend 36)
/-- U_TO_D (R190). -/
def execUToD (t : Tid) (s : State) : Host.Outcome State Fault Refusal :=
  onThread t s fun m => m.onBank t (dEff 1 2) fun b => (b.pop 1).pushD ((b.at_ 0).setWidth 36)

end Sys2Proof.Machine
end

