-- ==== Sys2Proof/Machine/Egress.lean ====
section
/-!
DEFINITION. The egress quays (R61 to R63, R347, R349, R481): a selected frame's chain is walked into the staging buffer,
edited and sent beat by beat; holds and slot are returned as R59 gives.
-/
namespace Sys2Proof.Machine

/-- The slot of a frame's manifest freed. -/
def Mach.freeSlot (m : Mach) (f : Shipped) : Mach :=
  match m.manifest f.mf.toNat with
  | some (l, s) => m.setSlot l s false
  | none => m

/-- The frame in progress on a quay replaced. -/
def Mach.setCur (m : Mach) (q : Nat) (c : Option Sending) : Mach := m.updEq q fun e => { e with cur := c }

/-- The walk goes to an address: a pool hold not yet visited, or the chain's end (R481). -/
def Mach.enterHold (m : Mach) (c : Sending) (a : Nat) : Sending :=
  match m.holdIndex c.f.lock.val a with
  | none => { c with hold := none, count := 0 }
  | some i =>
    if c.visited.contains i then { c with hold := none, count := 0 }
    else
      let h := (m.hold1 i a).1
      { c with hold := some i, addr := h.addr, count := h.count, visited := c.visited ++ [i], err := c.err || m.badN none a 8 }

/-- The walk leaves its hold, which goes back to the pool (R59). -/
def Mach.leave (m : Mach) (c : Sending) (i : Nat) : Mach × Nat :=
  let l := c.f.lock.val
  let a := m.holdAddr l i
  ((m.noteN none a 8).setHold l i false, (m.hold1 i a).2)

/-- Holds of the chain from an address on are returned unsent (R62). -/
def Mach.returnRest (m : Mach) (c : Sending) (a : Nat) : Mach :=
  let l := c.f.lock.val
  m.freeChain l ((m.chain l (m.holdCount l) a c.visited).map Link1.idx)

/-- One move of the staging. -/
def Mach.stage1 (m : Mach) (q : Nat) (c : Sending) : Mach :=
  match c.hold with
  | none => (if c.left = 0 then m else m.count 0x7300 5).setCur q (some { c with ended := true, err := c.err || c.left != 0 })
  | some i =>
    if c.left = 0 then
      let r := m.leave c i
      (r.1.returnRest c r.2).setCur q (some { c with ended := true, hold := none })
    else if c.count = 0 then
      let r := m.leave c i
      r.1.setCur q (some (r.1.enterHold c r.2))
    else
      let k := min c.count (min c.left (1024 - c.staged.length))
      let new := edit (fld c.f.word 10 9) (m.rdN none c.addr k)
      let err := c.err || m.badN none c.addr k
      (m.noteN none c.addr k).setCur q (some { c with addr := c.addr + k, count := c.count - k, left := c.left - k,
                                                      staged := c.staged ++ new, err := err })

/-- The staging runs on until 1,024 nonets are staged or the frame's last is (R61, R347). -/
def Mach.stage (m : Mach) (q : Nat) : Nat → Mach
  | 0 => m
  | n + 1 =>
    match (m.eq q).cur with
    | none => m
    | some c =>
      if c.ended then m
      else if 1024 ≤ c.staged.length ∧ c.count ≠ 0 ∧ c.left ≠ 0 then m
      else (m.stage1 q c).stage q n

/-- Moves that a staging can make at most: two for each hold, and one for each of at most 16 refills. -/
def Mach.stageFuel (m : Mach) (q : Nat) : Nat :=
  match (m.eq q).cur with
  | none => 0
  | some c => 3 * m.holdCount c.f.lock.val + 20

/-- The beat that a quay presents of a frame in progress (R344, R347). -/
def Sending.beat (c : Sending) : OutBeat :=
  let n := min 16 c.staged.length
  let eof := c.ended && decide (c.staged.length ≤ 16)
  let sof := c.beats == 0
  let data := ((c.staged.take n).zipIdx).foldl (fun (d : BitVec 144) (e : Nonet × Nat) => d ||| (e.1.setWidth 144 <<< (9 * e.2))) 0
  { valid := true, data := data, par := parityOf data, sof := sof, eof := eof,
    cnt := if eof then BitVec.ofNat 5 n else 0, kind := if sof then c.f.kind else 0, late := sof && c.f.late,
    tsreq := sof && bit c.f.word 8, tstag := if sof then BitVec.ofNat 7 (fld c.f.word 6 0) else 0, err := eof && c.err }

/-- The output pins follow the frame in progress. -/
def Mach.present (m : Mach) (q : Nat) : Mach :=
  m.updEq q fun e => { e with out := match e.cur with
    | some c => c.beat
    | none => .idle }

/-- EN off: at once without a frame in progress, else at its EOF (section QE_CTLn). -/
def Mach.egressOff (m : Mach) (q : Nat) : Mach :=
  ((m.wbit .qeCtl 17 false q).updEq q fun e => { e with enOff := false }).detach q

/-- The frame in progress leaves the quay. -/
def Mach.endSending (m : Mach) (q : Nat) : Mach :=
  let m := ((m.accrue q).setCur q none).present q
  if (m.eq q).enOff then m.egressOff q else m

/-- A selected frame starts: its staging runs; after edit it needs 14 octets (R62). -/
def Mach.startFrame (m : Mach) (q : Nat) (f : Shipped) : Mach :=
  let c : Sending := ⟨f, none, 0, 0, f.len, [], [], false, false, 0, m.now⟩
  let m := m.setCur q (some (m.enterHold c (m.mHead f.mf.toNat)))
  let m := m.stage q (m.stageFuel q)
  match (m.eq q).cur with
  | none => m
  | some c =>
    if c.ended ∧ c.staged.length < 14 then ((m.freeSlot f).setCur q none).count 0x7300 6 else m.present q

/-- SLUICE_SELECT (R100): the quay is attached and free, and a queue is eligible. -/
def Mach.sluiceSelect (m : Mach) (q : Nat) : Mach :=
  if !bit (m.r .qeCtl q) 17 ∨ (m.eq q).cur.isSome then m
  else
    let m := m.accrue q
    let m := (List.range 8).foldl (fun m j => m.dropLong q j ((m.shape q).depth j)) m
    match m.chooseQueue q with
    | none => m
    | some (j, f) => (m.updShape q fun s => s.pop j).startFrame q f

/-- SLUICE_SELECT. -/
def execSluiceSelect (q : Quay) (s : State) : Host.Outcome State Fault Refusal := done s (s.m.sluiceSelect q.val)

/-- The presented beat transfers (R347). -/
def Mach.egressBeat (m : Mach) (q : Nat) : Mach :=
  match (m.eq q).cur with
  | none => m
  | some c =>
    if c.beat.eof then (m.freeSlot c.f).endSending q
    else
      let m := m.setCur q (some { c with staged := c.staged.drop 16, beats := c.beats + 1, since := m.now })
      (m.stage q (m.stageFuel q)).present q

/-- EGRESS_BEAT. -/
def execEgressBeat (q : Quay) (s : State) : Host.Outcome State Fault Refusal := done s (s.m.egressBeat q.val)

/-- No beat transferred for 2^STALL µs (R349): the frame is abandoned, its holds and slot returned, EN cleared. -/
def Mach.egressStall (m : Mach) (q : Nat) : Mach :=
  match (m.eq q).cur with
  | none => m
  | some c =>
    let n := fld (m.r .qeCtl q) 3 0
    if n = 0 ∨ !m.past c.since (1000 * 2 ^ n) then m
    else
      let m := match c.hold with
        | some i => let r := m.leave c i; r.1.returnRest c r.2
        | none => m
      let m := (m.freeSlot c.f).count 0x7300 7
      let m := m.wbit .qeCtl 14 true q
      ((((m.accrue q).setCur q none).present q)).egressOff q

/-- EGRESS_STALL. -/
def execEgressStall (q : Quay) (s : State) : Host.Outcome State Fault Refusal := done s (s.m.egressStall q.val)

end Sys2Proof.Machine
end

