-- ==== Sys2Proof/Machine/Stack.lean ====
section
/-!
DEFINITION. Stack, literals and the return stack (R180, R186), and the address registers (R191).
-/
namespace Sys2Proof.Machine

/-- NOP (R186). -/
def execNop (t : Tid) (s : State) : Host.Outcome State Fault Refusal := onThread t s fun m => m.plain t (dEff 0 0) 1 id
/-- DROP (R186). -/
def execDrop (t : Tid) (s : State) : Host.Outcome State Fault Refusal := onThread t s fun m => m.cells t 1 0 fun _ => []
/-- DUP (R186). -/
def execDup (t : Tid) (s : State) : Host.Outcome State Fault Refusal :=
  onThread t s fun m => m.cells t 1 2 fun b => [b.at_ 0, b.at_ 0]
/-- SWAP (R186). -/
def execSwap (t : Tid) (s : State) : Host.Outcome State Fault Refusal :=
  onThread t s fun m => m.cells t 2 2 fun b => [b.at_ 1, b.at_ 0]
/-- OVER (R186). -/
def execOver (t : Tid) (s : State) : Host.Outcome State Fault Refusal :=
  onThread t s fun m => m.cells t 2 3 fun b => [b.at_ 1, b.at_ 0, b.at_ 1]
/-- ROT (R186). -/
def execRot (t : Tid) (s : State) : Host.Outcome State Fault Refusal :=
  onThread t s fun m => m.cells t 3 3 fun b => [b.at_ 2, b.at_ 0, b.at_ 1]
/-- MINUS_ROT (R186). -/
def execMinusRot (t : Tid) (s : State) : Host.Outcome State Fault Refusal :=
  onThread t s fun m => m.cells t 3 3 fun b => [b.at_ 1, b.at_ 2, b.at_ 0]
/-- NIP (R186). -/
def execNip (t : Tid) (s : State) : Host.Outcome State Fault Refusal :=
  onThread t s fun m => m.cells t 2 1 fun b => [b.at_ 0]
/-- TUCK (R186). -/
def execTuck (t : Tid) (s : State) : Host.Outcome State Fault Refusal :=
  onThread t s fun m => m.cells t 2 3 fun b => [b.at_ 0, b.at_ 1, b.at_ 0]

/-- PICK (R185, R186): n is read first, and the stack must hold n + 2 cells. -/
def execPick (t : Tid) (s : State) : Host.Outcome State Fault Refusal :=
  onThread t s fun m =>
    let n := if (m.thr t).bank.ds.isEmpty then 0 else fld ((m.thr t).bank.at_ 0) 3 0
    m.issue t (dEff (n + 2) (n + 2)) fun m =>
      let x := m.thr t
      m.retire t (x.setBank ((x.bank.pop 1).push (x.bank.at_ (n + 1)))) 1

/-- TWO_DROP (R186). -/
def execTwoDrop (t : Tid) (s : State) : Host.Outcome State Fault Refusal :=
  onThread t s fun m => m.cells t 2 0 fun _ => []
/-- TWO_DUP (R186). -/
def execTwoDup (t : Tid) (s : State) : Host.Outcome State Fault Refusal :=
  onThread t s fun m => m.cells t 2 4 fun b => [b.at_ 0, b.at_ 1, b.at_ 0, b.at_ 1]
/-- TWO_SWAP (R186). -/
def execTwoSwap (t : Tid) (s : State) : Host.Outcome State Fault Refusal :=
  onThread t s fun m => m.cells t 4 4 fun b => [b.at_ 2, b.at_ 3, b.at_ 0, b.at_ 1]
/-- TWO_OVER (R186). -/
def execTwoOver (t : Tid) (s : State) : Host.Outcome State Fault Refusal :=
  onThread t s fun m => m.cells t 4 6 fun b => [b.at_ 2, b.at_ 3, b.at_ 0, b.at_ 1, b.at_ 2, b.at_ 3]

/-- LIT (R181, R186): three syllables. -/
def execLit (t : Tid) (c : Cell) (s : State) : Host.Outcome State Fault Refusal :=
  onThread t s fun m => m.plain t (dEff 0 1) 3 fun x => x.setBank (x.bank.push c)
/-- LIT_D (R181, R186): five syllables. -/
def execLitD (t : Tid) (d : Dbl) (s : State) : Host.Outcome State Fault Refusal :=
  onThread t s fun m => m.plain t (dEff 0 2) 5 fun x => x.setBank (x.bank.pushD d)
/-- SHORT_LITERAL (R180). -/
def execShortLiteral (t : Tid) (n : BitVec 6) (s : State) : Host.Outcome State Fault Refusal :=
  onThread t s fun m => m.cells t 0 1 fun _ => [n.setWidth 18]

/-- TO_R (R146, R186): the entry holds the cell in bits 17:0. -/
def execToR (t : Tid) (s : State) : Host.Outcome State Fault Refusal :=
  onThread t s fun m => m.onBank t ⟨1, 0, 0, 1⟩ fun b => { b with ds := b.ds.drop 1, rs := (b.at_ 0).setWidth 20 :: b.rs }
/-- R_FROM (R146, R186). -/
def execRFrom (t : Tid) (s : State) : Host.Outcome State Fault Refusal :=
  onThread t s fun m => m.onBank t ⟨0, 1, 1, 0⟩ fun b =>
    { b with ds := (b.rs.getD 0 0).setWidth 18 :: b.ds, rs := b.rs.drop 1 }
/-- R_FETCH (R146, R186). -/
def execRFetch (t : Tid) (s : State) : Host.Outcome State Fault Refusal :=
  onThread t s fun m => m.onBank t ⟨0, 1, 1, 1⟩ fun b => b.push ((b.rs.getD 0 0).setWidth 18)
/-- RDROP (R186). -/
def execRdrop (t : Tid) (s : State) : Host.Outcome State Fault Refusal :=
  onThread t s fun m => m.onBank t ⟨0, 0, 1, 0⟩ fun b => { b with rs := b.rs.drop 1 }
/-- TO_I (R186). -/
def execToI (t : Tid) (s : State) : Host.Outcome State Fault Refusal :=
  onThread t s fun m => m.plain t (dEff 1 0) 1 fun x => { x.setBank (x.bank.pop 1) with i := x.bank.at_ 0 }
/-- I_FROM (R186). -/
def execIFrom (t : Tid) (s : State) : Host.Outcome State Fault Refusal :=
  onThread t s fun m => m.plain t (dEff 0 1) 1 fun x => x.setBank (x.bank.push x.i)

/-! ## Address registers (R145, R191) -/

/-- An address as a double: bits 35:28 zero. -/
def addrDbl (a : DAddr) : Dbl := a.setWidth 36
/-- An address plus a sign-extended cell, modulo 2^28 (R145). -/
def addrPlus (a : DAddr) (x : Cell) : DAddr := a + x.signExtend 28

/-- A_STORE (R191). -/
def execAStore (t : Tid) (s : State) : Host.Outcome State Fault Refusal :=
  onThread t s fun m => m.onBank t (dEff 2 0) fun b => { b.pop 2 with a := (b.dblAt 0).setWidth 28 }
/-- A_FETCH (R191). -/
def execAFetch (t : Tid) (s : State) : Host.Outcome State Fault Refusal :=
  onThread t s fun m => m.onBank t (dEff 0 2) fun b => b.pushD (addrDbl b.a)
/-- B_STORE (R191). -/
def execBStore (t : Tid) (s : State) : Host.Outcome State Fault Refusal :=
  onThread t s fun m => m.onBank t (dEff 2 0) fun b => { b.pop 2 with b := (b.dblAt 0).setWidth 28 }
/-- B_FETCH (R191). -/
def execBFetch (t : Tid) (s : State) : Host.Outcome State Fault Refusal :=
  onThread t s fun m => m.onBank t (dEff 0 2) fun b => b.pushD (addrDbl b.b)
/-- PLUS_A (R191). -/
def execPlusA (t : Tid) (s : State) : Host.Outcome State Fault Refusal :=
  onThread t s fun m => m.onBank t (dEff 1 0) fun b => { b.pop 1 with a := addrPlus b.a (b.at_ 0) }
/-- PLUS_B (R191). -/
def execPlusB (t : Tid) (s : State) : Host.Outcome State Fault Refusal :=
  onThread t s fun m => m.onBank t (dEff 1 0) fun b => { b.pop 1 with b := addrPlus b.b (b.at_ 0) }
/-- MF_TO_A (R191). -/
def execMfToA (t : Tid) (s : State) : Host.Outcome State Fault Refusal :=
  onThread t s fun m => m.plain t (dEff 0 0) 1 fun x => x.setBank { x.bank with a := x.mf }
/-- MF_TO_B (R191). -/
def execMfToB (t : Tid) (s : State) : Host.Outcome State Fault Refusal :=
  onThread t s fun m => m.plain t (dEff 0 0) 1 fun x => x.setBank { x.bank with b := x.mf }
/-- A_SWAP_B (R191). -/
def execASwapB (t : Tid) (s : State) : Host.Outcome State Fault Refusal :=
  onThread t s fun m => m.onBank t (dEff 0 0) fun b => { b with a := b.b, b := b.a }
/-- U_TO_A (R191). -/
def execUToA (t : Tid) (s : State) : Host.Outcome State Fault Refusal :=
  onThread t s fun m => m.plain t (dEff 0 0) 1 fun x => x.setBank { x.bank with a := x.u }

end Sys2Proof.Machine
end

