-- ==== Sys2Proof/Machine/Float.lean ====
section
/-!
DEFINITION. The arithmetic of Tally (R273, R279 to R285): binary32 and binary16 as exact dyadic numbers, rounded once, with
the exceptions of R281. Exceptions are five bits in the order of TSR: NV, DZ, OF, UF, NX.
-/
namespace Sys2Proof.Machine

/-- A format: fraction and exponent bits. -/
structure Fmt where
  frac : Nat
  expo : Nat
  deriving DecidableEq, Repr

/-- binary32. -/
def fmtS : Fmt := ⟨23, 8⟩
/-- binary16. -/
def fmtH : Fmt := ⟨10, 5⟩
/-- The format of a suffix. -/
def fmtOf (half : Bool) : Fmt := if half then fmtH else fmtS
/-- Exponent bias. -/
def Fmt.bias (f : Fmt) : Nat := 2 ^ (f.expo - 1) - 1
/-- Exponent of the unit of a subnormal. -/
def Fmt.qmin (f : Fmt) : Int := 1 - (f.bias : Int) - f.frac
/-- The largest exponent field. -/
def Fmt.top (f : Fmt) : Nat := 2 ^ f.expo - 1

/-- A number as its bits name it: (-1)^neg × m × 2^e, an infinity, or a NaN. -/
inductive Num where
  | fin (neg : Bool) (m : Nat) (e : Int)
  | inf (neg : Bool)
  | nan (signalling : Bool)
  deriving DecidableEq, Repr

/-- Exception bits. -/
abbrev Exc := BitVec 5
/-- Invalid operation. -/
def excNV : Exc := 16
/-- Division by zero. -/
def excDZ : Exc := 8
/-- Overflow. -/
def excOF : Exc := 4
/-- Underflow. -/
def excUF : Exc := 2
/-- Inexact. -/
def excNX : Exc := 1

/-- The number of a bit pattern (R282 for the signalling NaN). -/
def Fmt.num (f : Fmt) (b : Nat) : Num :=
  let m := b % 2 ^ f.frac
  let x := b / 2 ^ f.frac % 2 ^ f.expo
  let s := (b / 2 ^ (f.frac + f.expo)) % 2 = 1
  if x = f.top then (if m = 0 then .inf s else .nan (m < 2 ^ (f.frac - 1)))
  else if x = 0 then .fin s m f.qmin
  else .fin s (2 ^ f.frac + m) (f.qmin + (x - 1 : Nat))

/-- Sign bit of a pattern. -/
def Fmt.sign (f : Fmt) (s : Bool) : Nat := b2n s * 2 ^ (f.frac + f.expo)
/-- Infinity. -/
def Fmt.infBits (f : Fmt) (s : Bool) : Nat := f.sign s + f.top * 2 ^ f.frac
/-- The default NaN (R282). -/
def Fmt.dnan (f : Fmt) : Nat := f.top * 2 ^ f.frac + 2 ^ (f.frac - 1)
/-- Zero. -/
def Fmt.zero (f : Fmt) (s : Bool) : Nat := f.sign s

/-- Whether a magnitude is rounded away from zero: `odd` is the lowest kept bit, `c` compares the rest with one half
(R279: 0 RNE, 1 RTZ, 2 RDN, 3 RUP, 4 RMM). -/
def roundUp (rm : Nat) (neg odd : Bool) (c : Ordering) (exact : Bool) : Bool :=
  !exact && match rm with
    | 1 => false
    | 2 => neg
    | 3 => !neg
    | 4 => c != .lt
    | _ => c == .gt || (c == .eq && odd)

/-- m × 2^e (and a little more, where `sticky`) rounded to a multiple of 2^q: the multiple, and whether it was exact. -/
def roundAt (rm : Nat) (neg : Bool) (m : Nat) (e : Int) (sticky : Bool) (q : Int) : Nat × Bool :=
  if q ≤ e then
    let k := m * 2 ^ (e - q).toNat
    if sticky then (k + b2n (roundUp rm neg (k % 2 = 1) .lt false), false) else (k, true)
  else
    let n := (q - e).toNat
    let k := m / 2 ^ n
    let r := 2 * (m % 2 ^ n)
    let c := if r < 2 ^ n then Ordering.lt else if r = 2 ^ n ∧ !sticky then .eq else .gt
    let exact := r = 0 ∧ !sticky
    (k + b2n (roundUp rm neg (k % 2 = 1) c exact), exact)

/-- The delivered result of an overflow (R281). -/
def Fmt.overflow (f : Fmt) (rm : Nat) (neg : Bool) : Nat :=
  let toInf := match rm with
    | 1 => false
    | 2 => neg
    | 3 => !neg
    | _ => true
  if toInf then f.infBits neg else f.sign neg + f.top * 2 ^ f.frac - 1

/-- A non-zero magnitude rounded into a format, with OF, UF and NX (R280, R281). A sticky magnitude has at least two bits
more than the format keeps. -/
def Fmt.round (f : Fmt) (rm : Nat) (neg : Bool) (m : Nat) (e : Int) (sticky : Bool) : Nat × Exc :=
  let top := (Nat.log2 m : Int) + e
  let q := max f.qmin (top - f.frac)
  let r := roundAt rm neg m e sticky q
  let big := 2 ^ (f.frac + 1) ≤ r.1
  let k := if big then r.1 / 2 else r.1
  let q := if big then q + 1 else q
  let x := if k < 2 ^ f.frac then 0 else (q - f.qmin + 1).toNat
  if f.top ≤ x then (f.overflow rm neg, excOF ||| excNX)
  else
    let free := roundAt rm neg m e sticky (top - f.frac)
    let tiny := decide (top < f.qmin + f.frac) && !(decide (top + 1 = f.qmin + f.frac) && decide (2 ^ (f.frac + 1) ≤ free.1))
    let bits := f.sign neg + x * 2 ^ f.frac + k % 2 ^ f.frac
    (bits, if r.2 then 0 else if tiny then excUF ||| excNX else excNX)

/-- An exact dyadic number rounded; a zero keeps the sign it is given. -/
def Fmt.ofInt (f : Fmt) (rm : Nat) (v : Int) (e : Int) (zeroNeg : Bool) : Nat × Exc :=
  if v = 0 then (f.zero zeroNeg, 0) else f.round rm (v < 0) v.natAbs e false

/-- The invalid result of a list of operands, if a NaN is among them (R282, R284). -/
def Fmt.nanOf (f : Fmt) (xs : List Num) : Option (Nat × Exc) :=
  let isNan := fun (n : Num) => match n with
    | .nan _ => true
    | _ => false
  let sig := fun (n : Num) => n == .nan true
  if xs.any isNan then some (f.dnan, if xs.any sig then excNV else 0) else none

/-- Sign of a number that is no NaN. -/
def Num.neg : Num → Bool
  | .fin s _ _ => s
  | .inf s => s
  | .nan _ => false

/-- Sum of two exact numbers: the signed magnitude and its exponent. -/
def addExact (s1 : Bool) (m1 : Nat) (e1 : Int) (s2 : Bool) (m2 : Nat) (e2 : Int) : Int × Int :=
  let e := min e1 e2
  let v := fun (s : Bool) (m : Nat) (x : Int) => (if s then -1 else 1) * ((m * 2 ^ (x - e).toNat : Nat) : Int)
  (v s1 m1 e1 + v s2 m2 e2, e)

/-- Sign of an exact zero sum (R281). -/
def zeroSign (rm : Nat) (s1 s2 : Bool) : Bool := if s1 = s2 then s1 else rm == 2

/-- Addition of two numbers, no NaN among them. -/
def Fmt.addNum (f : Fmt) (rm : Nat) (a b : Num) : Nat × Exc :=
  match a, b with
  | .inf s, .inf r => if s = r then (f.infBits s, 0) else (f.dnan, excNV)
  | .inf s, _ => (f.infBits s, 0)
  | _, .inf s => (f.infBits s, 0)
  | .fin s m e, .fin r n g =>
    let v := addExact s m e r n g
    f.ofInt rm v.1 v.2 (zeroSign rm s r)
  | _, _ => (f.dnan, 0)

/-- A number negated. -/
def Num.flip : Num → Num
  | .fin s m e => .fin (!s) m e
  | .inf s => .inf (!s)
  | x => x

/-- fadd (R280). -/
def Fmt.add (f : Fmt) (rm a b : Nat) : Nat × Exc :=
  let x := f.num a
  let y := f.num b
  (f.nanOf [x, y]).getD (f.addNum rm x y)
/-- fsub (R280). -/
def Fmt.sub (f : Fmt) (rm a b : Nat) : Nat × Exc :=
  let x := f.num a
  let y := f.num b
  (f.nanOf [x, y]).getD (f.addNum rm x y.flip)

/-- The exact product of two numbers, or none for 0 × ∞. -/
def mulExact (a b : Num) : Option Num :=
  match a, b with
  | .fin s m e, .fin r n g => some (.fin (s != r) (m * n) (e + g))
  | .inf s, .inf r => some (.inf (s != r))
  | .inf s, .fin r n _ => if n = 0 then none else some (.inf (s != r))
  | .fin s m _, .inf r => if m = 0 then none else some (.inf (s != r))
  | _, _ => none

/-- fmul (R280, R284). -/
def Fmt.mul (f : Fmt) (rm a b : Nat) : Nat × Exc :=
  let x := f.num a
  let y := f.num b
  (f.nanOf [x, y]).getD (match mulExact x y with
    | some (.fin s m e) => f.ofInt rm ((if s then -1 else 1) * (m : Int)) e s
    | some (.inf s) => (f.infBits s, 0)
    | _ => (f.dnan, excNV))

/-- fma: a × b + c with one rounding; 0 × ∞ is invalid whatever c is (R284). A result that rounds to zero over an addend
−0 is −0 (R293, the row s × s + (−0); DEDUCED entry 23). -/
def Fmt.fma (f : Fmt) (rm a b c : Nat) : Nat × Exc :=
  let x := f.num a
  let y := f.num b
  let z := f.num c
  let isNan := (f.nanOf [x, y]).isSome
  match isNan, mulExact x y with
  | false, none => (f.dnan, excNV)
  | false, some p =>
    let r := (f.nanOf [z]).getD (f.addNum rm p z)
    if z == .fin true 0 f.qmin && r.1 == 0 && r.2 != 0 then (f.zero true, r.2) else r
  | true, _ => (f.nanOf [x, y, z]).getD (f.dnan, 0)

/-- Order of two numbers, −0 equal to +0; none where one is a NaN. -/
def Num.cmp (a b : Num) : Option Ordering :=
  let val := fun (x : Num) => match x with
    | .fin s m e => some (s, m, e)
    | _ => none
  match a, b with
  | .nan _, _ => none
  | _, .nan _ => none
  | .inf s, .inf r => some (if s = r then .eq else if s then .lt else .gt)
  | .inf s, _ => some (if s then .lt else .gt)
  | _, .inf s => some (if s then .gt else .lt)
  | a, b =>
    match val a, val b with
    | some (s, m, e), some (r, n, g) =>
      let d := (addExact s m e (!r) n g).1
      some (if d < 0 then .lt else if d = 0 then .eq else .gt)
    | _, _ => none

/-- fcmp (R283). -/
def Fmt.cmp (f : Fmt) (a b : Nat) : Nat × Exc :=
  let x := f.num a
  let y := f.num b
  let e := ((f.nanOf [x, y]).map Prod.snd).getD 0
  match x.cmp y with
  | some .lt => (1, e)
  | some .eq => (2, e)
  | some .gt => (4, e)
  | none => (8, e)

/-- fmin and fmax (R284): −0 lies below +0, and one NaN gives way to the other operand. -/
def Fmt.minMax (f : Fmt) (max_ : Bool) (a b : Nat) : Nat × Exc :=
  let x := f.num a
  let y := f.num b
  let e := ((f.nanOf [x, y]).map Prod.snd).getD 0
  match x, y with
  | .nan _, .nan _ => (f.dnan, e)
  | .nan _, _ => (b, e)
  | _, .nan _ => (a, e)
  | x, y =>
    let aLow := match x.cmp y with
      | some .lt => true
      | some .eq => x.neg
      | _ => false
    (if aLow = max_ then b else a, e)

/-- A number rounded to an integer: the integer and whether it was exact. -/
def roundInt (rm : Nat) (s : Bool) (m : Nat) (e : Int) : Int × Bool :=
  let r := roundAt rm s m e false 0
  ((if s then -1 else 1) * (r.1 : Int), r.2)

/-- fcvt.i (R285). -/
def Fmt.toInt (f : Fmt) (rm a : Nat) : Dbl × Exc :=
  let lim := fun (neg : Bool) => (if neg then BitVec.ofInt 36 (-34359738368) else BitVec.ofNat 36 34359738367, excNV)
  match f.num a with
  | .nan _ => lim false
  | .inf s => lim s
  | .fin s m e =>
    let r := roundInt rm s m e
    if r.1 < -34359738368 then lim true
    else if 34359738367 < r.1 then lim false
    else (BitVec.ofInt 36 r.1, if r.2 then 0 else excNX)

/-- fcvt from a signed 36-bit integer. -/
def Fmt.fromInt (f : Fmt) (rm : Nat) (v : Dbl) : Nat × Exc := f.ofInt rm v.toInt 0 false

/-- fcvt from the other format (R282, R285). -/
def Fmt.convert (f from_ : Fmt) (rm a : Nat) : Nat × Exc :=
  match from_.num a with
  | .nan s => (f.dnan, if s then excNV else 0)
  | .inf s => (f.infBits s, 0)
  | .fin s m e => f.ofInt rm ((if s then -1 else 1) * (m : Int)) e s

/-- frnd (R285). -/
def Fmt.rnd (f : Fmt) (rm a : Nat) : Nat × Exc :=
  match f.num a with
  | .nan s => (f.dnan, if s then excNV else 0)
  | .inf s => (f.infBits s, 0)
  | .fin s m e =>
    let r := roundInt rm s m e
    ((f.ofInt rm r.1 0 s).1, if r.2 then 0 else excNX)

/-- The quotient (R280, R281, R284). -/
def Fmt.div (f : Fmt) (rm a b : Nat) : Nat × Exc :=
  let x := f.num a
  let y := f.num b
  (f.nanOf [x, y]).getD (match x, y with
    | .inf _, .inf _ => (f.dnan, excNV)
    | .inf s, .fin r _ _ => (f.infBits (s != r), 0)
    | .fin s _ _, .inf r => (f.zero (s != r), 0)
    | .fin s m e, .fin r n g =>
      if n = 0 then (if m = 0 then (f.dnan, excNV) else (f.infBits (s != r), excDZ))
      else if m = 0 then (f.zero (s != r), 0)
      else f.round rm (s != r) (m * 2 ^ 80 / n) (e - g - 80) (m * 2 ^ 80 % n ≠ 0)
    | _, _ => (f.dnan, 0))

/-- The integer square root of a number below 2^112, bit by bit. -/
def isqrt (n : Nat) : Nat :=
  (List.range 56).reverse.foldl (fun r i => if (r + 2 ^ i) * (r + 2 ^ i) ≤ n then r + 2 ^ i else r) 0

/-- The square root (R280, R284). -/
def Fmt.sqrt (f : Fmt) (rm a : Nat) : Nat × Exc :=
  match f.num a with
  | .nan s => (f.dnan, if s then excNV else 0)
  | .inf s => if s then (f.dnan, excNV) else (f.infBits false, 0)
  | .fin s m e =>
    if m = 0 then (f.zero s, 0)
    else if s then (f.dnan, excNV)
    else
      let odd := e % 2 ≠ 0
      let n := (if odd then 2 * m else m) * 2 ^ 80
      let g := (if odd then e - 1 else e) - 80
      let r := isqrt n
      f.round rm false r (g / 2) (r * r ≠ n)

end Sys2Proof.Machine
end

