-- ==== Sys2Proof/Machine/TallyOps.lean ====
section
/-!
DEFINITION. The Tally syllables (R212, R272 to R291): issue, results in program order, the steps of division and square
root, completion and the precise trap.
-/
namespace Sys2Proof.Machine

/-- The registers as program order sees them: every outstanding operation completed. -/
def Thread.tallyNow (x : Thread) : Tally := Tally.completeAll x.tally.queue.length x.tally
/-- A register in program order. -/
def Tally.reg (y : Tally) (i : Nat) : Dbl := y.f.getD i 0
/-- The rounding attribute of TSR. -/
def Tally.rm (y : Tally) : Nat := fld y.tsr 17 15
/-- The trap enables, in the order of the exceptions. -/
def Tally.enables (y : Tally) : Exc := (y.tsr >>> 10).setWidth 5

/-- fd, fa and fb of an operand syllable. -/
def opFd (o : Nonet) : Nat := fld o 8 6
/-- fa. -/
def opFa (o : Nonet) : Nat := fld o 5 3
/-- fb. -/
def opFb (o : Nonet) : Nat := fld o 2 0

/-- What an operation writes: fd, perhaps fa, and its exceptions. -/
structure TallyOut where
  fd : Dbl
  fa : Option Dbl
  exc : Exc
  deriving DecidableEq, Repr

/-- A floating-point result in fd. -/
def outNat (r : Nat × Exc) : TallyOut := ⟨BitVec.ofNat 36 r.1, none, r.2⟩

/-- Registers that an outstanding operation still writes (R275). -/
def Tally.writes (y : Tally) (i : Nat) : Bool :=
  y.queue.any fun o => o.fd.toNat == i || (match o.fa with
    | some (j, _) => j.toNat == i
    | none => false)

/-- The end of a Tally syllable: retired, and in the precise mode held before the halt of a single step (R288). -/
def Mach.retireTally (m : Mach) (t : Tid) (x : Thread) (held : Bool) : Mach :=
  if held then (m.setThrH t ((x.topWas (m.thr t)).retire 2).waits).coreCount (Tid.coreNo t) 0 1 else m.retire t x 2

/-- A Tally operation issued (R275, R277, R288): operations that it depends on complete first; its result and exceptions
are those of its place. -/
def Mach.tallyIssue (m : Mach) (t : Tid) (e : Effect) (syl : Nat) (regs : List Nat) (fd : Nat) (fa : Nat)
    (f : Mach → Tally → Bank → TallyOut) (pop : Nat) (fresh : Bool) : Mach :=
  m.issue t e fun m => m.withSave t fun m =>
    let m := if regs.any (m.thr t).tally.writes then m.drainTally t else m
    let x := m.thr t
    let y := x.tallyNow
    let out := f m y x.bank
    let precise := bit x.flg 14 && y.enables != 0
    let op : TallyOp :=
      { syl := BitVec.ofNat 9 syl, pc := x.p, fd := BitVec.ofNat 3 fd, result := out.fd,
        fa := out.fa.map fun d => (BitVec.ofNat 3 fa, d), exc := out.exc, enabled := y.enables, accrue := true,
        precise := precise }
    let m := if fresh then m.take else m
    m.retireTally t ({ x with tally := { x.tally with queue := x.tally.queue ++ [op] } }.setBank (x.bank.pop pop)) precise

/-- An operation of two operands on floating-point values. -/
def Mach.tallyBin (m : Mach) (t : Tid) (half : Bool) (k : Nat) (o : Nonet) (f : Fmt → Nat → Nat → Nat → Nat × Exc) : Mach :=
  let w := if half then 2 ^ 16 else 2 ^ 32
  m.tallyIssue t (dEff 0 0) ((if half then 0x174 else 0x168) + k) [opFd o, opFa o, opFb o] (opFd o) 0
    (fun _ y _ => outNat (f (fmtOf half) y.rm ((y.reg (opFa o)).toNat % w) ((y.reg (opFb o)).toNat % w))) 0 false

/-- An operation of one operand, all 36 bits given. -/
def Mach.tallyUn (m : Mach) (t : Tid) (half : Bool) (k : Nat) (o : Nonet) (f : Fmt → Nat → Dbl → TallyOut) : Mach :=
  m.tallyIssue t (dEff 0 0) ((if half then 0x174 else 0x168) + k) [opFd o, opFa o] (opFd o) 0
    (fun _ y _ => f (fmtOf half) y.rm (y.reg (opFa o))) 0 false

/-- The bits of a format in a register (R273). -/
def Fmt.bitsOf (f : Fmt) (d : Dbl) : Nat := d.toNat % 2 ^ (f.frac + f.expo + 1)

/-! ## Moves -/

/-- TO_F (R212, R273). -/
def execToF (t : Tid) (o : Nonet) (s : State) : Host.Outcome State Fault Refusal :=
  onThread t s fun m => m.tallyIssue t (dEff 2 0) 0x160 [opFd o] (opFd o) 0 (fun _ _ b => ⟨b.dblAt 0, none, 0⟩) 2 false

/-- F_FROM (R212): the operations before it complete; the value is visible to the next instruction. -/
def execFFrom (t : Tid) (o : Nonet) (s : State) : Host.Outcome State Fault Refusal :=
  onThread t s fun m => m.issue t (dEff 0 2) fun m => m.withSave t fun m =>
    let m := m.drainTally t
    let x := m.thr t
    m.retire t (x.setBank (x.bank.pushD (x.tally.reg (opFa o)))) 2

/-- FMOV (R212, R273). -/
def execFmov (t : Tid) (o : Nonet) (s : State) : Host.Outcome State Fault Refusal :=
  onThread t s fun m =>
    m.tallyIssue t (dEff 0 0) 0x162 [opFd o, opFa o] (opFd o) 0 (fun _ y _ => ⟨y.reg (opFa o), none, 0⟩) 0 false

/-- TO_TSR (R277, R279): the flags of earlier operations are overwritten at its place. -/
def execToTsr (t : Tid) (s : State) : Host.Outcome State Fault Refusal :=
  onThread t s fun m => m.issue t (dEff 1 0) fun m => m.withSave t fun m =>
    let x := m.thr t
    let y := x.tally
    let q := y.queue.map fun o => { o with accrue := false }
    m.retire t ({ x with tally := { y with tsr := tsrStored (x.bank.at_ 0), queue := q } }.setBank (x.bank.pop 1)) 2

/-- TSR_FROM (R212). -/
def execTsrFrom (t : Tid) (s : State) : Host.Outcome State Fault Refusal :=
  onThread t s fun m => m.issue t (dEff 0 1) fun m => m.withSave t fun m =>
    let m := m.drainTally t
    let x := m.thr t
    m.retire t (x.setBank (x.bank.push x.tally.tsr)) 2

/-! ## Arithmetic -/

/-- FADD (R280). -/
def execFadd (t : Tid) (half : Bool) (o : Nonet) (s : State) : Host.Outcome State Fault Refusal :=
  onThread t s fun m => m.tallyBin t half 0 o Fmt.add
/-- FSUB (R280). -/
def execFsub (t : Tid) (half : Bool) (o : Nonet) (s : State) : Host.Outcome State Fault Refusal :=
  onThread t s fun m => m.tallyBin t half 1 o Fmt.sub
/-- FMUL (R280). -/
def execFmul (t : Tid) (half : Bool) (o : Nonet) (s : State) : Host.Outcome State Fault Refusal :=
  onThread t s fun m => m.tallyBin t half 2 o Fmt.mul
/-- FMA (R280): fd is the addend. -/
def execFma (t : Tid) (half : Bool) (o : Nonet) (s : State) : Host.Outcome State Fault Refusal :=
  onThread t s fun m =>
    let f := fmtOf half
    m.tallyIssue t (dEff 0 0) ((if half then 0x174 else 0x168) + 3) [opFd o, opFa o, opFb o] (opFd o) 0
      (fun _ y _ => outNat (f.fma y.rm (f.bitsOf (y.reg (opFa o))) (f.bitsOf (y.reg (opFb o)))
        (f.bitsOf (y.reg (opFd o))))) 0 false
/-- FMIN (R284). -/
def execFmin (t : Tid) (half : Bool) (o : Nonet) (s : State) : Host.Outcome State Fault Refusal :=
  onThread t s fun m => m.tallyBin t half 4 o fun f _ a b => f.minMax false a b
/-- FMAX (R284). -/
def execFmax (t : Tid) (half : Bool) (o : Nonet) (s : State) : Host.Outcome State Fault Refusal :=
  onThread t s fun m => m.tallyBin t half 5 o fun f _ a b => f.minMax true a b
/-- FCMP (R283). -/
def execFcmp (t : Tid) (half : Bool) (o : Nonet) (s : State) : Host.Outcome State Fault Refusal :=
  onThread t s fun m => m.tallyBin t half 6 o fun f _ a b => f.cmp a b
/-- FCVT_FROM_INT (R280). -/
def execFcvtFromInt (t : Tid) (half : Bool) (o : Nonet) (s : State) : Host.Outcome State Fault Refusal :=
  onThread t s fun m => m.tallyUn t half 8 o fun f rm d => outNat (f.fromInt rm d)
/-- FCVT_TO_INT (R285). -/
def execFcvtToInt (t : Tid) (half : Bool) (o : Nonet) (s : State) : Host.Outcome State Fault Refusal :=
  onThread t s fun m => m.tallyUn t half 9 o fun f rm d =>
    let r := f.toInt rm (f.bitsOf d)
    ⟨r.1, none, r.2⟩
/-- FCVT_FORMAT (R285): into the suffix's format from the other. -/
def execFcvtFormat (t : Tid) (half : Bool) (o : Nonet) (s : State) : Host.Outcome State Fault Refusal :=
  onThread t s fun m => m.tallyUn t half 10 o fun f rm d =>
    let g := fmtOf (!half)
    outNat (f.convert g rm (g.bitsOf d))
/-- FRND (R285). -/
def execFrnd (t : Tid) (half : Bool) (o : Nonet) (s : State) : Host.Outcome State Fault Refusal :=
  onThread t s fun m => m.tallyUn t half 11 o fun f rm d => outNat (f.rnd rm (f.bitsOf d))

/-! ## Division and square root (R286, R287) -/

/-- The number of iterations of a sequence. -/
def stepCount (half : Bool) : Nat := if half then 4 else 7

/-- fd between the steps: COUNT, and the operand under the part's own mask. -/
def stepFd (op count : Nat) (a : BitVec 32) : Dbl := (BitVec.ofNat 4 count) ++ (a ^^^ Config.stepMask op count)

/-- One step. `op` tells the four sequences apart; `whole` is the correctly rounded result of the operand and the divisor.
Setup raises NV and DZ, the finish OF, UF and NX. A sequence that was broken goes on with free values (R287). -/
def tallyStep (half : Bool) (op : Nat) (whole : Nat → Nat → Nat → Nat × Exc) (usesFb : Bool) (o : Nonet) (m : Mach)
    (y : Tally) : TallyOut :=
  let f := fmtOf half
  let d := y.reg (opFd o)
  let count := fld d 35 32
  let b : BitVec 32 := if usesFb then BitVec.ofNat 32 (f.bitsOf (y.reg (opFb o))) else 0
  let last := stepCount half
  if count = 0 ∨ last + 1 < count then
    let a : BitVec 32 := BitVec.ofNat 32 (f.bitsOf d)
    let e := (whole y.rm a.toNat b.toNat).2
    ⟨stepFd op 1 a, some (Config.stepState op a b 1), e &&& (excNV ||| excDZ)⟩
  else
    let a : BitVec 32 := d.setWidth 32 ^^^ Config.stepMask op count
    let good := y.reg (opFa o) == Config.stepState op a b count
    if count ≤ last then
      if good then ⟨stepFd op (count + 1) a, some (Config.stepState op a b (count + 1)), 0⟩
      else ⟨stepFd op (count + 1) (Config.brokenFinish m.free), some (Config.stepState 100 0 0 m.free), 0⟩
    else if good then
      let r := whole y.rm a.toNat b.toNat
      ⟨BitVec.ofNat 36 r.1, some (Config.stepState op a b (count + 1)), r.2 &&& (excOF ||| excUF ||| excNX)⟩
    else
      let v := Config.brokenFinish m.free
      ⟨BitVec.ofNat 36 (f.bitsOf (v.setWidth 36)), some (Config.stepState 100 0 0 m.free),
        (Config.brokenFlags m.free).setWidth 5⟩

/-- FDST (R286). -/
def execFdst (t : Tid) (half : Bool) (o : Nonet) (s : State) : Host.Outcome State Fault Refusal :=
  onThread t s fun m =>
    m.tallyIssue t (dEff 0 0) ((if half then 0x174 else 0x168) + 7) [opFd o, opFa o, opFb o] (opFd o) (opFa o)
      (fun m y _ => tallyStep half (if half then 1 else 0) (fmtOf half).div true o m y) 0 true
/-- FSQST (R286): fb is ignored. -/
def execFsqst (t : Tid) (half : Bool) (o : Nonet) (s : State) : Host.Outcome State Fault Refusal :=
  onThread t s fun m =>
    m.tallyIssue t (dEff 0 0) (if half then 0x166 else 0x165) [opFd o, opFa o] (opFd o) (opFa o)
      (fun m y _ => tallyStep half (if half then 3 else 2) (fun rm a _ => (fmtOf half).sqrt rm a) false o m y) 0 true

/-! ## Completion -/

/-- TALLY_COMPLETE (R277, R289): the oldest operation completes, or raises the precise trap in its stead. -/
def Mach.tallyComplete (m : Mach) (t : Tid) : Mach :=
  let x := m.thr t
  match x.tally.queue with
  | [] => m
  | o :: r =>
    if o.precise && o.exc &&& o.enabled != 0 && !x.faulted then
      (m.setThr t { x with p := o.pc, tally := { x.tally with queue := r } }).trap t 9 (o.syl.toNat * 512 + o.exc.toNat) 0
    else
      let y := { x with tally := x.tally.completeOne }
      (m.setThr t (if o.precise then y.stepEnd else y)).coreCount (Tid.coreNo t) 8 1

/-- TALLY_COMPLETE (R277). -/
def execTallyComplete (t : Tid) (s : State) : Host.Outcome State Fault Refusal := onThread t s fun m => m.tallyComplete t

end Sys2Proof.Machine
end

