-- ==== Sys2Proof/Machine/Dispatch.lean ====
section
/-!
DEFINITION. The effect of a command on everything but the queue: one arm for each constructor of Instr.
-/
namespace Sys2Proof.Machine

/-- The meaning of a command. -/
def exec (i : Instr) (s : State) : Host.Outcome State Fault Refusal :=
  match i with
  | .nop t => Sys2Proof.Machine.execNop t s
  | .drop t => Sys2Proof.Machine.execDrop t s
  | .dup t => Sys2Proof.Machine.execDup t s
  | .swap t => Sys2Proof.Machine.execSwap t s
  | .over t => Sys2Proof.Machine.execOver t s
  | .rot t => Sys2Proof.Machine.execRot t s
  | .minusRot t => Sys2Proof.Machine.execMinusRot t s
  | .nip t => Sys2Proof.Machine.execNip t s
  | .tuck t => Sys2Proof.Machine.execTuck t s
  | .pick t => Sys2Proof.Machine.execPick t s
  | .twoDrop t => Sys2Proof.Machine.execTwoDrop t s
  | .twoDup t => Sys2Proof.Machine.execTwoDup t s
  | .twoSwap t => Sys2Proof.Machine.execTwoSwap t s
  | .twoOver t => Sys2Proof.Machine.execTwoOver t s
  | .lit t x => Sys2Proof.Machine.execLit t x s
  | .litD t d => Sys2Proof.Machine.execLitD t d s
  | .shortLiteral t n => Sys2Proof.Machine.execShortLiteral t n s
  | .toR t => Sys2Proof.Machine.execToR t s
  | .rFrom t => Sys2Proof.Machine.execRFrom t s
  | .rFetch t => Sys2Proof.Machine.execRFetch t s
  | .rdrop t => Sys2Proof.Machine.execRdrop t s
  | .toI t => Sys2Proof.Machine.execToI t s
  | .iFrom t => Sys2Proof.Machine.execIFrom t s
  | .add t => Sys2Proof.Machine.execAdd t s
  | .sub t => Sys2Proof.Machine.execSub t s
  | .addc t => Sys2Proof.Machine.execAddc t s
  | .subc t => Sys2Proof.Machine.execSubc t s
  | .negate t => Sys2Proof.Machine.execNegate t s
  | .cmp t => Sys2Proof.Machine.execCmp t s
  | .inc t => Sys2Proof.Machine.execInc t s
  | .dec t => Sys2Proof.Machine.execDec t s
  | .andOp t => Sys2Proof.Machine.execAndOp t s
  | .orOp t => Sys2Proof.Machine.execOrOp t s
  | .xorOp t => Sys2Proof.Machine.execXorOp t s
  | .notOp t => Sys2Proof.Machine.execNotOp t s
  | .shl t => Sys2Proof.Machine.execShl t s
  | .shr t => Sys2Proof.Machine.execShr t s
  | .sar t => Sys2Proof.Machine.execSar t s
  | .rol t => Sys2Proof.Machine.execRol t s
  | .tst t => Sys2Proof.Machine.execTst t s
  | .absOp t => Sys2Proof.Machine.execAbsOp t s
  | .minOp t => Sys2Proof.Machine.execMinOp t s
  | .maxOp t => Sys2Proof.Machine.execMaxOp t s
  | .mul t => Sys2Proof.Machine.execMul t s
  | .muls t => Sys2Proof.Machine.execMuls t s
  | .dstep t => Sys2Proof.Machine.execDstep t s
  | .clz t => Sys2Proof.Machine.execClz t s
  | .popc t => Sys2Proof.Machine.execPopc t s
  | .nswap t => Sys2Proof.Machine.execNswap t s
  | .be16From t => Sys2Proof.Machine.execBe16From t s
  | .toBe16 t => Sys2Proof.Machine.execToBe16 t s
  | .addD t => Sys2Proof.Machine.execAddD t s
  | .subD t => Sys2Proof.Machine.execSubD t s
  | .negateD t => Sys2Proof.Machine.execNegateD t s
  | .cmpD t => Sys2Proof.Machine.execCmpD t s
  | .shlD t => Sys2Proof.Machine.execShlD t s
  | .shrD t => Sys2Proof.Machine.execShrD t s
  | .sarD t => Sys2Proof.Machine.execSarD t s
  | .sToD t => Sys2Proof.Machine.execSToD t s
  | .uToD t => Sys2Proof.Machine.execUToD t s
  | .aStore t => Sys2Proof.Machine.execAStore t s
  | .aFetch t => Sys2Proof.Machine.execAFetch t s
  | .bStore t => Sys2Proof.Machine.execBStore t s
  | .bFetch t => Sys2Proof.Machine.execBFetch t s
  | .plusA t => Sys2Proof.Machine.execPlusA t s
  | .plusB t => Sys2Proof.Machine.execPlusB t s
  | .mfToA t => Sys2Proof.Machine.execMfToA t s
  | .mfToB t => Sys2Proof.Machine.execMfToB t s
  | .aSwapB t => Sys2Proof.Machine.execASwapB t s
  | .uToA t => Sys2Proof.Machine.execUToA t s
  | .ldN t => Sys2Proof.Machine.execLdN t s
  | .ldC t => Sys2Proof.Machine.execLdC t s
  | .ldD t => Sys2Proof.Machine.execLdD t s
  | .stN t => Sys2Proof.Machine.execStN t s
  | .stC t => Sys2Proof.Machine.execStC t s
  | .stD t => Sys2Proof.Machine.execStD t s
  | .ldbN t => Sys2Proof.Machine.execLdbN t s
  | .ldbC t => Sys2Proof.Machine.execLdbC t s
  | .ldbD t => Sys2Proof.Machine.execLdbD t s
  | .stbN t => Sys2Proof.Machine.execStbN t s
  | .stbC t => Sys2Proof.Machine.execStbC t s
  | .stbD t => Sys2Proof.Machine.execStbD t s
  | .lrC t => Sys2Proof.Machine.execLrC t s
  | .scC t => Sys2Proof.Machine.execScC t s
  | .tas t => Sys2Proof.Machine.execTas t s
  | .fence t => Sys2Proof.Machine.execFence t s
  | .loadValueLands t => Sys2Proof.Machine.execLoadValueLands t s
  | .storeDrain t ix => Sys2Proof.Machine.execStoreDrain t ix s
  | .bCc t cc long off => Sys2Proof.Machine.execBCc t cc long off s
  | .loopOp t long off => Sys2Proof.Machine.execLoopOp t long off s
  | .call t target => Sys2Proof.Machine.execCall t target s
  | .jump t target => Sys2Proof.Machine.execJump t target s
  | .ret t => Sys2Proof.Machine.execRet t s
  | .exec t => Sys2Proof.Machine.execExec t s
  | .jumpX t => Sys2Proof.Machine.execJumpX t s
  | .eret t => Sys2Proof.Machine.execEret t s
  | .sys t code => Sys2Proof.Machine.execSys t code s
  | .brk t => Sys2Proof.Machine.execBrk t s
  | .berth t => Sys2Proof.Machine.execBerth t s
  | .illegalSyllable t syl => Sys2Proof.Machine.execIllegalSyllable t syl s
  | .instructionFetchFault t len => Sys2Proof.Machine.execInstructionFetchFault t len s
  | .toCtl t => Sys2Proof.Machine.execToCtl t s
  | .ctlFrom t => Sys2Proof.Machine.execCtlFrom t s
  | .ship t => Sys2Proof.Machine.execShip t s
  | .scuttle t => Sys2Proof.Machine.execScuttle t s
  | .tow t => Sys2Proof.Machine.execTow t s
  | .moor t => Sys2Proof.Machine.execMoor t s
  | .take t => Sys2Proof.Machine.execTake t s
  | .wait t => Sys2Proof.Machine.execWait t s
  | .waitTimeout t => Sys2Proof.Machine.execWaitTimeout t s
  | .eventWait t => Sys2Proof.Machine.execEventWait t s
  | .eventWaitTimeout t => Sys2Proof.Machine.execEventWaitTimeout t s
  | .give t => Sys2Proof.Machine.execGive t s
  | .inheritLink b => Sys2Proof.Machine.execInheritLink b s
  | .ageStep ix => Sys2Proof.Machine.execAgeStep ix s
  | .scan t => Sys2Proof.Machine.execScan t s
  | .stm t => Sys2Proof.Machine.execStm t s
  | .ldm t => Sys2Proof.Machine.execLdm t s
  | .shovLo t => Sys2Proof.Machine.execShovLo t s
  | .shovHi t => Sys2Proof.Machine.execShovHi t s
  | .unshov t => Sys2Proof.Machine.execUnshov t s
  | .tsave t => Sys2Proof.Machine.execTsave t s
  | .trest t => Sys2Proof.Machine.execTrest t s
  | .customerSlot t j => Sys2Proof.Machine.execCustomerSlot t j s
  | .toF t o => Sys2Proof.Machine.execToF t o s
  | .fFrom t o => Sys2Proof.Machine.execFFrom t o s
  | .fmov t o => Sys2Proof.Machine.execFmov t o s
  | .toTsr t => Sys2Proof.Machine.execToTsr t s
  | .tsrFrom t => Sys2Proof.Machine.execTsrFrom t s
  | .fadd t half o => Sys2Proof.Machine.execFadd t half o s
  | .fsub t half o => Sys2Proof.Machine.execFsub t half o s
  | .fmul t half o => Sys2Proof.Machine.execFmul t half o s
  | .fma t half o => Sys2Proof.Machine.execFma t half o s
  | .fmin t half o => Sys2Proof.Machine.execFmin t half o s
  | .fmax t half o => Sys2Proof.Machine.execFmax t half o s
  | .fcmp t half o => Sys2Proof.Machine.execFcmp t half o s
  | .fdst t half o => Sys2Proof.Machine.execFdst t half o s
  | .fsqst t half o => Sys2Proof.Machine.execFsqst t half o s
  | .fcvtFromInt t half o => Sys2Proof.Machine.execFcvtFromInt t half o s
  | .fcvtToInt t half o => Sys2Proof.Machine.execFcvtToInt t half o s
  | .fcvtFormat t half o => Sys2Proof.Machine.execFcvtFormat t half o s
  | .frnd t half o => Sys2Proof.Machine.execFrnd t half o s
  | .tallyComplete t => Sys2Proof.Machine.execTallyComplete t s
  | .tallyDeferredTrap t => Sys2Proof.Machine.execTallyDeferredTrap t s
  | .eventEntry t => Sys2Proof.Machine.execEventEntry t s
  | .deadlineExpire t => Sys2Proof.Machine.execDeadlineExpire t s
  | .haltTaken t => Sys2Proof.Machine.execHaltTaken t s
  | .dispatch p => Sys2Proof.Machine.execDispatch p s
  | .lineFill t line => Sys2Proof.Machine.execLineFill t line s
  | .lccFill t line => Sys2Proof.Machine.execLccFill t line s
  | .microResume t => Sys2Proof.Machine.execMicroResume t s
  | .yieldWatchdog t => Sys2Proof.Machine.execYieldWatchdog t s
  | .ingressSof q b => Sys2Proof.Machine.execIngressSof q b s
  | .ingressBeat q b => Sys2Proof.Machine.execIngressBeat q b s
  | .gaugerLeaf q => Sys2Proof.Machine.execGaugerLeaf q s
  | .ingressEof q b => Sys2Proof.Machine.execIngressEof q b s
  | .missingEof q => Sys2Proof.Machine.execMissingEof q s
  | .quarWindowExpire q => Sys2Proof.Machine.execQuarWindowExpire q s
  | .ingressHoldResume q => Sys2Proof.Machine.execIngressHoldResume q s
  | .manifestAccept q => Sys2Proof.Machine.execManifestAccept q s
  | .gapTimeout d => Sys2Proof.Machine.execGapTimeout d s
  | .pairTimeout d seq => Sys2Proof.Machine.execPairTimeout d seq s
  | .sluiceSelect q => Sys2Proof.Machine.execSluiceSelect q s
  | .egressBeat q => Sys2Proof.Machine.execEgressBeat q s
  | .egressStall q => Sys2Proof.Machine.execEgressStall q s
  | .tsReturn q tag ts => Sys2Proof.Machine.execTsReturn q tag ts s
  | .gateEntryChange q => Sys2Proof.Machine.execGateEntryChange q s
  | .gclChangeTime q => Sys2Proof.Machine.execGclChangeTime q s
  | .sgEntryChange g => Sys2Proof.Machine.execSgEntryChange g s
  | .em t slot => Sys2Proof.Machine.execEm t slot s
  | .emx t slot => Sys2Proof.Machine.execEmx t slot s
  | .insert t slot => Sys2Proof.Machine.execInsert t slot s
  | .delete t slot => Sys2Proof.Machine.execDelete t slot s
  | .lpm4 t slot => Sys2Proof.Machine.execLpm4 t slot s
  | .lpm6 t slot => Sys2Proof.Machine.execLpm6 t slot s
  | .tern t slot => Sys2Proof.Machine.execTern t slot s
  | .protect t slot => Sys2Proof.Machine.execProtect t slot s
  | .validate t slot => Sys2Proof.Machine.execValidate t slot s
  | .cmac t slot => Sys2Proof.Machine.execCmac t slot s
  | .derive t slot => Sys2Proof.Machine.execDerive t slot s
  | .filter t slot => Sys2Proof.Machine.execFilter t slot s
  | .now t slot => Sys2Proof.Machine.execNow t slot s
  | .csum t slot => Sys2Proof.Machine.execCsum t slot s
  | .reparse t slot => Sys2Proof.Machine.execReparse t slot s
  | .helperTimeout t slot => Sys2Proof.Machine.execHelperTimeout t slot s
  | .alarmFire a => Sys2Proof.Machine.execAlarmFire a s
  | .tbSnap m => Sys2Proof.Machine.execTbSnap m s
  | .tbStep m => Sys2Proof.Machine.execTbStep m s
  | .tbRateWrite m v => Sys2Proof.Machine.execTbRateWrite m v s
  | .alarmArmWrite m r v => Sys2Proof.Machine.execAlarmArmWrite m r v s
  | .tsPop m => Sys2Proof.Machine.execTsPop m s
  | .paceWindowClose d count => Sys2Proof.Machine.execPaceWindowClose d count s
  | .canalFlitSend l => Sys2Proof.Machine.execCanalFlitSend l s
  | .canalFlitReceive l parityOk => Sys2Proof.Machine.execCanalFlitReceive l parityOk s
  | .creditReturn l ch => Sys2Proof.Machine.execCreditReturn l ch s
  | .vccfgWrite m v => Sys2Proof.Machine.execVccfgWrite m v s
  | .remap m v => Sys2Proof.Machine.execRemap m v s
  | .poolPlacementWrite m p r v => Sys2Proof.Machine.execPoolPlacementWrite m p r v s
  | .holdAlloc m p => Sys2Proof.Machine.execHoldAlloc m p s
  | .holdReturn m p v => Sys2Proof.Machine.execHoldReturn m p v s
  | .quarClear m q => Sys2Proof.Machine.execQuarClear m q s
  | .gauSwap m => Sys2Proof.Machine.execGauSwap m s
  | .wbTdescWrite m v => Sys2Proof.Machine.execWbTdescWrite m v s
  | .wbInsert m => Sys2Proof.Machine.execWbInsert m s
  | .wbDelete m => Sys2Proof.Machine.execWbDelete m s
  | .wbReadKey m => Sys2Proof.Machine.execWbReadKey m s
  | .wbTernWrite m index => Sys2Proof.Machine.execWbTernWrite m index s
  | .wbTernRead m index => Sys2Proof.Machine.execWbTernRead m index s
  | .wbBadcmd m op => Sys2Proof.Machine.execWbBadcmd m op s
  | .wbCmdDone => Sys2Proof.Machine.execWbCmdDone s
  | .keyStage m v => Sys2Proof.Machine.execKeyStage m v s
  | .keyLoad m v => Sys2Proof.Machine.execKeyLoad m v s
  | .keyClear m v => Sys2Proof.Machine.execKeyClear m v s
  | .sactlWrite m v => Sys2Proof.Machine.execSactlWrite m v s
  | .gclChange m q => Sys2Proof.Machine.execGclChange m q s
  | .gclEntryWrite m v => Sys2Proof.Machine.execGclEntryWrite m v s
  | .gclEntryRead m => Sys2Proof.Machine.execGclEntryRead m s
  | .filterCommit m v => Sys2Proof.Machine.execFilterCommit m v s
  | .fselWrite m v => Sys2Proof.Machine.execFselWrite m v s
  | .sgEntryWrite m v => Sys2Proof.Machine.execSgEntryWrite m v s
  | .sgcfgWrite m v => Sys2Proof.Machine.execSgcfgWrite m v s
  | .fbEnable m v => Sys2Proof.Machine.execFbEnable m v s
  | .fbpartWrite m l v => Sys2Proof.Machine.execFbpartWrite m l v s
  | .bolForce m => Sys2Proof.Machine.execBolForce m s
  | .evtSrcWrite m c src v => Sys2Proof.Machine.execEvtSrcWrite m c src v s
  | .evtClaim m c => Sys2Proof.Machine.execEvtClaim m c s
  | .evtDone m c v => Sys2Proof.Machine.execEvtDone m c v s
  | .evtRing m c v => Sys2Proof.Machine.execEvtRing m c v s
  | .evtThrWrite m c ix v => Sys2Proof.Machine.execEvtThrWrite m c ix v s
  | .threadReset m c ix => Sys2Proof.Machine.execThreadReset m c ix s
  | .threadViewWrite m t r v => Sys2Proof.Machine.execThreadViewWrite m t r v s
  | .icinv m k => Sys2Proof.Machine.execIcinv m k s
  | .cntclr m k => Sys2Proof.Machine.execCntclr m k s
  | .pflush m k mask => Sys2Proof.Machine.execPflush m k mask s
  | .cntLoRead m k n => Sys2Proof.Machine.execCntLoRead m k n s
  | .tlopsRead m k => Sys2Proof.Machine.execTlopsRead m k s
  | .tlkillRead m k => Sys2Proof.Machine.execTlkillRead m k s
  | .wlMdataWrite m k v => Sys2Proof.Machine.execWlMdataWrite m k v s
  | .wlNdataStage m k ix v => Sys2Proof.Machine.execWlNdataStage m k ix v s
  | .wlNdataStore m k v => Sys2Proof.Machine.execWlNdataStore m k v s
  | .wlDtWrite m k j second v => Sys2Proof.Machine.execWlDtWrite m k j second v s
  | .scrubStep p => Sys2Proof.Machine.execScrubStep p s
  | .bankHandoverCopy m p b owner => Sys2Proof.Machine.execBankHandoverCopy m p b owner s
  | .bankHandoverNow m p b owner => Sys2Proof.Machine.execBankHandoverNow m p b owner s
  | .mirrorCopyDone p => Sys2Proof.Machine.execMirrorCopyDone p s
  | .marchGo m p v => Sys2Proof.Machine.execMarchGo m p v s
  | .marchTestDone p fails => Sys2Proof.Machine.execMarchTestDone p fails s
  | .lccInvalidate m p => Sys2Proof.Machine.execLccInvalidate m p s
  | .patchWrite m u v => Sys2Proof.Machine.execPatchWrite m u v s
  | .pramWrite m ix v => Sys2Proof.Machine.execPramWrite m ix v s
  | .patchInvalDone => Sys2Proof.Machine.execPatchInvalDone s
  | .keepWrite m count => Sys2Proof.Machine.execKeepWrite m count s
  | .keepCopy m count => Sys2Proof.Machine.execKeepCopy m count s
  | .keepFill m count => Sys2Proof.Machine.execKeepFill m count s
  | .keepVerify m count => Sys2Proof.Machine.execKeepVerify m count s
  | .keepRetire m => Sys2Proof.Machine.execKeepRetire m s
  | .keepCmdDone bad => Sys2Proof.Machine.execKeepCmdDone bad s
  | .keepScrubStep => Sys2Proof.Machine.execKeepScrubStep s
  | .powerFailTrip => Sys2Proof.Machine.execPowerFailTrip s
  | .hostRead beats => Sys2Proof.Machine.execHostRead beats s
  | .hostWriteAnswered beats => Sys2Proof.Machine.execHostWriteAnswered beats s
  | .hostWritePosted beats => Sys2Proof.Machine.execHostWritePosted beats s
  | .initResponse tag rsp data par => Sys2Proof.Machine.execInitResponse tag rsp data par s
  | .initTimeout tag => Sys2Proof.Machine.execInitTimeout tag s
  | .hostQuiesce m => Sys2Proof.Machine.execHostQuiesce m s
  | .hostResume m => Sys2Proof.Machine.execHostResume m s
  | .rxRingCopy r desc err => Sys2Proof.Machine.execRxRingCopy r desc err s
  | .txDescriptor r desc data err => Sys2Proof.Machine.execTxDescriptor r desc data err s
  | .porst => Sys2Proof.Machine.execPorst s
  | .porstRelease => Sys2Proof.Machine.execPorstRelease s
  | .pwrupGnt => Sys2Proof.Machine.execPwrupGnt s
  | .powerGood => Sys2Proof.Machine.execPowerGood s
  | .pwrupGntFall => Sys2Proof.Machine.execPwrupGntFall s
  | .pwrOn m d => Sys2Proof.Machine.execPwrOn m d s
  | .pwrOff m d => Sys2Proof.Machine.execPwrOff m d s
  | .pwrRetain m d => Sys2Proof.Machine.execPwrRetain m d s
  | .lockAdmit m p => Sys2Proof.Machine.execLockAdmit m p s
  | .admitComplete p => Sys2Proof.Machine.execAdmitComplete p s
  | .lockPark m p => Sys2Proof.Machine.execLockPark m p s
  | .lockUnfit m p => Sys2Proof.Machine.execLockUnfit m p s
  | .evacGo m v => Sys2Proof.Machine.execEvacGo m v s
  | .evacAbort m => Sys2Proof.Machine.execEvacAbort m s
  | .evacCopyDone => Sys2Proof.Machine.execEvacCopyDone s
  | .evacDrainDone => Sys2Proof.Machine.execEvacDrainDone s
  | .evacDrainExpire => Sys2Proof.Machine.execEvacDrainExpire s
  | .moveHalt m thr => Sys2Proof.Machine.execMoveHalt m thr s
  | .moveGo m thr => Sys2Proof.Machine.execMoveGo m thr s
  | .xchgFw m => Sys2Proof.Machine.execXchgFw m s
  | .xchgPp m => Sys2Proof.Machine.execXchgPp m s
  | .xchgMc m => Sys2Proof.Machine.execXchgMc m s
  | .xchgCheckDone => Sys2Proof.Machine.execXchgCheckDone s
  | .tkSwitch m => Sys2Proof.Machine.execTkSwitch m s
  | .tkWdService m => Sys2Proof.Machine.execTkWdService m s
  | .tkWatchdogExpire b => Sys2Proof.Machine.execTkWatchdogExpire b s
  | .mirrorComplete => Sys2Proof.Machine.execMirrorComplete s
  | .bwdService m v => Sys2Proof.Machine.execBwdService m v s
  | .bwdExpire => Sys2Proof.Machine.execBwdExpire s
  | .paceCalRun m p => Sys2Proof.Machine.execPaceCalRun m p s
  | .paceCalDone p trim low => Sys2Proof.Machine.execPaceCalDone p trim low s
  | .isolate m => Sys2Proof.Machine.execIsolate m s
  | .isoResume m => Sys2Proof.Machine.execIsoResume m s
  | .periodicTest => Sys2Proof.Machine.execPeriodicTest s
  | .odRead m => Sys2Proof.Machine.execOdRead m s
  | .odWriteSegment m ty => Sys2Proof.Machine.execOdWriteSegment m ty s
  | .odWriteCommit m ty => Sys2Proof.Machine.execOdWriteCommit m ty s
  | .dictCall l x => Sys2Proof.Machine.execDictCall l x s
  | .dictRestore v => Sys2Proof.Machine.execDictRestore v s
  | .unfitClear v => Sys2Proof.Machine.execUnfitClear v s
  | .remoteDoorbell l v => Sys2Proof.Machine.execRemoteDoorbell l v s
  | .lppPop m => Sys2Proof.Machine.execLppPop m s
  | .lppShip m v => Sys2Proof.Machine.execLppShip m v s
  | .lppNew m => Sys2Proof.Machine.execLppNew m s
  | .lppRead mf => Sys2Proof.Machine.execLppRead mf s
  | .lppWrite mf => Sys2Proof.Machine.execLppWrite mf s
  | .sessionOpen mf => Sys2Proof.Machine.execSessionOpen mf s
  | .lppReadBlock mf => Sys2Proof.Machine.execLppReadBlock mf s
  | .lppWriteBlock mf => Sys2Proof.Machine.execLppWriteBlock mf s
  | .lppSubscribe mf => Sys2Proof.Machine.execLppSubscribe mf s
  | .lppAbort mf => Sys2Proof.Machine.execLppAbort mf s
  | .notifyDue ix => Sys2Proof.Machine.execNotifyDue ix s
  | .sessionIdleExpire n => Sys2Proof.Machine.execSessionIdleExpire n s
  | .blockTransferExpire n => Sys2Proof.Machine.execBlockTransferExpire n s
  | .oxBreak => Sys2Proof.Machine.execOxBreak s
  | .sessionEndPulse => Sys2Proof.Machine.execSessionEndPulse s
  | .blockResetLow => Sys2Proof.Machine.execBlockResetLow s
  | .breset m => Sys2Proof.Machine.execBreset m s
  | .blockResetRelease => Sys2Proof.Machine.execBlockResetRelease s
  | .packetGapExpire inCommand => Sys2Proof.Machine.execPacketGapExpire inCommand s
  | .sessionTimeout => Sys2Proof.Machine.execSessionTimeout s
  | .dbgCmdTimeout => Sys2Proof.Machine.execDbgCmdTimeout s
  | .dbgIdent crc => Sys2Proof.Machine.execDbgIdent crc s
  | .dbgChal target crc => Sys2Proof.Machine.execDbgChal target crc s
  | .dbgAuth target tag crc => Sys2Proof.Machine.execDbgAuth target tag crc s
  | .dbgRd space addr count crc => Sys2Proof.Machine.execDbgRd space addr count crc s
  | .dbgWr space addr count items crc => Sys2Proof.Machine.execDbgWr space addr count items crc s
  | .dbgVtrd term max crc => Sys2Proof.Machine.execDbgVtrd term max crc s
  | .dbgVtwr term n octets crc => Sys2Proof.Machine.execDbgVtwr term n octets crc s
  | .dbgRepeat crc => Sys2Proof.Machine.execDbgRepeat crc s
  | .dbgEnd crc => Sys2Proof.Machine.execDbgEnd crc s
  | .dbgHalt via tk all ptid => Sys2Proof.Machine.execDbgHalt via tk all ptid s
  | .dbgResume via tk all ptid => Sys2Proof.Machine.execDbgResume via tk all ptid s
  | .dbgStep via tk all ptid => Sys2Proof.Machine.execDbgStep via tk all ptid s
  | .dbgReset via tk all ptid => Sys2Proof.Machine.execDbgReset via tk all ptid s
  | .dbgLoad via tk all ptid area => Sys2Proof.Machine.execDbgLoad via tk all ptid area s
  | .authLockoutEnd => Sys2Proof.Machine.execAuthLockoutEnd s
  | .lcChal m target => Sys2Proof.Machine.execLcChal m target s
  | .lcTransition m => Sys2Proof.Machine.execLcTransition m s
  | .lcKeyWrite m v => Sys2Proof.Machine.execLcKeyWrite m v s
  | .vtTx t octet => Sys2Proof.Machine.execVtTx t octet s
  | .vtRx t => Sys2Proof.Machine.execVtRx t s
  | .vtoutRead m => Sys2Proof.Machine.execVtoutRead m s
  | .vtinWrite m octet => Sys2Proof.Machine.execVtinWrite m octet s
  | .registerWrite m a v => Sys2Proof.Machine.execRegisterWrite m a v s
  | .faultHoldEnd => Sys2Proof.Machine.execFaultHoldEnd s
  | .readSlot => Sys2Proof.Machine.execReadSlot s
  | .clkokChange egress q ok => Sys2Proof.Machine.execClkokChange egress q ok s
  | .icInvalidationDone k => Sys2Proof.Machine.execIcInvalidationDone k s
  | .lccInvalidationDone p => Sys2Proof.Machine.execLccInvalidationDone p s

end Sys2Proof.Machine
end

