-- ==== Sys2Proof/WellFormed.lean ====
section
/-!
DEFINITION. Which terms are commands that a sender of this block can issue: the threads they name exist, an index lies in its
unit, and what a packet or a request carries fits its kind. Every other operand is any value of its type.
-/
namespace Sys2Proof

/-- A physical thread ID that the block has (R7, R10, R149): a lock 0 to 16, or tollkeeper TK-A or TK-B. -/
def threadOk (t : Tid) : Bool :=
  decide (t.toNat / 128 ≤ 16) || (decide (t.toNat / 128 = 31) && decide (t.toNat / 8 % 16 ≤ 1))

/-- A master that exists. -/
def masterOk : Master → Bool
  | .thread t => threadOk t
  | .host => true
  | .debug => true

/-- A run command from a master that exists. -/
def viaOk : RunVia → Bool
  | .wire _ => true
  | .reg m => masterOk m

/-- An item that ages, of a thread that exists. -/
def itemOk : AgeItem → Bool
  | .manifest _ _ => true
  | .thread t => threadOk t
  | .ticket t _ => threadOk t
  | .flit _ _ _ => true
  | .load t _ => threadOk t
  | .store t _ => threadOk t

/-- An index of EVT_THRt and EVT_TFLTt: 128 at a lock's controller, 8 at the tollkeepers' (R270). -/
def indexOk (c : Ctl) (i : BitVec 7) : Bool :=
  match c with
  | .lock _ => true
  | .tk => decide (i.toNat < 8)

/-- What a march run reports: a bank 0 to 16 (R324), or a core and word of stowage. -/
def failOk (f : MarchFail) : Bool := f.stow || decide (f.bank.toNat ≤ 16)

/-- Beats up to the one that carries LAST (R351): one at least, and no other with LAST. -/
def beatsOk : List HostBeat → Bool
  | [] => false
  | [b] => b.last
  | b :: r => !b.last && beatsOk r

/-- A request whose OP is one of a list (R351). -/
def opOk (ops : List Nat) : List HostBeat → Bool
  | [] => false
  | b :: r => ops.contains (b.data.extractLsb' 68 4).toNat && beatsOk (b :: r)

/-- A well-formed command. -/
def Instr.wf (i : Instr) : Bool :=
  match i with
  | .nop t => threadOk t
  | .drop t => threadOk t
  | .dup t => threadOk t
  | .swap t => threadOk t
  | .over t => threadOk t
  | .rot t => threadOk t
  | .minusRot t => threadOk t
  | .nip t => threadOk t
  | .tuck t => threadOk t
  | .pick t => threadOk t
  | .twoDrop t => threadOk t
  | .twoDup t => threadOk t
  | .twoSwap t => threadOk t
  | .twoOver t => threadOk t
  | .lit t _ => threadOk t
  | .litD t _ => threadOk t
  | .shortLiteral t _ => threadOk t
  | .toR t => threadOk t
  | .rFrom t => threadOk t
  | .rFetch t => threadOk t
  | .rdrop t => threadOk t
  | .toI t => threadOk t
  | .iFrom t => threadOk t
  | .add t => threadOk t
  | .sub t => threadOk t
  | .addc t => threadOk t
  | .subc t => threadOk t
  | .negate t => threadOk t
  | .cmp t => threadOk t
  | .inc t => threadOk t
  | .dec t => threadOk t
  | .andOp t => threadOk t
  | .orOp t => threadOk t
  | .xorOp t => threadOk t
  | .notOp t => threadOk t
  | .shl t => threadOk t
  | .shr t => threadOk t
  | .sar t => threadOk t
  | .rol t => threadOk t
  | .tst t => threadOk t
  | .absOp t => threadOk t
  | .minOp t => threadOk t
  | .maxOp t => threadOk t
  | .mul t => threadOk t
  | .muls t => threadOk t
  | .dstep t => threadOk t
  | .clz t => threadOk t
  | .popc t => threadOk t
  | .nswap t => threadOk t
  | .be16From t => threadOk t
  | .toBe16 t => threadOk t
  | .addD t => threadOk t
  | .subD t => threadOk t
  | .negateD t => threadOk t
  | .cmpD t => threadOk t
  | .shlD t => threadOk t
  | .shrD t => threadOk t
  | .sarD t => threadOk t
  | .sToD t => threadOk t
  | .uToD t => threadOk t
  | .aStore t => threadOk t
  | .aFetch t => threadOk t
  | .bStore t => threadOk t
  | .bFetch t => threadOk t
  | .plusA t => threadOk t
  | .plusB t => threadOk t
  | .mfToA t => threadOk t
  | .mfToB t => threadOk t
  | .aSwapB t => threadOk t
  | .uToA t => threadOk t
  | .ldN t => threadOk t
  | .ldC t => threadOk t
  | .ldD t => threadOk t
  | .stN t => threadOk t
  | .stC t => threadOk t
  | .stD t => threadOk t
  | .ldbN t => threadOk t
  | .ldbC t => threadOk t
  | .ldbD t => threadOk t
  | .stbN t => threadOk t
  | .stbC t => threadOk t
  | .stbD t => threadOk t
  | .lrC t => threadOk t
  | .scC t => threadOk t
  | .tas t => threadOk t
  | .fence t => threadOk t
  | .loadValueLands t => threadOk t
  | .storeDrain t _ => threadOk t
  | .bCc t _ _ _ => threadOk t
  | .loopOp t _ _ => threadOk t
  | .call t _ => threadOk t
  | .jump t _ => threadOk t
  | .ret t => threadOk t
  | .exec t => threadOk t
  | .jumpX t => threadOk t
  | .eret t => threadOk t
  | .sys t _ => threadOk t
  | .brk t => threadOk t
  | .berth t => threadOk t
  | .illegalSyllable t _ => threadOk t
  | .instructionFetchFault t _ => threadOk t
  | .toCtl t => threadOk t
  | .ctlFrom t => threadOk t
  | .ship t => threadOk t
  | .scuttle t => threadOk t
  | .tow t => threadOk t
  | .moor t => threadOk t
  | .take t => threadOk t
  | .wait t => threadOk t
  | .waitTimeout t => threadOk t
  | .eventWait t => threadOk t
  | .eventWaitTimeout t => threadOk t
  | .give t => threadOk t
  | .inheritLink _ => true
  | .ageStep i => itemOk i
  | .scan t => threadOk t
  | .stm t => threadOk t
  | .ldm t => threadOk t
  | .shovLo t => threadOk t
  | .shovHi t => threadOk t
  | .unshov t => threadOk t
  | .tsave t => threadOk t
  | .trest t => threadOk t
  | .customerSlot t _ => threadOk t
  | .toF t _ => threadOk t
  | .fFrom t _ => threadOk t
  | .fmov t _ => threadOk t
  | .toTsr t => threadOk t
  | .tsrFrom t => threadOk t
  | .fadd t _ _ => threadOk t
  | .fsub t _ _ => threadOk t
  | .fmul t _ _ => threadOk t
  | .fma t _ _ => threadOk t
  | .fmin t _ _ => threadOk t
  | .fmax t _ _ => threadOk t
  | .fcmp t _ _ => threadOk t
  | .fdst t _ _ => threadOk t
  | .fsqst t _ _ => threadOk t
  | .fcvtFromInt t _ _ => threadOk t
  | .fcvtToInt t _ _ => threadOk t
  | .fcvtFormat t _ _ => threadOk t
  | .frnd t _ _ => threadOk t
  | .tallyComplete t => threadOk t
  | .tallyDeferredTrap t => threadOk t
  | .eventEntry t => threadOk t
  | .deadlineExpire t => threadOk t
  | .haltTaken t => threadOk t
  | .dispatch _ => true
  | .lineFill t _ => threadOk t
  | .lccFill t _ => threadOk t
  | .microResume t => threadOk t
  | .yieldWatchdog t => threadOk t
  | .ingressSof _ _ => true
  | .ingressBeat _ _ => true
  | .gaugerLeaf _ => true
  | .ingressEof _ _ => true
  | .missingEof _ => true
  | .quarWindowExpire _ => true
  | .ingressHoldResume _ => true
  | .manifestAccept _ => true
  | .gapTimeout _ => true
  | .pairTimeout _ _ => true
  | .sluiceSelect _ => true
  | .egressBeat _ => true
  | .egressStall _ => true
  | .tsReturn _ _ _ => true
  | .gateEntryChange _ => true
  | .gclChangeTime _ => true
  | .sgEntryChange _ => true
  | .em t _ => threadOk t
  | .emx t _ => threadOk t
  | .insert t _ => threadOk t
  | .delete t _ => threadOk t
  | .lpm4 t _ => threadOk t
  | .lpm6 t _ => threadOk t
  | .tern t _ => threadOk t
  | .protect t _ => threadOk t
  | .validate t _ => threadOk t
  | .cmac t _ => threadOk t
  | .derive t _ => threadOk t
  | .filter t _ => threadOk t
  | .now t _ => threadOk t
  | .csum t _ => threadOk t
  | .reparse t _ => threadOk t
  | .helperTimeout t _ => threadOk t
  | .alarmFire _ => true
  | .tbSnap m => masterOk m
  | .tbStep m => masterOk m
  | .tbRateWrite m _ => masterOk m
  | .alarmArmWrite m _ _ => masterOk m
  | .tsPop m => masterOk m
  | .paceWindowClose _ _ => true
  | .canalFlitSend _ => true
  | .canalFlitReceive _ _ => true
  | .creditReturn _ _ => true
  | .vccfgWrite m _ => masterOk m
  | .remap m _ => masterOk m
  | .poolPlacementWrite m _ _ _ => masterOk m
  | .holdAlloc m _ => masterOk m
  | .holdReturn m _ _ => masterOk m
  | .quarClear m _ => masterOk m
  | .gauSwap m => masterOk m
  | .wbTdescWrite m _ => masterOk m
  | .wbInsert m => masterOk m
  | .wbDelete m => masterOk m
  | .wbReadKey m => masterOk m
  | .wbTernWrite m _ => masterOk m
  | .wbTernRead m _ => masterOk m
  | .wbBadcmd m op => masterOk m && decide (6 ≤ op.toNat)
  | .wbCmdDone => true
  | .keyStage m _ => masterOk m
  | .keyLoad m _ => masterOk m
  | .keyClear m _ => masterOk m
  | .sactlWrite m _ => masterOk m
  | .gclChange m _ => masterOk m
  | .gclEntryWrite m _ => masterOk m
  | .gclEntryRead m => masterOk m
  | .filterCommit m _ => masterOk m
  | .fselWrite m _ => masterOk m
  | .sgEntryWrite m _ => masterOk m
  | .sgcfgWrite m _ => masterOk m
  | .fbEnable m _ => masterOk m
  | .fbpartWrite m _ _ => masterOk m
  | .bolForce m => masterOk m
  | .evtSrcWrite m _ _ _ => masterOk m
  | .evtClaim m _ => masterOk m
  | .evtDone m _ _ => masterOk m
  | .evtRing m _ _ => masterOk m
  | .evtThrWrite m c i _ => masterOk m && indexOk c i
  | .threadReset m c i => masterOk m && indexOk c i
  | .threadViewWrite m t _ _ => masterOk m && threadOk t
  | .icinv m _ => masterOk m
  | .cntclr m _ => masterOk m
  | .pflush m _ _ => masterOk m
  | .cntLoRead m _ _ => masterOk m
  | .tlopsRead m _ => masterOk m
  | .tlkillRead m _ => masterOk m
  | .wlMdataWrite m _ _ => masterOk m
  | .wlNdataStage m _ _ _ => masterOk m
  | .wlNdataStore m _ _ => masterOk m
  | .wlDtWrite m _ _ _ _ => masterOk m
  | .scrubStep _ => true
  | .bankHandoverCopy m _ _ _ => masterOk m
  | .bankHandoverNow m _ _ _ => masterOk m
  | .mirrorCopyDone _ => true
  | .marchGo m _ _ => masterOk m
  | .marchTestDone _ fails => fails.all failOk
  | .lccInvalidate m _ => masterOk m
  | .patchWrite m _ _ => masterOk m
  | .pramWrite m _ _ => masterOk m
  | .patchInvalDone => true
  | .keepWrite m _ => masterOk m
  | .keepCopy m _ => masterOk m
  | .keepFill m _ => masterOk m
  | .keepVerify m _ => masterOk m
  | .keepRetire m => masterOk m
  | .keepCmdDone _ => true
  | .keepScrubStep => true
  | .powerFailTrip => true
  | .hostRead r => opOk [0, 3, 4, 5, 6, 7, 8, 9, 10, 11, 12, 13, 14, 15] r
  | .hostWriteAnswered r => opOk [1] r
  | .hostWritePosted r => opOk [2] r
  | .initResponse _ _ data _ => data.isEmpty || beatsOk data
  | .initTimeout _ => true
  | .hostQuiesce m => masterOk m
  | .hostResume m => masterOk m
  | .rxRingCopy _ _ _ => true
  | .txDescriptor _ _ _ _ => true
  | .porst => true
  | .porstRelease => true
  | .pwrupGnt => true
  | .powerGood => true
  | .pwrupGntFall => true
  | .pwrOn m _ => masterOk m
  | .pwrOff m _ => masterOk m
  | .pwrRetain m _ => masterOk m
  | .lockAdmit m _ => masterOk m
  | .admitComplete _ => true
  | .lockPark m _ => masterOk m
  | .lockUnfit m _ => masterOk m
  | .evacGo m _ => masterOk m
  | .evacAbort m => masterOk m
  | .evacCopyDone => true
  | .evacDrainDone => true
  | .evacDrainExpire => true
  | .moveHalt m _ => masterOk m
  | .moveGo m _ => masterOk m
  | .xchgFw m => masterOk m
  | .xchgPp m => masterOk m
  | .xchgMc m => masterOk m
  | .xchgCheckDone => true
  | .tkSwitch m => masterOk m
  | .tkWdService m => masterOk m
  | .tkWatchdogExpire _ => true
  | .mirrorComplete => true
  | .bwdService m _ => masterOk m
  | .bwdExpire => true
  | .paceCalRun m _ => masterOk m
  | .paceCalDone _ _ _ => true
  | .isolate m => masterOk m
  | .isoResume m => masterOk m
  | .periodicTest => true
  | .odRead m => masterOk m
  | .odWriteSegment m _ => masterOk m
  | .odWriteCommit m _ => masterOk m
  | .dictCall _ _ => true
  | .dictRestore _ => true
  | .unfitClear _ => true
  | .remoteDoorbell _ _ => true
  | .lppPop m => masterOk m
  | .lppShip m _ => masterOk m
  | .lppNew m => masterOk m
  | .lppRead _ => true
  | .lppWrite _ => true
  | .sessionOpen _ => true
  | .lppReadBlock _ => true
  | .lppWriteBlock _ => true
  | .lppSubscribe _ => true
  | .lppAbort _ => true
  | .notifyDue _ => true
  | .sessionIdleExpire _ => true
  | .blockTransferExpire _ => true
  | .oxBreak => true
  | .sessionEndPulse => true
  | .blockResetLow => true
  | .breset m => masterOk m
  | .blockResetRelease => true
  | .packetGapExpire _ => true
  | .sessionTimeout => true
  | .dbgCmdTimeout => true
  | .dbgIdent _ => true
  | .dbgChal _ _ => true
  | .dbgAuth _ _ _ => true
  | .dbgRd _ _ _ _ => true
  | .dbgWr _ _ count items _ => decide (items.length = count.toNat + 1)
  | .dbgVtrd _ _ _ => true
  | .dbgVtwr _ n octets _ => decide (octets.length = n.toNat)
  | .dbgRepeat _ => true
  | .dbgEnd _ => true
  | .dbgHalt via _ _ _ => viaOk via
  | .dbgResume via _ _ _ => viaOk via
  | .dbgStep via _ _ _ => viaOk via
  | .dbgReset via _ _ _ => viaOk via
  | .dbgLoad via _ _ _ _ => viaOk via
  | .authLockoutEnd => true
  | .lcChal m _ => masterOk m
  | .lcTransition m => masterOk m
  | .lcKeyWrite m _ => masterOk m
  | .vtTx t _ => threadOk t
  | .vtRx t => threadOk t
  | .vtoutRead m => masterOk m
  | .vtinWrite m _ => masterOk m
  | .registerWrite m _ _ => masterOk m
  | .faultHoldEnd => true
  | .readSlot => true
  | .clkokChange _ _ _ => true
  | .icInvalidationDone _ => true
  | .lccInvalidationDone _ => true

end Sys2Proof
end

