-- ==== Sys2Proof/Safety.lean ====
section
/-!
DEFINITION. The terms in which statements speak of the block: when a thread's instruction executes, what its end is, who may
write a register, and what a safe queue is.
-/
namespace Sys2Proof.Machine

/-! ## A thread's instruction -/

/-- The state in which a thread's core has chosen it (CR_STAT.LAST, R220). -/
def Mach.chosen (m : Mach) (t : Tid) : Mach := m.updCore (Tid.coreNo t) fun c => { c with last := BitVec.ofNat 3 (Tid.num t) }

/-- A thread that exists issues its next instruction: its core runs, it is not halted, faulted, berthed, parked, stalled or in the
windlass (R220, R223), no precise Tally operation holds it (R288), no load that it needs is out (R163), and its core chooses no
other thread (R221, R222). -/
def Selects (s : State) (t : Tid) : Prop :=
  Tid.ok t = true ∧ s.m.ready t = true ∧ (s.m.thr t).heldByTally = false ∧ (s.m.thr t).stalledOnLoad = false ∧
    s.m.outranked t = false ∧ (s.m.thr t).park = .none

/-- It issues an instruction whose stack effect meets neither limit nor depth (R153). -/
def Issues (s : State) (t : Tid) (e : Effect) : Prop := Selects s t ∧ (s.m.thr t).stackErr e = none

/-- The windlass context that a thread's entry takes is not another's, and the routine's first word is good (R224, R256, R295). -/
def Enters (s : State) (t : Tid) : Prop := s.m.ctxHeld t = false ∧ (s.m.core (Tid.coreNo t)).fetchBad 0 = false

/-- The same for the routine at an address of the store, with no other thread before it (R224, R297). -/
def Runs (s : State) (t : Tid) (n : Nat) : Prop := s.m.ctxBusy t = false ∧ (s.m.core (Tid.coreNo t)).fetchBad n = false

/-- The outcome of an instruction of `len` syllables that leaves its thread as `x`, but for what the end of an instruction
does (RetireFrame), and the rest of the block as `m`. -/
def endsAs (s : State) (m : Mach) (t : Tid) (x : Thread) (len : Nat) : Host.Outcome State Fault Refusal :=
  .next { s with m := m.retire t x len }

/-- The outcome of a command whose whole effect is to make everything beside the queue `m`. -/
def State.becomes (s : State) (m : Mach) : Host.Outcome State Fault Refusal := .next { s with m := m }

/-- The same for an instruction that changes nothing beside its thread. -/
def ends (s : State) (t : Tid) (x : Thread) (len : Nat) : Host.Outcome State Fault Refusal := endsAs s (s.m.chosen t) t x len

/-- FLG with N, Z, C and V given (R147). -/
def withNzcv (f : Cell) (n z c v : Bool) : Cell := setBit (setBit (setBit (setBit f 4 n) 3 z) 2 c) 1 v
/-- FLG with N and Z given. -/
def withNz (f : Cell) (n z : Bool) : Cell := setBit (setBit f 4 n) 3 z

/-- FLG after an operation of width w whose exact result is u on unsigned operands and i on signed ones (R188): C where u leaves
the unsigned range, V where i leaves the signed one. -/
def exactFlags (w : Nat) (f : Cell) (u i : Int) : Cell :=
  withNzcv f (BitVec.ofInt w i).msb (BitVec.ofInt w i == 0) (decide (u < 0 ∨ 2 ^ w ≤ u))
    (decide (i < -(2 ^ (w - 1)) ∨ 2 ^ (w - 1) ≤ i))

/-- FLG with N and Z of a result. -/
def resultNz {w : Nat} (f : Cell) (r : BitVec w) : Cell := withNz f r.msb (r == 0)

/-- FLG with N and Z of a result, and C unless the count is one that leaves it. -/
def resultNzc {w : Nat} (f : Cell) (r : BitVec w) (keep c : Bool) : Cell :=
  if keep then resultNz f r else setBit (resultNz f r) 2 c

/-- The two cells of a double, high cell on top (R183). -/
def topD (d : Dbl) (r : List Cell) : List Cell := Dbl.hi d :: Dbl.lo d :: r

/-- A thread with its data stack replaced. -/
def Thread.withDs (x : Thread) (ds : List Cell) : Thread := x.setBank { x.bank with ds := ds }
/-- A thread with its data stack and FLG replaced. -/
def Thread.withDsFlg (x : Thread) (ds : List Cell) (f : Cell) : Thread := x.setBank { x.bank with ds := ds, flg := f }

/-- A thread with one more load outstanding. -/
def Thread.withLoad (x : Thread) (l : Load) : Thread := { x with loads := x.loads ++ [l] }
/-- A thread with one more store in its buffer. -/
def Thread.withStore (x : Thread) (e : SbEntry) : Thread := { x with sb := x.sb ++ [e] }

/-- The end of a `take`, `wait`, `give` or `moor` that takes n cells: its status on the stack, Z for codes 0 and 6 (`moor` for 0
alone), C for 6, N for 8 and above (R76, R120). -/
def polled (s : State) (m : Mach) (t : Tid) (n : Nat) (st : Cell) (isMoor : Bool := false) : Host.Outcome State Fault Refusal :=
  let x := m.thr t
  let code := st.toNat / 16384
  let f := x.bank.flg
  let z := setBit f 3 (code == 0 || (!isMoor && code == 6))
  let c := if isMoor then z else setBit z 2 (code == 6)
  endsAs s m t (Thread.setBank { x with park := .none }
    { x.bank with ds := st :: x.bank.ds.drop n, flg := setBit c 4 (decide (8 ≤ code)) }) 1

/-! ## The queue -/

/-! ## Registers -/

/-- A register takes a master's write: its domain is on (R158), it accepts writes of that master (R12, R157), and the life-cycle state
leaves it to that master (R447). -/
def Takes (s : State) (who : Master) (r : RegRef) : Prop :=
  s.m.isOn r.domain = true ∧ s.m.mayWrite r who = true ∧ s.m.narrowed r who true = false

/-- A register answers a master's read: its domain is on (R158), and the life-cycle state leaves it to that master (R447). -/
def Answers (s : State) (who : Master) (r : RegRef) : Prop := s.m.isOn r.domain = true ∧ s.m.narrowed r who false = false

/-- The outcome of a read that answers `v` and leaves the block as `m`. -/
def State.reads (s : State) (m : Mach) (v : Cell) : Host.Outcome State Fault Refusal := s.becomes { m with rdata := v }

/-- Every waiting command is well-formed. -/
def SafeQueue (s : State) : Prop := ∀ c ∈ s.pending, c.wf = true

end Sys2Proof.Machine
end

