-- ==== Sys2Proof/Certificates/Slice0/Obligations.lean ====
section
/-!
DEFINITION. The statements for the provers, by the families of the command table. `m.foo …` on the right of an equation is the
shared operation in which the rule is written once; the statements say for which commands, on which operands and in which states it
is what happens.
-/
open Sys2Proof Sys2Proof.Machine

/-- The step takes the command at the front of the queue and runs `exec` on it with the queue's rest; with an empty queue the idle
block goes on (the model's choice: entry 35). No word spells a command, since the table gives its rows no bits. -/
def Obligations.StepRunsFront : Prop :=
  ∀ (c : Instr) (s : State) (n w : Nat),
    step { s with pending := c :: s.pending } = exec c s ∧
    (s.pending = [] → step s = s.becomes s.m.idle) ∧ s.withFetchWord n w = s

/-- The invariant of the queue: where every waiting command is well-formed, the step keeps it so, and every waiting command in its turn
runs to a next state: after k steps the first k have left the queue. (What is well-formed is the model's choice: entry 87.) -/
def Obligations.QueueInvariant : Prop :=
  ∀ s : State, SafeQueue s →
    (∀ s' : State, step s = .next s' → SafeQueue s') ∧
    (∀ k ≤ s.pending.length, ∃ m, Host.Core.run core k s = .next (⟨s.pending.drop k, m⟩ : State))

/-- A step takes the front command from the queue and leaves the rest as it stands; no command is refused, and the one fault is that of
a thread that the block does not have (R7; the fault is the model's choice: entry 87). -/
def Obligations.QueueOrder : Prop :=
  (∀ s s' : State, step s = .next s' → s'.pending = s.pending.tail) ∧
  (∀ (c : Instr) (s : State) (r : Refusal), exec c s ≠ .refused r) ∧
  (∀ (c : Instr) (s : State) (f : Fault), exec c s = .fault f → c.wf = false) ∧
  (∀ (t : Tid) (s : State), Tid.ok t = false → exec (.nop t) s = .fault .noSuchThread)

/-- R144, R367, R401: the block right after PORST_N: no command waits, D0 alone is on, no lock serves, every register reads its reset value,
every thread stands at its reset entry with FLG 0x2_0000 and empty stacks, and both counts of the timebase are zero. -/
def Obligations.ResetState : Prop :=
  let m := State.reset.m
  State.reset.pending = [] ∧ SafeQueue State.reset ∧ Memory.wf m.mem = true ∧ m.d0.porst = true ∧ m.isOn 0 = true ∧
  (∀ d, d ≠ 0 → m.power d = .off) ∧ (∀ p, (m.lock p).state = .off) ∧ (∀ r : RegRef, m.rget r = r.reg.reset r.idx) ∧
  (∀ t : Tid, let x := m.thr t
    x.bank.flg = 0x20000 ∧ x.bank.ds = [] ∧ x.bank.rs = [] ∧ x.helm = true ∧ x.mf = 0 ∧ x.lvl = 0 ∧
      x.p = (if Tid.tk t then BitVec.ofNat 21 (16 * Tid.num t) else 0)) ∧
  m.tb.ns = 0 ∧ m.tb.mono = 0 ∧ m.d0.session = none ∧ m.evac = none ∧ m.keep = none

/-- R144: what a thread reset leaves of its thread, with R262 for the rest, by whichever of the two ways it is made: EVT_TFLT.RST or the
debugger's RESET. -/
def Obligations.ThreadReset : Prop :=
  ∀ (s : State) (t : Tid) (who : Master) (c : Ctl) (i : BitVec 7) (w : Bool) (a : Nat),
    let m := s.m
    let x := (m.threadRst t).thr t
    x.p = resetEntry t.toNat ∧ x.norm.ds = [] ∧ x.norm.rs = [] ∧ x.fast.ds = [] ∧ x.fast.rs = [] ∧ x.flg = 0x20000 ∧
    x.bank.a = 0 ∧ x.bank.b = 0 ∧ x.i = 0 ∧ x.u = 0 ∧ x.lvl = 0 ∧ x.mf = 0 ∧
    x.fdepth = 0 ∧ x.shadow = none ∧ x.faulted = false ∧ x.tfc = 0 ∧ x.resv = none ∧ x.wdArmed = false ∧
    m.runOne 4 w a t = some (m.threadRst t) ∧
    (Takes s who ⟨.evtTflt, Ctl.unit c, evtIdx c i⟩ →
      exec (.threadReset who c i) s = s.becomes (m.threadRst (m.ctlTid (Ctl.unit c) (evtIdx c i))))

/-- R8, with R314 for where a thread's stowage lies: a cell in memory has its lower nonet in bits 8:0, a double its lower cell in bits 17:0;
what is stored in a thread's own stowage reads back, lowest nonet first, and every other nonet of the block's memory and every thread stays
as it was, and where no word stored to was bad every register. -/
def Obligations.MemoryReadsBack : Prop :=
  (∀ (m : Mach) (o : Option Tid) (a : Nat),
    m.rdCell o a = m.rd1 (m.place o (a + 1)) ++ m.rd1 (m.place o a) ∧ m.rdDbl o a = m.rdCell o (a + 2) ++ m.rdCell o a) ∧
  (∀ (m : Mach) (t : Tid) (a : Nat) (ns : List Nonet) (v : Cell), Tid.ok t = true → Tid.tk t = false →
    let n := m.wrN (some t) a ns
    let base := stowKey (Tid.coreNo t) a
    (a + ns.length ≤ 0x4000 → n.rdN (some t) a ns.length = ns ∧
      (∀ k, k < base ∨ base + ns.length ≤ k → n.mem1 k = m.mem1 k) ∧ n.threads = m.threads ∧ n.locks = m.locks ∧
      ((∀ i < ns.length, m.eccOf ((base + i) / 8) = 0) → n.regs = m.regs)) ∧
    (a + 2 ≤ 0x4000 → (m.wrCell (some t) a v).rdCell (some t) a = v))

/-- R186: the stack operations, each with the stack it finds and the stack it leaves; `pick` reads n from bits 3:0. -/
def Obligations.StackMoves : Prop :=
  ∀ (s : State) (t : Tid) (a b c d : Cell) (r : List Cell),
    let x := s.m.thr t
    let ds := x.bank.ds
    (Issues s t (dEff 0 0) → exec (.nop t) s = ends s t x 1) ∧
    (ds = a :: r → Issues s t (dEff 1 0) → exec (.drop t) s = ends s t (x.withDs r) 1) ∧
    (ds = a :: r → Issues s t (dEff 1 2) → exec (.dup t) s = ends s t (x.withDs (a :: a :: r)) 1) ∧
    (ds = b :: a :: r → Issues s t (dEff 2 2) → exec (.swap t) s = ends s t (x.withDs (a :: b :: r)) 1) ∧
    (ds = b :: a :: r → Issues s t (dEff 2 3) → exec (.over t) s = ends s t (x.withDs (a :: b :: a :: r)) 1) ∧
    (ds = c :: b :: a :: r → Issues s t (dEff 3 3) → exec (.rot t) s = ends s t (x.withDs (a :: c :: b :: r)) 1) ∧
    (ds = c :: b :: a :: r → Issues s t (dEff 3 3) → exec (.minusRot t) s = ends s t (x.withDs (b :: a :: c :: r)) 1) ∧
    (ds = b :: a :: r → Issues s t (dEff 2 1) → exec (.nip t) s = ends s t (x.withDs (b :: r)) 1) ∧
    (ds = b :: a :: r → Issues s t (dEff 2 3) → exec (.tuck t) s = ends s t (x.withDs (b :: a :: b :: r)) 1) ∧
    (ds = a :: r → Issues s t (dEff (a.toNat % 16 + 2) (a.toNat % 16 + 2)) →
      exec (.pick t) s = ends s t (x.withDs (r.getD (a.toNat % 16) 0 :: r)) 1) ∧
    (ds = b :: a :: r → Issues s t (dEff 2 0) → exec (.twoDrop t) s = ends s t (x.withDs r) 1) ∧
    (ds = b :: a :: r → Issues s t (dEff 2 4) → exec (.twoDup t) s = ends s t (x.withDs (b :: a :: b :: a :: r)) 1) ∧
    (ds = d :: c :: b :: a :: r → Issues s t (dEff 4 4) →
      exec (.twoSwap t) s = ends s t (x.withDs (b :: a :: d :: c :: r)) 1) ∧
    (ds = d :: c :: b :: a :: r → Issues s t (dEff 4 6) →
      exec (.twoOver t) s = ends s t (x.withDs (b :: a :: d :: c :: b :: a :: r)) 1)

/-- R180, R181, R186: literals, the return stack and I. A return-stack entry holds a cell in its bits 17:0. -/
def Obligations.LiteralsAndReturnStack : Prop :=
  ∀ (s : State) (t : Tid) (a : Cell) (e : BitVec 20) (r : List Cell) (q : List (BitVec 20)) (n : BitVec 6) (d : Dbl),
    let x := s.m.thr t
    let b := x.bank
    (Issues s t (dEff 0 1) → exec (.lit t a) s = ends s t (x.withDs (a :: b.ds)) 3) ∧
    (Issues s t (dEff 0 2) → exec (.litD t d) s = ends s t (x.withDs (topD d b.ds)) 5) ∧
    (Issues s t (dEff 0 1) → exec (.shortLiteral t n) s = ends s t (x.withDs (BitVec.ofNat 18 n.toNat :: b.ds)) 1) ∧
    (b.ds = a :: r → Issues s t ⟨1, 0, 0, 1⟩ →
      exec (.toR t) s = ends s t (x.setBank { b with ds := r, rs := BitVec.ofNat 20 a.toNat :: b.rs }) 1) ∧
    (b.rs = e :: q → Issues s t ⟨0, 1, 1, 0⟩ →
      exec (.rFrom t) s = ends s t (x.setBank { b with ds := BitVec.ofNat 18 e.toNat :: b.ds, rs := q }) 1) ∧
    (b.rs = e :: q → Issues s t ⟨0, 1, 1, 1⟩ →
      exec (.rFetch t) s = ends s t (x.withDs (BitVec.ofNat 18 e.toNat :: b.ds)) 1) ∧
    (b.rs = e :: q → Issues s t ⟨0, 0, 1, 0⟩ → exec (.rdrop t) s = ends s t (x.setBank { b with rs := q }) 1) ∧
    (b.ds = a :: r → Issues s t (dEff 1 0) → exec (.toI t) s = ends s t { x.withDs r with i := a } 1) ∧
    (Issues s t (dEff 0 1) → exec (.iFrom t) s = ends s t (x.withDs (x.i :: b.ds)) 1)

/-- R187, R188: sums and differences of cells, C and V from the exact results.
R190: the same for doubles, at bit 35. -/
def Obligations.Sums : Prop :=
  (∀ (s : State) (t : Tid) (a b : Cell) (r : List Cell),
      let x := s.m.thr t
      let f := x.bank.flg
      let ca : Int := if bit f 2 then 1 else 0
      let out := fun (u i : Int) => ends s t (x.withDsFlg (BitVec.ofInt 18 i :: r) (exactFlags 18 f u i)) 1
      (x.bank.ds = b :: a :: r → Issues s t (dEff 2 1) →
        exec (.add t) s = out (a.toNat + b.toNat) (a.toInt + b.toInt) ∧
        exec (.sub t) s = out (a.toNat - b.toNat) (a.toInt - b.toInt) ∧
        exec (.addc t) s = out (a.toNat + b.toNat + ca) (a.toInt + b.toInt + ca) ∧
        exec (.subc t) s = out (a.toNat - b.toNat - ca) (a.toInt - b.toInt - ca)) ∧
      (x.bank.ds = b :: a :: r → Issues s t (dEff 2 0) →
        exec (.cmp t) s = ends s t (x.withDsFlg r (exactFlags 18 f (a.toNat - b.toNat) (a.toInt - b.toInt))) 1) ∧
      (x.bank.ds = a :: r → Issues s t (dEff 1 1) →
        exec (.negate t) s = out (-a.toNat) (-a.toInt) ∧
        exec (.inc t) s = out (a.toNat + 1) (a.toInt + 1) ∧
        exec (.dec t) s = out (a.toNat - 1) (a.toInt - 1))) ∧
  (∀ (s : State) (t : Tid) (a b : Dbl) (r : List Cell),
      let x := s.m.thr t
      let f := x.bank.flg
      let out := fun (u i : Int) => ends s t (x.withDsFlg (topD (BitVec.ofInt 36 i) r) (exactFlags 36 f u i)) 1
      (x.bank.ds = topD b (topD a r) → Issues s t (dEff 4 2) →
        exec (.addD t) s = out (a.toNat + b.toNat) (a.toInt + b.toInt) ∧
        exec (.subD t) s = out (a.toNat - b.toNat) (a.toInt - b.toInt)) ∧
      (x.bank.ds = topD b (topD a r) → Issues s t (dEff 4 0) →
        exec (.cmpD t) s = ends s t (x.withDsFlg r (exactFlags 36 f (a.toNat - b.toNat) (a.toInt - b.toInt))) 1) ∧
      (x.bank.ds = topD a r → Issues s t (dEff 2 2) → exec (.negateD t) s = out (-a.toNat) (-a.toInt)))

/-- R187: logic, comparison of values and rearrangement; N and Z of the result, `abs` V as well, `clz` and `popc` Z alone.
R187, R189: the products, and one step of restoring division. -/
def Obligations.LogicProductsDivision : Prop :=
  (∀ (s : State) (t : Tid) (a b : Cell) (r : List Cell),
      let x := s.m.thr t
      let f := x.bank.flg
      let out := fun (c : Cell) => ends s t (x.withDsFlg (c :: r) (resultNz f c)) 1
      let count := fun (n : Nat) => ends s t (x.withDsFlg (BitVec.ofNat 18 n :: r) (setBit f 3 (n == 0))) 1
      (x.bank.ds = b :: a :: r → Issues s t (dEff 2 1) →
        exec (.andOp t) s = out (a &&& b) ∧ exec (.orOp t) s = out (a ||| b) ∧ exec (.xorOp t) s = out (a ^^^ b) ∧
        exec (.minOp t) s = out (BitVec.ofInt 18 (min a.toInt b.toInt)) ∧
        exec (.maxOp t) s = out (BitVec.ofInt 18 (max a.toInt b.toInt))) ∧
      (x.bank.ds = a :: r → Issues s t (dEff 1 1) →
        exec (.notOp t) s = out (~~~ a) ∧ exec (.tst t) s = out a ∧
        exec (.absOp t) s = ends s t (x.withDsFlg (BitVec.ofInt 18 a.toInt.natAbs :: r)
          (setBit (resultNz f (BitVec.ofInt 18 a.toInt.natAbs)) 1 (a.toInt == -131072))) 1 ∧
        exec (.nswap t) s = out (BitVec.ofNat 18 (a.toNat % 512 * 512 + a.toNat / 512)) ∧
        exec (.be16From t) s = out (BitVec.ofNat 18 (a.toNat % 256 * 256 + a.toNat / 512 % 256)) ∧
        exec (.toBe16 t) s = out (BitVec.ofNat 18 (a.toNat / 256 % 256 + a.toNat % 256 * 512)) ∧
        exec (.popc t) s = count ((List.range 18).countP fun i => a.getLsbD i) ∧
        (∃ n ≤ 18, (∀ i < 18, 18 - n ≤ i → a.getLsbD i = false) ∧ (n < 18 → a.getLsbD (17 - n) = true) ∧
          exec (.clz t) s = count n))) ∧
  (∀ (s : State) (t : Tid) (a b h l v : Cell) (r : List Cell),
      let x := s.m.thr t
      let f := x.bank.flg
      let out := fun (d : Dbl) => ends s t (x.withDsFlg (topD d r) (resultNz f d)) 1
      let w := 2 * h.toNat + (if l.getLsbD 17 then 1 else 0)
      let vf := decide (v.toNat = 0 ∨ v.toNat ≤ h.toNat)
      (x.bank.ds = b :: a :: r → Issues s t (dEff 2 2) →
        exec (.mul t) s = out (BitVec.ofNat 36 (a.toNat * b.toNat)) ∧
        exec (.muls t) s = out (BitVec.ofInt 36 (a.toInt * b.toInt))) ∧
      (x.bank.ds = v :: h :: l :: r → Issues s t (dEff 3 3) →
        exec (.dstep t) s =
          if v.toNat ≤ w then
            ends s t (x.withDsFlg (v :: BitVec.ofNat 18 (w - v.toNat) :: BitVec.ofNat 18 (2 * l.toNat + 1) :: r)
              (setBit (setBit f 2 true) 1 vf)) 1
          else
            ends s t (x.withDsFlg (v :: BitVec.ofNat 18 w :: BitVec.ofNat 18 (2 * l.toNat) :: r)
              (setBit (setBit f 2 false) 1 vf)) 1))

/-- R188: the shifts of a cell by every count of bits 4:0, with C the last bit shifted out.
R190: the shifts of a double by every count of bits 5:0, and the two widenings. -/
def Obligations.Shifts : Prop :=
  (∀ (s : State) (t : Tid) (v n : Cell) (r : List Cell),
      let x := s.m.thr t
      let k := n.toNat % 32
      let out := fun (c : Cell) (keep cf : Bool) => ends s t (x.withDsFlg (c :: r) (resultNzc x.bank.flg c keep cf)) 1
      x.bank.ds = n :: v :: r → Issues s t (dEff 2 1) →
        exec (.shl t) s = out (BitVec.ofNat 18 (v.toNat * 2 ^ k)) (k == 0) (decide (k < 18) && v.getLsbD (18 - k)) ∧
        exec (.shr t) s = out (BitVec.ofNat 18 (v.toNat / 2 ^ k)) (k == 0) (decide (k < 18) && v.getLsbD (k - 1)) ∧
        exec (.sar t) s = out (BitVec.ofInt 18 (v.toInt / 2 ^ k)) (k == 0) (v.getLsbD (min 17 (k - 1))) ∧
        exec (.rol t) s = out (BitVec.ofNat 18 (v.toNat * 2 ^ (k % 18) + v.toNat / 2 ^ (18 - k % 18))) (k % 18 == 0)
          (v.getLsbD (18 - k % 18))) ∧
  (∀ (s : State) (t : Tid) (v : Dbl) (n : Cell) (r : List Cell),
      let x := s.m.thr t
      let k := n.toNat % 64
      let out := fun (c : Dbl) (keep cf : Bool) => ends s t (x.withDsFlg (topD c r) (resultNzc x.bank.flg c keep cf)) 1
      (x.bank.ds = n :: topD v r → Issues s t (dEff 3 2) →
        exec (.shlD t) s = out (BitVec.ofNat 36 (v.toNat * 2 ^ k)) (k == 0) (decide (k < 36) && v.getLsbD (36 - k)) ∧
        exec (.shrD t) s = out (BitVec.ofNat 36 (v.toNat / 2 ^ k)) (k == 0) (decide (k < 36) && v.getLsbD (k - 1)) ∧
        exec (.sarD t) s = out (BitVec.ofInt 36 (v.toInt / 2 ^ k)) (k == 0) (v.getLsbD (min 35 (k - 1)))) ∧
      (x.bank.ds = n :: r → Issues s t (dEff 1 2) →
        exec (.sToD t) s = ends s t (x.withDs (topD (BitVec.ofInt 36 n.toInt) r)) 1 ∧
        exec (.uToD t) s = ends s t (x.withDs (topD (BitVec.ofNat 36 n.toNat) r)) 1))

/-- R145, R191: the address registers A and B, 28 bits wide. -/
def Obligations.AddressRegisters : Prop :=
  ∀ (s : State) (t : Tid) (v : Cell) (d : Dbl) (r : List Cell),
    let x := s.m.thr t
    let b := x.bank
    let plus := fun (a : DAddr) => BitVec.ofInt 28 (a.toNat + v.toInt)
    (b.ds = topD d r → Issues s t (dEff 2 0) →
      exec (.aStore t) s = ends s t (x.setBank { b with ds := r, a := BitVec.ofNat 28 d.toNat }) 1 ∧
      exec (.bStore t) s = ends s t (x.setBank { b with ds := r, b := BitVec.ofNat 28 d.toNat }) 1) ∧
    (Issues s t (dEff 0 2) →
      exec (.aFetch t) s = ends s t (x.withDs (topD (BitVec.ofNat 36 b.a.toNat) b.ds)) 1 ∧
      exec (.bFetch t) s = ends s t (x.withDs (topD (BitVec.ofNat 36 b.b.toNat) b.ds)) 1) ∧
    (b.ds = v :: r → Issues s t (dEff 1 0) →
      exec (.plusA t) s = ends s t (x.setBank { b with ds := r, a := plus b.a }) 1 ∧
      exec (.plusB t) s = ends s t (x.setBank { b with ds := r, b := plus b.b }) 1) ∧
    (Issues s t (dEff 0 0) →
      exec (.mfToA t) s = ends s t (x.setBank { b with a := x.mf }) 1 ∧
      exec (.mfToB t) s = ends s t (x.setBank { b with b := x.mf }) 1 ∧
      exec (.aSwapB t) s = ends s t (x.setBank { b with a := b.b, b := b.a }) 1 ∧
      exec (.uToA t) s = ends s t (x.setBank { b with a := x.u }) 1)

/-- R162 to R164, R192, R193, R239: a load leaves its operand in its slot until the value lands, a double's upper slot zero.
The address is A or B plus the signed operand; a register and own stowage are read at once, a value that the store buffer holds is
forwarded, and another value is awaited. A load that a buffered store covers in part waits, and so does one with four transactions
outstanding (R36); an access without right takes the data-access fault, an uncorrectable word the machine check.
R172, R192, R193, R238: a store with right enters the store buffer, oldest first out, with the value, the privilege and the priority
of its issue, and takes its cells; without right it takes the data-access fault, as does one to the quiet host window; with the buffer
full or four transactions outstanding the thread parks. -/
def Obligations.LoadsAndStores : Prop :=
  (∀ (s : State) (t : Tid),
      let x := s.m.thr t
      let m := s.m.chosen t
      let load := fun (op : Instr) (useB : Bool) (w : Width) =>
        let a := x.effAddr useB
        let n := a.toNat
        let slot := fun (v : Option Dbl) (m : Mach) =>
          let y := m.thr t
          endsAs s m t ((y.withLoad
            ⟨y.bank.ds.length - 1, w, a, m.places t n w.nonets, m.priOf t, 0, y.p, y.fastOn, 0, v, false⟩).setBank
            (if w = .double then { y.bank with ds := 0 :: y.bank.ds } else y.bank)) 1
        Issues s t (dEff 1 (if w = .double then 2 else 1)) →
          (∀ r, s.m.accessFault t false w n = some r → exec op s = s.becomes (m.dataFault t r false w n)) ∧
          (s.m.accessFault t false w n = none →
            (4 ≤ x.txns → exec op s = s.becomes (m.park t .retry)) ∧
            (x.txns < 4 →
              (∀ v, s.m.forward t n w.nonets = .value v → exec op s = slot (some v) m) ∧
              (s.m.forward t n w.nonets = .wait → ∃ m', exec op s = s.becomes m' ∧ (m'.thr t).park = .drain a w.nonets ∧
                (m'.thr t).p = x.p ∧ (m'.thr t).bank = x.bank ∧ m'.mem = s.m.mem ∧ m'.regs = s.m.regs ∧
                (∀ u, u ≠ t → m'.thr u = s.m.thr u)) ∧
              (s.m.forward t n w.nonets = .memory →
                (inRegs n = true → exec op s = slot (some (((m.flitTo t n).addrRead n (.thread t)).2.setWidth 36))
                  ((m.flitTo t n).addrRead n (.thread t)).1) ∧
                (0xC000000 ≤ n → ∀ m', (m.flitTo t n).initiate (s.m.hostAddr n) (.load t) = (m', .sent) →
                  exec op s = slot none m') ∧
                (inRegs n = false → n < 0xC000000 →
                  (s.m.badN (some t) n w.nonets = true → exec op s = s.becomes (m.wordCheck t n w.nonets)) ∧
                  (s.m.badN (some t) n w.nonets = false → exec op s =
                    if (s.m.places t n w.nonets).all (ownStow t) then
                      slot (some (BitVec.ofNat 36 (pack (s.m.rdN (some t) n w.nonets)))) (m.noteN (some t) n w.nonets)
                    else slot none (m.flitTo t n))))))
      load (.ldN t) false .nonet ∧ load (.ldC t) false .cell ∧ load (.ldD t) false .double ∧
      load (.ldbN t) true .nonet ∧ load (.ldbC t) true .cell ∧ load (.ldbD t) true .double) ∧
  (∀ (s : State) (t : Tid),
      let x := s.m.thr t
      let m := s.m.chosen t
      let store := fun (op : Instr) (useB : Bool) (w : Width) =>
        let a := x.effAddr useB
        let n := if w = .double then 3 else 2
        let v : Dbl := if w = .double then x.bank.dblAt 1 else BitVec.ofNat 36 (x.bank.at_ 1).toNat
        Issues s t (dEff n 0) →
          (∀ r, s.m.accessFault t true w a.toNat = some r → exec op s = s.becomes (m.dataFault t r true w a.toNat)) ∧
          (s.m.accessFault t true w a.toNat = none →
            (0xC000000 ≤ a.toNat → s.m.hostQuiet = true → exec op s = s.becomes (m.dataFault t 5 true w a.toNat)) ∧
            (a.toNat < 0xC000000 ∨ s.m.hostQuiet = false →
              (x.txns < 4 → exec op s =
                ends s t ((x.withStore ⟨a, w, v, x.helm, s.m.priOf t, 0⟩).setBank { x.bank with ds := x.bank.ds.drop n }) 1) ∧
              (4 ≤ x.txns → exec op s = s.becomes (m.park t .retry))))
      store (.stN t) false .nonet ∧ store (.stC t) false .cell ∧ store (.stD t) false .double ∧
      store (.stbN t) true .nonet ∧ store (.stbC t) true .cell ∧ store (.stbD t) true .double)

/-- R163, R170, R173, R176, R177, R195, R238: a value of memory lands, the oldest store drains, the atomics act on a cell of a
basin at once, and a fence ends when nothing is outstanding. -/
def Obligations.MemoryOrder : Prop :=
  ∀ (s : State) (t : Tid) (l : Load) (v : Dbl) (e : SbEntry) (b : Bool),
    let x := s.m.thr t
    let a := x.effAddr false
    let m := (s.m.chosen t).flitTo t a.toNat
    let y := m.thr t
    let g := m.granuleAt t a.toNat
    let old : Dbl := BitVec.ofNat 36 (m.rdCell (some t) a.toNat).toNat
    let ld := fun (isTas : Bool) (n : Mach) =>
      let z := n.thr t
      endsAs s n t ((z.withLoad ⟨z.bank.ds.length - 1, .cell, a, n.places t a.toNat 2, n.priOf t, 0, z.p, z.fastOn, 0, some old, isTas⟩).setBank
        z.bank) 1
    (Tid.ok t = true → x.loads.find? (fun l => l.value.isNone && !l.fromHost) = some l → (s.m.readLoad l).2 = some v →
      exec (.loadValueLands t) s = .next { s with m := (s.m.readLoad l).1.loadArrives t l v }) ∧
    (Tid.ok t = true → x.sb.head? = some e →
      let n := s.m.updThr t fun x => { x with sb := x.sb.drop 1 }
      exec (.storeDrain t 0) s = .next { s with m := (n.drainEntry t e).wakeMem t } ∧
        (e.toMem = true → n.drainEntry t e = n.storeMem t e)) ∧
    (Selects s t → x.quietMem = true → exec (.fence t) s = ends s t x 1) ∧
    (Selects s t → x.quietMem = false → exec (.fence t) s = .next { s with m := (s.m.chosen t).park t .fence }) ∧
    (s.m.atomicFault t b a.toNat = none → x.quietMem = true → x.txns < 4 →
      (b = false → Issues s t (dEff 1 1) → m.badN (some t) a.toNat 2 = false →
        exec (.lrC t) s = ld false ((m.noteN (some t) a.toNat 2).updThr t fun z => { z with resv := some g })) ∧
      (b = true → Issues s t (dEff 2 0) → y.resv = some g →
        exec (.scC t) s = endsAs s (m.wrN (some t) a.toNat (unpack (y.bank.at_ 1).toNat 2) (some t)) t
          ({ (m.wrN (some t) a.toNat (unpack (y.bank.at_ 1).toNat 2) (some t)).thr t with resv := none }.setBank
            { y.bank with ds := y.bank.ds.drop 2, flg := setBit y.bank.flg 3 true }) 1) ∧
      (b = true → Issues s t (dEff 2 0) → y.resv ≠ some g →
        exec (.scC t) s = endsAs s m t
          ({ y with resv := none }.setBank { y.bank with ds := y.bank.ds.drop 2, flg := setBit y.bank.flg 3 false }) 1) ∧
      (b = true → Issues s t (dEff 1 1) → m.badN (some t) a.toNat 2 = false →
        exec (.tas t) s = ld true ((m.noteN (some t) a.toNat 2).wrCell (some t) a.toNat 0x3FFFF)))

/-- R196 to R199: a branch that is taken moves P to the address after it plus its offset, one that is not to the address after
it; what the predictor learns follows in `branchDone`. -/
def Obligations.Branches : Prop :=
  ∀ (s : State) (t : Tid) (cc : BitVec 4) (long : Bool) (off : Cell),
    let x := s.m.thr t
    let n := bit x.flg 4
    let z := bit x.flg 3
    let c := bit x.flg 2
    let v := bit x.flg 1
    let tests := [z, !z, c, !c, n, !n, v, !v, !c && !z, c || z, n == v, n != v, !z && n == v, z || n != v, true, bit x.flg 0]
    let len := if long then 3 else 2
    let d : Int := if long then off.toInt else (BitVec.ofNat 9 off.toNat).toInt
    let dest := fun (taken : Bool) => x.p + BitVec.ofNat 21 len + (if taken then BitVec.ofInt 21 d else 0)
    let goes := fun (y : Thread) (taken learn : Bool) =>
      let m := (s.m.chosen t).retire t { y with p := dest taken } 0
      Host.Outcome.next (φ := Fault) (ρ := Refusal)
        { s with m := if learn then m.branchDone (s.m.chosen t) t (x.p.toNat % 0x100000) (decide (d < 0)) taken else m }
    Issues s t (dEff 0 0) →
      exec (.bCc t cc long off) s = goes x (tests.getD cc.toNat false) (cc != 14) ∧
      exec (.loopOp t long off) s = goes { x with i := x.i - 1 } (x.i != 1) true

/-- R197, R198: calls, jumps and returns; a call pushes the address after it. -/
def Obligations.CallsAndReturns : Prop :=
  ∀ (s : State) (t : Tid) (a : CAddr) (d : Dbl) (r : List Cell) (e : BitVec 20) (q : List (BitVec 20)),
    let x := s.m.thr t
    let b := x.bank
    let lands := fun (bank : Bank) (p : CAddr) => ends s t { x.setBank bank with p := BitVec.ofNat 21 p.toNat } 0
    (Issues s t ⟨0, 0, 0, 1⟩ →
      exec (.call t a) s = lands { b with rs := BitVec.ofNat 20 (x.p.toNat + 3) :: b.rs } a) ∧
    (Issues s t (dEff 0 0) → exec (.jump t a) s = lands b a) ∧
    (b.ds = topD d r → Issues s t ⟨2, 0, 0, 1⟩ →
      exec (.exec t) s = lands { b with ds := r, rs := BitVec.ofNat 20 (x.p.toNat + 1) :: b.rs } (BitVec.ofNat 20 d.toNat)) ∧
    (b.ds = topD d r → Issues s t (dEff 2 0) → exec (.jumpX t) s = lands { b with ds := r } (BitVec.ofNat 20 d.toNat)) ∧
    (b.rs = e :: q → Issues s t ⟨0, 0, 1, 0⟩ →
      ∃ (counts : Map Dbl) (free : Nat), exec (.ret t) s = .next { s with m :=
        { (s.m.chosen t).retire t { x.setBank { b with rs := q } with p := BitVec.ofNat 21 e.toNat } 0 with
          counts := counts, free := free } })

/-- R161, R182, R197, R258, R259, R459: what takes a trap takes the entry of EntryState with its type, code, P and INFO; `brk`
halts instead where BRKHALT says so; `eret` in helm restores the top frame, and in deck takes the privilege trap. -/
def Obligations.TrapsAndReturn : Prop :=
  ∀ (s : State) (t : Tid) (code syl : Nonet) (len : Fin 6) (a : Nat),
    let x := s.m.thr t
    let m := s.m.chosen t
    let f := frameAddr t (x.fdepth.toNat - 1)
    let d := m.flushMem t
    let cs := d.rdCells t f 48
    let back : Thread := { (d.thr t).restore cs with fdepth := x.fdepth - 1, resv := none, shadow := none, shWords := [], tops := [] }
    let traps := fun (later ty code addr info : Nat) =>
      let entry := fun (n : Mach) => n.enter t .trap ((n.thr t).p + BitVec.ofNat 21 later) ty code addr info
      Host.Outcome.next (φ := Fault) (ρ := Refusal) { s with m := m.settled t entry }
    (Issues s t (dEff 0 0) → Enters s t →
      exec (.sys t code) s = traps 2 2 code.toNat 0 0 ∧
      (s.m.brkHalts = false →
        exec (.brk t) s = traps 0 3 0 0 0) ∧
      (s.m.brkHalts = true → x.loads = [] → ∃ n, exec (.brk t) s = .next { s with m := n } ∧
        (n.thr t).halted = true ∧ (n.thr t).cause = 3 ∧ (n.thr t).p = x.p ∧ n.mem = s.m.mem ∧ n.regs = s.m.regs ∧ (∀ u, u ≠ t → n.thr u = s.m.thr u)) ∧
      (x.helm = false → exec (.eret t) s = traps 0 1 2 0 0x1AD) ∧
      (x.helm = true → Runs s t 0x040 → x.fdepth ≠ 0 → bit (cs.getD 3 0) 17 = false → bit (cs.getD 3 0) 16 = false →
        exec (.eret t) s = .next { s with m := (d.setThrH t back.ageLoads.stepEnd.waits).coreCount (Tid.coreNo t) 0 1 })) ∧
    (Selects s t → Enters s t → assigned syl.toNat = false →
      exec (.illegalSyllable t syl) s = traps 0 1 1 0 syl.toNat) ∧
    (Selects s t → Enters s t → s.m.beyond t len.val = some a →
      exec (.instructionFetchFault t len) s =
        traps 0 1 6 (a % 0x200000) 0)

/-- R255 to R257: an entry with no load outstanding and no mode change pending, a frame free and its vector enabled, raises
FDEPTH, moves P to the vector's address, points B at the frame, and sets the bank, FLG and LVL for its kind. -/
def Obligations.EntryState : Prop :=
  ∀ (m : Mach) (t : Tid) (k : EntryKind) (p : BitVec 21) (ty code addr info : Nat),
    let x := m.thr t
    let v := m.vecOf t k.vec
    let y := (m.enter t k p ty code addr info).thr t
    let g := x.flg
    x.loads = [] → x.modes = [] → x.fdepth.toNat < 8 → bit v 17 = true → (∀ l, k = .event l → 1 ≤ l ∧ l ≤ 15) →
      y.p = BitVec.ofNat 21 (v.toNat % 65536 * 16) ∧ y.fdepth = x.fdepth + 1 ∧
      y.bank.b = BitVec.ofNat 28 (0x2400 + 0x300 * Tid.num t + 0x60 * x.fdepth.toNat) ∧
      y.shadow = none ∧ y.resv = none ∧ y.berthed = false ∧ y.park = .none ∧ y.i = x.i ∧ y.u = x.u ∧ y.mf = x.mf ∧
      (match k with
        | .trap => y.fastOn = x.fastOn ∧ y.lvl = x.lvl ∧ y.flg = g ||| 0x20000 ∧ y.bank.ds = x.bank.ds
        | .event 15 => y.fastOn = true ∧ y.lvl = 15 ∧ y.flg = 0x28000 ||| (x.norm.flg &&& 0x4000) ∧ y.bank.ds = []
        | .event l => y.fastOn = x.fastOn ∧ y.lvl = BitVec.ofNat 4 l ∧ y.flg = (g ||| 0x30000) &&& ~~~0x8000
        | .fast => y.fastOn = true ∧ y.lvl = x.lvl ∧ y.flg = 0x28000 ||| (x.norm.flg &&& 0x4000) ∧ y.bank.rs = [])

/-- R149, R166: the control registers, read and written. A write of LVL, U, MF or of a mode bit needs helm, and in deck takes the
privilege trap; it applies after two more instructions, while the condition flags change at once. A number without a register reads zero
and takes no write. -/
def Obligations.ControlRegisters : Prop :=
  ∀ (s : State) (t : Tid) (c : Cell) (v : Dbl) (r : List Cell),
    let x := s.m.thr t
    let n := c.toNat % 16
    let regs : List Dbl := [BitVec.ofNat 36 x.flg.toNat, BitVec.ofNat 36 x.lvl.toNat, BitVec.ofNat 36 x.u.toNat, BitVec.ofNat 36 x.mf.toNat,
      BitVec.ofNat 36 (x.bank.rs.length * 32 + x.bank.ds.length), BitVec.ofNat 36 (s.m.ltid t), BitVec.ofNat 36 (s.m.refOf t).toNat]
    let chg := fun (y : Thread) (g : ModeChg) => ends s t { y with modes := x.modes ++ [⟨3, g⟩] } 1
    let y := x.withDs r
    let mode := (Dbl.lo v ^^^ x.flg) &&& 0x3C000
    (x.bank.ds = c :: r → Issues s t (dEff 1 2) → exec (.ctlFrom t) s = ends s t (x.withDs (topD (regs.getD n 0) r)) 1) ∧
    (x.bank.ds = c :: topD v r → Issues s t (dEff 3 0) →
      (n = 0 → x.modes = [] → mode = 0 → exec (.toCtl t) s = ends s t (x.withDsFlg r (blend x.flg 0x1F (Dbl.lo v))) 1) ∧
      (n = 0 → x.modes = [] → mode ≠ 0 → bit mode 15 = false → x.helm = true →
        exec (.toCtl t) s = chg (x.withDsFlg r (blend x.flg 0x1F (Dbl.lo v))) (.flg mode (Dbl.lo v &&& 0x3C01F))) ∧
      (n = 0 → x.modes = [] → bit mode 15 = true → x.helm = true →
        exec (.toCtl t) s = chg (x.withDsFlg r (blend x.flg 0x1F (Dbl.lo v))) (.bank (Dbl.lo v &&& 0x3C01F))) ∧
      (x.helm = true →
        (n = 1 → exec (.toCtl t) s = chg y (.lvl (BitVec.ofNat 4 v.toNat))) ∧
        (n = 2 → exec (.toCtl t) s = chg y (.u (BitVec.ofNat 28 v.toNat))) ∧
        (n = 3 → exec (.toCtl t) s = chg y (.mf (BitVec.ofNat 28 v.toNat)))) ∧
      (4 ≤ n → exec (.toCtl t) s = ends s t y 1) ∧
      (x.helm = true ∨ (n ≠ 1 ∧ n ≠ 2 ∧ n ≠ 3 ∧ (n = 0 → mode = 0)) →
        exec (.toCtl t) s = ends s t (y.writeCtl n v) 1) ∧
      (x.helm = false → (n = 1 ∨ n = 2 ∨ n = 3 ∨ (n = 0 ∧ mode ≠ 0)) →
        exec (.toCtl t) s = .next { s with m := (s.m.chosen t).privTrap t 0x070 }))

/-- R162 to R168, R240, R243, R458: what the end of an instruction does. Beside its thread only counters change, and where
privilege changes its predictor entries; with nothing outstanding P alone advances. -/
def Obligations.RetireFrame : Prop :=
  ∀ (m : Mach) (t u : Tid) (x : Thread) (len : Nat),
    let n := m.retire t x len
    n = { m with threads := n.threads, cores := n.cores, counts := n.counts } ∧
    (u ≠ t → n.thr u = m.thr u) ∧
    (∀ k, k ≠ Tid.coreNo t → n.core k = m.core k) ∧
    ((x.retire len).stepEnd.helm = (m.thr t).helm → n.cores = m.cores) ∧
    (x.mf = (m.thr t).mf → x.loads = [] → x.modes = [] → x.stepping = false → x.helm = (m.thr t).helm →
      n.thr t = { x with p := x.p + BitVec.ofNat 21 len, waited := 0,
                         tops := ((m.thr t).bank.rs.getD 0 0 :: (m.thr t).tops).take 2 })

/-- R57 to R62, R79, R177: `ship` and `scuttle` end the frame of MF and take the frame-state trap without one; `berth` leaves the
thread waiting at it, with no tickets and no reservation. -/
def Obligations.FramesEnd : Prop :=
  ∀ (s : State) (t : Tid),
    let x := s.m.thr t
    let m := s.m.chosen t
    let f := m.flushMem t
    let sent := f.shipFrame x.mf.toNat ((f.thr t).bank.at_ 0)
    let gone := m.scuttleFrame x.mf.toNat
    (Issues s t (dEff 1 0) →
      (x.mf = 0 → exec (.ship t) s = .next { s with m := m.trap t 7 1 0 }) ∧
      (x.mf ≠ 0 → exec (.ship t) s = endsAs s sent t
        { (sent.thr t).setBank ((sent.thr t).bank.pop 1) with mf := 0 } 1)) ∧
    (Issues s t (dEff 0 0) →
      (x.mf = 0 → exec (.scuttle t) s = .next { s with m := m.trap t 7 2 0 }) ∧
      (x.mf ≠ 0 → exec (.scuttle t) s = endsAs s gone t { gone.thr t with mf := 0 } 1) ∧
      (x.mf = 0 → x.loads = [] → x.modes = [] → ∃ n, exec (.berth t) s = .next { s with m := n } ∧
        (n.thr t).berthed = true ∧ (n.thr t).hasBerthed = true ∧ (n.thr t).p = x.p ∧ (n.thr t).resv = none ∧
        (n.thr t).docks = x.dropTickets.docks ∧
        n.mem = s.m.mem ∧ n.regs = s.m.regs ∧ (∀ u, u ≠ t → n.thr u = s.m.thr u)))

/-- R19, R57, R58: one decision of a lock-keeper takes the first head in the order of R19; a frame of a withdrawn kind is
scuttled and counted (the counter is log entry 93's), another goes to the thread chosen for its class, with MF and B its manifest, A its first octet, P its kind's
entry and both stacks empty. -/
def Obligations.DispatchHandsOver : Prop :=
  ∀ (s : State) (p : PLock) (h : Nat × QEntry) (hs : List (Nat × QEntry)) (t : Tid),
    let k := s.m.r .blkKentry h.2.kind.toNat
    let out := s.m.updLock p.val fun q => { q with queue := q.queue.eraseIdx h.1 }
    let head := out.mHead h.2.mf.toNat
    (s.m.lock p.val).state = .serving → s.m.heads p.val = h :: hs →
      (bit k 17 = false → exec (.dispatch p) s = s.becomes ((out.scuttleFrame h.2.mf.toNat).bareCount 0 p.val)) ∧
      (bit k 17 = true → s.m.chooseThread p.val h.2.cls.toNat = some t →
        ∃ m, exec (.dispatch p) s = .next { s with m := m } ∧ (m.lock p.val).queue = (s.m.lock p.val).queue.eraseIdx h.1 ∧
          (m.lock p.val).lastCore = BitVec.ofNat 4 (Tid.core t) ∧ (m.thr t).mf = h.2.mf ∧ (m.thr t).bank.b = h.2.mf ∧
          (m.thr t).bank.a = BitVec.ofNat 28 (head + 8 + fld (out.rdCell none (head + 4)) 17 9) ∧
          (m.thr t).p = BitVec.ofNat 21 (k.toNat % 65536 * 16) ∧ (m.thr t).bank.ds = [] ∧ (m.thr t).bank.rs = [] ∧
          (m.thr t).berthed = false ∧ m.mem = s.m.mem ∧ m.regs = s.m.regs ∧ (∀ u, u ≠ t → m.thr u = s.m.thr u))

/-- R73 to R80, R174: `tow` fills the lowest free slot and leaves its ticket; a reserved command completes at once with BADCMD,
another joins its unit's queue, for an entry of which the thread parks; `moor` takes a completed ticket's status, parks for one that is not complete, and answers BADTKT for any other; BLK_HLPTMO.TMO µs after its
`tow` a timeout completes a ticket with TIMEOUT and keeps its slot. -/
def Obligations.Tickets : Prop :=
  ∀ (s : State) (t : Tid) (c : Cell) (r : List Cell) (i : Fin 4) (j : BitVec 2),
    let x := s.m.thr t
    let m := s.m.chosen t
    let n := c.toNat / 2048 % 16
    let unit := c.toNat / 32768
    let f := m.flushMem t
    let tkt := fld c 17 16
    let k := x.dock tkt
    (x.bank.ds = c :: r → Issues s t (dEff (n + 1) 1) → (List.range 4).find? (fun i => (x.dock i).isFree) = some i.val → x.txns < 4 →
      (reservedCmd unit (c.toNat / 64 % 32) = false → s.m.entryFree unit (BitVec.ofNat 3 (s.m.base t)) = false →
        exec (.tow t) s = s.becomes (m.park t (.queue unit))) ∧
      (reservedCmd unit (c.toNat / 64 % 32) = true ∨ s.m.entryFree unit (BitVec.ofNat 3 (s.m.base t)) = true →
      let y := f.thr t
      let new : Dock := ⟨.busy, .nothing, y.tows + 1, c, (List.range n).map fun q => y.bank.at_ (n - q), y.helm, f.epochOf t,
        BitVec.ofNat 3 (f.base t), f.priOf t, 0, y.mf, f.now⟩
      let g := f.retire t ((Thread.setBank { y with tows := y.tows + 1 }
        { y.bank with ds := BitVec.ofNat 18 (i.val * 65536 + (y.tows + 1).toNat) :: y.bank.ds.drop (n + 1) }).setDock i.val new) 1
      exec (.tow t) s = s.becomes (if reservedCmd unit (c.toNat / 64 % 32) then g.complete t i.val 0x20000 []
        else (g.setHeldCmds unit (g.heldCmds unit ++ [⟨t, i.val⟩])).putFlit t (19 + unit) (f.priOf t) 0))) ∧
    (x.bank.ds = c :: r → Issues s t (dEff 1 1) →
      (k.serial.toNat = c.toNat % 65536 → k.state = .complete →
        let g := m.updThr t fun x => x.setDock tkt { k with state := .free }
        exec (.moor t) s = polled s g t 1 (m.rdCell (some t) (dockAddr t tkt)) true) ∧
      (k.serial.toNat = c.toNat % 65536 → k.state = .busy → exec (.moor t) s = .next { s with m := m.park t (.moor c) }) ∧
      (k.serial.toNat ≠ c.toNat % 65536 ∨ k.state = .free → exec (.moor t) s = polled s m t 1 0x3C000 true)) ∧
    (Tid.ok t = true → (x.dock j.toNat).state = .busy → s.m.past (x.dock j.toNat).since (1000 * fld (s.m.r .blkHlptmo) 11 0) = true →
      let g := s.m.wrCell (some t) (dockAddr t j.toNat) 0x2C000
      let k : Dock := { x.dock j.toNat with state := .complete, owed := if (x.dock j.toNat).owed = .abandoned then .nothing else .timedOut }
      exec (.helperTimeout t j) s = s.becomes (((g.updThr t fun z => z.setDock j.toNat k).unpark t).wakeMoor t))

/-- R119 to R129, R174: bollards. A free one is acquired, an owned one answers `take` with NO and lets `wait` queue behind
the others; `give` by the owner passes it on; a queue place that times out is given up; other arguments are refused with the
status of R120. -/
def Obligations.Bollards : Prop :=
  ∀ (s : State) (t : Tid) (c w : Cell) (r : List Cell) (b : Bol) (u : BitVec 64) (pc : BitVec 21) (d : BitVec 4) (o : BitVec 20),
    let x := s.m.thr t
    let m := s.m.chosen t
    let k := s.m.bol c.toNat
    let f := m.flushMem t
    let may := k.fbonly = false ∨ s.m.base t = 7 ∨ x.helm = true
    (x.bank.ds = c :: r → Issues s t (dEff 1 1) → Runs s t 0x2C0 →
      (4095 < c.toNat → exec (.take t) s = polled s m t 1 0x24000) ∧
      (c.toNat ≤ 4095 → k.owner = none → may →
        exec (.take t) s = polled s (m.acquire c.toNat t) t 1 (if k.orphan then 0x18000 else 0)) ∧
      (c.toNat ≤ 4095 → k.owner = some (s.m.refOf t) → exec (.take t) s = polled s m t 1 0x24001) ∧
      (c.toNat ≤ 4095 → k.owner ≠ some (s.m.refOf t) → k.fbonly = true → s.m.base t ≠ 7 → x.helm = false →
        exec (.take t) s = polled s (m.bolError 4 2) t 1 0x28003) ∧
      (c.toNat ≤ 4095 → k.owner = some o → o ≠ s.m.refOf t → may →
        exec (.take t) s = polled s m t 1 0x04000)) ∧
    (x.bank.ds = c :: r → Issues s t (dEff 1 1) → Runs s t 0x340 →
      (c.toNat ≤ 4095 → (f.thr t).sb = [] → (f.thr t).bank.at_ 0 = c → (f.bol c.toNat).owner = some (f.refOf t) →
        exec (.give t) s = polled s ((f.passOn c.toNat false).disinherit t) t 1 0) ∧
      (c.toNat ≤ 4095 → (f.thr t).sb = [] → (f.thr t).bank.at_ 0 = c → (f.bol c.toNat).owner ≠ some (f.refOf t) →
        exec (.give t) s = polled s (f.bolError 3 0) t 1 0x28002)) ∧
    (x.bank.ds = w :: c :: r → Issues s t (dEff 2 1) → Runs s t 0x300 → x.wait = none → x.ended = [] → w.toNat / 65536 ≠ 3 →
      c.toNat ≤ 4095 →
      may →
      (k.owner = none → exec (.wait t) s = polled s (m.acquire c.toNat t) t 2 (if k.orphan then 0x18000 else 0)) ∧
      (k.owner = some o → o ≠ s.m.refOf t → ∃ n, exec (.wait t) s = .next { s with m := n } ∧
        (n.bol c.toNat).waiters = k.waiters ++ [s.m.refOf t] ∧ (n.thr t).park = .wait ∧ (n.thr t).p = x.p ∧
        (n.thr t).wait = some ⟨.bollard (BitVec.ofNat 12 c.toNat), s.m.waitUntil w, x.p, x.fdepth, none⟩ ∧
        n.mem = s.m.mem ∧ n.regs = s.m.regs ∧ (∀ u, u ≠ t → u ≠ refTid o → n.thr u = s.m.thr u))) ∧
    (Tid.ok t = true → x.wait = some ⟨.bollard b, some u, pc, d, none⟩ → u.toNat ≤ s.m.now →
      let g := s.m.updBol b.toNat fun q => { q with waiters := q.waiters.erase (s.m.refOf t) }
      exec (.waitTimeout t) s = s.becomes (((g.inherit b.toNat).count 0x7600 1).waitOutcome t 0x2C000)) ∧
    ((s.m.bol b.toNat).owner = some o → ∃ n, exec (.inheritLink b) s = .next { s with m := n } ∧
      (n.bol b.toNat).inh = BitVec.ofNat 3 (s.m.waitPri b.toNat) ∧ (n.bol b.toNat).owner = some o ∧
      n.threads = (s.m.setThr (refTid o) { s.m.thr (refTid o) with inh := (n.thr (refTid o)).inh }).threads ∧
      n.mem = s.m.mem ∧ n.regs = s.m.regs)

/-- R116, R201, R254: the event wait, `scan` and aging. -/
def Obligations.WaitsAndAging : Prop :=
  ∀ (s : State) (t : Tid) (c w : Cell) (r : List Cell) (i : Nat) (p : PLock) (j : BitVec 2) (u : BitVec 64) (pc : BitVec 21) (d : BitVec 4),
    let x := s.m.thr t
    let m := s.m.chosen t
    let what : WaitFor := if bit c 16 then .anySource else .source (BitVec.ofNat 9 c.toNat)
    let hit := ((List.range 32).drop (c.toNat % 32)).find? fun k => s.m.scanMask t k != 0
    let mask := match hit with
      | some k => s.m.scanMask t k
      | none => 0
    (x.bank.ds = w :: c :: r → Issues s t (dEff 2 1) → Runs s t 0x300 → x.wait = none → x.ended = [] → w.toNat / 65536 ≠ 3 →
      bit c 17 = true →
      (s.m.awaited t what = some i → exec (.eventWait t) s = polled s m t 2 (BitVec.ofNat 18 (i % 16384))) ∧
      (s.m.awaited t what = none → (bit c 16 = true ∨ s.m.aimed t (c.toNat % 512) = true) →
        let g := m.updThr t fun x => { x with wait := some ⟨what, s.m.waitUntil w, x.p, x.fdepth, none⟩ }
        exec (.eventWait t) s = s.becomes (g.park t .wait))) ∧
    (Tid.ok t = true → x.wait = some ⟨.anySource, some u, pc, d, none⟩ → u.toNat ≤ s.m.now → s.m.bestSource t = none →
      exec (.eventWaitTimeout t) s = .next { s with m := s.m.waitOutcome t 0x2C000 }) ∧
    (x.bank.ds = c :: r → Issues s t (dEff 1 2) →
      exec (.scan t) s = ends s t (x.withDsFlg (BitVec.ofNat 18 mask :: BitVec.ofNat 18 (hit.getD 32) :: r)
        (setBit x.bank.flg 3 (BitVec.ofNat 18 mask == 0))) 1) ∧
    (let older (e : QEntry) : QEntry := { e with waited := s.m.nextQuantum p.val e.waited }
      let g := s.m.updLock p.val fun q => { q with queue := q.queue.modify i older }
      exec (.ageStep (.manifest p i)) s = s.becomes g) ∧
    (Tid.ok t = true → x.ageing = true →
      exec (.ageStep (.thread t)) s = s.becomes
        ((s.m.updThr t fun x => { x with waited := s.m.nextQuantum (Tid.lock t) x.waited }).passPri t)) ∧
    (Tid.ok t = true → (x.dock j.toNat).active = true →
      let k : Dock := { x.dock j.toNat with waited := s.m.nextQuantum (Tid.lock t) (x.dock j.toNat).waited }
      exec (.ageStep (.ticket t j)) s = s.becomes (s.m.updThr t fun x => x.setDock j.toNat k))

/-- R240, R241, R256, R266, R290, R291: what is taken at a boundary: an event of the source presented, a halt, a deferred Tally
trap; and the expiry of a deadline, which is a thread fault with TFC 4. -/
def Obligations.Boundaries : Prop :=
  ∀ (s : State) (t : Tid) (i : Nat) (h : BitVec 3) (info : Cell),
    let x := s.m.thr t
    (Tid.ok t = true → s.m.boundary t = true →
      (x.haltReq = none → x.tally.due = none → Runs s t 0 → s.m.presented t = some i →
        exec (.eventEntry t) s = s.becomes (s.m.entering t fun m =>
          m.enter t (.event (fld (s.m.src (Tid.ctl t) i) 13 10)) x.p 0 i 0 0)) ∧
      (x.haltReq = some h → h ≠ 6 → ∃ m, exec (.haltTaken t) s = .next { s with m := m } ∧
        (m.thr t).halted = true ∧ (m.thr t).cause = h ∧ (m.thr t).haltReq = none ∧ (m.thr t).resv = none ∧ (m.thr t).p = x.p ∧
        m.mem = s.m.mem ∧ m.regs = s.m.regs ∧ (∀ u, u ≠ t → m.thr u = s.m.thr u)) ∧
      (x.haltReq = none → x.tally.due = some info → s.m.ctxBusy t = false →
        let g := s.m.updThr t fun x => { x with tally := { x.tally with due := none } }
        exec (.tallyDeferredTrap t) s = s.becomes (g.trap t 9 info.toNat 0))) ∧
    (Tid.ok t = true → s.m.wdRuns t = true → x.wdEnd ≤ s.m.now →
      exec (.deadlineExpire t) s = .next { s with m := (s.m.threadFault t 4).countEvt (Tid.ctl t) 5 })

/-- R36, R202 to R206, R213, R263: `stm`, `ldm`, `tsave` and `trest`, where the mask is legal, the block lies in memory that the thread
may use, the context is free and fewer than four transactions are outstanding, move their elements, `stm` from the highest down and
the others upward; in a protected run, without a yield point, every element is moved and the instruction ends, with the pointer at the
start of the block or past it.
R207 to R211, R238: the shov family is privileged; with a target that is not a halted thread of the lock it does nothing but clear
Z; with one on which no other such instruction is under way, and whose stores have drained, it copies the area, and a misaligned or
foreign area is a data fault. In a protected run a save writes all sixteen words, sets Z and answers the area; a restore into another
thread replaces its half and answers NEXT. -/
def Obligations.BlockMovesAndShov : Prop :=
  (∀ (s : State) (t : Tid) (c : Cell) (r : List Cell) (k : Nat) (gs : List (Mach → Mach)) (fin : Mach → Shadow → Mach) (h : Shadow),
      let x := s.m.thr t
      let f := (s.m.chosen t).flushMem t
      let popped (m : Mach) : Mach := m.updThr t fun x => x.setBank (x.bank.pop 1)
      let mask := c.toNat
      let rd := x.norm.rs.length
      let size := 4 * (blockElems mask rd).length
      let start := (x.bank.a.toNat + 0x10000000 - size) % 0x10000000
      let ptr := x.bank.a.toNat
      let head := pack (f.rdN (some t) ptr 4) % 2 ^ 18
      let g := f.noteN (some t) ptr 4
      let y := g.thr t
      let hrd := if head.testBit 17 then fld (g.rdDbl (some t) (ptr + 4 * ((blockElems head 0).length - 1))) 4 0 else 0
      let es := ldmElems ptr mask head hrd
      let flg := match es.find? fun e => e.1 == .flg with
        | some e => (Dbl.lo (g.rdDbl (some t) e.2)).toNat
        | none => 0
      let a := (x.bank.a + c.signExtend 28).toNat
      let d := ((s.m.chosen t).drainTally t).flushMem t
      (x.bank.ds = c :: r → Issues s t (dEff 1 0) →
        (Runs s t 0x100 → (f.thr t).txns < 4 → x.progress 0x100 = none → dataCount mask = some k →
          k ≤ (if x.fastOn then x.norm.ds.length else x.norm.ds.length - 1) → s.m.blockFault t true start size 4 = none →
          exec (.stm t) s = s.becomes ((popped f).stmRun t (!x.atBoundary) (builtinShadow 0x100 start mask rd)) ∧
          (x.atBoundary = false → rd ≤ 16 →
            let down := ((blockElems mask rd).zipIdx.map fun e => (e.1, start + 4 * e.2)).reverse
            let put (m : Mach) (e : BlockElem × Nat) : Mach :=
              (m.wrThr t e.2 (unpack ((m.thr t).elemOut mask rd e.1) 4)).updThr t fun x => x.elemPop e.1
            let n := (down.foldl put (popped f)).freeCtx t
            exec (.stm t) s = s.becomes (n.retire t ((n.thr t).setPtr start) 1))) ∧
        (Runs s t 0x140 → (f.thr t).txns < 4 → x.progress 0x140 = none → dataCount mask = some k →
          s.m.blockFault t false ptr 4 4 = none → f.badN (some t) ptr 4 = false → (dataCount head).isSome = true →
          (k = 0 ∨ mask % 4096 = head % 4096) → (if y.fastOn then y.norm.ds.length else y.norm.ds.length - 1) + k ≤ 16 →
          (mask.testBit 17 = false ∨ hrd ≤ 16) → g.blockFault t false ptr (4 * (blockElems head hrd).length) 4 = none →
          ((es.filter fun e => e.1 == .flg || e.1 == .u).find? fun e => g.badN (some t) e.2 4) = none → g.ldmDenied t es = false →
          let h := builtinShadow 0x140 ptr (flg * 2 ^ 18 + mask) (hrd * 2 ^ 18 + head)
          exec (.ldm t) s = s.becomes ((popped g).ldmRun t (!y.atBoundary) h) ∧
          (y.atBoundary = false →
            let get (m : Mach) (e : BlockElem × Nat) : Mach :=
              (m.noteN (some t) e.2 4).updThr t fun x => x.elemIn e.1 e.2 (BitVec.ofNat 36 (pack (m.rdN (some t) e.2 4))) (BitVec.ofNat 18 flg)
            let till (i : Nat) : Mach := (es.take i).foldl get (popped g)
            let n := (till es.length).freeCtx t
            let newA := (es.zipIdx.find? fun e => e.1.1 == .a).map fun e => pack ((till e.2).rdN (some t) e.1.2 4)
            let past := ptr + 4 * (blockElems head hrd).length
            let z := (n.thr t).setPtr (if x.fastOn then past else newA.getD past)
            (∀ i e, es[i]? = some e → (till i).badN (some t) e.2 4 = false) →
            exec (.ldm t) s = s.becomes (n.retire t
              (if es.any (fun e => e.1 == .flg) ∧ x.fastOn = false then z.writeFlg (blend (BitVec.ofNat 18 flg) 0x1F z.flg) else z) 1))) ∧
        (Runs s t 0x180 → (d.thr t).txns < 4 → x.progress 0x180 = none → s.m.tallyFault t true a = none →
          exec (.tsave t) s = s.becomes ((popped d).tallyRun t (!x.atBoundary) false (builtinShadow 0x180 a 0 0)) ∧
          (x.atBoundary = false → a + 40 ≤ 0xC000000 →
            let put (m : Mach) (j : Nat) : Mach := m.wrCells t (a + 8 * j) (((m.thr t).tally.cells.drop (4 * j)).take 4)
            let n := ((List.range 5).foldl put (popped d)).freeCtx t
            exec (.tsave t) s = s.becomes (n.retire t (n.thr t) 1))) ∧
        (Runs s t 0x1C0 → (d.thr t).txns < 4 → x.progress 0x1C0 = none → s.m.tallyFault t false a = none → s.m.saveDue t = false →
          exec (.trest t) s = s.becomes ((popped d).tallyRun t (!x.atBoundary) true (builtinShadow 0x1C0 a 0 0)) ∧
          (x.atBoundary = false → a + 40 ≤ 0xC000000 →
            let get (m : Mach) (j : Nat) : Mach := (m.noteN (some t) (a + 8 * j) 8).updThr t fun x =>
              { x with tally := x.tally.wordIn j (m.rdN (some t) (a + 8 * j) 8) }
            let till (j : Nat) : Mach := (List.range j).foldl get (popped d)
            let n := (till 5).freeCtx t
            (∀ j < 5, (till j).badN (some t) (a + 8 * j) 8 = false) → exec (.trest t) s = s.becomes (n.retire t (n.thr t) 1)))) ∧
      s.m.runSteps t true fin h (gs.map fun g m h => (g m, h, .ok)) =
        fin ((gs.foldl (fun m g => g m) s.m).freeCtx t) (gs.foldl (fun h _ => h.at_ (h.index + 1)) h)) ∧
  (∀ (s : State) (t id : Tid) (why : Nat),
      let x := s.m.thr t
      let m := s.m.chosen t
      let f := m.flushMem t
      let area := ((x.bank.dblAt 2).setWidth 28).toNat
      let kind := f.rdCell (some t) (area + 4)
      let marked (m : Mach) (load : Bool) : Mach :=
        if id = t then m else { m with shovs := mset none m.shovs id.toNat (some ⟨t, load, false, [], false⟩) }
      let popped (m : Mach) (n : Nat) : Mach := m.updThr t fun x => x.setBank (x.bank.pop n)
      let saves (op : Instr) (hi : Bool) (entry : Nat) : Prop :=
        Issues s t (dEff 6 2) → x.helm = true → Runs s t entry → x.progress (BitVec.ofNat 11 entry) = none →
          (s.m.blockFault t true area 128 8 = some why → exec op s = s.becomes (m.dataFault t why true .block area)) ∧
          (s.m.blockFault t true area 128 8 = none → s.m.shovTarget t (x.bank.dblAt 0) = none →
            exec op s = ends s t ((x.setBank (x.bank.pop 6)).pushNext (x.bank.dblAt 4) false) 1) ∧
          (s.m.blockFault t true area 128 8 = none → s.m.shovTarget t (x.bank.dblAt 0) = some id → (f.thr t).txns < 4 →
            let e := f.flushMem id
            e.shovBusy t id = false → (e.thr id).sb = [] →
            let g := popped (marked e false) 6
            let w := if hi then g.drainTally id else g
            exec op s = s.becomes (w.shovRun t (!x.atBoundary) hi
              (builtinShadow (BitVec.ofNat 11 entry) area id.toNat (x.bank.dblAt 4).toNat)) ∧
            (x.atBoundary = false →
              let put (m : Mach) (j : Nat) : Mach :=
                let y := m.thr id
                m.wrCells t (area + 8 * j) (((y.areaCells hi id (x.bank.dblAt 4) (if id = t then y.p + 1 else y.p)).drop (4 * j)).take 4)
              let n := ((List.range 16).foldl put w).freeCtx t
              exec op s = s.becomes ((n.retire t ((n.thr t).pushNext (BitVec.ofNat 36 area) true) 1).shovEnds id)))
      (Selects s t → x.helm = false → exec (.shovLo t) s = s.becomes (m.privTrap t 0x074) ∧
        exec (.shovHi t) s = s.becomes (m.privTrap t 0x075) ∧ exec (.unshov t) s = s.becomes (m.privTrap t 0x076)) ∧
      saves (.shovLo t) false 0x200 ∧ saves (.shovHi t) true 0x240 ∧
      (Issues s t (dEff 4 2) → x.helm = true → Runs s t 0x280 → x.progress 0x280 = none → s.m.blockFault t false area 128 8 = none →
        (s.m.shovTarget t (x.bank.dblAt 0) = none →
          exec (.unshov t) s = ends s t ((x.setBank (x.bank.pop 4)).pushNext (x.bank.dblAt 2) false) 1) ∧
        (s.m.shovTarget t (x.bank.dblAt 0) = some id → f.badN (some t) area 8 = false → (fld kind 17 16 = 1 ∨ fld kind 17 16 = 2) →
          (id ≠ t ∨ x.fastOn = true ∨ fld kind 17 16 ≠ 2 ∨ fld kind 4 0 ≤ 14) → (f.thr t).txns < 4 →
          let f2 := f.flushMem t
          (f2.thr t).txns < 4 →
          let e := f2.flushMem id
          e.shovBusy t id = false →
          let g := popped (marked e true) 4
          exec (.unshov t) s = s.becomes (g.unshovRun t (!x.atBoundary) (builtinShadow 0x280 area id.toNat (fld kind 17 16))) ∧
          (x.atBoundary = false → id ≠ t →
            let till (j : Nat) : Mach := (List.range j).foldl (fun m j => m.noteN (some t) (area + 8 * j) 8) g
            (∀ j < 16, (till j).badN (some t) (area + 8 * j) 8 = false) →
            let n := (till 16).freeCtx t
            let cs := (n.rdCells t area 64).set 2 (setFld ((n.rdCells t area 64).getD 2 0) 17 16 (fld kind 17 16))
            let w := n.restoreInto id cs
            exec (.unshov t) s = s.becomes ((w.retire t ((w.thr t).pushNext (mkDbl (cs.getD 1 0) (cs.getD 0 0)) true) 1).shovEnds id)))))

/-- R214, R224, R225, R295, R308, R309, R311: a customer syllable starts its routine in the core's context, the reserved one for T0 with
a manifest of class 7, or waits for it; a paused one is resumed; at END it leaves the depth its slot gives, its context is free and P
has passed the syllable; a thirty-third microword without a yield point is machine-check reason 2. -/
def Obligations.CustomerRoutines : Prop :=
  ∀ (s : State) (t : Tid) (j : BitVec 5) (c : Ctx) (h : Shadow),
    let x := s.m.thr t
    let m := s.m.chosen t
    let k := Tid.coreNo t
    let d0 := s.m.ru .wlDt k (2 * j.toNat)
    let d1 := s.m.ru .wlDt k (2 * j.toNat + 1)
    let new : Shadow := ⟨0, 0, 0, 0, false, false, false, [], BitVec.ofNat 11 (0x700 + fld d0 7 0), BitVec.ofNat 3 (fld d1 2 0), true,
      BitVec.ofNat 5 (x.bank.ds.length - fld d1 5 3)⟩
    let run : Ctx := ⟨t, BitVec.ofNat 9 (0x140 + j.toNat), new, 0, false, 0, false⟩
    let clean := m.updThr t fun x => { x with np := none }
    let endsAt (pc : Nat) : Prop := let w := (s.m.core k).micro1 pc
      fld w 8 4 = 10 ∧ bit w 0 = false ∧ (s.m.core k).nano1 (fld w 17 9) = 0 ∧ (s.m.core k).fetchBad pc = false ∧
        x.responses = [] ∧ x.loads = [] ∧ x.modes = [] ∧ x.stepping = false
    let done (n : Mach) (depth : Nat) : Prop := (n.thr t).p = x.p + 1 ∧ (n.thr t).bank.ds = toDepth 0 x.bank.ds depth ∧
      (n.thr t).bank.rs = x.bank.rs ∧ (n.thr t).flg = x.flg ∧ n.ctxOf t = none ∧ n.mem = s.m.mem ∧ n.regs = s.m.regs ∧
      ∀ u, u ≠ t → n.thr u = s.m.thr u
    (Selects s t → (x.shadow.filter fun h => h.cust) = none →
      (bit d0 17 = false → exec (.customerSlot t j) s = s.becomes (m.illegal t (0x140 + j.toNat))) ∧
      (bit d0 17 = true → bit d0 16 = true → x.helm = false →
        exec (.customerSlot t j) s = s.becomes (m.privTrap t (0x140 + j.toNat))) ∧
      (bit d0 17 = true → (bit d0 16 = false ∨ x.helm = true) → x.stackErr (dEff (fld d1 5 3) (fld d1 2 0)) = none →
        (clean.ctxBusy t = true → exec (.customerSlot t j) s = s.becomes (clean.stall t .context)) ∧
        (clean.ctxBusy t = false → clean.usesReserved t = false →
          exec (.customerSlot t j) s =
            s.becomes ((clean.updCore k fun q => { q with main := some run }).microRun microFuel t run)) ∧
        (clean.ctxBusy t = false → clean.usesReserved t = true →
          exec (.customerSlot t j) s =
            s.becomes ((clean.updCore k fun q => { q with reserved := some run }).microRun microFuel t run)) ∧
        (clean.ctxBusy t = false → x.bank.ds.length < 32 → endsAt (0x700 + fld d0 7 0) →
          ∃ n, exec (.customerSlot t j) s = s.becomes n ∧ done n (x.bank.ds.length - fld d1 5 3 + fld d1 2 0)))) ∧
    (Tid.ok t = true →
      (s.m.ctxOf t = some c → s.m.coreRuns t = true → x.halted = false → x.faulted = false → s.m.outranked t = false →
        (c.sh.cust = true → exec (.microResume t) s = s.becomes (m.microRun microFuel t c)) ∧
        (c.sh.cust = true → 0x700 ≤ c.sh.mpc.toNat → c.waits = false → c.ran < 32 → endsAt c.sh.mpc.toNat →
          ∃ n, exec (.microResume t) s = s.becomes n ∧ done n (c.sh.floor.toNat + c.sh.out.toNat)) ∧
        (c.sh.cust = false → c.sh.mpc = 0x1C0 → exec (.microResume t) s = s.becomes (m.tallyRun t false true c.sh))) ∧
      (s.m.ctxOf t = none → x.shadow = some h → exec (.microResume t) s = s.becomes (s.m.resumeShadow t h)) ∧
      (s.m.ctxOf t = none → x.shadow = some h → h.cust = true → Selects s t → Runs s t 0x0C0 →
        exec (.microResume t) s = s.becomes ((m.endProgress t).startCtx t (m.syllable t) h)) ∧
      (s.m.ctxOf t = some c → 32 ≤ c.ran →
        exec (.yieldWatchdog t) s = s.becomes (((s.m.freeCtx t).wubit .wlStat k 16 true).mcheck t 2 0)))

/-- R212, R263, R272 to R279, R289: the moves between stack and Tally, in a thread that has no lazy save to make first. `>f` and `fmov` join the operations in program order; `f>` and `tsr>`
see every one before them completed; `>tsr` overwrites the flags of those. A completing operation writes its registers and
accrues its exceptions, or raises the precise trap in its stead.
R275, R277, R280 to R287: every Tally operation, in a thread that has no lazy save to make first, takes its operands as program order has them, and its result and exceptions
are those of its format and of TSR's rounding attribute; it holds its thread where an enabled trap is precise. -/
def Obligations.TallyOperations : Prop :=
  (∀ (s : State) (t : Tid) (o : Nonet) (p : TallyOp) (r : List TallyOp),
      let m := s.m.chosen t
      let free := s.m.saveDue t = false
      let n := if (m.thr t).tally.writes (opFd o) then m.drainTally t else m
      let n2 := if [opFd o, opFa o].any (m.thr t).tally.writes then m.drainTally t else m
      let x := n.thr t
      let x2 := n2.thr t
      let y := m.thr t
      let d := m.drainTally t
      let z := d.thr t
      let x0 := s.m.thr t
      let op (x : Thread) (syl : Nonet) (v : Dbl) : TallyOp :=
        ⟨syl, x.p, BitVec.ofNat 3 (opFd o), v, none, 0, x.tallyNow.enables, true, bit x.flg 14 && x.tallyNow.enables != 0⟩
      let join (x : Thread) (q : TallyOp) : Thread := { x with tally := { x.tally with queue := x.tally.queue ++ [q] } }
      (free → Issues s t (dEff 2 0) →
        let q := op x 0x160 (x.bank.dblAt 0)
        exec (.toF t o) s = s.becomes (n.retireTally t ((join x q).setBank (x.bank.pop 2)) q.precise)) ∧
      (free → Issues s t (dEff 0 0) →
        let q := op x2 0x162 (x2.tallyNow.reg (opFa o))
        exec (.fmov t o) s = s.becomes (n2.retireTally t ((join x2 q).setBank x2.bank) q.precise)) ∧
      (free → Issues s t (dEff 0 2) → exec (.fFrom t o) s = endsAs s d t (z.setBank (z.bank.pushD (z.tally.reg (opFa o)))) 2) ∧
      (free → Issues s t (dEff 0 1) → exec (.tsrFrom t) s = endsAs s d t (z.setBank (z.bank.push z.tally.tsr)) 2) ∧
      (free → Issues s t (dEff 1 0) →
        let late (o : TallyOp) : TallyOp := { o with accrue := false }
        let w : Tally := { y.tally with tsr := tsrStored (y.bank.at_ 0), queue := y.tally.queue.map late }
        exec (.toTsr t) s = endsAs s m t (Thread.setBank { y with tally := w } (y.bank.pop 1)) 2) ∧
      (Tid.ok t = true → x0.tally.queue = p :: r →
        (p.precise = true → p.exc &&& p.enabled ≠ 0 → x0.faulted = false →
          let g := s.m.setThr t { x0 with p := p.pc, tally := { x0.tally with queue := r } }
          exec (.tallyComplete t) s = s.becomes (g.trap t 9 (p.syl.toNat * 512 + p.exc.toNat) 0)) ∧
        (p.precise = false →
          exec (.tallyComplete t) s =
            s.becomes ((s.m.setThr t { x0 with tally := x0.tally.completeOne }).coreCount (Tid.coreNo t) 8 1)) ∧
        (p.precise = true → p.exc &&& p.enabled = 0 →
          exec (.tallyComplete t) s = s.becomes
            ((s.m.setThr t (Thread.stepEnd { x0 with tally := x0.tally.completeOne })).coreCount (Tid.coreNo t) 8 1)))) ∧
  (∀ (s : State) (t : Tid) (o : Nonet) (half : Bool), Issues s t (dEff 0 0) → s.m.saveDue t = false →
      let m := s.m.chosen t
      let base : Nat := if half then 0x174 else 0x168
      let f := fmtOf half
      let g := fmtOf (!half)
      let placed (regs : List Nat) (fresh : Bool) (syl : Nat) (out : Mach → Tally → TallyOut) : Host.Outcome State Fault Refusal :=
        let n := if regs.any (m.thr t).tally.writes then m.drainTally t else m
        let x := n.thr t
        let y := x.tallyNow
        let v := out n y
        let op : TallyOp := ⟨BitVec.ofNat 9 syl, x.p, BitVec.ofNat 3 (opFd o), v.fd, v.fa.map fun d => (BitVec.ofNat 3 (opFa o), d),
          v.exc, y.enables, true, bit x.flg 14 && y.enables != 0⟩
        let w : Thread := { x with tally := { x.tally with queue := x.tally.queue ++ [op] } }
        s.becomes ((if fresh then n.take else n).retireTally t (w.setBank x.bank) op.precise)
      let two (k : Nat) (out : Nat → Nat → Nat → Nat × Exc) : Host.Outcome State Fault Refusal :=
        placed [opFd o, opFa o, opFb o] false (base + k) fun _ y =>
          outNat (out y.rm ((y.reg (opFa o)).toNat % (if half then 2 ^ 16 else 2 ^ 32)) ((y.reg (opFb o)).toNat % (if half then 2 ^ 16 else 2 ^ 32)))
      let one (k : Nat) (out : Nat → Dbl → Nat × Exc) : Host.Outcome State Fault Refusal :=
        placed [opFd o, opFa o] false (base + k) fun _ y => outNat (out y.rm (y.reg (opFa o)))
      exec (.fadd t half o) s = two 0 f.add ∧ exec (.fsub t half o) s = two 1 f.sub ∧ exec (.fmul t half o) s = two 2 f.mul ∧
      exec (.fma t half o) s = placed [opFd o, opFa o, opFb o] false (base + 3) (fun _ y =>
        outNat (f.fma y.rm (f.bitsOf (y.reg (opFa o))) (f.bitsOf (y.reg (opFb o))) (f.bitsOf (y.reg (opFd o))))) ∧
      exec (.fmin t half o) s = two 4 (fun _ => f.minMax false) ∧ exec (.fmax t half o) s = two 5 (fun _ => f.minMax true) ∧
      exec (.fcmp t half o) s = two 6 (fun _ => f.cmp) ∧
      exec (.fcvtFromInt t half o) s = one 8 f.fromInt ∧
      exec (.fcvtToInt t half o) s = placed [opFd o, opFa o] false (base + 9) (fun _ y =>
        ⟨(f.toInt y.rm (f.bitsOf (y.reg (opFa o)))).1, none, (f.toInt y.rm (f.bitsOf (y.reg (opFa o)))).2⟩) ∧
      exec (.fcvtFormat t half o) s = one 10 (fun rm d => f.convert g rm (g.bitsOf d)) ∧
      exec (.frnd t half o) s = one 11 (fun rm d => f.rnd rm (f.bitsOf d)) ∧
      exec (.fdst t half o) s = placed [opFd o, opFa o, opFb o] true (base + 7)
        (fun n y => tallyStep half (if half then 1 else 0) f.div true o n y) ∧
      exec (.fsqst t half o) s = placed [opFd o, opFa o] true (if half then 0x166 else 0x165)
        (fun n y => tallyStep half (if half then 3 else 2) (fun rm a _ => f.sqrt rm a) false o n y))

/-- R108 to R112, R348: the timebase's registers, alarms and timestamp queues.
R108, R109: a REFCLK cycle adds 4 ns and the rate to the steered time and 4 ns to the monotonic count; a step adds TB_STEP to
the steered time alone. -/
def Obligations.TimebaseAndAlarms : Prop :=
  (∀ (s : State) (who : Master) (v : Cell) (i : Fin 4) (a : BitVec 4) (q : Quay) (tag : BitVec 7) (ts : BitVec 32) (ns : BitVec 64)
      (r : List (BitVec 7 × BitVec 64)),
      let m := s.m
      let k := (m.r .tbAlmsel).toNat
      let x := m.alarm k
      let sel := (m.r .tbTssel).toNat
      let popped (m : Mach) : Mach := m.updEq sel fun e => { e with stamps := r }
      let noted (m : Mach) : Mach := m.updEq q.val fun e => { e with stamps := e.stamps ++ [(tag, extend32 m.tb.ns ts)] }
      (Takes s who ⟨.tbCtl, 0, 0⟩ → exec (.tbSnap who) s = s.becomes m.snap ∧ exec (.tbStep who) s = s.becomes m.step80) ∧
      (Takes s who ⟨.tbRate, 0, 1⟩ →
        exec (.tbRateWrite who v) s = s.becomes (m.rateWrite v) ∧ (m.rateWrite v).tb = { m.tb with rate := limitRate (mkDbl v (m.r .tbRate 0)) }) ∧
      (Takes s who ⟨.tbAlmt, 0, i.val⟩ →
        (m.alarmDue k = false → exec (.alarmArmWrite who i.castSucc v) s =
          s.becomes (m.setAlarm k { x with time := put64 x.time i.val v, armed := true })) ∧
        (m.alarmDue k = true →
          let g := (m.fireAlarm k).wakeAll
          exec (.alarmArmWrite who i.castSucc v) s =
            s.becomes (g.setAlarm k { g.alarm k with time := put64 (g.alarm k).time i.val v, armed := true }))) ∧
      (Takes s who ⟨.tbAlmctl, 0, 0⟩ →
        let y : Alarm := { x with en := bit v 17, armed := x.armed || (bit v 17 && !x.en), fired := x.fired && !bit v 16 }
        exec (.alarmArmWrite who 4 v) s = s.becomes ((m.withLines (everyCtl k) fun m => m.setAlarm k y).wakeAll)) ∧
      (m.alarmDue a.toNat = true → exec (.alarmFire a) s = s.becomes ((m.fireAlarm a.toNat).wakeAll)) ∧
      (bit (m.r .qeCtl q.val) 17 = true → (m.eq q.val).stamps.length < 64 →
        exec (.tsReturn q tag ts) s = s.becomes ((m.withLines (everyCtl (16 + q.val)) noted).wakeAll)) ∧
      (bit (m.r .qeCtl q.val) 17 = true → 64 ≤ (m.eq q.val).stamps.length →
        exec (.tsReturn q tag ts) s = s.becomes ((m.updEq q.val fun e => { e with ovf := true }).count 0x7440 1)) ∧
      (bit (m.r .qeCtl q.val) 17 = false → exec (.tsReturn q tag ts) s = s.becomes (m.count 0x7440 2)) ∧
      (Answers s who ⟨.tbTspop, 0, 0⟩ → (m.eq sel).stamps = (tag, ns) :: r →
        let g := ((cells64 ns).zipIdx).foldl (fun m e => m.w .tbTsv e.1 e.2) (m.withLines (everyCtl (16 + sel)) popped)
        exec (.tsPop who) s = s.reads (if m.quiet who then m else g) (BitVec.ofNat 18 (131072 + 65536 * b2n (m.eq sel).ovf + tag.toNat)))) ∧
  (∀ (m : Mach),
      let c := fun (n : Nat) => m.r .tbStep n
      let d : BitVec 80 := (c 4).extractLsb' 0 10 ++ c 3 ++ c 2 ++ c 1 ++ (c 0).extractLsb' 0 16
      m.tick.tb.mono = m.tb.mono + 4 ∧
      m.tick.tb.steered = m.tb.steered + BitVec.ofNat 96 (4 * 2 ^ 32) + m.tb.rate.signExtend 96 ∧
      m.step80.tb.steered = m.tb.steered + (d.signExtend 96 <<< 16) ∧ m.step80.tb.mono = m.tb.mono ∧
      (∀ v : Dbl, -(2 ^ 28) ≤ (limitRate v).toInt ∧ (limitRate v).toInt ≤ 2 ^ 28))

/-- R22 to R27, R35, R114, R399: a link sends a fly-boat flit first, else the due or more urgent of normal and towpath, with a credit
of the channel, a request with a buffer reserved for its response; a received flit is buffered, or discarded with its flag and
answered; a freed buffer returns its credit and answers its request; CNL_VCCFG keeps a legal division. -/
def Obligations.CanalFlits : Prop :=
  ∀ (s : State) (l : LinkId) (f g : Flit) (who : Master) (v : Cell) (ok : Bool) (ch : Channel) (rest : List (Flit × Channel)),
    let m := s.m
    let k := m.link (LinkId.key l)
    let sends (f : Flit) (c : Channel) (n : Nat) : Host.Outcome State Fault Refusal :=
      let a := m.updLink (LinkId.key l) fun k => k.send f c n
      s.becomes (if l.resp then a else a.updLink (respKey f.port) fun k => { k with reserved := k.reserved + 1 })
    let ends (a : Mach) (f : Flit) : Host.Outcome State Fault Refusal :=
      s.becomes (if l.resp then a.updLink (LinkId.key l) fun k => { k with reserved := k.reserved - 1 }
        else a.updLink (respKey f.port) fun k => { k with waiting := k.waiting ++ [{ f with waited := 0 }] })
    let due := 2 ^ (fld (m.r .cnlVccfg) 15 13 + 1) ≤ k.sinceTow + 1
    let lost := m.updLink (LinkId.key l) fun k => { k with flying := rest, grants := m.regrant k.grants ch }
    ((∀ f ∈ k.waiting, l.resp = false ∧ 64 ≤ (m.link (respKey f.port)).reserved) → exec (.canalFlitSend l) s = s.becomes m) ∧
    (m.headOf l .flyboat = some f →
      (0 < k.credits .flyboat → exec (.canalFlitSend l) s = sends f .flyboat k.sinceTow) ∧
      (k.credits .flyboat = 0 → 0 < k.credits .normal → exec (.canalFlitSend l) s = sends f .normal k.sinceTow)) ∧
    (m.headOf l .flyboat = none →
      (m.headOf l .normal = some f → 0 < k.credits .normal → m.headOf l .towpath = none →
        exec (.canalFlitSend l) s = sends f .normal (k.sinceTow + 1)) ∧
      (m.headOf l .normal = none → m.headOf l .towpath = some g → 0 < k.credits .towpath →
        exec (.canalFlitSend l) s = sends g .towpath 0) ∧
      (m.headOf l .normal = some f → m.headOf l .towpath = some g → 0 < k.credits .normal → 0 < k.credits .towpath →
        ((due ∨ m.flitPri f < m.flitPri g) → exec (.canalFlitSend l) s = sends g .towpath 0) ∧
        (¬ due → m.flitPri g < m.flitPri f → exec (.canalFlitSend l) s = sends f .normal (k.sinceTow + 1)))) ∧
    (k.flying = (f, ch) :: rest →
      (ok = false → exec (.canalFlitReceive l ok) s = ends (lost.canalErr 2 2) f) ∧
      (ok = true → k.buffered.length < 64 → f.ref.all m.current = true → exec (.canalFlitReceive l ok) s =
        s.becomes (m.updLink (LinkId.key l) fun k => { k with flying := rest, buffered := k.buffered ++ [(f, ch)] })) ∧
      (ok = true → k.buffered.length < 64 → f.ref.all m.current = false →
        exec (.canalFlitReceive l ok) s = ends (lost.canalErr 3 1) f) ∧
      (ok = true → 64 ≤ k.buffered.length → exec (.canalFlitReceive l ok) s = ends (lost.canalErr 1 3) f)) ∧
    (takeCredit ch k.buffered = (some f, rest) → exec (.creditReturn l ch) s =
      ends (m.updLink (LinkId.key l) fun k => { k with buffered := rest, grants := m.regrant k.grants ch }) f) ∧
    (Takes s who ⟨.cnlVccfg, 0, 0⟩ →
      let bad := fld v 10 6 < 4 ∨ 16 < fld v 10 6 ∨ 32 < fld v 5 0 ∨ (bit (m.r .blkFbctl) 17 = true ∧ fld v 5 0 < 8) ∨
        64 < fld v 5 0 + fld v 10 6 + 16
      (bad → exec (.vccfgWrite who v) s = s.becomes (m.wbit .cnlErr 0 true)) ∧
      (¬ bad → exec (.vccfgWrite who v) s = s.becomes (m.w .cnlVccfg (v &&& 0xE7FF))))

/-- R30 to R32, R428: a pace window that closes on a powered domain records its count; a domain that is off or parked records
none; a calibration runs, and its end stores its result. -/
def Obligations.Pace : Prop :=
  ∀ (s : State) (d : BitVec 5) (count : BitVec 13) (who : Master) (p : PLock) (trim : BitVec 8),
    let i := d.toNat
    let low := count.toNat < fld (s.m.r .blkPaceCtl) 12 0
    (0 < i → i ≤ 23 → s.m.isOn i = true → (i < 7 ∨ (s.m.lock (i - 7)).parked = false) →
      ∃ n, exec (.paceWindowClose d count) s = s.becomes n ∧ n.paceLow = mset false s.m.paceLow i (decide low) ∧ n.mem = s.m.mem ∧ n.threads = s.m.threads ∧
        n.locks = s.m.locks ∧
        n.sluice.reduced = ((switched.filter fun d => d ≠ 1 ∧ d ≠ 5 ∧ d ≠ 6).any (fun d => mget false n.paceLow d) &&
          (bit (s.m.r .blkPaceCtl) 17 || s.m.sluice.reduced))) ∧
    ((i = 0 ∨ 23 < i ∨ s.m.isOn i = false) → exec (.paceWindowClose d count) s = s.becomes s.m) ∧
    (Takes s who ⟨.plPacecal, p.val, 0⟩ → (s.m.lock p.val).state = .held →
      let g := s.m.wu .plPacecal p.val (s.m.ru .plPacecal p.val)
      exec (.paceCalRun who p) s = s.becomes (g.updLock p.val fun k => { k with calibrating := true })) ∧
    ((s.m.lock p.val).calibrating = true →
      let g := s.m.updLock p.val fun k => { k with calibrating := false }
      let v := setFld (setBit (s.m.ru .plPacecal p.val) 16 true) 7 0 trim.toNat
      exec (.paceCalDone p trim false) s = s.becomes (g.wu .plPacecal p.val v) ∧
      exec (.paceCalDone p trim true) s =
        s.becomes ((((g.wu .plPacecal p.val (setBit v 15 true)).count 0x7B00 7).faultSource 31 32).wakeEvents 31))

/-- R223, R226 to R228, R235, R327 to R329: a line of good parity enters a line buffer from the instruction cache or the lock code cache,
and the lock code cache from the patch or the image; a miss counts and parks the thread that needs the line; an invalidation drops what it names, and its busy bit falls when it has ended. -/
def Obligations.CodeCaches : Prop :=
  ∀ (s : State) (t : Tid) (line : BitVec 15) (i : Nat) (l : CodeLine) (ss : List Nonet) (who : Master) (k : CoreRef) (p : PLock)
    (u : BitVec 6) (j : BitVec 11) (v : Cell),
    let m := s.m
    let x := m.thr t
    let c := Tid.coreNo t
    let base := m.slotOf t * 0x8000
    let n := base + line.toNat
    let at_ := base + x.p.toNat / 32 % 0x8000
    let own := n == at_ || n == at_ + 1
    let put (m : Mach) (ss : List Nonet) : Mach :=
      let b := m.updCore c fun c => { c with lines := mput c.lines (bufferHalf c t at_ n) ⟨BitVec.ofNat 16 n, ss, 0, false⟩ }
      if (b.thr t).park = .fetch ∧ b.fetched t = true then b.updThr t Thread.unparked else b
    let missed := if own && !(m.coreCount c 4 1).fetched t && x.park == .none then (m.coreCount c 4 1).park t .fetch else m.coreCount c 4 1
    (Tid.ok t = true → m.coreRuns t = true →
      (cacheFind (m.core c).icache n = some (i, l) → l.par = false →
        let g := m.updCore c fun c => { c with icache := cacheTouch c.icache i l }
        exec (.lineFill t line) s = s.becomes (put g l.syls)) ∧
      (cacheFind (m.core c).icache n = none → Tid.tk t = false → cacheFind (m.lock (Tid.lock t)).lcc n = some (i, l) → l.par = false →
        let g := if own then missed.updLock (Tid.lock t) fun q => { q with lcc := cacheTouch q.lcc i l } else missed
        let h := g.updCore c fun c => { c with icache := cacheFill c.icache ((List.range 4).map (n % 64 * 4 + ·)) n l.syls }
        exec (.lineFill t line) s = s.becomes (put h l.syls)) ∧
      (cacheFind (m.core c).icache n = none → Tid.tk t = false → cacheFind (m.lock (Tid.lock t)).lcc n = none →
        exec (.lineFill t line) s = s.becomes missed) ∧
      (Tid.tk t = false → m.codeLine 1 n = some ss → cacheFind (m.lock (Tid.lock t)).lcc n = none →
        exec (.lccFill t line) s = s.becomes ((m.noteLine 1 n).updLock (Tid.lock t) fun q =>
          if (cacheFind q.lcc n).isSome then q else { q with lcc := cacheFill q.lcc (m.lccWays t n) n ss }))) ∧
    (k.val < 272 → exec (.icInvalidationDone k) s = s.becomes (m.wubit .crStat k.val 17 false)) ∧
    (k.val < 272 → Takes s who ⟨.crCtl, k.val, 0⟩ →
      exec (.icinv who k) s = s.becomes (m.crCtlWrite k.val (m.ru .crCtl k.val ||| 0x10000))) ∧
    (Takes s who ⟨.lkLccctl, p.val, 0⟩ →
      let g := m.wu .lkLccctl p.val (BitVec.ofNat 18 (min 4 (fld (m.ru .lkLccctl p.val ||| 0x20000) 2 0)))
      exec (.lccInvalidate who p) s = s.becomes (g.lccDrop p.val fun _ => true)) ∧
    exec (.lccInvalidationDone p) s = s.becomes (m.wubit .lkLccstat p.val 17 false) ∧
    (Takes s who ⟨.dbgPatch, 0, u.toNat⟩ →
      (m.r .dbgPatch u.toNat = v → exec (.patchWrite who u v) s = s.becomes (m.w .dbgPatch v u.toNat)) ∧
      (m.r .dbgPatch u.toNat ≠ v →
        exec (.patchWrite who u v) s = s.becomes (((m.w .dbgPatch v u.toNat).patchDrop (m.r .dbgPatch u.toNat)).patchDrop v))) ∧
    (Takes s who ⟨.dbgPram, 0, j.toNat⟩ →
      (bit (m.r .dbgPatch (j.toNat / 32)) 17 = false →
        exec (.pramWrite who j v) s = s.becomes (m.w .dbgPram (v &&& 0x1FF) j.toNat)) ∧
      (bit (m.r .dbgPatch (j.toNat / 32)) 17 = true → exec (.pramWrite who j v) s = s.becomes (m.wbit .dbgPstat 16 true))) ∧
    exec .patchInvalDone s = s.becomes (m.wbit .dbgPstat 17 false)

/-- R38 to R46, R70, R343 to R346: the beats of a quay. One transfers while READY is 1, or at any time where RLAT is not 0; an SOF
opens a frame on an enabled quay, its lanes join it, an EOF ends it with CNT lanes; a quay without a frame counts stray beats, and
takes none while EN is 0.
R39 to R48, R70 to R72, R88: what happens to a quay beside its beats: the gauger's answer, a missing EOF, a new quarantine window
and the end of quarantine, which a write before the last violation does not bring, the supply of holds, the acceptance of manifests,
and the exchange of the gauger's banks, which each quay takes at once while no frame is open on it or its EN is 0. -/
def Obligations.Ingress : Prop :=
  (∀ (s : State) (q : Quay) (b : Beat) (f : OpenFrame),
      let m := s.m
      let en := bit (m.r .qiCtl q.val) 17
      let quar := bit (m.r .qiViol q.val) 17
      let fr := (m.iq q.val).frame
      let good := b.par = parityOf b.data
      let a := m.updIq q.val fun i => { i with beatAt := m.now }
      (m.transfers q.val = (fld (m.r .qiPhy q.val) 17 16 != 0 || m.iqReady q.val)) ∧
      (m.transfers q.val = false →
        exec (.ingressSof q b) s = s.becomes m ∧ exec (.ingressBeat q b) s = s.becomes m ∧ exec (.ingressEof q b) s = s.becomes m) ∧
      (m.transfers q.val = true →
        (fr = none → en = true → quar = false → b.overrun = false →
          let g := if m.unknownKind b.kind then a.viol q.val 5 9 else a
          let o : OpenFrame := { a.openFrame q.val { b with sof := true } with discard := m.unknownKind b.kind }
          exec (.ingressSof q b) s = s.becomes (g.beatIn q.val o { b with sof := true }) ∧
          (b.sof = false →
            exec (.ingressBeat q b) s = s.becomes (a.count (0x7100 + q.val) 0x0D) ∧
            exec (.ingressEof q b) s = s.becomes (a.count (0x7100 + q.val) 0x0D))) ∧
        (fr = none → en = false →
          exec (.ingressSof q b) s = s.becomes a ∧ exec (.ingressBeat q b) s = s.becomes a ∧ exec (.ingressEof q b) s = s.becomes a) ∧
        (fr = some f → b.overrun = false → good →
          (f.discard = false → f.oversize = false →
            exec (.ingressBeat q b) s =
              s.becomes ((a.setFrame q.val (some f)).addLanes q.val f (lanes b.data))) ∧
          (b.sof = false → f.discard = false → f.oversize = false → badCnt b.cnt = false →
            let g : OpenFrame := { f with err := f.err || b.err }
            let h := (a.setFrame q.val (some f)).addLanes q.val g ((lanes b.data).take b.cnt.toNat)
            let n := match (h.iq q.val).frame with
              | some f => h.closeFrame q.val f
              | none => h
            exec (.ingressEof q b) s = s.becomes n) ∧
          (f.discard = true → ∃ n, exec (.ingressBeat q b) s = s.becomes n ∧ (n.iq q.val).frame = some f ∧ n.mem = m.mem)))) ∧
  (∀ (s : State) (q : Quay) (f : OpenFrame) (p : Parse) (marks : List Nat) (who : Master),
      let m := s.m
      let fr := (m.iq q.val).frame
      let routed := m.route q.val f p marks
      let tmo := fld (m.r .qiLim q.val) 17 14
      let late := (m.iq q.val).beatAt + 1000 * 2 ^ tmo ≤ m.now
      let window := (m.iq q.val).violAt + 1000000 * fld (m.r .qiQthr q.val) 11 0 ≤ m.now
      (fr = some f → f.discard = false → f.parse = none → m.parse f.bank f.root (f.nonets.map octet) false = some (p, marks) →
        exec (.gaugerLeaf q) s =
          s.becomes (if routed.2.2 then routed.1.storeOpen q.val routed.2.1 else routed.1.discard q.val routed.2.1)) ∧
      (fr = some f → tmo ≠ 0 → late → exec (.missingEof q) s = s.becomes ((m.viol q.val 1 5).cutFrame q.val f)) ∧
      ((tmo = 0 ∨ ¬ late) → exec (.missingEof q) s = s.becomes m) ∧
      (window → exec (.quarWindowExpire q) s = s.becomes (m.updIq q.val fun i => { i with viols := 0 })) ∧
      (¬ window → exec (.quarWindowExpire q) s = s.becomes m) ∧
      (fr = none → (m.iq q.val).waiting = [] → (m.iq q.val).ended = [] →
        exec (.ingressHoldResume q) s = s.becomes m ∧ exec (.manifestAccept q) s = s.becomes (m.acceptWaiting (16 + q.val))) ∧
      (let g := m.resume q.val
       (g.iq q.val).frame = some f → exec (.ingressHoldResume q) s = s.becomes (g.storeOpen q.val f)) ∧
      exec (.manifestAccept q) s = s.becomes ((m.resume q.val).acceptWaiting (16 + q.val)) ∧
      (Takes s who ⟨.qiViol, 0, q.val⟩ →
        (bit (m.r .qiViol q.val) 17 = true → exec (.quarClear who q) s = s.becomes (m.withLines [(31, 38 + q.val)] fun m =>
          (m.w .qiViol (m.r .qiViol q.val &&& 0x1FFFF) q.val).updIq q.val fun i => { i with viols := 0 })) ∧
        (bit (m.r .qiViol q.val) 17 = false → exec (.quarClear who q) s = s.becomes (m.withLines [(31, 38 + q.val)] fun m =>
          m.w .qiViol (m.r .qiViol q.val &&& 0x1FFFF) q.val))) ∧
      (Takes s who ⟨.gauCtl, 0, 0⟩ →
        (m.swapping = true → exec (.gauSwap who) s = s.becomes m) ∧
        (m.swapping = false → exec (.gauSwap who) s = s.becomes m.startSwap.swapEnd)) ∧
      (m.startSwap.iq q.val).bank = (if fr = none ∨ bit (m.r .qiCtl q.val) 17 = false then !m.gauBank else (m.iq q.val).bank) ∧
      (m.startSwap.iq q.val).swapping = decide (¬ (fr = none ∨ bit (m.r .qiCtl q.val) 17 = false)))

/-- R65 to R69, R141: NEXT moves to the lowest held number when the gap timer has run for TMO µs, and a pair of which one copy is
missing PAIRTMO ns after the other ended is settled without it.
R61 to R63, R100, R102, R347, R349, R481: a free quay takes the queue that wins and sends its head frame beat by beat; its last beat
returns the slot; a stalled one is abandoned and its quay disabled. -/
def Obligations.GatesAndEgress : Prop :=
  (∀ (s : State) (d : BitVec 12) (f : Shipped) (seq : Cell) (h : HalfPair),
      let m := s.m
      let i := d.toNat
      let g := m.gate i
      let n := m.ahead i f.seq
      let passed := g.resolved.filter fun s => decide (m.ahead i s < n)
      let tmo := fld (m.r .qeOrdprof g.timerProf.toNat) 15 0
      let due := g.timer && tmo != 0 && decide (g.timerAt + 1000 * tmo ≤ m.now)
      (due = true → m.lowestHeld i = some f →
        let k := m.countN 0x7300 1 (n - passed.length)
        exec (.gapTimeout d) s = s.becomes ((k.updGate i fun g =>
          { g with resolved := g.resolved.filter fun s => !passed.contains s }).moveNext i f.seq)) ∧
      (due = false → exec (.gapTimeout d) s = s.becomes m) ∧
      ((g.pairs.find? fun h => h.seq == seq) = some h → m.now < h.since + fld (m.r .blkFbctl) 9 0 →
        exec (.pairTimeout d seq) s = s.becomes m) ∧
      ((g.pairs.find? fun h => h.seq == seq) = some h → h.since + fld (m.r .blkFbctl) 9 0 ≤ m.now →
        let k := m.updGate i fun g => { g with pairs := g.pairs.erase h, settled := g.settled ++ [seq] }
        exec (.pairTimeout d seq) s =
          s.becomes (if h.second then k.settlePair i seq .scuttled h.ended true else k.settlePair i seq h.ended .scuttled true))) ∧
  (∀ (s : State) (q : Quay) (j : Nat) (f : Shipped) (c : Sending),
      let m := s.m
      let a := (List.range 8).foldl (fun m j => m.dropLong q.val j ((m.shape q.val).depth j)) (m.accrue q.val)
      let on := bit (m.r .qeCtl q.val) 17
      (on = true → (m.eq q.val).cur = none → a.chooseQueue q.val = some (j, f) →
        exec (.sluiceSelect q) s = s.becomes ((a.updShape q.val fun s => s.pop j).startFrame q.val f)) ∧
      (on = true → (m.eq q.val).cur = none → a.chooseQueue q.val = none → exec (.sluiceSelect q) s = s.becomes a) ∧
      ((on = false ∨ (m.eq q.val).cur.isSome = true) → exec (.sluiceSelect q) s = s.becomes m) ∧
      ((m.eq q.val).cur = some c →
        (c.beat.eof = true → exec (.egressBeat q) s = s.becomes ((m.freeSlot c.f).endSending q.val)) ∧
        (c.beat.eof = false →
          let n := m.setCur q.val (some { c with staged := c.staged.drop 16, beats := c.beats + 1, since := m.now })
          exec (.egressBeat q) s = s.becomes ((n.stage q.val (n.stageFuel q.val)).present q.val)) ∧
        ((fld (m.r .qeCtl q.val) 3 0 = 0 ∨ m.now < c.since + 1000 * 2 ^ fld (m.r .qeCtl q.val) 3 0) →
          exec (.egressStall q) s = s.becomes m) ∧
        (fld (m.r .qeCtl q.val) 3 0 ≠ 0 → c.since + 1000 * 2 ^ fld (m.r .qeCtl q.val) 3 0 ≤ m.now →
          let n := match c.hold with
            | some i => (m.leave c i).1.returnRest c (m.leave c i).2
            | none => m
          let k := ((n.freeSlot c.f).count 0x7300 7).wbit .qeCtl 14 true q.val
          exec (.egressStall q) s = s.becomes ((((k.accrue q.val).setCur q.val none).present q.val).egressOff q.val))))

/-- R101 to R103, R106: gate lists and stream gates follow the steered time; a list change waits for its start, and the list windows
take entries of the administrative bank alone. -/
def Obligations.GateLists : Prop :=
  ∀ (s : State) (who : Master) (q : Quay) (g : BitVec 6) (v : Cell),
    let m := s.m
    let e := m.gclEntry
    let x := BitVec.ofNat 36 (fld v 17 10 * 2 ^ 28 + max 32 (m.sluice.stagedIvl.toNat + fld v 9 0 * 0x40000))
    exec (.gateEntryChange q) s = s.becomes (m.syncGates q.val) ∧
    exec (.sgEntryChange g) s = s.becomes (m.syncSgate g.toNat) ∧
    (bit (m.r .sluGst q.val) 17 = true → (m.shape q.val).changeAt ≤ m.tb.ns →
      exec (.gclChangeTime q) s = s.becomes (m.gclSwitch q.val)) ∧
    ((bit (m.r .sluGst q.val) 17 = false ∨ m.tb.ns < (m.shape q.val).changeAt) → exec (.gclChangeTime q) s = s.becomes m) ∧
    (Takes s who ⟨.sluGo, 0, q.val⟩ →
      (bit (m.r .sluGst q.val) 17 = false → m.adminCyc q.val ≠ 0 →
        let start := nextStart (m.adminBase q.val) m.tb.ns (m.adminCyc q.val).toNat
        exec (.gclChange who q) s =
          s.becomes ((m.wbit .sluGst 17 true q.val).updShape q.val fun s => { s with changeAt := start })) ∧
      ((bit (m.r .sluGst q.val) 17 = true ∨ m.adminCyc q.val = 0) →
        exec (.gclChange who q) s = s.becomes (m.wbit .sluErr 1 true))) ∧
    (Takes s who ⟨.sluGcld1, 0, 0⟩ →
      (bit (m.r .sluGclsel) 13 = false → bit (m.r .sluGst e.1) 17 = false → e.2.1 = true →
        exec (.gclEntryWrite who v) s =
          s.becomes (m.updShape e.1 fun s => { s with bank1 := mset 0 s.bank1 e.2.2 x }).gclNext) ∧
      (bit (m.r .sluGclsel) 13 = false → bit (m.r .sluGst e.1) 17 = false → e.2.1 = false →
        exec (.gclEntryWrite who v) s =
          s.becomes (m.updShape e.1 fun s => { s with bank0 := mset 0 s.bank0 e.2.2 x }).gclNext) ∧
      ((bit (m.r .sluGclsel) 13 = true ∨ bit (m.r .sluGst e.1) 17 = true) →
        exec (.gclEntryWrite who v) s = s.becomes (m.wbit .sluErr 1 true))) ∧
    (Answers s who ⟨.sluGcld1, 0, 0⟩ →
      exec (.gclEntryRead who) s = s.reads (if m.quiet who then m else m.gclNext)
        (BitVec.ofNat 18 (fld m.gclRead 35 28 * 1024 + fld m.gclRead 27 18)))

/-- R105 to R107: the command FILTER meters the length it is given; the filter and stream-gate windows commit what they hold, or
refuse it with their error bit. -/
def Obligations.StreamFilters : Prop :=
  ∀ (s : State) (who : Master) (t : Tid) (slot : BitVec 2) (v : Cell),
    let m := s.m
    let d := (m.thr t).dock slot.toNat
    let i := (d.ops.getD 0 0).toNat
    let colour := (d.ops.getD 2 0).toNat
    let f := (m.flt i).refill m.tb.mono
    let g := if bit f.ctl 17 && bit f.ctl 16 then (m.sgate (fld f.ctl 15 10)).now else (true, 0, 0)
    let r := f.apply g.1 (d.ops.getD 1 0).toNat colour
    let w := m.w .sluFrate v 7
    let rate (k : Nat) : Dbl := mkDbl (w.r .sluFrate (2 * k + 1)) (w.r .sluFrate (2 * k))
    let bad := (rate 1).toNat < (rate 0).toNat ∨ (bit (w.r .sluFctl) 9 = true ∧ (rate 2 = 0 ∨ rate 3 = 0))
    let sg := m.sgSel
    let x := mkDbl (v &&& 0x3E3FF#18) (m.r .sluSgd0)
    let cyc : BitVec 30 := (m.r .sluSgcyc 1).extractLsb' 0 12 ++ m.r .sluSgcyc 0
    let base : BitVec 64 := (m.r .sluSgbase 3).extractLsb' 0 10 ++ m.r .sluSgbase 2 ++ m.r .sluSgbase 1 ++ m.r .sluSgbase 0
    (Tid.ok t = true → d.active = true → d.unit = 2 → d.op = 0 → m.firstCmd 2 = some ⟨t, slot.toNat⟩ → d.owed ≠ .timedOut →
      d.epoch = m.epochOf t →
      ((d.narg = 2 ∨ d.narg = 3) → i < 4096 → colour ≤ 2 →
        exec (.filter t slot) s = s.becomes ((m.updFlt i fun _ => r.1).complete t slot.toNat
          (status (if r.2.1 then 0 else 1) (r.2.2.1 * 2048 + r.2.2.2 * 512 + g.2.1 * 256 + g.2.2 * 32)) [])) ∧
      ((d.narg ≠ 2 ∧ d.narg ≠ 3) ∨ 4096 ≤ i ∨ 2 < colour →
        exec (.filter t slot) s = s.becomes (m.complete t slot.toNat (status 9 0) []))) ∧
    (Takes s who ⟨.sluFrate, 0, 7⟩ →
      (bad → exec (.filterCommit who v) s = s.becomes (w.wbit .sluErr 0 true)) ∧
      (¬ bad → exec (.filterCommit who v) s = s.becomes w.filterCommit)) ∧
    (Takes s who ⟨.sluFsel, 0, 0⟩ → exec (.fselWrite who v) s = s.becomes (m.w .sluFsel (blend (m.r .sluFsel) 0xFFF v)).fselLoad) ∧
    (Takes s who ⟨.sluSgd1, 0, 0⟩ →
      let n := m.updSgate sg.1 fun g => { g with entries := mset 0 g.entries sg.2 x }
      exec (.sgEntryWrite who v) s = s.becomes (n.w .sluSgsel (setFld (m.r .sluSgsel) 5 0 (sg.2 + 1)))) ∧
    (Takes s who ⟨.sluSgcfg, 0, 0⟩ →
      let c := v &&& 0x2003F
      let run (g : StreamGate) : StreamGate :=
        { g with cfg := c, base := base, cyc := cyc, start := nextStart base m.tb.ns cyc.toNat, running := false, index := 0 }
      (bit v 17 = true → cyc = 0 → exec (.sgcfgWrite who v) s = s.becomes (m.wbit .sluErr 2 true)) ∧
      ((bit v 17 = false ∨ cyc ≠ 0) → exec (.sgcfgWrite who v) s = s.becomes ((m.w .sluSgcfg c).updSgate sg.1 run)))

/-- R76 to R80, R89, R91, R110, R478: a helper command that a slot holds, and that is the next of its unit's queue, is carried out on its
operands and completes its ticket: the lookups and changes of the waybill, NOW, CSUM and REPARSE. Bad operands complete it with
BADARG, a deck thread's change of a table without LEARN with NOPRIV. One that timed out, or of an earlier epoch, changes no table. -/
def Obligations.HelperCommands : Prop :=
  ∀ (s : State) (t : Tid) (slot : BitVec 2) (ns : List Nonet) (key : BitVec 128) (code : Nat), Tid.ok t = true →
    let m := s.m
    let d := (m.thr t).dock slot.toNat
    let tb := m.wbTable d.arg
    let next (unit op : Nat) : Prop := d.active = true ∧ d.unit = unit ∧ d.op = op ∧ m.firstCmd unit = some ⟨t, slot.toNat⟩
    let holds (unit op : Nat) : Prop := next unit op ∧ d.owed ≠ .timedOut ∧ d.epoch = m.epochOf t
    let ends (r : Mach × Cell × List Cell) : Host.Outcome State Fault Refusal := s.becomes (r.1.complete t slot.toNat r.2.1 r.2.2)
    let badArg := s.becomes (m.complete t slot.toNat (status 9 0) [])
    let denied := s.becomes (m.complete t slot.toNat (status 10 0) [])
    let ins := m.emInsert d.arg (d.ops.take tb.kcells) (mkDbl (d.ops.getD (tb.kcells + 1) 0) (d.ops.getD tb.kcells 0))
    let del := m.emDelete d.arg d.ops
    let four := (d.ops.getD 0 0).toNat * 65536 + (d.ops.getD 1 0).toNat
    let tern := m.wbTable (80 + d.arg)
    let n := m.noteN (some t) (d.addr 0) 16
    (holds 0 0 →
      (tb.en = true → d.narg = tb.kcells → exec (.em t slot) s = ends (m.emLook d.arg d.ops)) ∧
      ((tb.en = false ∨ d.narg ≠ tb.kcells) → exec (.em t slot) s = badArg)) ∧
    (holds 0 1 → tb.en = true → d.narg = 2 →
      m.opRead t d.helm (d.addr 0) (2 * tb.kcells) = (m, .ok ns) → exec (.emx t slot) s = ends (m.emLook d.arg (plainCells ns))) ∧
    (holds 0 2 → tb.en = true → d.narg = tb.kcells + 2 →
      ((d.helm = true ∨ tb.learn = true) → exec (.insert t slot) s = ends (ins.1, status ins.2 0, [])) ∧
      (d.helm = false → tb.learn = false → exec (.insert t slot) s = denied)) ∧
    (next 0 2 → (d.owed = .timedOut ∨ d.epoch ≠ m.epochOf t) →
      exec (.insert t slot) s = s.becomes (m.complete t slot.toNat 0 [])) ∧
    (next 0 3 → (d.owed = .timedOut ∨ d.epoch ≠ m.epochOf t) →
      exec (.delete t slot) s = s.becomes (m.complete t slot.toNat 0 [])) ∧
    (holds 0 3 → tb.en = true → d.narg = tb.kcells →
      ((d.helm = true ∨ tb.learn = true) → exec (.delete t slot) s = ends (del.1, status del.2 0, [])) ∧
      (d.helm = false → tb.learn = false → exec (.delete t slot) s = denied)) ∧
    (holds 0 8 → d.narg = 2 → m.lpmOk d.arg false = true → (d.ops.getD 0 0).toNat < 65536 → (d.ops.getD 1 0).toNat < 65536 →
      exec (.lpm4 t slot) s = ends (m.lpmLook (64 + d.arg) (BitVec.ofNat 128 (four * 2 ^ 96)))) ∧
    (holds 0 9 → d.narg = 2 → m.lpmOk d.arg true = true → m.key16 t d = (n, .ok key) →
      exec (.lpm6 t slot) s = ends (n.lpmLook (64 + d.arg) key)) ∧
    (holds 0 16 → d.narg = 2 → d.arg < 16 → tern.en = true → m.key16 t d = (n, .ok key) →
      exec (.tern t slot) s = ends (match n.ternFind key (fld tern.desc2 11 0 + 1 - fld tern.desc 11 0) (fld tern.desc 11 0) with
        | some i => (n, status 0 i, resCells (n.ternEntry i).res)
        | none => (n, status 1 0, []))) ∧
    (holds 0 16 → d.narg = 2 → d.arg < 16 → tern.en = true → m.key16 t d = (n, .error code) →
      exec (.tern t slot) s = ends (n, status code 0, [])) ∧
    (holds 3 0 →
      (d.narg = 0 → exec (.now t slot) s = ends (m, status 0 0, cells72 m.timeNow ++ cells64 m.tb.mono)) ∧
      (d.narg ≠ 0 → exec (.now t slot) s = badArg)) ∧
    (holds 4 0 → d.narg = 3 → (d.ops.getD 2 0).toNat ≤ 16368 → m.opRead t d.helm (d.addr 0) (d.ops.getD 2 0).toNat = (m, .ok ns) →
      let os := ns.map octet
      exec (.csum t slot) s =
        ends (m, status 0 0, [BitVec.ofNat 18 (fold16 (sum16 (if d.arg % 2 = 1 then 0 :: os else os)))])) ∧
    (holds 4 1 → exec (.reparse t slot) s = ends (m.reparse d))

/-- R91: the longest prefix wins, and the lowest-numbered ternary entry that matches.
R90, R482: the waybill's window. A command is busy until its end, which writes its code; reserved operations end at once with
BADCMD; a write of an enabled table's description, and every write during BUSY, is ignored. -/
def Obligations.WaybillTables : Prop :=
  (∀ (m : Mach) (t n i j : Nat) (a k : BitVec 128) (e : LpmEntry),
      (m.lpmFind t a = some e → e ∈ m.waybill.lpm ∧ e.table.toNat = t ∧ prefixOf a e.len = e.addr ∧
        ∀ x ∈ m.waybill.lpm, x.table.toNat = t → prefixOf a x.len = x.addr → x.len ≤ e.len) ∧
      (m.lpmFind t a = none → ∀ x ∈ m.waybill.lpm, x.table.toNat = t → prefixOf a x.len ≠ x.addr) ∧
      (m.ternFind k n i = some j → i ≤ j ∧ j < i + n ∧ (k ^^^ (m.ternEntry j).key) &&& (m.ternEntry j).mask = 0 ∧
        ∀ x, i ≤ x → x < j → (k ^^^ (m.ternEntry x).key) &&& (m.ternEntry x).mask ≠ 0)) ∧
  (∀ (s : State) (who : Master) (v : Cell) (i : BitVec 12) (op : BitVec 3),
      let m := s.m
      let busy (r : Mach × Nat) : Mach :=
        let g := r.1.w .wbStat (setBit (r.1.r .wbStat) 17 true)
        { g with waybill := { g.waybill with code := BitVec.ofNat 4 r.2 } }
      (Takes s who ⟨.wbCmd, 0, 0⟩ →
        (m.wbBusy = false →
          exec (.wbInsert who) s = s.becomes (busy (m.wbRun 1)) ∧ exec (.wbDelete who) s = s.becomes (busy (m.wbRun 2)) ∧
          exec (.wbReadKey who) s = s.becomes (busy (m.wbRun 3)) ∧
          exec (.wbTernWrite who i) s = s.becomes (busy (m.wbTern true i.toNat)) ∧
          exec (.wbTernRead who i) s = s.becomes (busy (m.wbTern false i.toNat)) ∧
          (6 ≤ op.toNat → exec (.wbBadcmd who op) s = s.becomes (m.w .wbStat 0x18000))) ∧
        (m.wbBusy = true → ∀ c ∈ [Instr.wbInsert who, .wbDelete who, .wbReadKey who, .wbTernWrite who i, .wbTernRead who i,
          .wbBadcmd who op], exec c s = s.becomes m)) ∧
      (Takes s who ⟨.wbTdesc, 0, 0⟩ →
        (m.wbBusy = true → exec (.wbTdescWrite who v) s = s.becomes m) ∧
        (m.wbBusy = false → exec (.wbTdescWrite who v) s = s.becomes (m.tdescWrite v)) ∧
        ((m.wbTable m.wbSel).en = true → bit v 17 = true → exec (.wbTdescWrite who v) s = s.becomes m)) ∧
      (m.wbBusy = true → exec .wbCmdDone s = s.becomes (m.w .wbStat (BitVec.ofNat 18 (65536 + m.waybill.code.toNat * 4096)))) ∧
      (m.wbBusy = false → exec .wbCmdDone s = s.becomes m))

/-- R80, R94 to R98: the seal. PROTECT and VALIDATE act on the frame and the association named, CMAC and DERIVE on the key slots named,
which R98 bars to some; keys are staged, loaded by their exact number of words, and cleared. -/
def Obligations.Seal : Prop :=
  ∀ (s : State) (who : Master) (t : Tid) (slot : BitVec 2) (v : Cell) (w : BitVec 16) (l i : Nat) (ns : List Nonet),
    let m := s.m
    let d := (m.thr t).dock slot.toNat
    let sa := (d.ops.getD 0 0).toNat
    let a := m.sa sa
    let len := m.mLen d.mf.toNat
    let hs := chainTo (m.chainOf l d.mf.toNat) len
    let n := (d.ops.getD 2 0).toNat
    let goal := (d.ops.getD 3 0).toNat
    let ends (r : Mach × Cell × List Cell) : Host.Outcome State Fault Refusal := s.becomes (r.1.complete t slot.toNat r.2.1 r.2.2)
    let open_ := bit (m.r .sealCtl) 17 = true
    let ws := m.sealU.stage
    let x := m.sa m.saSel
    let nk := if x.long then 16 else 8
    (Tid.ok t = true → d.active = true → d.unit = 1 → m.firstCmd 1 = some ⟨t, slot.toNat⟩ → d.owed ≠ .timedOut →
      d.epoch = m.epochOf t →
      (m.manifest d.mf.toNat = some (l, i) → d.narg = 1 → sa < 2048 → open_ → a.en = true → a.kvalid = true → chainLen hs = len →
        (d.op = 0 → a.tx = true → 12 ≤ len → len + (if bit a.ctl 9 then 16 else 8) + 16 ≤ 16368 →
          exec (.protect t slot) s = ends (m.protectFrame sa l d.mf.toNat hs)) ∧
        (d.op = 1 → a.tx = false → exec (.validate t slot) s = ends (m.validateFrame sa l d.mf.toNat hs))) ∧
      (m.manifest d.mf.toNat = none →
        (d.op = 0 → exec (.protect t slot) s = ends (m, status 9 0, [])) ∧
        (d.op = 1 → exec (.validate t slot) s = ends (m, status 9 0, []))) ∧
      (d.op = 2 → d.narg = 3 → n ≤ 16368 → open_ → m.opRange t d.helm (d.addr 0) n = true →
        (slotBarred (d.arg % 32) d.helm = true → exec (.cmac t slot) s = ends (m, status 10 0, [])) ∧
        (slotBarred (d.arg % 32) d.helm = false → m.opRead t d.helm (d.addr 0) n = (m, .ok ns) →
          exec (.cmac t slot) s = ends (m, status 0 0, tagCells (aesCmac (m.cmacKey (d.arg % 32)) (ns.map octet))))) ∧
      (d.op = 3 → d.narg = 4 → n ≤ 16368 → open_ → m.opRange t d.helm (d.addr 0) n = true → 16 ≤ goal → goal < 32 →
        ((slotBarred (d.arg % 32) d.helm = true ∨ slotBarred goal d.helm = true ∨ Tid.tk t = false) → exec (.derive t slot) s = ends (m, status 10 0, [])) ∧
        (slotBarred (d.arg % 32) d.helm = false → slotBarred goal d.helm = false → Tid.tk t = true → m.opRead t d.helm (d.addr 0) n = (m, .ok ns) →
          let tag := aesCmac (m.cmacKey (d.arg % 32)) (ns.map octet)
          exec (.derive t slot) s = ends (m.setCmacKey goal (BitVec.ofNat 128 (beNat tag)), status 0 0, List.replicate 8 0)))) ∧
    (Takes s who ⟨.sealKdata, 0, 0⟩ →
      (ws.length < 31 → exec (.keyStage who w) s = s.becomes (m.setStage (ws ++ [w])))) ∧
    (Takes s who ⟨.sealKcmd, 0, 0⟩ →
      let k := fld v 4 0
      let bad := (m.setStage []).wbit .sealKstat 17 true
      (bit v 15 = true → ws.length = 8 →
        exec (.keyLoad who v) s = s.becomes ((m.setStage []).setCmacKey k (BitVec.ofNat 128 (wordsNat ws)))) ∧
      (bit v 15 = true → ws.length ≠ 8 → exec (.keyLoad who v) s = s.becomes bad) ∧
      (bit v 15 = false → ws.length ≠ (if x.xpn then nk + 6 else nk) → exec (.keyLoad who v) s = s.becomes bad) ∧
      (bit v 15 = false → ws.length = (if x.xpn then nk + 6 else nk) →
        let load (a : Sa) : Sa := { a with key := BitVec.ofNat 256 (wordsNat (ws.take nk)), salt := BitVec.ofNat 96 (wordsNat (ws.drop nk)),
                                           ctl := setBit a.ctl 5 true, warned := false, exhausted := false }
        exec (.keyLoad who v) s = s.becomes ((m.setStage []).updSa m.saSel load)) ∧
      (bit v 15 = true → exec (.keyClear who v) s = s.becomes ((m.setStage []).setCmacKey k 0)) ∧
      (bit v 15 = false →
        let drop (a : Sa) : Sa := { a with key := 0, salt := 0, ctl := setBit a.ctl 5 false }
        exec (.keyClear who v) s = s.becomes ((m.setStage []).updSa m.saSel drop))) ∧
    (Takes s who ⟨.sealSactl, 0, 0⟩ → exec (.sactlWrite who v) s = s.becomes (m.sactlWrite v))

/-- R46 to R50: placement registers take a value only while the lock is parked and the pools fit; the allocation register gives the
lowest free hold while enough stay free for the reader's class, and a quiet read takes none; a second return sets DBLRET. -/
def Obligations.Pools : Prop :=
  ∀ (s : State) (who : Master) (p : PLock) (r : Fin 3) (v : Cell) (i : Nat),
    let m := s.m
    let k := m.lock p.val
    let reg : Reg := match r.val with
      | 0 => .lkHoldbase
      | 1 => .lkHoldcnt
      | _ => .lkManbase
    let w := v &&& reg.info.rw
    let at_ (x : Reg) : Nat := if x = reg then w.toNat else (m.ru x p.val).toNat
    let fits := poolFits (at_ .lkHoldbase) (at_ .lkHoldcnt) (at_ .lkManbase)
    let room := 7 ≤ m.readerClass who ∨ fld (m.ru .lkFrctl p.val) 9 0 < m.freeHolds p.val
    let mark (b : Bool) (i : Nat) : Mach := m.updLock p.val fun k => { k with holds := mset false k.holds i b }
    (Takes s who ⟨reg, p.val, 0⟩ →
      (k.parked = true → fits = true → exec (.poolPlacementWrite who p r v) s = s.becomes (m.wu reg p.val w)) ∧
      ((k.parked = false ∨ fits = false) →
        exec (.poolPlacementWrite who p r v) s = s.becomes (m.wubit .lkHoldstat p.val 17 true))) ∧
    (Answers s who ⟨.lkHoldalloc, p.val, 0⟩ →
      (room → m.freeHold p.val = some i →
        exec (.holdAlloc who p) s = s.reads (if m.quiet who then m else mark true i) (BitVec.ofNat 18 (0x20000 + i)) ∧
        mget false k.holds i = false ∧ ∀ j < i, mget false k.holds j = true) ∧
      (room → m.freeHold p.val = none → exec (.holdAlloc who p) s = s.reads m 0) ∧
      (¬ room → exec (.holdAlloc who p) s = s.reads m 0)) ∧
    (Takes s who ⟨.lkHoldret, p.val, 0⟩ →
      (mget false k.holds (fld v 12 0) = true → exec (.holdReturn who p v) s = s.becomes (mark false (fld v 12 0))) ∧
      (mget false k.holds (fld v 12 0) = false → exec (.holdReturn who p v) s = s.becomes (m.wubit .lkHoldstat p.val 14 true)))

/-- R244 to R252, R262, R265, R477: the event controllers' registers. A claim gives the reading thread its best source, makes it active
and clears an edge source's pending bit; a completion must name an active source; a ring names a software source and, if it
asks, the current epoch.
R126, R130, R179, R206, R211, R233: the view of a thread takes a write only while the thread is halted, one that an `unshov` restores
when that has ended, and a write of P flushes its predictor entries; the bollard window releases the bollard that it names, as an orphan. -/
def Obligations.EventAndThreadRegisters : Prop :=
  (∀ (s : State) (who : Master) (c : Ctl) (src : BitVec 9) (v : Cell) (t : Tid) (k : Nat) (i : BitVec 7),
      let m := s.m
      let u := Ctl.unit c
      let n := fld v 8 0
      let acted := m.setAct u k true
      (m.isOn (RegRef.domain ⟨.evtClaim, u, 0⟩) = true →
        (Tid.ctl t = u → (u ≠ 31 ∨ Tid.core t = m.activeTk) →
          (m.bestSource t = some k → exec (.evtClaim (.thread t) c) s =
            s.reads (if 2 ≤ m.sense u k then acted.setPend u k false else acted) (BitVec.ofNat 18 (0x20000 + k))) ∧
          (m.bestSource t = none → exec (.evtClaim (.thread t) c) s = s.reads m 0)) ∧
        (Tid.ctl t ≠ u → exec (.evtClaim (.thread t) c) s = s.reads m 0) ∧
        exec (.evtClaim .host c) s = s.reads m 0 ∧ exec (.evtClaim .debug c) s = s.reads m 0) ∧
      (Takes s who ⟨.evtDone, u, 0⟩ →
        (m.actBit u n = true → exec (.evtDone who c v) s = s.becomes ((m.setAct u n false).wakeEvents u)) ∧
        (m.actBit u n = false → exec (.evtDone who c v) s = s.becomes (m.evtError u 0 3))) ∧
      (Takes s who ⟨.evtRing, u, 0⟩ →
        (n < 64 → exec (.evtRing who c v) s = s.becomes (m.evtError u 1 2)) ∧
        (64 ≤ n → bit v 17 = true → fld v 16 9 ≠ m.ringEpoch u → exec (.evtRing who c v) s = s.becomes (m.evtError u 2 1)) ∧
        (64 ≤ n → (bit v 17 = false ∨ fld v 16 9 = m.ringEpoch u) →
          exec (.evtRing who c v) s = s.becomes ((m.ring u n).wakeEvents u))) ∧
      (Takes s who ⟨.evtSrc, u, src.toNat⟩ → exec (.evtSrcWrite who c src v) s = s.becomes (m.srcWrite u src.toNat v)) ∧
      (Takes s who ⟨.evtThr, u, evtIdx c i⟩ →
        exec (.evtThrWrite who c i v) s = s.becomes ((m.thrWrite u (evtIdx c i) v).wakeEvents u)) ∧
      (Takes s who ⟨.evtTflt, u, evtIdx c i⟩ → exec (.threadReset who c i) s = s.becomes (m.threadRst (m.ctlTid u (evtIdx c i))))) ∧
  (∀ (s : State) (who : Master) (t : Tid) (r : BitVec 5) (v : Cell) (o : BitVec 20) (h : ShovHold), Tid.ok t = true → Tid.tk t = false →
      let m := s.m
      let x := m.thr t
      let k := Tid.coreNo t
      let j := 32 * Tid.num t
      let b := fld (m.r .bolSel) 11 0
      (Takes s who ⟨.thView, k, j + r.toNat⟩ →
        ((m.shovOn t).filter (fun h => h.load) = some h → exec (.threadViewWrite who t r v) s =
          s.becomes { m with shovs := mset none m.shovs t.toNat (some { h with views := h.views ++ [(k, j + r.toNat, v)] }) }) ∧
        ((m.shovOn t).filter (fun h => h.load) = none → x.halted = false → exec (.threadViewWrite who t r v) s = s.becomes m) ∧
        ((m.shovOn t).filter (fun h => h.load) = none → x.halted = true → r = 14 → exec (.threadViewWrite who t r v) s = s.becomes (m.wu .thView k (v &&& 0x7F) (j + 14))) ∧
        ((m.shovOn t).filter (fun h => h.load) = none → x.halted = true → r ≠ 14 →
          let n := m.setThrH t (x.viewSet (m.ru .thView k (j + 14)) r.toNat v)
          exec (.threadViewWrite who t r v) s = s.becomes (if r = 1 ∨ r = 2 then (n.flushPred t).dropShovs t else n))) ∧
      (Takes s who ⟨.bolForce, 0, 0⟩ →
        ((m.bol b).owner = some o →
          exec (.bolForce who) s = s.becomes (((m.passOn b true).count 0x7600 2).disinherit (refTid o))) ∧
        ((m.bol b).owner = none → exec (.bolForce who) s = s.becomes m)))

/-- R15 to R17, R131, R142, R211, R396, R400, R408, R409, R466: the map of logical locks changes only onto a spare lock that is ready;
locks are admitted, parked and declared unfit from the states that allow it, a park after a shov-family instruction under way; EN of the fly-boat class needs its credits. -/
def Obligations.LockMap : Prop :=
  ∀ (s : State) (who : Master) (v : Cell) (p : PLock) (l : LLock),
    let m := s.m
    let n := fld v 8 5
    let serving := (m.lock (m.plockOf n)).state = .serving
    let copied := m.evacState = 2 ∧ fld (m.r .blkEvac) 3 0 = n ∧ ∃ e, m.evac = some e ∧ e.lock.val = n
    let fits := fld v 4 0 = m.spare ∧ m.spareReady = true
    let held := m.shovs.any fun e => e.1 / 128 == p.val && e.2.isSome
    (Takes s who ⟨.blkRemap, 0, 0⟩ →
      (¬ fits → exec (.remap who v) s = s.becomes (m.count 0x7000 4)) ∧
      (fits → bit v 17 = false → exec (.remap who v) s = s.becomes m) ∧
      (fits → bit v 17 = true → ¬ serving → exec (.remap who v) s = s.becomes (m.exchange n)) ∧
      (fits → bit v 17 = true → serving → copied → exec (.remap who v) s = s.becomes (m.switchOver n)) ∧
      (fits → bit v 17 = true → serving → ¬ copied → exec (.remap who v) s = s.becomes (m.count 0x7000 4))) ∧
    (Takes s who ⟨.plState, p.val, 0⟩ →
      (m.admitOk p.val = true →
        exec (.lockAdmit who p) s = s.becomes (m.updLock p.val fun k => { k with state := .admitting })) ∧
      (m.admitOk p.val = false → exec (.lockAdmit who p) s = s.becomes (m.plRefuse p.val)) ∧
      ((m.lock p.val).state = .spare → held = false → exec (.lockPark who p) s = s.becomes (m.parkLock p.val)) ∧
      ((m.lock p.val).state = .spare → held = true →
        ∃ n, exec (.lockPark who p) s = s.becomes n ∧ n.locks = m.locks ∧ n.threads = m.threads) ∧
      ((m.lock p.val).state ≠ .spare → exec (.lockPark who p) s = s.becomes (m.plRefuse p.val)) ∧
      ((m.lock p.val).state = .held →
        let g := m.updLock p.val fun k => { k with state := .unfit }
        exec (.lockUnfit who p) s = s.becomes (g.dumpCause 3 (lockSource p.val))) ∧
      ((m.lock p.val).state ≠ .held → exec (.lockUnfit who p) s = s.becomes (m.plRefuse p.val))) ∧
    ((m.lock p.val).state = .admitting → m.recorded p.val = false →
      exec (.admitComplete p) s = s.becomes (m.admitDone p.val).bootGo) ∧
    (((m.lock p.val).state ≠ .admitting ∨ m.recorded p.val = true) → exec (.admitComplete p) s = s.becomes m.bootGo) ∧
    (Takes s who ⟨.blkFbctl, 0, 0⟩ →
      let new := setFld (blend (m.r .blkFbctl) 0x2C000 v) 9 0 (min 1000 (max 16 (fld v 9 0)))
      let refused := (bit v 17 = true ∧ m.fbOn = false ∧ fld (m.r .cnlVccfg) 5 0 < 8) ∨
        (bit v 17 = false ∧ m.fbOn = true ∧ (m.fbBusy = true ∨ ∃ q : Quay, bit (m.r .qiCtl q.val) 15 = true))
      (refused → exec (.fbEnable who v) s = s.becomes ((m.w .blkFbctl (setBit new 17 m.fbOn)).wbit .blkFberr 0 true)) ∧
      (¬ refused → (bit v 17 = false ∨ m.fbOn = true) → exec (.fbEnable who v) s = s.becomes (m.w .blkFbctl new)) ∧
      (¬ refused → bit v 17 = true → m.fbOn = false → ∃ n, exec (.fbEnable who v) s = s.becomes n ∧
        n.r .blkFbctl = new ∧ n.fbOn = true ∧ n.mem = m.mem ∧ n.locks = m.locks ∧
        ∀ u, (n.thr u).norm = (m.thr u).norm ∧ (n.thr u).p = (m.thr u).p)) ∧
    (Takes s who ⟨.blkFbpart, 0, l.val⟩ →
      (fld v 3 0 = l.val → exec (.fbpartWrite who l v) s = s.becomes (m.wbit .blkFberr 2 true)) ∧
      (fld v 3 0 ≠ l.val → exec (.fbpartWrite who l v) s = s.becomes (m.w .blkFbpart (v &&& 0x2000F) l.val)))

/-- R233, R243, R294, R312, R313: a core's control register clears its counters and flushes predictors, a counter's low half latches its
high half unless the read is quiet, and the windlass windows store their words where the core lets them. -/
def Obligations.CoreRegisters : Prop :=
  ∀ (s : State) (who : Master) (k : CoreRef) (mask : BitVec 8) (n : BitVec 3) (v : Cell) (i : Fin 7) (j : BitVec 5) (second : Bool),
    let m := s.m
    let c := k.val
    let wr (r : Reg) (i : Nat) : Host.Outcome State Fault Refusal := s.becomes ((m.wlCores r c).foldl (fun m k => m.wlWrite1 r i v k) m)
    let refuse := s.becomes (m.wubit .wlStat c 15 true)
    let cnt (x : Nat) : Dbl := m.cntKey (coreCntKey c x)
    let latch (r : Reg) (i x : Nat) : Mach := if m.quiet who then m else m.wu r c (Dbl.hi (cnt x)) (i + 1)
    (c < 272 →
      (Takes s who ⟨.crCtl, c, 0⟩ →
        exec (.cntclr who k) s = s.becomes (m.crCtlWrite c (m.ru .crCtl c ||| 0x8000)) ∧
        exec (.pflush who k mask) s = s.becomes (m.crCtlWrite c (m.ru .crCtl c ||| mask.setWidth 18))) ∧
      (Answers s who ⟨.crCnt, c, 2 * n.toNat⟩ →
        exec (.cntLoRead who k n) s = s.reads (latch .crCnt (2 * n.toNat) n.toNat) (Dbl.lo (cnt n.toNat)) ∧
        exec (.tlopsRead who k) s = s.reads (latch .crTlops 0 8) (Dbl.lo (cnt 8)) ∧
        exec (.tlkillRead who k) s = s.reads (latch .crTlkill 0 9) (Dbl.lo (cnt 9)))) ∧
    (Takes s who ⟨.wlMdata, c, 0⟩ →
      exec (.wlMdataWrite who k v) s = if m.wlOpen c who then wr .wlMdata 0 else refuse) ∧
    (Takes s who ⟨.wlNdata, c, i.val⟩ →
      exec (.wlNdataStage who k i v) s = if m.wlOpen c who then wr .wlNdata i.val else refuse) ∧
    (Takes s who ⟨.wlNdata, c, 7⟩ → exec (.wlNdataStore who k v) s = if m.wlOpen c who then wr .wlNdata 7 else refuse) ∧
    (Takes s who ⟨.wlDt, c, 2 * j.toNat + b2n second⟩ →
      exec (.wlDtWrite who k j second v) s = if m.wlOpen c who then wr .wlDt (2 * j.toNat + b2n second) else refuse)

/-- R177, R320, R322, R324 to R326: banks change hands through the spare, by a copy or at once in a quiet lock; a march run tests a bank
that it has taken out of service, or the whole lock while that is quiet, and a bank that fails is retired onto the spare; a scrub
step reads one row of every bank. -/
def Obligations.MemoryEngines : Prop :=
  ∀ (s : State) (who : Master) (p : PLock) (b : Fin 17) (o : BitVec 2) (v : Cell) (fails : List MarchFail) (f : MarchFail) (c : HandOver)
    (x : Nat),
    let m := s.m
    let k := m.lock p.val
    let i := p.val
    let refuse := s.becomes (m.wubit .plSpare i 17 true)
    (Takes s who ⟨.plBank, i, b.val⟩ →
      (o.toNat = m.owner i b.val →
        exec (.bankHandoverCopy who p b o) s = s.becomes m ∧ exec (.bankHandoverNow who p b o) s = s.becomes m) ∧
      (o.toNat ≠ m.owner i b.val → m.evacOn i = true →
        exec (.bankHandoverCopy who p b o) s = refuse ∧ exec (.bankHandoverNow who p b o) s = refuse) ∧
      (o ≠ 0 → m.evacOn i = false → m.owner i b.val = 0 →
        (m.mirrorOk i b.val = true →
          exec (.bankHandoverCopy who p b o) s = s.becomes (m.startCopy i b.val ⟨b.val, o, true, false⟩)) ∧
        (m.mirrorOk i b.val = false → exec (.bankHandoverCopy who p b o) s = refuse) ∧
        (m.quietLock i = true → k.copy = none → k.march = none → k.spareRetired = false →
          exec (.bankHandoverNow who p b o) s = s.becomes (((m.setOwner i b.val o.toNat).reServe i).breakBank i b.val)) ∧
        (m.quietLock i = false → exec (.bankHandoverNow who p b o) s = refuse)) ∧
      (o = 0 → m.evacOn i = false → m.owner i b.val ≠ 0 → k.copy = none → k.march = none →
        (m.serves i = b.val → m.retired i b.val = false →
          exec (.bankHandoverCopy who p b o) s = s.becomes (m.startCopy i b.val ⟨b.val, 0, false, false⟩)) ∧
        (m.quietLock i = true →
          exec (.bankHandoverNow who p b o) s = s.becomes (((m.setOwner i b.val 0).reServe i).breakBank i b.val)))) ∧
    (k.copy = some c →
      let g := if c.out then m.copyBank i c.bank 16 else m.copyBank i 16 c.bank
      let h := ((g.updLock i fun k => { k with copy := none }).wubit .plBank i 13 false c.bank).breakBank i c.bank
      let n := h.setOwner i c.bank c.owner.toNat
      let r := if c.out then n.setServes i c.bank else n.reServe i
      exec (.mirrorCopyDone p) s = s.becomes (if c.march then (if c.out then r.setPhase i 2 else r.marchEnd i) else r)) ∧
    (Takes s who ⟨.plMarch, i, 0⟩ →
      let w := setBit v 17 true
      let mode := fld w 16 15
      let x := fld w 4 0
      let base := m.wu .plMarch i (w &&& 0x1F81F)
      let start (ph : Nat) : Mach :=
        (((base.updLock i fun k => { k with march := some (mode, x) }).wu .plMstat i
          (setFld (base.ru .plMstat i) 4 0 0x1F)).setPhase i ph).count (0x7A00 + i) 4
      let free := k.copy = none ∧ k.march = none
      (m.evacOn i = true → exec (.marchGo who p v) s = s.becomes (base.wubit .plMstat i 14 true)) ∧
      (m.evacOn i = false → mode = 0 → base.mirrorOk i x = true →
        exec (.marchGo who p v) s = s.becomes ((start 1).startCopy i x ⟨x, 2, true, true⟩)) ∧
      (m.evacOn i = false → mode = 1 → free → x ≤ 16 → (x < 16 → base.retired i x = false) → (x = 16 → k.spareRetired = false) →
        base.serves i = 0x1F → (x = 16 ∨ m.quietLock i = true) →
        exec (.marchGo who p v) s = s.becomes ((((start 2).setOwner i x 2).reServe i).breakBank i x)) ∧
      (m.evacOn i = false → mode = 2 → free → m.quietLock i = true →
        exec (.marchGo who p v) s = s.becomes ((start 4).breakBanks i)) ∧
      (m.evacOn i = false → mode = 3 → exec (.marchGo who p v) s = s.becomes (base.wubit .plMstat i 14 true))) ∧
    (let n := m.marchTest i fails
     let new := (List.range 17).filter fun b =>
       if b = 16 then (n.lock i).spareRetired && !(m.lock i).spareRetired else n.retired i b && !m.retired i b
     exec (.marchTestDone p fails) s =
       s.becomes (if n.fwRuns = true then new.foldl (fun n b => n.recordBank i b) n else n).bootGo) ∧
    (k.march = some (1, x) → fld (m.ru .plMstat i) 13 11 = 2 →
      m.marchTest i [] = (((((m.zeroWhere (inBank i x)).setOwner i x 0).reServe i).marchEnd i).breakBank i x) ∧
      m.marchTest i (f :: fails) = (((((m.marchFail i { f with stow := false, bank := BitVec.ofNat 5 x }).setOwner i x 0).retireBank
        i x).reServe i).marchEnd i).breakBank i x) ∧
    (k.march = some (2, x) → fld (m.ru .plMstat i) 13 11 = 4 →
      m.marchTest i [] = ((m.zeroWhere (inLock i)).marchEnd i).breakBanks i) ∧
    (m.isOn (7 + i) = true → bit (m.ru .plScrub i) 17 = true →
      let row := k.scrubRow.toNat
      let g := (List.range 17).foldl (fun m b => m.scrubWord i b row) m
      exec (.scrubStep p) s = s.becomes (g.updLock i fun k => { k with scrubRow := k.scrubRow + 1 }))

/-- R333 to R337, R469: the keep controller. A command that nothing refuses writes, fills, compares or retires and holds BUSY until
its end, which first retires the pages of the words that failed their read-back; a command during BUSY sets ERR; after a power-fail trip only a compare still ends. -/
def Obligations.KeepStore : Prop :=
  ∀ (s : State) (who : Master) (n : BitVec 12) (k : KeepCmd) (c : BitVec 4) (why : Nat) (bad : List (BitVec 12)),
    let m := s.m
    let len := n.toNat + 1
    let dst := m.keepDst
    let cmd (op : BitVec 3) (n : Nat) : KeepCmd := ⟨op, none, m.keepSrc, dst, n, dst, n⟩
    let words (op : Nat) : Mach :=
      if 0xC000000 ≤ m.keepSrc ∧ m.keepSrc + 8 * len ≤ 0x10000000 then m.keepNext (cmd (BitVec.ofNat 3 op) len)
      else if m.keepSrcOk m.keepSrc (8 * len) then
        (m.keepWords op m.keepSrc dst len).1.keepCode (cmd (BitVec.ofNat 3 op) len) (m.keepWords op m.keepSrc dst len).2
      else m.keepCode (cmd (BitVec.ofNat 3 op) len) 9
    let fill := (List.range len).foldl (fun m i => m.keepPut (dst + 8 * i) m.keepData) m
    let page := m.retirePage (dst / 0x1000)
    (Takes s who ⟨.keepCmd, 0, 0⟩ →
      (m.keepBusy = true → ∀ i ∈ [Instr.keepWrite who n, .keepCopy who n, .keepFill who n, .keepVerify who n, .keepRetire who],
        exec i s = s.becomes (m.wbit .keepErr 13 true)) ∧
      (m.keepBusy = false → m.keepRefusal dst len = some why →
        exec (.keepWrite who n) s = s.becomes (m.keepCode (cmd 1 len) why) ∧
        exec (.keepCopy who n) s = s.becomes (m.keepCode (cmd 2 len) why)) ∧
      (m.keepBusy = false → m.keepRefusal dst len = none → m.d0.powerFail = false →
        exec (.keepWrite who n) s = s.becomes ((m.keepPut dst m.keepData).keepCode (cmd 1 len) 0) ∧
        exec (.keepFill who n) s = s.becomes (fill.keepCode (cmd 3 len) 0) ∧ exec (.keepCopy who n) s = s.becomes (words 2)) ∧
      (m.keepBusy = false → m.keepRefusal dst len = none → exec (.keepVerify who n) s = s.becomes (words 4)) ∧
      (m.keepBusy = false → m.keepRefusal dst 1 = none → m.d0.powerFail = false →
        exec (.keepRetire who) s = s.becomes (page.1.keepCode (cmd 5 1) page.2)) ∧
      (m.keepBusy = false → m.keepRefusal dst len = none → m.d0.powerFail = true →
        exec (.keepWrite who n) s = s.becomes (m.setKeep { cmd 1 len with left := 0 }))) ∧
    (m.keep = some k → k.code = some c → (c ≠ 0 ∨ (k.op ≠ 1 ∧ k.op ≠ 2 ∧ k.op ≠ 3)) → exec (.keepCmdDone bad) s =
      s.becomes (Mach.w { m with keep := none } .keepStat (BitVec.ofNat 18 (0x10000 + c.toNat * 0x1000)))) ∧
    (m.keep = some k → k.code = some 0 → (k.op = 1 ∨ k.op = 2 ∨ k.op = 3) →
      exec (.keepCmdDone []) s = s.becomes (Mach.w { m with keep := none } .keepStat 0x10000) ∧
      (let g := m.retirePages (k.badPages bad)
       exec (.keepCmdDone bad) s =
        s.becomes (Mach.w { g.1 with keep := none } .keepStat (BitVec.ofNat 18 (0x10000 + g.2 * 0x1000))))) ∧
    (m.isOn 6 = true → bit (m.r .keepCtl) 17 = true → m.keepScrub.toNat ≠ 2 ^ 18 - 1 →
      let l := m.keepScrub.toNat
      let g := (List.range 4).foldl (fun m i => m.keepScrubWord ((keepKey 0 0 + 32 * l) / 8 + i) (32 * l + 8 * i)) m
      exec .keepScrubStep s = s.becomes { g with keepScrub := g.keepScrub + 1 }) ∧
    (let d : D0 := { m.d0 with powerFail := true }
     exec .powerFailTrip s = s.becomes { m with d0 := d })

/-- R351 to R356, R360, R447: a host request is taken whole while fewer than 32 answers are outstanding; it is refused with the first
code that applies, else performed; a posted write is not answered; QUIESCE is set and cleared by its register. -/
def Obligations.HostTarget : Prop :=
  ∀ (s : State) (bs : List HostBeat) (who : Master),
    let m := s.m
    let r := HostReq.ofBeats bs
    let answer (m : Mach) (c : Nat) (d : List (BitVec 72)) : Mach :=
      if r.op = 2 then m else { m with host := { m.host with rsps := m.host.rsps ++ [⟨BitVec.ofNat 4 c, r.tag, d⟩] } }
    let served (g : Mach) : Prop := (r.op ≠ 1 → r.op ≠ 2 → exec (.hostRead bs) s = s.becomes g) ∧
      (r.op = 1 → exec (.hostWriteAnswered bs) s = s.becomes g) ∧ (r.op = 2 → exec (.hostWritePosted bs) s = s.becomes g)
    let n := r.len.toNat + 1
    (32 ≤ m.host.rsps.length → served m) ∧
    (m.host.rsps.length < 32 → HostReq.malformed r = true → served (answer (m.wbit .blkHperr 2 true) 5 [])) ∧
    (m.host.rsps.length < 32 → HostReq.malformed r = false →
      (m.hostCode r = 0 →
        served (answer ((m.hostFlit r).hostPerform r).1 0 ((m.hostFlit r).hostPerform r).2)) ∧
      (m.hostCode r ≠ 0 → (m.hostCode r ≠ 3 ∨ r.op ≠ 0) → served (answer m (m.hostCode r) [])) ∧
      (m.hostCode r = 3 → r.op = 0 → served (answer ((List.range n).foldl (fun m i => m.extNote (r.addr.toNat + 8 * i) 8) m) 3 [])) ∧
      (HostReq.inMap r = false → m.d0.lcState ≠ 5 → m.hostCode r = 1) ∧
      (HostReq.inMap r = true → m.lcHost r = true → m.hostCode r = 4) ∧
      (HostReq.inMap r = true → m.lcHost r = false → m.hostOff r = true → m.hostCode r = 6)) ∧
    (Takes s who ⟨.blkHpctl, 0, 0⟩ →
      exec (.hostQuiesce who) s = s.becomes (m.limWrite ⟨.blkHpctl, 0, 0⟩ (m.r .blkHpctl ||| 0x20000) 11 0 1 0xFFF) ∧
      exec (.hostResume who) s = s.becomes (m.limWrite ⟨.blkHpctl, 0, 0⟩ (setBit (m.r .blkHpctl) 17 false) 11 0 1 0xFFF))

/-- R342, R357 to R359, R361 to R364: an answer goes to the request of its tag, as an error where its parity is bad; one with no request
is flagged; TMO µs without one are an error response. A ring's descriptor is read and used where the ring is ready, and an error
of an access stops the ring. -/
def Obligations.HostInitiator : Prop :=
  ∀ (s : State) (tag par : BitVec 8) (rsp : BitVec 4) (bs : List HostBeat) (q : InitReq) (r : Fin 8) (t : Fin 16) (d : Desc)
    (ns : List Nonet) (f : Shipped) (fs : List Shipped) (n : Mach),
    let m := s.m
    let good := par = lanePar (rspHeader tag rsp) ∧ ∀ b ∈ bs, b.par = lanePar b.data
    let bad := m.wbit .blkHperr 0 true
    let req := m.host.reqs.find? fun q => q.tag == tag
    let late := q.since + 1000 * fld (m.r .blkHpctl) 11 0 ≤ m.now
    let ring := 8 + t.val
    let g := m.acceptWaiting (16 + t.val)
    let a := g.ringFetch ring
    let b := a.hostFetch (bit (a.r .blkRctl ring) 16) d.buf d.len.toNat
    let frame := (ns.take d.len.toNat ++ List.replicate (d.len.toNat - ns.length) 0).map fun n =>
      if bit (b.r .blkRctl ring) 16 then n else n &&& 0xFF#9
    (req = some q →
      (good → rsp = 0 → exec (.initResponse tag rsp bs par) s = s.becomes (m.initAnswer q (some ((bs.map HostBeat.data).headD 0)))) ∧
      (good → rsp ≠ 0 → exec (.initResponse tag rsp bs par) s = s.becomes (m.initAnswer q none)) ∧
      (¬good → exec (.initResponse tag rsp bs par) s = s.becomes (bad.initAnswer q none)) ∧
      (late → exec (.initTimeout tag) s = s.becomes (m.initAnswer q none)) ∧
      (¬ late → exec (.initTimeout tag) s = s.becomes m)) ∧
    (req = none →
      (good → exec (.initResponse tag rsp bs par) s = s.becomes ((m.wbit .blkHperr 1 true).count 0x7450 3)) ∧
      (¬good → exec (.initResponse tag rsp bs par) s = s.becomes ((bad.wbit .blkHperr 1 true).count 0x7450 3)) ∧
      exec (.initTimeout tag) s = s.becomes m) ∧
    (m.rxWaiting r.val = f :: fs → m.ringReady r.val = true →
      exec (.rxRingCopy r d false) s = s.becomes ((m.ringFetch r.val).rxCopy r.val f d) ∧
      exec (.rxRingCopy r d true) s = s.becomes ((m.ringFetch r.val).ringError r.val)) ∧
    ((m.rxWaiting r.val = [] ∨ m.ringReady r.val = false) →
      exec (.rxRingCopy r d false) s = s.becomes m ∧ exec (.rxRingCopy r d true) s = s.becomes m) ∧
    (g.ringReady ring = true → (g.iq (16 + t.val)).waiting = [] →
      exec (.txDescriptor t d ns true) s = s.becomes (a.ringError ring) ∧
      (d.len.toNat < 14 ∨ 16368 < d.len.toNat ∨ bit (a.r .blkKentry 3) 17 = false →
        exec (.txDescriptor t d ns false) s = s.becomes (a.ringDone ring (descOctets d d.len.toNat 0xC0 0 0))) ∧
      (14 ≤ d.len.toNat → d.len.toNat ≤ 16368 → bit (a.r .blkKentry 3) 17 = true →
        (b.inject t.val frame = some n →
          exec (.txDescriptor t d ns false) s = s.becomes (n.ringDone ring (descOctets d d.len.toNat 0x80 0 0))) ∧
        (b.inject t.val frame = none → exec (.txDescriptor t d ns false) s = s.becomes b)))

/-- R367, R401 to R403, R438, R439: PORST_N low leaves the keep store and nothing else; its release is the PORST cause and step 2 of
start-up; a block reset that ends takes start-up up again with D0 kept. -/
def Obligations.ResetsAndStartUp : Prop :=
  ∀ (s : State),
    let m := s.m
    let up : Mach := { m with d0 := { m.d0 with porst := false } }
    let line : Mach := { m with d0 := { m.d0 with lineLow := false } }
    let low := m.porstLow
    exec .porst s = s.becomes low ∧ low.d0 = Mach.reset.d0 ∧ low.regs = [] ∧ low.threads = [] ∧ low.locks = [] ∧ low.cores = [] ∧
    (∀ k, 0x40000000 ≤ k → mget 0 low.mem k = mget 0 m.mem k) ∧ (∀ e ∈ low.mem, 0x40000000 ≤ e.1) ∧
    (m.d0.porst = true → exec .porstRelease s = s.becomes (((up.fltCause 1).setBoot 2).bootGo)) ∧
    (m.d0.porst = false → exec .porstRelease s = s.becomes m) ∧
    (m.d0.lineLow = true → m.d0.porst = false →
      exec .blockResetRelease s = s.becomes (((line.w .pwrBoot 0).setBoot 2).bootGo)) ∧
    ((m.d0.lineLow = false ∨ m.d0.porst = true) → exec .blockResetRelease s = s.becomes m)

/-- R397, R398: a domain is switched off, on or into retention where that is accepted; otherwise the command sets its refusal. A domain
that goes off loses its registers, a lock its threads and memory.
R366, R368, R371, R430: the power handshake, isolation, the end of a fault hold after its 1 µs, and a
quay's clock. -/
def Obligations.Power : Prop :=
  (∀ (s : State) (who : Master) (d : Fin 24),
      let m := s.m
      let i := d.val
      let refuse := s.becomes (m.wbit .pwrDom 13 true i)
      Takes s who ⟨.pwrDom, 0, i⟩ →
        ((m.power i = .off ∨ m.power i = .retention) →
          let g := m.setPower i .changing
          let w : Mach := { g with d0 := { g.d0 with wantDoms := g.d0.wantDoms ++ [i] } }
          exec (.pwrOn who d) s = s.becomes w.pwrNext) ∧
        ((m.power i = .on ∨ m.power i = .changing) → exec (.pwrOn who d) s = s.becomes m) ∧
        (m.offOk i = false → exec (.pwrOff who d) s = refuse) ∧
        (m.offOk i = true → i ≠ 1 → exec (.pwrOff who d) s = s.becomes (m.powerOff i)) ∧
        (m.offOk i = true → i = 1 →
          let g := m.powerOff 1
          exec (.pwrOff who d) s = s.becomes (g.w .pwrIso (setFld (g.r .pwrIso) 15 14 2))) ∧
        (7 ≤ i → (m.lock (i - 7)).parked = true →
          exec (.pwrRetain who d) s = s.becomes ((m.setPower i .retention).loseLock (i - 7) .retained true)) ∧
        ((i < 7 ∨ (m.lock (i - 7)).parked = false) → exec (.pwrRetain who d) s = refuse)) ∧
  (∀ (s : State) (who : Master) (d : Nat) (q : Quay) (ok : Bool),
      let m := s.m
      let hs (m : Mach) (h : PwrStep) : Mach := { m with d0 := { m.d0 with hs := h } }
      let iso (n : Nat) : Mach := m.w .pwrIso (setFld (m.r .pwrIso) 15 14 n)
      let cut (m : Mach) (q : Nat) : Mach :=
        (m.qiCtlWrite q (setBit (m.r .qiCtl q) 17 false)).qeCtlWrite q (setFld (m.r .qeCtl q) 17 17 0 &&& ~~~(0x4000#18))
      let quiet := ((List.range 16).foldl cut (iso 1)).wbit .blkHpctl 17 true
      let back : Mach := { (iso 3) with d0 := { (iso 3).d0 with resuming := true } }
      (m.d0.hs = .requested d → exec .pwrupGnt s = s.becomes (hs m (.powering d)) ∧ exec .powerGood s = s.becomes m) ∧
      (m.d0.hs = .powering d →
        exec .powerGood s = s.becomes (hs (m.powerOn d) (.falling d)) ∧ exec .pwrupGnt s = s.becomes m) ∧
      (m.d0.hs = .falling d → exec .pwrupGntFall s = s.becomes (hs m .idle).pwrNext.bootGo) ∧
      (m.d0.hs = .idle → exec .pwrupGnt s = s.becomes (m.count 0x7450 4)) ∧
      (Takes s who ⟨.pwrIso, 0, 0⟩ →
        (m.isoState = 0 → exec (.isolate who) s =
          s.becomes (if quiet.evacState = 1 ∨ quiet.evacState = 2 then quiet.evacEnd else quiet)) ∧
        (m.isoState ≠ 0 → exec (.isolate who) s = s.becomes m) ∧
        (m.isoState = 2 → exec (.isoResume who) s =
          s.becomes ((back.w .pwrBoot (setFld (setFld (back.r .pwrBoot) 13 11 0) 17 14 3)).pwrRequest 6)) ∧
        (m.isoState ≠ 2 → exec (.isoResume who) s = s.becomes m)) ∧
      (m.past m.d0.fltAt 1000 = true →
        let e : D0 := { m.d0 with fltHold := false }
        exec .faultHoldEnd s = s.becomes { m with d0 := e }) ∧
      (m.past m.d0.fltAt 1000 = false → exec .faultHoldEnd s = s.becomes m) ∧
      exec (.clkokChange true q ok) s = s.becomes (m.wbit .qeCtl 13 ok q.val) ∧
      exec (.clkokChange false q ok) s = s.becomes (m.wbit .qiPhy 15 ok q.val))

/-- R410 to R417: an evacuation begins where the pair allows it, copies, switches by BLK_REMAP, drains and ends with the victim parked;
a thread that holds a frame DRAIN µs after the switch faults or is moved; the firmware's periodic test is such an evacuation. -/
def Obligations.Evacuation : Prop :=
  ∀ (s : State) (who : Master) (v : Cell) (thr : BitVec 7) (e : Evac),
    let m := s.m
    let n := fld v 3 0
    let set (v : Cell) (m : Mach) : Mach :=
      let r := if bit v 11 then setBit (m.r .blkEvac) 11 false else m.r .blkEvac
      m.w .blkEvac (setFld (setBit r 12 (bit v 12)) 3 0 (fld v 3 0))
    let g := set v m
    let x := mkTid e.victim.val (fld thr 6 3) (fld thr 2 0)
    let y := mkTid e.spare.val (fld thr 6 3) (fld thr 2 0)
    let w := m.w .blkMove (setFld (m.r .blkMove) 6 0 thr.toNat)
    let late := m.past e.switched (1000 * fld (m.r .blkEvdrain) 13 0)
    (Takes s who ⟨.blkEvac, 0, 0⟩ →
      (g.evacGoOk n = true → exec (.evacGo who v) s = s.becomes (g.evacStart n)) ∧
      (g.evacGoOk n = false → exec (.evacGo who v) s = s.becomes (g.wbit .blkEvac 11 true)) ∧
      (let a := m.r .blkEvac &&& 0x100F ||| 0x10000
       ((set a m).evacState = 1 ∨ (set a m).evacState = 2 → exec (.evacAbort who) s = s.becomes (set a m).evacEnd) ∧
       ((set a m).evacState ≠ 1 → (set a m).evacState ≠ 2 → exec (.evacAbort who) s = s.becomes (set a m)))) ∧
    (m.evac = some e →
      (m.evacState = 1 → exec .evacCopyDone s = s.becomes ((m.copyBasin e.victim.val e.spare.val).setEvac 2)) ∧
      (3 ≤ m.evacState → m.drained = true →
        let p := Mach.parkLock { m with evac := none } e.victim.val
        exec .evacDrainDone s = s.becomes ((p.setEvac 0).count 0x7B00 1)) ∧
      (Takes s who ⟨.blkMove, 0, 0⟩ →
        exec (.moveHalt who thr) s = s.becomes ((w.moveHalt x).moveHalt y) ∧
        (w.moveOk x y = true → exec (.moveGo who thr) s = s.becomes (w.moveDone x y)) ∧
        (w.moveOk x y = false → exec (.moveGo who thr) s = s.becomes (w.wbit .blkMove 14 true))) ∧
      (m.evacState = 3 → m.evacHolders ≠ [] → late = true → exec .evacDrainExpire s =
        s.becomes ((m.evacHolders.filter m.faultsLate).foldl (fun m t => (m.threadFault t 4).count 0x7B00 3) (m.setEvac 4))) ∧
      (late = false → exec .evacDrainExpire s = s.becomes m)) ∧
    (m.evacState ≠ 3 ∨ m.evacHolders = [] → exec .evacDrainExpire s = s.becomes m) ∧
    (m.fwRuns = true → m.odVarNat 0x500304 24 ≠ 0 → ∀ n, m.nextTest = some n →
      exec .periodicTest s =
        s.becomes (m.evacWrite (BitVec.ofNat 18 (0x20000 + b2n (bit (m.r .blkEvac) 12) * 0x1000 + n))))

/-- R420 to R427, R429: an exchange of images is ordered by its bit and performed or refused when its check ends; SWITCH and a watchdog
of the active tollkeeper are failover triggers; a watchdog of the standby restarts it; the watchdogs act when their periods have passed; the mirror is brought up; the block watchdog
is served only with its code. -/
def Obligations.Failover : Prop :=
  ∀ (s : State) (who : Master) (t : Tid) (v : Cell) (b : Bool) (k : BitVec 2),
    let m := s.m
    let n := b2n b
    let wd := m.w .blkTkwd (BitVec.ofNat 18 (max 10 (fld (m.r .blkTkwd) 15 0)))
    let served : D0 := if Tid.core t = 0 then { wd.d0 with tkSvcA := m.now } else { wd.d0 with tkSvcB := m.now }
    let due := 8 ≤ m.bootStep ∧ m.past (if b then m.d0.tkSvcB else m.d0.tkSvcA) (1000 * fld (m.r .blkTkwd) 15 0) = true
    let o := 1 - m.activeTk
    let mir := m.mirrorStow
    let up := if mir.tkRuns o then mir.tkOk o true else mir.holdTk o false
    let go : Mach := { m with xchg := none }
    let late := m.fltCause 3
    let again : Mach := { late with d0 := { late.d0 with bwdAt := late.tb.mono } }
    let restart := again.tkRestart
    let r := 1 - restart.activeTk
    (Takes s who ⟨.blkXchg, 0, 0⟩ → m.xchg = none →
      exec (.xchgFw who) s = s.becomes { m with xchg := some 0 } ∧ exec (.xchgPp who) s = s.becomes { m with xchg := some 1 } ∧
      exec (.xchgMc who) s = s.becomes { m with xchg := some 2 }) ∧
    (m.xchg = some k →
      (go.xchgRefused k.toNat = true → exec .xchgCheckDone s = s.becomes (go.wbit .blkXchg 14 true).bootGo) ∧
      (go.xchgRefused k.toNat = false → k = 0 →
        exec .xchgCheckDone s = s.becomes (((go.flipAct 0).dropCode 0 fun _ => true).failover).bootGo) ∧
      (go.xchgRefused k.toNat = false → k = 1 → exec .xchgCheckDone s = s.becomes go.xchgPp.bootGo) ∧
      (go.xchgRefused k.toNat = false → k = 2 → exec .xchgCheckDone s = s.becomes (go.flipAct 2).bootGo)) ∧
    (Takes s who ⟨.blkTkctl, 0, 0⟩ → exec (.tkSwitch who) s = s.becomes m.tkTrigger) ∧
    (Takes s (.thread t) ⟨.blkTkwd, 0, 0⟩ → exec (.tkWdService (.thread t)) s = s.becomes { wd with d0 := served }) ∧
    (m.tkRuns n = true → m.tkFrozen n = false → due →
      (m.activeTk = n → exec (.tkWatchdogExpire b) s = s.becomes m.tkTrigger) ∧
      (m.activeTk ≠ n → exec (.tkWatchdogExpire b) s = s.becomes (((m.restartTk n).wbit .blkTkstat 14 false).tkOk n false))) ∧
    ((m.tkRuns n = false ∨ m.tkFrozen n = true ∨ ¬due) → exec (.tkWatchdogExpire b) s = s.becomes m) ∧
    (m.isOn 1 = true → exec .mirrorComplete s = s.becomes (up.wbit .blkTkstat 14
      (up.ru .wlVer (272 + up.activeTk) == up.ru .wlVer (272 + o)))) ∧
    (Takes s who ⟨.pwrBwdsvc, 0, 0⟩ →
      (who = .host ∨ m.isActiveTk who = true → v = 0x05A5A →
        let d : D0 := { m.d0 with bwdAt := m.tb.mono }
        exec (.bwdService who v) s = s.becomes { m with d0 := d }) ∧
      (who = .host ∨ m.isActiveTk who = true → v ≠ 0x05A5A → exec (.bwdService who v) s = s.becomes (m.count 0x7B00 5)) ∧
      (who ≠ .host → m.isActiveTk who = false → exec (.bwdService who v) s = s.becomes m)) ∧
    (bit (m.r .pwrBwd) 17 = true → m.bwdFrozen = false → m.bwdLeft = 0 →
      ((bit (again.r .pwrBwd) 16 = false ∨ again.isOn 1 = false) → exec .bwdExpire s = s.becomes again) ∧
      (bit (again.r .pwrBwd) 16 = true → again.isOn 1 = true →
        exec .bwdExpire s = s.becomes (if restart.tkRuns r then restart.restartTk r else restart))) ∧
    ((bit (m.r .pwrBwd) 17 = false ∨ m.bwdFrozen = true ∨ m.bwdLeft ≠ 0) → exec .bwdExpire s = s.becomes m)

/-- R374 to R383, R389, R407: the object dictionary. A window command reads, stages or commits; a call answers in its core's call block and
rings; both come after the requests that wait, wait themselves while no firmware runs, and find a queue of 16 busy; a restore, the
clearing of an unfit record and a remote doorbell are writes of their entries.
R373 to R376: a write of the dictionary is refused with the first code that applies, and then changes nothing: an entry that is not
there, one that is read-only, a value of another type or length, one out of range. -/
def Obligations.DictionaryCommands : Prop :=
  (∀ (s : State) (who : Master) (ty : BitVec 4) (l : LLock) (x : Fin 16) (d : Dbl) (n : Nonet) (v : Cell) (c vt : Nat) (os : List (BitVec 8)),
      let m := s.m
      let queue (m : Mach) (q : List OdReq) : Mach := { m with dict := { m.dict with waits := q } }
      let g := m.dict.waits.foldl Mach.odServe (queue m [])
      let i := (g.r .odIdx).toNat
      let j := (g.r .odSub).toNat
      let fw := m.fwRuns = true
      let idle := bit (m.r .odStat) 17 = false
      let rest := os.drop (g.r .odOff).toNat
      let p := g.plockOf l.val
      let k := 16 * p + x.val
      (Takes s who ⟨.odCmd, 0, 0⟩ →
        (idle → fw →
          (g.odGet i j = .error c → exec (.odRead who) s = s.becomes (g.odDone c false 0)) ∧
          (g.odGet i j = .ok (vt, os) → exec (.odRead who) s =
            s.becomes (((g.odShow (rest.take 256)).w .odLen (BitVec.ofNat 18 (rest.take 256).length)).odDone 0
              (decide (256 < rest.length)) vt)) ∧
          (g.odStage = .error c →
            exec (.odWriteSegment who ty) s = s.becomes ((g.odStaged []).odDone c false 0) ∧
            exec (.odWriteCommit who ty) s = s.becomes ((g.odStaged []).odDone c false 0)) ∧
          (g.odStage = .ok os →
            exec (.odWriteSegment who ty) s = s.becomes ((g.odStaged os).odDone 0 false 0) ∧
            (let r := (g.odStaged []).odPut i j ty.toNat os
             exec (.odWriteCommit who ty) s = s.becomes (r.1.odDone r.2 false 0)))) ∧
        (¬idle → exec (.odRead who) s = s.becomes m ∧ exec (.odWriteSegment who ty) s = s.becomes m ∧
          exec (.odWriteCommit who ty) s = s.becomes m) ∧
        (idle → ¬fw →
          (m.dict.waits.length < 16 →
            exec (.odRead who) s = s.becomes ((queue m (m.dict.waits ++ [.window 0x10000])).wbit .odStat 17 true)) ∧
          (16 ≤ m.dict.waits.length → exec (.odRead who) s = s.becomes (m.odDone 0x70001 false 0)))) ∧
      (fw →
        (g.placeOff (.stow k 0) = false →
          let r := g.callRequest k
          let w := if r.2.1 = 0 ∧ fld (g.callCell k 0) 17 16 = 1 then
              (r.1.callPut k 16 (r.2.2.map nonet)).callPut k 6 (unpack r.2.2.length 2)
            else r.1
          let h := w.callPut k 8 (unpack (0x20000 + b2n (r.2.1 != 0) * 0x10000) 2 ++ unpack r.2.1 4)
          exec (.dictCall l x) s = s.becomes (h.ringWrite p (h.callCell k 7))) ∧
        (g.placeOff (.stow k 0) = true → exec (.dictCall l x) s = s.becomes g)) ∧
      (¬fw → m.dict.waits.length < 16 → exec (.dictCall l x) s = s.becomes (queue m (m.dict.waits ++ [.call l.val x.val]))) ∧
      (fw → exec (.dictRestore d) s = s.becomes (m.odPut 0x1011 1 5 (beOctets d.toNat 5)).1 ∧
        exec (.unfitClear n) s = s.becomes (m.odPut 0x5003 5 2 (beOctets n.toNat 2)).1 ∧
        exec (.remoteDoorbell l v) s = s.becomes (m.odPut (0x3044 + 256 * l.val) 1 3 (beOctets v.toNat 3)).1) ∧
      (¬fw → exec (.dictRestore d) s = s.becomes m ∧ exec (.unfitClear n) s = s.becomes m ∧
        exec (.remoteDoorbell l v) s = s.becomes m)) ∧
  (∀ (m : Mach) (i j ty c : Nat) (os : List (BitVec 8)) (e : OdEntry),
      (m.odEntry i j = .error c → m.odPut i j ty os = (m, c) ∧ m.odGet i j = .error c) ∧
      (m.odEntry i j = .ok e →
        ((e.acc = .ro ∨ e.acc = .const) → m.odPut i j ty os = (m, 0x30003)) ∧
        (e.acc ≠ .ro → e.acc ≠ .const → e.fits ty os = false → m.odPut i j ty os = (m, 0x30005)) ∧
        (e.acc ≠ .ro → e.acc ≠ .const → e.fits ty os = true → m.odInRange (256 * i + j) e os = false →
          m.odPut i j ty os = (m, 0x30006)) ∧
        (e.acc = .wo → m.odGet i j = .error 0x30004) ∧
        (e.acc ≠ .wo → m.lcRefuses false i j = false → m.odPowered e = false → m.odGet i j = .error 0x30009)))

/-- R385 to R393: an LPP request of the firmware's queue is taken and served by the row of its message: in a session of role OPERATE, with its tag and a later
SEQ, it is performed and answered, and an open request makes a session with its key; the queue's registers give, make and
send frames; the timers of sessions, transfers and subscriptions do what their rules say. -/
def Obligations.LppRequests : Prop :=
  ∀ (s : State) (who : Master) (mf a : DAddr) (v : Cell) (f : LppFrame) (x : LppMsg) (r : List DAddr) (i : BitVec 6) (n : BitVec 4)
    (g : Mach) (k ty ns : Nat) (u : Subscr) (os : List (BitVec 8)) (e : LppSession),
    let m := s.m
    let idleFor (e : LppSession) : Bool := m.past e.heard (1000000000 * beNat (m.odVarValue 0x120002 (beOctets 60 3)))
    let left : Dict := { m.dict with lppQueue := m.dict.lppQueue.filter fun a => a != mf }
    let taken : Mach := { m with dict := left }
    let c := m.r .blkLppnew1
    let served (i : Instr) : Prop := exec i s = s.becomes (taken.lppServe f x)
    (m.fwRuns = true → m.lppFrame mf.toNat = some f → lppParse f.os = some x →
      (x.msg = 1 → served (.lppRead mf)) ∧ (x.msg = 2 → x.opens = false → served (.lppWrite mf)) ∧
      (x.opens = true → served (.sessionOpen mf)) ∧ (x.msg = 3 → served (.lppReadBlock mf)) ∧
      (x.msg = 4 → served (.lppWriteBlock mf)) ∧ (x.msg = 5 → served (.lppSubscribe mf)) ∧ (x.msg = 7 → served (.lppAbort mf)) ∧
      (x.msg = 3 → exec (.lppRead mf) s = s.becomes m)) ∧
    (m.fwRuns = true → m.lppFrame mf.toNat = some f → lppParse f.os = some x → x.rsp = false → x.auth = true → x.bcast = false →
      x.badForm = 0 → m.cmacRuns = true →
      (x.session ≠ 0 → m.sessionOf x.session = some (ns, e) → m.lppTag (16 + ns) (x.head ++ x.body) = x.tag → e.rxSeq < x.seq → e.role = 1 →
        let w := taken.putSession ns { e with rxSeq := x.seq, heard := m.now }
        let b := x.body
        let answers (i : Instr) (m : Mach) (o : List (BitVec 8)) : Prop := exec i s = s.becomes (m.lppAnswer f x (some ns) (.body o))
        let part : Transfer := ⟨true, BitVec.ofNat 16 (numAt b 0 2), BitVec.ofNat 8 (numAt b 2 1), BitVec.ofNat 8 (numAt b 3 1), b.drop 9, m.now⟩
        let shown : Transfer := ⟨false, BitVec.ofNat 16 (numAt b 0 2), BitVec.ofNat 8 (numAt b 2 1), BitVec.ofNat 8 ty, os, m.now⟩
        let sub : Subscr := ⟨ns, BitVec.ofNat 16 (numAt b 0 2), BitVec.ofNat 8 (numAt b 2 1), BitVec.ofNat 16 (numAt b 4 2),
          BitVec.ofNat 8 (numAt b 6 1), f.iq, x.src, (swapAddrs f.head).map nonet, os, m.now⟩
        (x.msg = 1 → w.odGet (numAt b 0 2) (numAt b 2 1) = .ok (ty, os) → os.length ≤ 1000 →
          answers (.lppRead mf) w (b.take 3 ++ beOctets ty 1 ++ os)) ∧
        (x.msg = 2 → b ≠ [0x12, 0, 1, 9, 0] → w.odPut (numAt b 0 2) (numAt b 2 1) (numAt b 3 1) (b.drop 4) = (g, 0) →
          answers (.lppWrite mf) g (b.take 4)) ∧
        (x.msg = 3 → numAt b 4 4 = 0 → 0 < numAt b 8 2 → numAt b 8 2 ≤ 1000 → numAt b 8 2 < os.length →
          w.odGet (numAt b 0 2) (numAt b 2 1) = .ok (ty, os) →
          answers (.lppReadBlock mf) ((w.putTransfer ns (some shown)).putTransfer ns (some shown))
            (b.take 3 ++ [BitVec.ofNat 8 ty] ++ (b.drop 4).take 4 ++ beOctets 0 1 ++ os.take (numAt b 8 2))) ∧
        (x.msg = 4 → numAt b 4 4 = 0 → numAt b 8 1 ≠ 1 → answers (.lppWriteBlock mf) (w.putTransfer ns (some part)) (b.take 8)) ∧
        (x.msg = 5 → numAt b 4 2 < 0xFFFF → w.odGet (numAt b 0 2) (numAt b 2 1) = .ok (ty, os) →
          w.dict.subs.find? (fun e => e.2.session == ns && e.2.id == sub.id) = none → w.freeSub = some k →
          let d : Dict := { w.dict with subs := mput w.dict.subs k sub }
          answers (.lppSubscribe mf) { w with dict := d } (b.take 3 ++ beOctets ty 1 ++ [sub.id])) ∧
        (x.msg = 7 → exec (.lppAbort mf) s = s.becomes ((w.putTransfer ns none).lppSilent f.mf))) ∧
      (x.opens = true → numAt x.body 4 1 < 2 → x.body.length = 13 → numAt x.body 3 1 = 9 → x.seq ≠ 0 →
        m.lppTag (numAt x.body 4 1) (x.head ++ x.body) = x.tag → m.dict.sessions = [] → m.lcRefuses true 0x1200 1 = false →
        let start := Config.sessionNumber m.free
        let num := if start = 0 then start + 1 else start
        let nb := beOctets (Config.sessionNonce m.free).toNat 8
        let sk := aesCmac (m.cmacKey (numAt x.body 4 1)) ([0x4C, 0x50, 0x50, 0x01] ++ x.body.drop 5 ++ nb ++ beOctets num.toNat 2)
        let w := (taken.take.setCmacKey 16 (BitVec.ofNat 128 (beNat sk))).putSession 0
          ⟨num, BitVec.ofNat 8 (numAt x.body 4 1), 16, x.seq, 0, m.now⟩
        exec (.sessionOpen mf) s = s.becomes (w.lppAnswer f x (some 0) (.body (x.body.take 4 ++ beOctets num.toNat 2 ++ nb))))) ∧
    (m.fwRuns = true → m.lppFrame mf.toNat = some f → lppParse f.os = none →
      exec (.lppRead mf) s = s.becomes ((taken.lppSilent f.mf).count 0x7460 3)) ∧
    (m.fwRuns = true → m.dict.subs.find? (fun e => e.1 == i.toNat) = some (i.toNat, u) →
      m.odGet u.index.toNat u.sub.toNat = .ok (ty, os) →
      (os.length ≤ 1000 → (u.period ≠ 0 ∨ os ≠ u.last) → m.past u.sent (1000000 * max 1 u.period.toNat) = true →
        let d : Dict := { m.dict with subs := mput m.dict.subs i.toNat { u with last := os, sent := m.now } }
        Mach.lppAlloc { m with dict := d } (fld c 16 13) = some (g, k) →
        let o := g.lppBuild 6 u.dst (some u.session) 0 (beOctets u.index.toNat 2 ++ [u.sub] ++ beOctets ty 1 ++ [u.id] ++ os)
        exec (.notifyDue i) s =
          s.becomes ((o.1.count 0x7460 7).lppOut (fld c 16 13) k u.iq (u.head.map octet ++ o.2))) ∧
      ((u.period = 0 ∧ os = u.last) ∨ m.past u.sent (1000000 * max 1 u.period.toNat) = false →
        exec (.notifyDue i) s = s.becomes m)) ∧
    (m.fwRuns = true →
      (m.dict.sessions.any (fun e => e.1 == n.toNat && idleFor e.2) = true →
        exec (.sessionIdleExpire n) s = s.becomes ((m.endLpp n.toNat).count 0x7460 8)) ∧
      (m.dict.sessions.any (fun e => e.1 == n.toNat && idleFor e.2) = false →
        exec (.sessionIdleExpire n) s = s.becomes m)) ∧
    (∀ t, m.transfer n.toNat = some t →
      (m.past t.since 100000000 = true →
        let d : Dict := { m.dict with transfers := mdel m.dict.transfers n.toNat }
        exec (.blockTransferExpire n) s = s.becomes { m with dict := d }) ∧
      (m.past t.since 100000000 = false → exec (.blockTransferExpire n) s = s.becomes m)) ∧
    (Answers s who ⟨.blkLpppop0, 0, 0⟩ →
      (m.dict.lppQueue = a :: r → m.quiet who = false →
        let d : Dict := { m.dict with lppQueue := r }
        exec (.lppPop who) s =
          s.reads (Mach.w { m with dict := d } .blkLpppop1 (BitVec.ofNat 18 (0x20000 + a.toNat / 0x40000))) (a.setWidth 18)) ∧
      (m.dict.lppQueue = a :: r → m.quiet who = true → exec (.lppPop who) s = s.reads m (a.setWidth 18))) ∧
    (Answers s who ⟨.blkLppnew0, 0, 0⟩ → m.quiet who = false →
      (m.lppAlloc (fld c 16 13) = some (g, k) → exec (.lppNew who) s =
        s.reads (g.w .blkLppnew1 (setFld (setBit c 17 true) 9 0 (k / 0x40000))) (BitVec.ofNat 18 k)) ∧
      (m.lppAlloc (fld c 16 13) = none → exec (.lppNew who) s =
        s.reads (m.w .blkLppnew1 (setFld (setBit c 17 false) 9 0 0)) 0)) ∧
    (Takes s who ⟨.blkLppship, 0, 2⟩ → exec (.lppShip who v) s = s.becomes (m.lppSend m.lppMf v))

/-- R435 to R438, R443, R461: what pulses and timers of the wire do: a BREAK opens a session at the level that the life cycle leaves open, an
end closes it and clears LOUD and BRKHALT, a read slot gives one bit, and a command that does not end is answered with TIMEOUT. -/
def Obligations.WirePulses : Prop :=
  ∀ (s : State) (e : Session) (who : Master) (o : BitVec 8) (rest : List (BitVec 8)),
    let m := s.m
    let closed := m.endSession
    let open_ : D0 := { closed.d0 with session := some ⟨openLevel closed.d0.lcState.toNat, none, [], [], 0, false, false, closed.now, 0⟩ }
    let poll := m.wirePoll
    let w := poll.updSession fun e => { e with slotAt := m.now }
    let sent (b : Bool) : Mach := { w with d0 := { w.d0 with pulse := some b } }
    let still (m : Mach) : Mach := { m with d0 := { m.d0 with pulse := none } }
    (m.d0.porst = false →
      exec .oxBreak s = s.becomes { closed with d0 := open_ } ∧ exec .blockResetLow s = s.becomes m.blockReset) ∧
    exec .sessionEndPulse s = s.becomes closed ∧ closed.d0.session = none ∧
    (m.d0.session = some e →
      (m.past e.slotAt 10000000000 = true → exec .sessionTimeout s = s.becomes closed) ∧
      (m.past e.slotAt 10000000000 = false → exec .sessionTimeout s = s.becomes m)) ∧
    (m.d0.session = some e → exec (.packetGapExpire true) s = s.becomes ((m.wbit .dbgStat 11 true).count 0x7C00 3)) ∧
    (m.d0.session = some e → e.endAfter = false →
      exec (.packetGapExpire false) s = s.becomes (m.updSession fun e => { e with tx := [], txBit := 0 })) ∧
    (poll.d0.session = some e → e.cmdBusy = true → poll.past e.cmdAt 100000 = true →
      exec .dbgCmdTimeout s = s.becomes (poll.respond 7 [])) ∧
    (poll.d0.session = some e → e.cmdBusy = false ∨ poll.past e.cmdAt 100000 = false →
      exec .dbgCmdTimeout s = s.becomes poll) ∧
    (w.d0.session = some e → e.tx = o :: rest → e.endAfter = false →
      exec .readSlot s = s.becomes ((sent (bit o (7 - e.txBit))).updSession fun e =>
        { e with tx := if e.txBit = 7 then rest else e.tx, txBit := (e.txBit + 1) % 8 })) ∧
    (w.d0.session = some e → e.tx = [o] → e.txBit = 7 → e.cmdBusy = false → e.endAfter = true →
      let done := ((sent (bit o 0)).updSession fun e => { e with tx := [], txBit := 0 }).endSession
      let d : D0 := { done.d0 with pulse := some (bit o 0) }
      exec .readSlot s = s.becomes { done with d0 := d }) ∧
    (w.d0.session = some e → e.tx = [] → e.cmdBusy = true →
      exec .readSlot s = s.becomes ((sent (bit (0xFF#8) (7 - e.txBit))).updSession fun e =>
        { e with tx := if e.txBit = 7 then [] else [0xFF#8], txBit := (e.txBit + 1) % 8 })) ∧
    (w.d0.session = some e → e.tx = [] → e.cmdBusy = false → exec .readSlot s = s.becomes (still w)) ∧
    (w.d0.session = none → exec .readSlot s = s.becomes (still w)) ∧
    (Takes s who ⟨.dbgCtl, 0, 0⟩ →
      exec (.breset who) s = s.becomes (m.w .dbgCtl ((m.r .dbgCtl ||| 0x2000) &&& 0x3C000)).blockReset)

/-- R440 to R444, R449, R454, R464: a packet with its CRC right, its arguments among their encodings and the level it needs is carried out
and answered; else it is answered with the first of STATUS 1, 2 and 3 that applies, and changes nothing but the session. -/
def Obligations.WirePackets : Prop :=
  ∀ (s : State) (e : Session) (target space count term1 n crc : BitVec 8) (term : BitVec 16) (tag : BitVec 64) (addr : BitVec 32)
    (items : List (BitVec 72)) (octets : List (BitVec 8)), s.m.d0.session = some e → s.m.d0.porst = false →
    let m := s.m.updSession fun e =>
      { e with tx := [], txBit := 0, cmdBusy := false, endAfter := false, slotAt := s.m.now, cmdAt := s.m.now }
    let lv := e.level.toNat
    let sum (i : Instr) (body : List (BitVec 8)) (ok : Bool) (level : Nat) (f : Mach) : Prop :=
      (crc8 body ≠ crc → exec i s = s.becomes (m.respond 1 [])) ∧
      (crc8 body = crc → ok = false → exec i s = s.becomes (m.respond 2 [])) ∧
      (crc8 body = crc → ok = true → lv < level → exec i s = s.becomes (m.respond 3 [])) ∧
      (crc8 body = crc → ok = true → level ≤ lv → exec i s = s.becomes f)
    let nonce := Config.nonce m.free
    let judged := (m.updSession fun e => { e with nonce := none }).judge e.nonce target tag
    let level := if judged.2 = 0 ∧ target.toNat < 16 then max lv target.toNat else lv
    let t := term.toNat
    let read := m.dbgRead (space == 1) (count.toNat + 1) addr.toNat
    let wrote := m.dbgWrite (space == 1) addr.toNat items
    let put := m.vtIn t octets
    sum (.dbgIdent crc) [1] true 0 (m.respond 0 (beOctets 0x17160004 5 ++ [m.d0.lcState.setWidth 8, BitVec.ofNat 8 lv])) ∧
    (m.d0.lockout = false → m.isOn 5 = true → sum (.dbgChal target crc) [2, target] (targetOk target) 0
      ((m.take.updSession fun e => { e with nonce := some (target, nonce) }).respond 0 (beOctets nonce.toNat 8))) ∧
    (m.d0.lockout = true → sum (.dbgChal target crc) [2, target] (targetOk target) 0 (m.respond 8 [])) ∧
    (m.d0.lockout = false → m.isOn 5 = false → sum (.dbgChal target crc) [2, target] (targetOk target) 0 (m.respond 9 [])) ∧
    sum (.dbgAuth target tag crc) ([3, target] ++ beOctets tag.toNat 8) (targetOk target) 0
      ((judged.1.updSession fun e => { e with level := BitVec.ofNat 2 level }).respond judged.2 [BitVec.ofNat 8 level]) ∧
    sum (.dbgRd space addr count crc) ([4, space] ++ beOctets addr.toNat 4 ++ [count]) (accessOk space addr) 1 (match read with
      | (m, .ok os) => m.respond 0 os
      | (m, .error c) => m.respond c []) ∧
    sum (.dbgWr space addr count items crc)
      ([5, space] ++ beOctets addr.toNat 4 ++ [count] ++ items.flatMap fun x => beOctets x.toNat (if space = 1 then 9 else 3))
      (accessOk space addr && items.length == count.toNat + 1) 2 (wrote.1.respond wrote.2 []) ∧
    sum (.dbgVtrd term term1 crc) ([7] ++ beOctets t 2 ++ [term1])
      (decide (t < 274) && decide (1 ≤ term1.toNat) && decide (term1.toNat ≤ 16)) 1
      (let os := (m.vt t).out.take term1.toNat
       (m.updVt t fun v => { v with out := v.out.drop term1.toNat }).respond 0 (BitVec.ofNat 8 os.length :: os)) ∧
    sum (.dbgVtwr term n octets crc) ([8] ++ beOctets t 2 ++ [n] ++ octets)
      (decide (t < 274) && decide (1 ≤ n.toNat) && decide (n.toNat ≤ 16) && octets.length == n.toNat) 2
      (put.1.respond (if put.2 then 0 else 6) []) ∧
    sum (.dbgRepeat crc) [9] true 0 (if e.last.isEmpty then m.respond 2 [] else m.sendWire e.last) ∧
    sum (.dbgEnd crc) [10] true 0 ((m.respond 0 []).updSession fun e => { e with endAfter := true })

/-- R456 to R460: a run command does its work on every thread that it names and accepts it, and is refused where one does not; by the wire it
needs FULL access and answers, by DBG_RUN it sets REFUSED. -/
def Obligations.RunControl : Prop :=
  ∀ (s : State) (e : Session) (who : Master) (tk all : Bool) (t : Tid) (crc : BitVec 8) (area : DAddr),
    let m := s.m
    let x := m.thr t
    let open_ := m.updSession fun e =>
      { e with tx := [], txBit := 0, cmdBusy := false, endAfter := false, slotAt := s.m.now, cmdAt := s.m.now }
    let dest := b2n tk * 0x8000 + b2n all * 0x4000 + t.toNat
    let wired (i : Instr) (op : Nat) (a : DAddr) : Prop :=
      crc8 ([6, BitVec.ofNat 8 op] ++ beOctets dest 2 ++ beOctets a.toNat 4) = crc →
      let r := open_.run op tk all t true a.toNat
      exec i s = s.becomes (if r.2 then r.1.respond 6 []
        else if r.1.runBusy then r.1.updSession fun e => { e with cmdBusy := true }
        else r.1.respond 0 [])
    let written (i : Instr) (op : Nat) : Prop := exec i s = s.becomes (m.run op tk all t false m.dbgArg).1
    let arg := (m.w .dbgArg (area.setWidth 18) 0).w .dbgArg ((area >>> 18).setWidth 18) 1
    let held := x.halted = true ∧ x.faulted = false ∧ m.coreRuns t = true
    (m.d0.session = some e → m.d0.porst = false → 2 ≤ e.level.toNat →
      wired (.dbgHalt (.wire crc) tk all t) 1 0 ∧ wired (.dbgResume (.wire crc) tk all t) 2 0 ∧
      wired (.dbgStep (.wire crc) tk all t) 3 0 ∧ wired (.dbgReset (.wire crc) tk all t) 4 0 ∧
      wired (.dbgLoad (.wire crc) tk all t area) 5 area) ∧
    (Takes s who ⟨.dbgRun, 0, 0⟩ →
      written (.dbgHalt (.reg who) tk all t) 1 ∧ written (.dbgResume (.reg who) tk all t) 2 ∧
      written (.dbgStep (.reg who) tk all t) 3 ∧ written (.dbgReset (.reg who) tk all t) 4 ∧
      exec (.dbgLoad (.reg who) tk all t area) s = s.becomes (arg.run 5 tk all t false area.toNat).1) ∧
    (x.faulted = false → m.coreRuns t = true →
      (x.halted = false → ∀ w a, m.runOne 1 w a t = some (m.updThr t fun x => { x with haltReq := some 1, bySession := w })) ∧
      (x.halted = true → ∀ w a, (m.shovOn t = none → m.runOne 2 w a t = some (m.resumeThread t)) ∧
        m.runOne 3 w a t = some (m.updThr t fun x => { x with halted := false, cause := 0, stepping := true, bySession := w }))) ∧
    (∀ w a, m.runOne 4 w a t = some (m.threadRst t)) ∧
    (held → x.shadow = none → ∀ w a, m.runOne 5 w a t = m.loadHalf t a) ∧
    (¬held → ∀ w a, m.runOne 5 w a t = none) ∧
    (x.faulted = true → ∀ w a, m.runOne 1 w a t = none ∧ m.runOne 2 w a t = none ∧ m.runOne 3 w a t = none)

/-- R446 to R452, R464: the life-cycle registers and the virtual terminals. A challenge gives a nonce unless it is locked out, a transition
consumes it, and the eighth key word stores the customer key; terminals pass octets both ways. -/
def Obligations.LifeCycleAndTerminals : Prop :=
  ∀ (s : State) (who : Master) (g o : BitVec 8) (w : BitVec 16) (t : Tid) (k : Nat),
    let m := s.m
    let nonce (m : Mach) (n : Option (BitVec 8 × BitVec 64)) : Mach := { m with d0 := { m.d0 with lcNonce := n } }
    let tag : BitVec 64 := BitVec.ofNat 64 (((List.range 4).map fun k => fld (m.r .lcTag k) 15 0).foldl (fun a x => a * 65536 + x) 0)
    let c := (m.d0.lcNonce.getD (0, 0)).1
    let r := if m.d0.lcNonce.isSome ∧ c.toNat < 16 then (nonce m none, 3) else (nonce m none).judge m.d0.lcNonce c tag
    let st := m.d0.stagedKey ++ [w]
    let key : BitVec 128 := BitVec.ofNat 128 (st.foldl (fun a x => a * 65536 + x.toNat) 0)
    let free : Mach := { m with d0 := { m.d0 with lockout := false } }
    (m.past m.d0.lockAt 1000000000 = true → exec .authLockoutEnd s = s.becomes free) ∧
    (m.past m.d0.lockAt 1000000000 = false → exec .authLockoutEnd s = s.becomes m) ∧
    (Takes s who ⟨.lcChal, 0, 0⟩ →
      (m.d0.lockout = true → exec (.lcChal who g) s = s.becomes (m.lcCode 8)) ∧
      (m.d0.lockout = false → m.isOn 5 = false → exec (.lcChal who g) s = s.becomes (m.lcCode 9)) ∧
      (m.d0.lockout = false → m.isOn 5 = true → targetOk g = false → exec (.lcChal who g) s = s.becomes (m.lcCode 2)) ∧
      (m.d0.lockout = false → m.isOn 5 = true → targetOk g = true →
        exec (.lcChal who g) s = s.becomes ((nonce m.take (some (g, Config.nonce m.free))).lcCode 0))) ∧
    (Takes s who ⟨.lcCmd, 0, 0⟩ → exec (.lcTransition who) s = s.becomes ((r.1.lcCode r.2).wbit .lcStat 11 true)) ∧
    (Takes s who ⟨.lcKdata, 0, 0⟩ →
      ((m.d0.lcState ≠ 1 ∨ m.d0.ckey = true ∨ m.d0.lcBad = true) → exec (.lcKeyWrite who w) s = s.becomes (m.lcCode 6)) ∧
      (m.d0.lcState = 1 → m.d0.ckey = false → m.d0.lcBad = false →
        (st.length < 8 →
          let d : D0 := { m.d0 with stagedKey := st }
          exec (.lcKeyWrite who w) s = s.becomes { m with d0 := d }) ∧
        (8 ≤ st.length →
          let d : D0 := { m.d0 with stagedKey := [], custKey := key, ckey := true }
          let n := Mach.lcSave { m with d0 := d }
          exec (.lcKeyWrite who w) s = s.becomes (if n.isOn 5 then n.setCmacKey 2 key else n)))) ∧
    (Tid.ok t = true → m.isOn 0 = true →
      ((m.thr t).helm = true → exec (.vtTx t o) s = s.becomes (m.vtOut (Tid.coreNo t) o)) ∧
      ((m.thr t).helm = true → exec (.vtRx t) s =
        s.reads (m.updVt (Tid.coreNo t) fun v => { v with inp := v.inp.tail }) (vtHead (m.vt (Tid.coreNo t)).inp))) ∧
    (Answers s who ⟨.dbgVtout, 0, 0⟩ → m.vtSel = some k →
      exec (.vtoutRead who) s =
        s.reads (if m.quiet who then m else m.updVt k fun v => { v with out := v.out.tail }) (vtHead (m.vt k).out)) ∧
    (Takes s who ⟨.dbgVtin, 0, 0⟩ → m.vtSel = some k → exec (.vtinWrite who o) s = s.becomes (m.vtIn k [o]).1)

/-- R12, R13, R157, R158: a write at a register address writes the register there, if its domain is on and it accepts that master's writes; a
write at an address that names no register, of a register that is off, narrowed to that master (R447) or not accepting it leaves the
block as it was but for a count and the code of LC_STAT; a register without a rule of its own stores its writable bits and clears those written 1 to clear. -/
def Obligations.RegisterAccess : Prop :=
  ∀ (s : State) (who : Master) (a : DAddr) (v : Cell) (r : RegRef),
    let m := s.m
    let n := r.reg.info
    (m.regAt a.toNat who = none → exec (.registerWrite who a v) s = s.becomes m) ∧
    (m.regAt a.toNat who = some r →
      (m.isOn r.domain = false ∨ m.narrowed r who true = true → exec (.registerWrite who a v) s = s.becomes m) ∧
      (r.reg ≠ .odCmd → Takes s who r → exec (.registerWrite who a v) s = s.becomes (m.regStore r v who)) ∧
      (r.reg ≠ .odCmd → m.isOn r.domain = true → m.mayWrite r who = false → m.narrowed r who true = false →
        exec (.registerWrite who a v) s = s.becomes (m.refusedWrite r who) ∧
        (∀ q : RegRef, q.key ≠ 0x80A0200 → (m.refusedWrite r who).rget q = m.rget q) ∧ (m.refusedWrite r who).mem = m.mem ∧ (m.refusedWrite r who).threads = m.threads)) ∧
    (m.plainWrite r v).rget r = (m.rget r &&& ~~~n.rw ||| v &&& n.rw) &&& ~~~(v &&& n.w1c) ∧
    (∀ q : RegRef, q.key ≠ r.key → (m.plainWrite r v).rget q = m.rget q)

/-- R293: the results and flags of Tally at the edges of its two formats, under each rounding attribute (0 RNE, 1 RTZ, 2 RDN, 3 RUP,
4 RMM). A row gives the outcome and those of the attributes under which it differs. -/
def Obligations.EdgeResults : Prop :=
  let row {α : Type} (op : Nat → α) (x : α) (other : List (Nat × α)) : Prop :=
    ∀ rm < 5, op rm = ((other.find? fun e => e.1 == rm).map Prod.snd).getD x
  let S := fmtS
  let H := fmtH
  let big := 0x7F7FFFFF
  let inf := 0x7F800000
  let one := 0x3F800000
  let dN := 0x7FC00000
  let minus (a : Nat) : Nat := 0x80000000 + a
  let ofnx := excOF ||| excNX
  let ufnx := excUF ||| excNX
  let top : Dbl := BitVec.ofNat 36 (2 ^ 35 - 1)
  row (S.add · 0 (minus 0)) (0, 0) [(2, (minus 0, 0))] ∧ row (S.add · 1 1) (2, 0) [] ∧
  row (S.add · 1 (minus 1)) (0, 0) [(2, (minus 0, 0))] ∧ row (S.add · big 1) (big, excNX) [(3, (inf, ofnx))] ∧
  row (S.add · big big) (inf, ofnx) [(1, (big, ofnx)), (2, (big, ofnx))] ∧
  row (S.add · big (minus big)) (0, 0) [(2, (minus 0, 0))] ∧
  row (S.add · inf big) (inf, 0) [] ∧ row (S.add · inf (minus inf)) (dN, excNV) [] ∧
  (∀ f ∈ [S, H], ∀ q x, f.num q = .nan false →
    (f.num x ≠ .nan true → row (f.add · q x) (f.dnan, 0) [] ∧ f.cmp q x = (8, 0)) ∧
    ((∀ b, f.num x ≠ .nan b) → f.minMax false q x = (x, 0))) ∧
  (∀ f ∈ [S, H], ∀ s x, f.num s = .nan true →
    row (f.add · s x) (f.dnan, excNV) [] ∧ f.cmp s x = (8, excNV) ∧
    ((∀ b, f.num x ≠ .nan b) → f.minMax false s x = (x, excNV))) ∧
  row (S.mul · 0 big) (0, 0) [] ∧ row (S.mul · 0 inf) (dN, excNV) [] ∧ row (S.mul · 1 1) (0, ufnx) [(3, (1, ufnx))] ∧
  row (S.mul · 1 big) (0x34FFFFFF, 0) [] ∧ row (S.mul · big big) (inf, ofnx) [(1, (big, ofnx)), (2, (big, ofnx))] ∧
  row (S.mul · inf 1) (inf, 0) [] ∧
  row (S.fma · 0 inf dN) (dN, excNV) [] ∧ row (S.fma · big 0x40000000 (minus big)) (big, 0) [] ∧
  row (S.fma · 1 1 (minus 0)) (minus 0, ufnx) [(3, (1, ufnx))] ∧
  row (S.div · 0 0) (dN, excNV) [] ∧
  (∀ f ∈ [S, H], ∀ x n m e, f.num x = .fin n m e → m ≠ 0 → row (f.div · x 0) (f.infBits n, excDZ) []) ∧
  row (S.div · inf 0) (inf, 0) [] ∧ row (S.div · 0 inf) (0, 0) [] ∧ row (S.div · inf inf) (dN, excNV) [] ∧
  row (S.div · 1 1) (one, 0) [] ∧ row (S.div · big big) (one, 0) [] ∧ row (S.div · 1 big) (0, ufnx) [(3, (1, ufnx))] ∧
  row (S.div · big 1) (inf, ofnx) [(1, (big, ofnx)), (2, (big, ofnx))] ∧
  row (S.sqrt · 0) (0, 0) [] ∧ row (S.sqrt · (minus 0)) (minus 0, 0) [] ∧
  row (S.sqrt · 1) (0x1A3504F3, excNX) [(3, (0x1A3504F4, excNX))] ∧
  row (S.sqrt · big) (0x5F7FFFFF, excNX) [(3, (0x5F800000, excNX))] ∧ row (S.sqrt · inf) (inf, 0) [] ∧
  row (S.sqrt · (minus 1)) (dN, excNV) [] ∧ row (S.sqrt · (minus inf)) (dN, excNV) [] ∧
  S.minMax false 0 (minus 0) = (minus 0, 0) ∧ S.minMax true 0 (minus 0) = (0, 0) ∧
  S.cmp 0 (minus 0) = (2, 0) ∧ S.cmp 1 0 = (4, 0) ∧
  row (H.convert S · big) (0x7C00, ofnx) [(1, (0x7BFF, ofnx)), (2, (0x7BFF, ofnx))] ∧
  row (H.convert S · 1) (0, ufnx) [(3, (1, ufnx))] ∧
  (∀ s, S.num s = .nan true → row (H.convert S · s) (0x7E00, excNV) []) ∧
  row (S.toInt · big) (top, excNV) [] ∧ row (S.toInt · (minus big)) (-top - 1, excNV) [] ∧
  row (S.toInt · 1) (0, excNX) [(3, (1, excNX))] ∧ row (S.toInt · inf) (top, excNV) [] ∧
  (∀ q, S.num q = .nan false → row (S.toInt · q) (top, excNV) []) ∧
  row (S.rnd · 1) (0, excNX) [(3, (one, excNX))] ∧ row (S.rnd · big) (big, 0) [] ∧ row (S.rnd · inf) (inf, 0) [] ∧
  row (H.add · 1 1) (2, 0) [] ∧ row (H.add · 0x7BFF 1) (0x7BFF, excNX) [(3, (0x7C00, ofnx))] ∧
  row (H.mul · 1 0x7BFF) (0x1BFF, 0) [] ∧ row (H.mul · 1 1) (0, ufnx) [(3, (1, ufnx))] ∧
  row (H.div · 1 0x7BFF) (0, ufnx) [(3, (1, ufnx))] ∧
  row (H.mul · 0x7BFF 0x7BFF) (0x7C00, ofnx) [(1, (0x7BFF, ofnx)), (2, (0x7BFF, ofnx))] ∧
  row (H.div · 0x7BFF 1) (0x7C00, ofnx) [(1, (0x7BFF, ofnx)), (2, (0x7BFF, ofnx))] ∧
  row (H.sqrt · 1) (0x0C00, 0) [] ∧ row (H.sqrt · 0x7BFF) (0x5BFF, excNX) [(3, (0x5C00, excNX))] ∧
  row (S.convert H · 1) (0x33800000, 0) [] ∧ row (S.convert H · 0x7BFF) (0x477FE000, 0) [] ∧
  row (H.toInt · 0x7BFF) (65504, 0) []
end

