-- ==== Sys2Proof/Laws/State.lean ====
section
/-!
SUPPORT. The sparse maps, and what each update of the block leaves of each part of it: one lemma for each field and update.
-/
namespace Sys2Proof.Machine

/-! ## Sparse maps -/

theorem mget_mdel {α : Type} (d : α) (m : Map α) (i j : Nat) : mget d (mdel m i) j = if j = i then d else mget d m j := by
  induction m with
  | nil => simp [mdel, mget]
  | cons e r ih =>
    obtain ⟨k, v⟩ := e
    by_cases h : k = i
    · subst h; by_cases hj : j = k
      · rw [show mdel ((k, v) :: r) k = mdel r k from if_pos rfl, ih]; simp [hj]
      · simp [mdel, mget, ih, hj, Ne.symm hj]
    · by_cases hj : k = j
      · subst hj; simp [mdel, mget, h]
      · simp [mdel, mget, h, hj, ih]

theorem mget_mput {α : Type} (d : α) (m : Map α) (i j : Nat) (x : α) :
    mget d (mput m i x) j = if j = i then x else mget d m j := by
  induction m with
  | nil => simp [mput, mget, eq_comm]
  | cons e r ih =>
    obtain ⟨k, v⟩ := e
    by_cases h : i < k
    · by_cases hj : j = i
      · subst hj; simp [mput, mget, h]
      · simp [mput, mget, h, hj, Ne.symm hj]
    · by_cases h2 : k = i
      · subst h2; by_cases hj : j = k
        · subst hj; simp [mput, mget]
        · simp [mput, mget, hj, Ne.symm hj]
      · by_cases hj : k = j
        · subst hj; simp [mput, mget, h, h2]
        · simp [mput, mget, h, h2, hj, ih]

/-- A map reads at a key as it was last set there, and elsewhere as before. -/
theorem mget_mset {α : Type} [DecidableEq α] (d : α) (m : Map α) (i j : Nat) (x : α) :
    mget d (mset d m i x) j = if j = i then x else mget d m j := by
  unfold mset; split <;> simp_all [mget_mdel, mget_mput]

@[simp] theorem mget_mset_self {α : Type} [DecidableEq α] (d : α) (m : Map α) (i : Nat) (x : α) : mget d (mset d m i x) i = x := by
  simp [mget_mset]

theorem mget_mset_ne {α : Type} [DecidableEq α] (d e : α) (m : Map α) {i j : Nat} (x : α) (h : j ≠ i) :
    mget d (mset e m i x) j = mget d m j := by
  unfold mset; split <;> simp [mget_mdel, mget_mput, h]

theorem mwfFrom_le {α : Type} [DecidableEq α] (d : Nat → α) (m : Map α) {a b : Nat} (h : a ≤ b) (hw : mwfFrom d b m = true) :
    mwfFrom d a m = true := by
  cases m with
  | nil => rfl
  | cons e r => simp only [mwfFrom, Bool.and_eq_true, decide_eq_true_eq] at *; exact ⟨⟨le_trans h hw.1.1, hw.1.2⟩, hw.2⟩

theorem mwfFrom_mdel {α : Type} [DecidableEq α] (d : Nat → α) (m : Map α) (i n : Nat) (hw : mwfFrom d n m = true) :
    mwfFrom d n (mdel m i) = true := by
  induction m generalizing n with
  | nil => rfl
  | cons e r ih =>
    simp only [mwfFrom, mdel, Bool.and_eq_true, decide_eq_true_eq] at *
    split
    · exact ih n (mwfFrom_le d r (by omega) hw.2)
    · simp only [mwfFrom, Bool.and_eq_true, decide_eq_true_eq]; exact ⟨hw.1, ih _ hw.2⟩

theorem mwfFrom_mput {α : Type} [DecidableEq α] (d : Nat → α) (m : Map α) (i n : Nat) (x : α) (hi : n ≤ i) (hx : x ≠ d i)
    (hw : mwfFrom d n m = true) : mwfFrom d n (mput m i x) = true := by
  induction m generalizing n with
  | nil => simp [mput, mwfFrom, hi, hx]
  | cons e r ih =>
    simp only [mwfFrom, mput, Bool.and_eq_true, decide_eq_true_eq] at *
    split
    · simp only [mwfFrom, Bool.and_eq_true, decide_eq_true_eq]; exact ⟨⟨hi, hx⟩, ⟨by omega, hw.1.2⟩, hw.2⟩
    · split
      · rename_i h1 h2
        subst h2; simp only [mwfFrom, Bool.and_eq_true, decide_eq_true_eq]; exact ⟨⟨hi, hx⟩, hw.2⟩
      · simp only [mwfFrom, Bool.and_eq_true, decide_eq_true_eq]; exact ⟨hw.1, ih _ (by omega) hw.2⟩

/-- Setting a key keeps the canonical form. -/
theorem mwf_mset {α : Type} [DecidableEq α] (d : Nat → α) (m : Map α) (i : Nat) (x : α) (hw : mwf d m = true) :
    mwf d (mset (d i) m i x) = true := by
  unfold mset mwf; split
  · exact mwfFrom_mdel d m i 0 hw
  · exact mwfFrom_mput d m i 0 x (Nat.zero_le _) ‹_› hw

/-- Leaving entries out keeps the canonical form. -/
theorem mwf_filter {α : Type} [DecidableEq α] (d : Nat → α) (m : Map α) (f : Nat × α → Bool) (hw : mwf d m = true) :
    mwf d (m.filter f) = true := by
  have key : ∀ n, mwfFrom d n m = true → mwfFrom d n (m.filter f) = true := by
    clear hw
    induction m with
    | nil => intro n _; rfl
    | cons e r ih =>
      intro n h
      simp only [mwfFrom, Bool.and_eq_true, decide_eq_true_eq] at h
      simp only [List.filter_cons]
      split
      · simp only [mwfFrom, Bool.and_eq_true, decide_eq_true_eq]; exact ⟨h.1, ih _ h.2⟩
      · exact ih n (mwfFrom_le d r (by omega) h.2)
  exact key 0 hw

/-! ## What each update leaves -/

/-! ### `setThr` -/

@[simp] theorem Mach.setThr_regs (m : Mach) (t : Tid) (x : Thread) : (m.setThr t x).regs = m.regs := rfl
@[simp] theorem Mach.setThr_mem (m : Mach) (t : Tid) (x : Thread) : (m.setThr t x).mem = m.mem := rfl
@[simp] theorem Mach.setThr_ecc (m : Mach) (t : Tid) (x : Thread) : (m.setThr t x).ecc = m.ecc := rfl
@[simp] theorem Mach.setThr_counts (m : Mach) (t : Tid) (x : Thread) : (m.setThr t x).counts = m.counts := rfl
@[simp] theorem Mach.setThr_locks (m : Mach) (t : Tid) (x : Thread) : (m.setThr t x).locks = m.locks := rfl
@[simp] theorem Mach.setThr_cores (m : Mach) (t : Tid) (x : Thread) : (m.setThr t x).cores = m.cores := rfl
@[simp] theorem Mach.setThr_iqs (m : Mach) (t : Tid) (x : Thread) : (m.setThr t x).iqs = m.iqs := rfl
@[simp] theorem Mach.setThr_eqs (m : Mach) (t : Tid) (x : Thread) : (m.setThr t x).eqs = m.eqs := rfl
@[simp] theorem Mach.setThr_gates (m : Mach) (t : Tid) (x : Thread) : (m.setThr t x).gates = m.gates := rfl
@[simp] theorem Mach.setThr_doms (m : Mach) (t : Tid) (x : Thread) : (m.setThr t x).doms = m.doms := rfl
@[simp] theorem Mach.setThr_bollards (m : Mach) (t : Tid) (x : Thread) : (m.setThr t x).bollards = m.bollards := rfl
@[simp] theorem Mach.setThr_links (m : Mach) (t : Tid) (x : Thread) : (m.setThr t x).links = m.links := rfl
@[simp] theorem Mach.setThr_waybill (m : Mach) (t : Tid) (x : Thread) : (m.setThr t x).waybill = m.waybill := rfl
@[simp] theorem Mach.setThr_sealU (m : Mach) (t : Tid) (x : Thread) : (m.setThr t x).sealU = m.sealU := rfl
@[simp] theorem Mach.setThr_sluice (m : Mach) (t : Tid) (x : Thread) : (m.setThr t x).sluice = m.sluice := rfl
@[simp] theorem Mach.setThr_tb (m : Mach) (t : Tid) (x : Thread) : (m.setThr t x).tb = m.tb := rfl
@[simp] theorem Mach.setThr_host (m : Mach) (t : Tid) (x : Thread) : (m.setThr t x).host = m.host := rfl
@[simp] theorem Mach.setThr_d0 (m : Mach) (t : Tid) (x : Thread) : (m.setThr t x).d0 = m.d0 := rfl
@[simp] theorem Mach.setThr_keep (m : Mach) (t : Tid) (x : Thread) : (m.setThr t x).keep = m.keep := rfl
@[simp] theorem Mach.setThr_keepScrub (m : Mach) (t : Tid) (x : Thread) : (m.setThr t x).keepScrub = m.keepScrub := rfl
@[simp] theorem Mach.setThr_evac (m : Mach) (t : Tid) (x : Thread) : (m.setThr t x).evac = m.evac := rfl
@[simp] theorem Mach.setThr_xchg (m : Mach) (t : Tid) (x : Thread) : (m.setThr t x).xchg = m.xchg := rfl
@[simp] theorem Mach.setThr_oldVecs (m : Mach) (t : Tid) (x : Thread) : (m.setThr t x).oldVecs = m.oldVecs := rfl
@[simp] theorem Mach.setThr_paceLow (m : Mach) (t : Tid) (x : Thread) : (m.setThr t x).paceLow = m.paceLow := rfl
@[simp] theorem Mach.setThr_dict (m : Mach) (t : Tid) (x : Thread) : (m.setThr t x).dict = m.dict := rfl
@[simp] theorem Mach.setThr_helpq (m : Mach) (t : Tid) (x : Thread) : (m.setThr t x).helpq = m.helpq := rfl
@[simp] theorem Mach.setThr_shovs (m : Mach) (t : Tid) (x : Thread) : (m.setThr t x).shovs = m.shovs := rfl
@[simp] theorem Mach.setThr_rdata (m : Mach) (t : Tid) (x : Thread) : (m.setThr t x).rdata = m.rdata := rfl
@[simp] theorem Mach.setThr_free (m : Mach) (t : Tid) (x : Thread) : (m.setThr t x).free = m.free := rfl
@[simp] theorem Mach.setThr_lock_of (m : Mach) (t : Tid) (x : Thread) (p' : Nat) : (m.setThr t x).lock p' = m.lock p' := rfl
@[simp] theorem Mach.setThr_core_of (m : Mach) (t : Tid) (x : Thread) (k' : Nat) : (m.setThr t x).core k' = m.core k' := rfl
@[simp] theorem Mach.setThr_iq_of (m : Mach) (t : Tid) (x : Thread) (q' : Nat) : (m.setThr t x).iq q' = m.iq q' := rfl
@[simp] theorem Mach.setThr_eq_of (m : Mach) (t : Tid) (x : Thread) (q' : Nat) : (m.setThr t x).eq q' = m.eq q' := rfl
@[simp] theorem Mach.setThr_gate_of (m : Mach) (t : Tid) (x : Thread) (d' : Nat) : (m.setThr t x).gate d' = m.gate d' := rfl
@[simp] theorem Mach.setThr_bol_of (m : Mach) (t : Tid) (x : Thread) (b' : Nat) : (m.setThr t x).bol b' = m.bol b' := rfl
@[simp] theorem Mach.setThr_shape_of (m : Mach) (t : Tid) (x : Thread) (q' : Nat) : (m.setThr t x).shape q' = m.shape q' := rfl
@[simp] theorem Mach.setThr_link_of (m : Mach) (t : Tid) (x : Thread) (k' : Nat) : (m.setThr t x).link k' = m.link k' := rfl
@[simp] theorem Mach.setThr_rget_of (m : Mach) (t : Tid) (x : Thread) (r' : RegRef) : (m.setThr t x).rget r' = m.rget r' := rfl
@[simp] theorem Mach.setThr_r_of (m : Mach) (t : Tid) (x : Thread) (a' : Reg) (i' : Nat) : (m.setThr t x).r a' i' = m.r a' i' := rfl
@[simp] theorem Mach.setThr_ru_of (m : Mach) (t : Tid) (x : Thread) (a' : Reg) (u' i' : Nat) : (m.setThr t x).ru a' u' i' = m.ru a' u' i' := rfl
@[simp] theorem Mach.setThr_cntKey_of (m : Mach) (t : Tid) (x : Thread) (k' : Nat) : (m.setThr t x).cntKey k' = m.cntKey k' := rfl
@[simp] theorem Mach.setThr_mem1_of (m : Mach) (t : Tid) (x : Thread) (k' : Nat) : (m.setThr t x).mem1 k' = m.mem1 k' := rfl
@[simp] theorem Mach.setThr_eccOf_of (m : Mach) (t : Tid) (x : Thread) (k' : Nat) : (m.setThr t x).eccOf k' = m.eccOf k' := rfl
@[simp] theorem Mach.setThr_isOn_of (m : Mach) (t : Tid) (x : Thread) (k' : Nat) : (m.setThr t x).isOn k' = m.isOn k' := rfl

/-! ### `updThr` -/

@[simp] theorem Mach.updThr_regs (m : Mach) (t : Tid) (f : Thread → Thread) : (m.updThr t f).regs = m.regs := rfl
@[simp] theorem Mach.updThr_mem (m : Mach) (t : Tid) (f : Thread → Thread) : (m.updThr t f).mem = m.mem := rfl
@[simp] theorem Mach.updThr_ecc (m : Mach) (t : Tid) (f : Thread → Thread) : (m.updThr t f).ecc = m.ecc := rfl
@[simp] theorem Mach.updThr_counts (m : Mach) (t : Tid) (f : Thread → Thread) : (m.updThr t f).counts = m.counts := rfl
@[simp] theorem Mach.updThr_locks (m : Mach) (t : Tid) (f : Thread → Thread) : (m.updThr t f).locks = m.locks := rfl
@[simp] theorem Mach.updThr_cores (m : Mach) (t : Tid) (f : Thread → Thread) : (m.updThr t f).cores = m.cores := rfl
@[simp] theorem Mach.updThr_iqs (m : Mach) (t : Tid) (f : Thread → Thread) : (m.updThr t f).iqs = m.iqs := rfl
@[simp] theorem Mach.updThr_eqs (m : Mach) (t : Tid) (f : Thread → Thread) : (m.updThr t f).eqs = m.eqs := rfl
@[simp] theorem Mach.updThr_gates (m : Mach) (t : Tid) (f : Thread → Thread) : (m.updThr t f).gates = m.gates := rfl
@[simp] theorem Mach.updThr_doms (m : Mach) (t : Tid) (f : Thread → Thread) : (m.updThr t f).doms = m.doms := rfl
@[simp] theorem Mach.updThr_bollards (m : Mach) (t : Tid) (f : Thread → Thread) : (m.updThr t f).bollards = m.bollards := rfl
@[simp] theorem Mach.updThr_links (m : Mach) (t : Tid) (f : Thread → Thread) : (m.updThr t f).links = m.links := rfl
@[simp] theorem Mach.updThr_waybill (m : Mach) (t : Tid) (f : Thread → Thread) : (m.updThr t f).waybill = m.waybill := rfl
@[simp] theorem Mach.updThr_sealU (m : Mach) (t : Tid) (f : Thread → Thread) : (m.updThr t f).sealU = m.sealU := rfl
@[simp] theorem Mach.updThr_sluice (m : Mach) (t : Tid) (f : Thread → Thread) : (m.updThr t f).sluice = m.sluice := rfl
@[simp] theorem Mach.updThr_tb (m : Mach) (t : Tid) (f : Thread → Thread) : (m.updThr t f).tb = m.tb := rfl
@[simp] theorem Mach.updThr_host (m : Mach) (t : Tid) (f : Thread → Thread) : (m.updThr t f).host = m.host := rfl
@[simp] theorem Mach.updThr_d0 (m : Mach) (t : Tid) (f : Thread → Thread) : (m.updThr t f).d0 = m.d0 := rfl
@[simp] theorem Mach.updThr_keep (m : Mach) (t : Tid) (f : Thread → Thread) : (m.updThr t f).keep = m.keep := rfl
@[simp] theorem Mach.updThr_keepScrub (m : Mach) (t : Tid) (f : Thread → Thread) : (m.updThr t f).keepScrub = m.keepScrub := rfl
@[simp] theorem Mach.updThr_evac (m : Mach) (t : Tid) (f : Thread → Thread) : (m.updThr t f).evac = m.evac := rfl
@[simp] theorem Mach.updThr_xchg (m : Mach) (t : Tid) (f : Thread → Thread) : (m.updThr t f).xchg = m.xchg := rfl
@[simp] theorem Mach.updThr_oldVecs (m : Mach) (t : Tid) (f : Thread → Thread) : (m.updThr t f).oldVecs = m.oldVecs := rfl
@[simp] theorem Mach.updThr_paceLow (m : Mach) (t : Tid) (f : Thread → Thread) : (m.updThr t f).paceLow = m.paceLow := rfl
@[simp] theorem Mach.updThr_dict (m : Mach) (t : Tid) (f : Thread → Thread) : (m.updThr t f).dict = m.dict := rfl
@[simp] theorem Mach.updThr_helpq (m : Mach) (t : Tid) (f : Thread → Thread) : (m.updThr t f).helpq = m.helpq := rfl
@[simp] theorem Mach.updThr_shovs (m : Mach) (t : Tid) (f : Thread → Thread) : (m.updThr t f).shovs = m.shovs := rfl
@[simp] theorem Mach.updThr_rdata (m : Mach) (t : Tid) (f : Thread → Thread) : (m.updThr t f).rdata = m.rdata := rfl
@[simp] theorem Mach.updThr_free (m : Mach) (t : Tid) (f : Thread → Thread) : (m.updThr t f).free = m.free := rfl
@[simp] theorem Mach.updThr_lock_of (m : Mach) (t : Tid) (f : Thread → Thread) (p' : Nat) : (m.updThr t f).lock p' = m.lock p' := rfl
@[simp] theorem Mach.updThr_core_of (m : Mach) (t : Tid) (f : Thread → Thread) (k' : Nat) : (m.updThr t f).core k' = m.core k' := rfl
@[simp] theorem Mach.updThr_iq_of (m : Mach) (t : Tid) (f : Thread → Thread) (q' : Nat) : (m.updThr t f).iq q' = m.iq q' := rfl
@[simp] theorem Mach.updThr_eq_of (m : Mach) (t : Tid) (f : Thread → Thread) (q' : Nat) : (m.updThr t f).eq q' = m.eq q' := rfl
@[simp] theorem Mach.updThr_gate_of (m : Mach) (t : Tid) (f : Thread → Thread) (d' : Nat) : (m.updThr t f).gate d' = m.gate d' := rfl
@[simp] theorem Mach.updThr_bol_of (m : Mach) (t : Tid) (f : Thread → Thread) (b' : Nat) : (m.updThr t f).bol b' = m.bol b' := rfl
@[simp] theorem Mach.updThr_shape_of (m : Mach) (t : Tid) (f : Thread → Thread) (q' : Nat) : (m.updThr t f).shape q' = m.shape q' := rfl
@[simp] theorem Mach.updThr_link_of (m : Mach) (t : Tid) (f : Thread → Thread) (k' : Nat) : (m.updThr t f).link k' = m.link k' := rfl
@[simp] theorem Mach.updThr_rget_of (m : Mach) (t : Tid) (f : Thread → Thread) (r' : RegRef) : (m.updThr t f).rget r' = m.rget r' := rfl
@[simp] theorem Mach.updThr_r_of (m : Mach) (t : Tid) (f : Thread → Thread) (a' : Reg) (i' : Nat) : (m.updThr t f).r a' i' = m.r a' i' := rfl
@[simp] theorem Mach.updThr_ru_of (m : Mach) (t : Tid) (f : Thread → Thread) (a' : Reg) (u' i' : Nat) : (m.updThr t f).ru a' u' i' = m.ru a' u' i' := rfl
@[simp] theorem Mach.updThr_cntKey_of (m : Mach) (t : Tid) (f : Thread → Thread) (k' : Nat) : (m.updThr t f).cntKey k' = m.cntKey k' := rfl
@[simp] theorem Mach.updThr_mem1_of (m : Mach) (t : Tid) (f : Thread → Thread) (k' : Nat) : (m.updThr t f).mem1 k' = m.mem1 k' := rfl
@[simp] theorem Mach.updThr_eccOf_of (m : Mach) (t : Tid) (f : Thread → Thread) (k' : Nat) : (m.updThr t f).eccOf k' = m.eccOf k' := rfl
@[simp] theorem Mach.updThr_isOn_of (m : Mach) (t : Tid) (f : Thread → Thread) (k' : Nat) : (m.updThr t f).isOn k' = m.isOn k' := rfl

/-! ### `updLock` -/

@[simp] theorem Mach.updLock_regs (m : Mach) (p : Nat) (f : Lock → Lock) : (m.updLock p f).regs = m.regs := rfl
@[simp] theorem Mach.updLock_mem (m : Mach) (p : Nat) (f : Lock → Lock) : (m.updLock p f).mem = m.mem := rfl
@[simp] theorem Mach.updLock_ecc (m : Mach) (p : Nat) (f : Lock → Lock) : (m.updLock p f).ecc = m.ecc := rfl
@[simp] theorem Mach.updLock_counts (m : Mach) (p : Nat) (f : Lock → Lock) : (m.updLock p f).counts = m.counts := rfl
@[simp] theorem Mach.updLock_threads (m : Mach) (p : Nat) (f : Lock → Lock) : (m.updLock p f).threads = m.threads := rfl
@[simp] theorem Mach.updLock_cores (m : Mach) (p : Nat) (f : Lock → Lock) : (m.updLock p f).cores = m.cores := rfl
@[simp] theorem Mach.updLock_iqs (m : Mach) (p : Nat) (f : Lock → Lock) : (m.updLock p f).iqs = m.iqs := rfl
@[simp] theorem Mach.updLock_eqs (m : Mach) (p : Nat) (f : Lock → Lock) : (m.updLock p f).eqs = m.eqs := rfl
@[simp] theorem Mach.updLock_gates (m : Mach) (p : Nat) (f : Lock → Lock) : (m.updLock p f).gates = m.gates := rfl
@[simp] theorem Mach.updLock_doms (m : Mach) (p : Nat) (f : Lock → Lock) : (m.updLock p f).doms = m.doms := rfl
@[simp] theorem Mach.updLock_bollards (m : Mach) (p : Nat) (f : Lock → Lock) : (m.updLock p f).bollards = m.bollards := rfl
@[simp] theorem Mach.updLock_links (m : Mach) (p : Nat) (f : Lock → Lock) : (m.updLock p f).links = m.links := rfl
@[simp] theorem Mach.updLock_waybill (m : Mach) (p : Nat) (f : Lock → Lock) : (m.updLock p f).waybill = m.waybill := rfl
@[simp] theorem Mach.updLock_sealU (m : Mach) (p : Nat) (f : Lock → Lock) : (m.updLock p f).sealU = m.sealU := rfl
@[simp] theorem Mach.updLock_sluice (m : Mach) (p : Nat) (f : Lock → Lock) : (m.updLock p f).sluice = m.sluice := rfl
@[simp] theorem Mach.updLock_tb (m : Mach) (p : Nat) (f : Lock → Lock) : (m.updLock p f).tb = m.tb := rfl
@[simp] theorem Mach.updLock_host (m : Mach) (p : Nat) (f : Lock → Lock) : (m.updLock p f).host = m.host := rfl
@[simp] theorem Mach.updLock_d0 (m : Mach) (p : Nat) (f : Lock → Lock) : (m.updLock p f).d0 = m.d0 := rfl
@[simp] theorem Mach.updLock_keep (m : Mach) (p : Nat) (f : Lock → Lock) : (m.updLock p f).keep = m.keep := rfl
@[simp] theorem Mach.updLock_keepScrub (m : Mach) (p : Nat) (f : Lock → Lock) : (m.updLock p f).keepScrub = m.keepScrub := rfl
@[simp] theorem Mach.updLock_evac (m : Mach) (p : Nat) (f : Lock → Lock) : (m.updLock p f).evac = m.evac := rfl
@[simp] theorem Mach.updLock_xchg (m : Mach) (p : Nat) (f : Lock → Lock) : (m.updLock p f).xchg = m.xchg := rfl
@[simp] theorem Mach.updLock_oldVecs (m : Mach) (p : Nat) (f : Lock → Lock) : (m.updLock p f).oldVecs = m.oldVecs := rfl
@[simp] theorem Mach.updLock_paceLow (m : Mach) (p : Nat) (f : Lock → Lock) : (m.updLock p f).paceLow = m.paceLow := rfl
@[simp] theorem Mach.updLock_dict (m : Mach) (p : Nat) (f : Lock → Lock) : (m.updLock p f).dict = m.dict := rfl
@[simp] theorem Mach.updLock_helpq (m : Mach) (p : Nat) (f : Lock → Lock) : (m.updLock p f).helpq = m.helpq := rfl
@[simp] theorem Mach.updLock_shovs (m : Mach) (p : Nat) (f : Lock → Lock) : (m.updLock p f).shovs = m.shovs := rfl
@[simp] theorem Mach.updLock_rdata (m : Mach) (p : Nat) (f : Lock → Lock) : (m.updLock p f).rdata = m.rdata := rfl
@[simp] theorem Mach.updLock_free (m : Mach) (p : Nat) (f : Lock → Lock) : (m.updLock p f).free = m.free := rfl
@[simp] theorem Mach.updLock_thr_of (m : Mach) (p : Nat) (f : Lock → Lock) (t' : Tid) : (m.updLock p f).thr t' = m.thr t' := rfl
@[simp] theorem Mach.updLock_core_of (m : Mach) (p : Nat) (f : Lock → Lock) (k' : Nat) : (m.updLock p f).core k' = m.core k' := rfl
@[simp] theorem Mach.updLock_iq_of (m : Mach) (p : Nat) (f : Lock → Lock) (q' : Nat) : (m.updLock p f).iq q' = m.iq q' := rfl
@[simp] theorem Mach.updLock_eq_of (m : Mach) (p : Nat) (f : Lock → Lock) (q' : Nat) : (m.updLock p f).eq q' = m.eq q' := rfl
@[simp] theorem Mach.updLock_gate_of (m : Mach) (p : Nat) (f : Lock → Lock) (d' : Nat) : (m.updLock p f).gate d' = m.gate d' := rfl
@[simp] theorem Mach.updLock_bol_of (m : Mach) (p : Nat) (f : Lock → Lock) (b' : Nat) : (m.updLock p f).bol b' = m.bol b' := rfl
@[simp] theorem Mach.updLock_shape_of (m : Mach) (p : Nat) (f : Lock → Lock) (q' : Nat) : (m.updLock p f).shape q' = m.shape q' := rfl
@[simp] theorem Mach.updLock_link_of (m : Mach) (p : Nat) (f : Lock → Lock) (k' : Nat) : (m.updLock p f).link k' = m.link k' := rfl
@[simp] theorem Mach.updLock_rget_of (m : Mach) (p : Nat) (f : Lock → Lock) (r' : RegRef) : (m.updLock p f).rget r' = m.rget r' := rfl
@[simp] theorem Mach.updLock_r_of (m : Mach) (p : Nat) (f : Lock → Lock) (a' : Reg) (i' : Nat) : (m.updLock p f).r a' i' = m.r a' i' := rfl
@[simp] theorem Mach.updLock_ru_of (m : Mach) (p : Nat) (f : Lock → Lock) (a' : Reg) (u' i' : Nat) : (m.updLock p f).ru a' u' i' = m.ru a' u' i' := rfl
@[simp] theorem Mach.updLock_cntKey_of (m : Mach) (p : Nat) (f : Lock → Lock) (k' : Nat) : (m.updLock p f).cntKey k' = m.cntKey k' := rfl
@[simp] theorem Mach.updLock_mem1_of (m : Mach) (p : Nat) (f : Lock → Lock) (k' : Nat) : (m.updLock p f).mem1 k' = m.mem1 k' := rfl
@[simp] theorem Mach.updLock_eccOf_of (m : Mach) (p : Nat) (f : Lock → Lock) (k' : Nat) : (m.updLock p f).eccOf k' = m.eccOf k' := rfl
@[simp] theorem Mach.updLock_isOn_of (m : Mach) (p : Nat) (f : Lock → Lock) (k' : Nat) : (m.updLock p f).isOn k' = m.isOn k' := rfl

/-! ### `updCore` -/

@[simp] theorem Mach.updCore_regs (m : Mach) (k : Nat) (f : Core → Core) : (m.updCore k f).regs = m.regs := rfl
@[simp] theorem Mach.updCore_mem (m : Mach) (k : Nat) (f : Core → Core) : (m.updCore k f).mem = m.mem := rfl
@[simp] theorem Mach.updCore_ecc (m : Mach) (k : Nat) (f : Core → Core) : (m.updCore k f).ecc = m.ecc := rfl
@[simp] theorem Mach.updCore_counts (m : Mach) (k : Nat) (f : Core → Core) : (m.updCore k f).counts = m.counts := rfl
@[simp] theorem Mach.updCore_threads (m : Mach) (k : Nat) (f : Core → Core) : (m.updCore k f).threads = m.threads := rfl
@[simp] theorem Mach.updCore_locks (m : Mach) (k : Nat) (f : Core → Core) : (m.updCore k f).locks = m.locks := rfl
@[simp] theorem Mach.updCore_iqs (m : Mach) (k : Nat) (f : Core → Core) : (m.updCore k f).iqs = m.iqs := rfl
@[simp] theorem Mach.updCore_eqs (m : Mach) (k : Nat) (f : Core → Core) : (m.updCore k f).eqs = m.eqs := rfl
@[simp] theorem Mach.updCore_gates (m : Mach) (k : Nat) (f : Core → Core) : (m.updCore k f).gates = m.gates := rfl
@[simp] theorem Mach.updCore_doms (m : Mach) (k : Nat) (f : Core → Core) : (m.updCore k f).doms = m.doms := rfl
@[simp] theorem Mach.updCore_bollards (m : Mach) (k : Nat) (f : Core → Core) : (m.updCore k f).bollards = m.bollards := rfl
@[simp] theorem Mach.updCore_links (m : Mach) (k : Nat) (f : Core → Core) : (m.updCore k f).links = m.links := rfl
@[simp] theorem Mach.updCore_waybill (m : Mach) (k : Nat) (f : Core → Core) : (m.updCore k f).waybill = m.waybill := rfl
@[simp] theorem Mach.updCore_sealU (m : Mach) (k : Nat) (f : Core → Core) : (m.updCore k f).sealU = m.sealU := rfl
@[simp] theorem Mach.updCore_sluice (m : Mach) (k : Nat) (f : Core → Core) : (m.updCore k f).sluice = m.sluice := rfl
@[simp] theorem Mach.updCore_tb (m : Mach) (k : Nat) (f : Core → Core) : (m.updCore k f).tb = m.tb := rfl
@[simp] theorem Mach.updCore_host (m : Mach) (k : Nat) (f : Core → Core) : (m.updCore k f).host = m.host := rfl
@[simp] theorem Mach.updCore_d0 (m : Mach) (k : Nat) (f : Core → Core) : (m.updCore k f).d0 = m.d0 := rfl
@[simp] theorem Mach.updCore_keep (m : Mach) (k : Nat) (f : Core → Core) : (m.updCore k f).keep = m.keep := rfl
@[simp] theorem Mach.updCore_keepScrub (m : Mach) (k : Nat) (f : Core → Core) : (m.updCore k f).keepScrub = m.keepScrub := rfl
@[simp] theorem Mach.updCore_evac (m : Mach) (k : Nat) (f : Core → Core) : (m.updCore k f).evac = m.evac := rfl
@[simp] theorem Mach.updCore_xchg (m : Mach) (k : Nat) (f : Core → Core) : (m.updCore k f).xchg = m.xchg := rfl
@[simp] theorem Mach.updCore_oldVecs (m : Mach) (k : Nat) (f : Core → Core) : (m.updCore k f).oldVecs = m.oldVecs := rfl
@[simp] theorem Mach.updCore_paceLow (m : Mach) (k : Nat) (f : Core → Core) : (m.updCore k f).paceLow = m.paceLow := rfl
@[simp] theorem Mach.updCore_dict (m : Mach) (k : Nat) (f : Core → Core) : (m.updCore k f).dict = m.dict := rfl
@[simp] theorem Mach.updCore_helpq (m : Mach) (k : Nat) (f : Core → Core) : (m.updCore k f).helpq = m.helpq := rfl
@[simp] theorem Mach.updCore_shovs (m : Mach) (k : Nat) (f : Core → Core) : (m.updCore k f).shovs = m.shovs := rfl
@[simp] theorem Mach.updCore_rdata (m : Mach) (k : Nat) (f : Core → Core) : (m.updCore k f).rdata = m.rdata := rfl
@[simp] theorem Mach.updCore_free (m : Mach) (k : Nat) (f : Core → Core) : (m.updCore k f).free = m.free := rfl
@[simp] theorem Mach.updCore_thr_of (m : Mach) (k : Nat) (f : Core → Core) (t' : Tid) : (m.updCore k f).thr t' = m.thr t' := rfl
@[simp] theorem Mach.updCore_lock_of (m : Mach) (k : Nat) (f : Core → Core) (p' : Nat) : (m.updCore k f).lock p' = m.lock p' := rfl
@[simp] theorem Mach.updCore_iq_of (m : Mach) (k : Nat) (f : Core → Core) (q' : Nat) : (m.updCore k f).iq q' = m.iq q' := rfl
@[simp] theorem Mach.updCore_eq_of (m : Mach) (k : Nat) (f : Core → Core) (q' : Nat) : (m.updCore k f).eq q' = m.eq q' := rfl
@[simp] theorem Mach.updCore_gate_of (m : Mach) (k : Nat) (f : Core → Core) (d' : Nat) : (m.updCore k f).gate d' = m.gate d' := rfl
@[simp] theorem Mach.updCore_bol_of (m : Mach) (k : Nat) (f : Core → Core) (b' : Nat) : (m.updCore k f).bol b' = m.bol b' := rfl
@[simp] theorem Mach.updCore_shape_of (m : Mach) (k : Nat) (f : Core → Core) (q' : Nat) : (m.updCore k f).shape q' = m.shape q' := rfl
@[simp] theorem Mach.updCore_link_of (m : Mach) (k : Nat) (f : Core → Core) (k' : Nat) : (m.updCore k f).link k' = m.link k' := rfl
@[simp] theorem Mach.updCore_rget_of (m : Mach) (k : Nat) (f : Core → Core) (r' : RegRef) : (m.updCore k f).rget r' = m.rget r' := rfl
@[simp] theorem Mach.updCore_r_of (m : Mach) (k : Nat) (f : Core → Core) (a' : Reg) (i' : Nat) : (m.updCore k f).r a' i' = m.r a' i' := rfl
@[simp] theorem Mach.updCore_ru_of (m : Mach) (k : Nat) (f : Core → Core) (a' : Reg) (u' i' : Nat) : (m.updCore k f).ru a' u' i' = m.ru a' u' i' := rfl
@[simp] theorem Mach.updCore_cntKey_of (m : Mach) (k : Nat) (f : Core → Core) (k' : Nat) : (m.updCore k f).cntKey k' = m.cntKey k' := rfl
@[simp] theorem Mach.updCore_mem1_of (m : Mach) (k : Nat) (f : Core → Core) (k' : Nat) : (m.updCore k f).mem1 k' = m.mem1 k' := rfl
@[simp] theorem Mach.updCore_eccOf_of (m : Mach) (k : Nat) (f : Core → Core) (k' : Nat) : (m.updCore k f).eccOf k' = m.eccOf k' := rfl
@[simp] theorem Mach.updCore_isOn_of (m : Mach) (k : Nat) (f : Core → Core) (k' : Nat) : (m.updCore k f).isOn k' = m.isOn k' := rfl

/-! ### `updIq` -/

@[simp] theorem Mach.updIq_regs (m : Mach) (q : Nat) (f : Iq → Iq) : (m.updIq q f).regs = m.regs := rfl
@[simp] theorem Mach.updIq_mem (m : Mach) (q : Nat) (f : Iq → Iq) : (m.updIq q f).mem = m.mem := rfl
@[simp] theorem Mach.updIq_ecc (m : Mach) (q : Nat) (f : Iq → Iq) : (m.updIq q f).ecc = m.ecc := rfl
@[simp] theorem Mach.updIq_counts (m : Mach) (q : Nat) (f : Iq → Iq) : (m.updIq q f).counts = m.counts := rfl
@[simp] theorem Mach.updIq_threads (m : Mach) (q : Nat) (f : Iq → Iq) : (m.updIq q f).threads = m.threads := rfl
@[simp] theorem Mach.updIq_locks (m : Mach) (q : Nat) (f : Iq → Iq) : (m.updIq q f).locks = m.locks := rfl
@[simp] theorem Mach.updIq_cores (m : Mach) (q : Nat) (f : Iq → Iq) : (m.updIq q f).cores = m.cores := rfl
@[simp] theorem Mach.updIq_eqs (m : Mach) (q : Nat) (f : Iq → Iq) : (m.updIq q f).eqs = m.eqs := rfl
@[simp] theorem Mach.updIq_gates (m : Mach) (q : Nat) (f : Iq → Iq) : (m.updIq q f).gates = m.gates := rfl
@[simp] theorem Mach.updIq_doms (m : Mach) (q : Nat) (f : Iq → Iq) : (m.updIq q f).doms = m.doms := rfl
@[simp] theorem Mach.updIq_bollards (m : Mach) (q : Nat) (f : Iq → Iq) : (m.updIq q f).bollards = m.bollards := rfl
@[simp] theorem Mach.updIq_links (m : Mach) (q : Nat) (f : Iq → Iq) : (m.updIq q f).links = m.links := rfl
@[simp] theorem Mach.updIq_waybill (m : Mach) (q : Nat) (f : Iq → Iq) : (m.updIq q f).waybill = m.waybill := rfl
@[simp] theorem Mach.updIq_sealU (m : Mach) (q : Nat) (f : Iq → Iq) : (m.updIq q f).sealU = m.sealU := rfl
@[simp] theorem Mach.updIq_sluice (m : Mach) (q : Nat) (f : Iq → Iq) : (m.updIq q f).sluice = m.sluice := rfl
@[simp] theorem Mach.updIq_tb (m : Mach) (q : Nat) (f : Iq → Iq) : (m.updIq q f).tb = m.tb := rfl
@[simp] theorem Mach.updIq_host (m : Mach) (q : Nat) (f : Iq → Iq) : (m.updIq q f).host = m.host := rfl
@[simp] theorem Mach.updIq_d0 (m : Mach) (q : Nat) (f : Iq → Iq) : (m.updIq q f).d0 = m.d0 := rfl
@[simp] theorem Mach.updIq_keep (m : Mach) (q : Nat) (f : Iq → Iq) : (m.updIq q f).keep = m.keep := rfl
@[simp] theorem Mach.updIq_keepScrub (m : Mach) (q : Nat) (f : Iq → Iq) : (m.updIq q f).keepScrub = m.keepScrub := rfl
@[simp] theorem Mach.updIq_evac (m : Mach) (q : Nat) (f : Iq → Iq) : (m.updIq q f).evac = m.evac := rfl
@[simp] theorem Mach.updIq_xchg (m : Mach) (q : Nat) (f : Iq → Iq) : (m.updIq q f).xchg = m.xchg := rfl
@[simp] theorem Mach.updIq_oldVecs (m : Mach) (q : Nat) (f : Iq → Iq) : (m.updIq q f).oldVecs = m.oldVecs := rfl
@[simp] theorem Mach.updIq_paceLow (m : Mach) (q : Nat) (f : Iq → Iq) : (m.updIq q f).paceLow = m.paceLow := rfl
@[simp] theorem Mach.updIq_dict (m : Mach) (q : Nat) (f : Iq → Iq) : (m.updIq q f).dict = m.dict := rfl
@[simp] theorem Mach.updIq_helpq (m : Mach) (q : Nat) (f : Iq → Iq) : (m.updIq q f).helpq = m.helpq := rfl
@[simp] theorem Mach.updIq_shovs (m : Mach) (q : Nat) (f : Iq → Iq) : (m.updIq q f).shovs = m.shovs := rfl
@[simp] theorem Mach.updIq_rdata (m : Mach) (q : Nat) (f : Iq → Iq) : (m.updIq q f).rdata = m.rdata := rfl
@[simp] theorem Mach.updIq_free (m : Mach) (q : Nat) (f : Iq → Iq) : (m.updIq q f).free = m.free := rfl
@[simp] theorem Mach.updIq_thr_of (m : Mach) (q : Nat) (f : Iq → Iq) (t' : Tid) : (m.updIq q f).thr t' = m.thr t' := rfl
@[simp] theorem Mach.updIq_lock_of (m : Mach) (q : Nat) (f : Iq → Iq) (p' : Nat) : (m.updIq q f).lock p' = m.lock p' := rfl
@[simp] theorem Mach.updIq_core_of (m : Mach) (q : Nat) (f : Iq → Iq) (k' : Nat) : (m.updIq q f).core k' = m.core k' := rfl
@[simp] theorem Mach.updIq_eq_of (m : Mach) (q : Nat) (f : Iq → Iq) (q' : Nat) : (m.updIq q f).eq q' = m.eq q' := rfl
@[simp] theorem Mach.updIq_gate_of (m : Mach) (q : Nat) (f : Iq → Iq) (d' : Nat) : (m.updIq q f).gate d' = m.gate d' := rfl
@[simp] theorem Mach.updIq_bol_of (m : Mach) (q : Nat) (f : Iq → Iq) (b' : Nat) : (m.updIq q f).bol b' = m.bol b' := rfl
@[simp] theorem Mach.updIq_shape_of (m : Mach) (q : Nat) (f : Iq → Iq) (q' : Nat) : (m.updIq q f).shape q' = m.shape q' := rfl
@[simp] theorem Mach.updIq_link_of (m : Mach) (q : Nat) (f : Iq → Iq) (k' : Nat) : (m.updIq q f).link k' = m.link k' := rfl
@[simp] theorem Mach.updIq_rget_of (m : Mach) (q : Nat) (f : Iq → Iq) (r' : RegRef) : (m.updIq q f).rget r' = m.rget r' := rfl
@[simp] theorem Mach.updIq_r_of (m : Mach) (q : Nat) (f : Iq → Iq) (a' : Reg) (i' : Nat) : (m.updIq q f).r a' i' = m.r a' i' := rfl
@[simp] theorem Mach.updIq_ru_of (m : Mach) (q : Nat) (f : Iq → Iq) (a' : Reg) (u' i' : Nat) : (m.updIq q f).ru a' u' i' = m.ru a' u' i' := rfl
@[simp] theorem Mach.updIq_cntKey_of (m : Mach) (q : Nat) (f : Iq → Iq) (k' : Nat) : (m.updIq q f).cntKey k' = m.cntKey k' := rfl
@[simp] theorem Mach.updIq_mem1_of (m : Mach) (q : Nat) (f : Iq → Iq) (k' : Nat) : (m.updIq q f).mem1 k' = m.mem1 k' := rfl
@[simp] theorem Mach.updIq_eccOf_of (m : Mach) (q : Nat) (f : Iq → Iq) (k' : Nat) : (m.updIq q f).eccOf k' = m.eccOf k' := rfl
@[simp] theorem Mach.updIq_isOn_of (m : Mach) (q : Nat) (f : Iq → Iq) (k' : Nat) : (m.updIq q f).isOn k' = m.isOn k' := rfl

/-! ### `updEq` -/

@[simp] theorem Mach.updEq_regs (m : Mach) (q : Nat) (f : Eq → Eq) : (m.updEq q f).regs = m.regs := rfl
@[simp] theorem Mach.updEq_mem (m : Mach) (q : Nat) (f : Eq → Eq) : (m.updEq q f).mem = m.mem := rfl
@[simp] theorem Mach.updEq_ecc (m : Mach) (q : Nat) (f : Eq → Eq) : (m.updEq q f).ecc = m.ecc := rfl
@[simp] theorem Mach.updEq_counts (m : Mach) (q : Nat) (f : Eq → Eq) : (m.updEq q f).counts = m.counts := rfl
@[simp] theorem Mach.updEq_threads (m : Mach) (q : Nat) (f : Eq → Eq) : (m.updEq q f).threads = m.threads := rfl
@[simp] theorem Mach.updEq_locks (m : Mach) (q : Nat) (f : Eq → Eq) : (m.updEq q f).locks = m.locks := rfl
@[simp] theorem Mach.updEq_cores (m : Mach) (q : Nat) (f : Eq → Eq) : (m.updEq q f).cores = m.cores := rfl
@[simp] theorem Mach.updEq_iqs (m : Mach) (q : Nat) (f : Eq → Eq) : (m.updEq q f).iqs = m.iqs := rfl
@[simp] theorem Mach.updEq_gates (m : Mach) (q : Nat) (f : Eq → Eq) : (m.updEq q f).gates = m.gates := rfl
@[simp] theorem Mach.updEq_doms (m : Mach) (q : Nat) (f : Eq → Eq) : (m.updEq q f).doms = m.doms := rfl
@[simp] theorem Mach.updEq_bollards (m : Mach) (q : Nat) (f : Eq → Eq) : (m.updEq q f).bollards = m.bollards := rfl
@[simp] theorem Mach.updEq_links (m : Mach) (q : Nat) (f : Eq → Eq) : (m.updEq q f).links = m.links := rfl
@[simp] theorem Mach.updEq_waybill (m : Mach) (q : Nat) (f : Eq → Eq) : (m.updEq q f).waybill = m.waybill := rfl
@[simp] theorem Mach.updEq_sealU (m : Mach) (q : Nat) (f : Eq → Eq) : (m.updEq q f).sealU = m.sealU := rfl
@[simp] theorem Mach.updEq_sluice (m : Mach) (q : Nat) (f : Eq → Eq) : (m.updEq q f).sluice = m.sluice := rfl
@[simp] theorem Mach.updEq_tb (m : Mach) (q : Nat) (f : Eq → Eq) : (m.updEq q f).tb = m.tb := rfl
@[simp] theorem Mach.updEq_host (m : Mach) (q : Nat) (f : Eq → Eq) : (m.updEq q f).host = m.host := rfl
@[simp] theorem Mach.updEq_d0 (m : Mach) (q : Nat) (f : Eq → Eq) : (m.updEq q f).d0 = m.d0 := rfl
@[simp] theorem Mach.updEq_keep (m : Mach) (q : Nat) (f : Eq → Eq) : (m.updEq q f).keep = m.keep := rfl
@[simp] theorem Mach.updEq_keepScrub (m : Mach) (q : Nat) (f : Eq → Eq) : (m.updEq q f).keepScrub = m.keepScrub := rfl
@[simp] theorem Mach.updEq_evac (m : Mach) (q : Nat) (f : Eq → Eq) : (m.updEq q f).evac = m.evac := rfl
@[simp] theorem Mach.updEq_xchg (m : Mach) (q : Nat) (f : Eq → Eq) : (m.updEq q f).xchg = m.xchg := rfl
@[simp] theorem Mach.updEq_oldVecs (m : Mach) (q : Nat) (f : Eq → Eq) : (m.updEq q f).oldVecs = m.oldVecs := rfl
@[simp] theorem Mach.updEq_paceLow (m : Mach) (q : Nat) (f : Eq → Eq) : (m.updEq q f).paceLow = m.paceLow := rfl
@[simp] theorem Mach.updEq_dict (m : Mach) (q : Nat) (f : Eq → Eq) : (m.updEq q f).dict = m.dict := rfl
@[simp] theorem Mach.updEq_helpq (m : Mach) (q : Nat) (f : Eq → Eq) : (m.updEq q f).helpq = m.helpq := rfl
@[simp] theorem Mach.updEq_shovs (m : Mach) (q : Nat) (f : Eq → Eq) : (m.updEq q f).shovs = m.shovs := rfl
@[simp] theorem Mach.updEq_rdata (m : Mach) (q : Nat) (f : Eq → Eq) : (m.updEq q f).rdata = m.rdata := rfl
@[simp] theorem Mach.updEq_free (m : Mach) (q : Nat) (f : Eq → Eq) : (m.updEq q f).free = m.free := rfl
@[simp] theorem Mach.updEq_thr_of (m : Mach) (q : Nat) (f : Eq → Eq) (t' : Tid) : (m.updEq q f).thr t' = m.thr t' := rfl
@[simp] theorem Mach.updEq_lock_of (m : Mach) (q : Nat) (f : Eq → Eq) (p' : Nat) : (m.updEq q f).lock p' = m.lock p' := rfl
@[simp] theorem Mach.updEq_core_of (m : Mach) (q : Nat) (f : Eq → Eq) (k' : Nat) : (m.updEq q f).core k' = m.core k' := rfl
@[simp] theorem Mach.updEq_iq_of (m : Mach) (q : Nat) (f : Eq → Eq) (q' : Nat) : (m.updEq q f).iq q' = m.iq q' := rfl
@[simp] theorem Mach.updEq_gate_of (m : Mach) (q : Nat) (f : Eq → Eq) (d' : Nat) : (m.updEq q f).gate d' = m.gate d' := rfl
@[simp] theorem Mach.updEq_bol_of (m : Mach) (q : Nat) (f : Eq → Eq) (b' : Nat) : (m.updEq q f).bol b' = m.bol b' := rfl
@[simp] theorem Mach.updEq_shape_of (m : Mach) (q : Nat) (f : Eq → Eq) (q' : Nat) : (m.updEq q f).shape q' = m.shape q' := rfl
@[simp] theorem Mach.updEq_link_of (m : Mach) (q : Nat) (f : Eq → Eq) (k' : Nat) : (m.updEq q f).link k' = m.link k' := rfl
@[simp] theorem Mach.updEq_rget_of (m : Mach) (q : Nat) (f : Eq → Eq) (r' : RegRef) : (m.updEq q f).rget r' = m.rget r' := rfl
@[simp] theorem Mach.updEq_r_of (m : Mach) (q : Nat) (f : Eq → Eq) (a' : Reg) (i' : Nat) : (m.updEq q f).r a' i' = m.r a' i' := rfl
@[simp] theorem Mach.updEq_ru_of (m : Mach) (q : Nat) (f : Eq → Eq) (a' : Reg) (u' i' : Nat) : (m.updEq q f).ru a' u' i' = m.ru a' u' i' := rfl
@[simp] theorem Mach.updEq_cntKey_of (m : Mach) (q : Nat) (f : Eq → Eq) (k' : Nat) : (m.updEq q f).cntKey k' = m.cntKey k' := rfl
@[simp] theorem Mach.updEq_mem1_of (m : Mach) (q : Nat) (f : Eq → Eq) (k' : Nat) : (m.updEq q f).mem1 k' = m.mem1 k' := rfl
@[simp] theorem Mach.updEq_eccOf_of (m : Mach) (q : Nat) (f : Eq → Eq) (k' : Nat) : (m.updEq q f).eccOf k' = m.eccOf k' := rfl
@[simp] theorem Mach.updEq_isOn_of (m : Mach) (q : Nat) (f : Eq → Eq) (k' : Nat) : (m.updEq q f).isOn k' = m.isOn k' := rfl

/-! ### `updGate` -/

@[simp] theorem Mach.updGate_regs (m : Mach) (d : Nat) (f : Gate → Gate) : (m.updGate d f).regs = m.regs := rfl
@[simp] theorem Mach.updGate_mem (m : Mach) (d : Nat) (f : Gate → Gate) : (m.updGate d f).mem = m.mem := rfl
@[simp] theorem Mach.updGate_ecc (m : Mach) (d : Nat) (f : Gate → Gate) : (m.updGate d f).ecc = m.ecc := rfl
@[simp] theorem Mach.updGate_counts (m : Mach) (d : Nat) (f : Gate → Gate) : (m.updGate d f).counts = m.counts := rfl
@[simp] theorem Mach.updGate_threads (m : Mach) (d : Nat) (f : Gate → Gate) : (m.updGate d f).threads = m.threads := rfl
@[simp] theorem Mach.updGate_locks (m : Mach) (d : Nat) (f : Gate → Gate) : (m.updGate d f).locks = m.locks := rfl
@[simp] theorem Mach.updGate_cores (m : Mach) (d : Nat) (f : Gate → Gate) : (m.updGate d f).cores = m.cores := rfl
@[simp] theorem Mach.updGate_iqs (m : Mach) (d : Nat) (f : Gate → Gate) : (m.updGate d f).iqs = m.iqs := rfl
@[simp] theorem Mach.updGate_eqs (m : Mach) (d : Nat) (f : Gate → Gate) : (m.updGate d f).eqs = m.eqs := rfl
@[simp] theorem Mach.updGate_doms (m : Mach) (d : Nat) (f : Gate → Gate) : (m.updGate d f).doms = m.doms := rfl
@[simp] theorem Mach.updGate_bollards (m : Mach) (d : Nat) (f : Gate → Gate) : (m.updGate d f).bollards = m.bollards := rfl
@[simp] theorem Mach.updGate_links (m : Mach) (d : Nat) (f : Gate → Gate) : (m.updGate d f).links = m.links := rfl
@[simp] theorem Mach.updGate_waybill (m : Mach) (d : Nat) (f : Gate → Gate) : (m.updGate d f).waybill = m.waybill := rfl
@[simp] theorem Mach.updGate_sealU (m : Mach) (d : Nat) (f : Gate → Gate) : (m.updGate d f).sealU = m.sealU := rfl
@[simp] theorem Mach.updGate_sluice (m : Mach) (d : Nat) (f : Gate → Gate) : (m.updGate d f).sluice = m.sluice := rfl
@[simp] theorem Mach.updGate_tb (m : Mach) (d : Nat) (f : Gate → Gate) : (m.updGate d f).tb = m.tb := rfl
@[simp] theorem Mach.updGate_host (m : Mach) (d : Nat) (f : Gate → Gate) : (m.updGate d f).host = m.host := rfl
@[simp] theorem Mach.updGate_d0 (m : Mach) (d : Nat) (f : Gate → Gate) : (m.updGate d f).d0 = m.d0 := rfl
@[simp] theorem Mach.updGate_keep (m : Mach) (d : Nat) (f : Gate → Gate) : (m.updGate d f).keep = m.keep := rfl
@[simp] theorem Mach.updGate_keepScrub (m : Mach) (d : Nat) (f : Gate → Gate) : (m.updGate d f).keepScrub = m.keepScrub := rfl
@[simp] theorem Mach.updGate_evac (m : Mach) (d : Nat) (f : Gate → Gate) : (m.updGate d f).evac = m.evac := rfl
@[simp] theorem Mach.updGate_xchg (m : Mach) (d : Nat) (f : Gate → Gate) : (m.updGate d f).xchg = m.xchg := rfl
@[simp] theorem Mach.updGate_oldVecs (m : Mach) (d : Nat) (f : Gate → Gate) : (m.updGate d f).oldVecs = m.oldVecs := rfl
@[simp] theorem Mach.updGate_paceLow (m : Mach) (d : Nat) (f : Gate → Gate) : (m.updGate d f).paceLow = m.paceLow := rfl
@[simp] theorem Mach.updGate_dict (m : Mach) (d : Nat) (f : Gate → Gate) : (m.updGate d f).dict = m.dict := rfl
@[simp] theorem Mach.updGate_helpq (m : Mach) (d : Nat) (f : Gate → Gate) : (m.updGate d f).helpq = m.helpq := rfl
@[simp] theorem Mach.updGate_shovs (m : Mach) (d : Nat) (f : Gate → Gate) : (m.updGate d f).shovs = m.shovs := rfl
@[simp] theorem Mach.updGate_rdata (m : Mach) (d : Nat) (f : Gate → Gate) : (m.updGate d f).rdata = m.rdata := rfl
@[simp] theorem Mach.updGate_free (m : Mach) (d : Nat) (f : Gate → Gate) : (m.updGate d f).free = m.free := rfl
@[simp] theorem Mach.updGate_thr_of (m : Mach) (d : Nat) (f : Gate → Gate) (t' : Tid) : (m.updGate d f).thr t' = m.thr t' := rfl
@[simp] theorem Mach.updGate_lock_of (m : Mach) (d : Nat) (f : Gate → Gate) (p' : Nat) : (m.updGate d f).lock p' = m.lock p' := rfl
@[simp] theorem Mach.updGate_core_of (m : Mach) (d : Nat) (f : Gate → Gate) (k' : Nat) : (m.updGate d f).core k' = m.core k' := rfl
@[simp] theorem Mach.updGate_iq_of (m : Mach) (d : Nat) (f : Gate → Gate) (q' : Nat) : (m.updGate d f).iq q' = m.iq q' := rfl
@[simp] theorem Mach.updGate_eq_of (m : Mach) (d : Nat) (f : Gate → Gate) (q' : Nat) : (m.updGate d f).eq q' = m.eq q' := rfl
@[simp] theorem Mach.updGate_bol_of (m : Mach) (d : Nat) (f : Gate → Gate) (b' : Nat) : (m.updGate d f).bol b' = m.bol b' := rfl
@[simp] theorem Mach.updGate_shape_of (m : Mach) (d : Nat) (f : Gate → Gate) (q' : Nat) : (m.updGate d f).shape q' = m.shape q' := rfl
@[simp] theorem Mach.updGate_link_of (m : Mach) (d : Nat) (f : Gate → Gate) (k' : Nat) : (m.updGate d f).link k' = m.link k' := rfl
@[simp] theorem Mach.updGate_rget_of (m : Mach) (d : Nat) (f : Gate → Gate) (r' : RegRef) : (m.updGate d f).rget r' = m.rget r' := rfl
@[simp] theorem Mach.updGate_r_of (m : Mach) (d : Nat) (f : Gate → Gate) (a' : Reg) (i' : Nat) : (m.updGate d f).r a' i' = m.r a' i' := rfl
@[simp] theorem Mach.updGate_ru_of (m : Mach) (d : Nat) (f : Gate → Gate) (a' : Reg) (u' i' : Nat) : (m.updGate d f).ru a' u' i' = m.ru a' u' i' := rfl
@[simp] theorem Mach.updGate_cntKey_of (m : Mach) (d : Nat) (f : Gate → Gate) (k' : Nat) : (m.updGate d f).cntKey k' = m.cntKey k' := rfl
@[simp] theorem Mach.updGate_mem1_of (m : Mach) (d : Nat) (f : Gate → Gate) (k' : Nat) : (m.updGate d f).mem1 k' = m.mem1 k' := rfl
@[simp] theorem Mach.updGate_eccOf_of (m : Mach) (d : Nat) (f : Gate → Gate) (k' : Nat) : (m.updGate d f).eccOf k' = m.eccOf k' := rfl
@[simp] theorem Mach.updGate_isOn_of (m : Mach) (d : Nat) (f : Gate → Gate) (k' : Nat) : (m.updGate d f).isOn k' = m.isOn k' := rfl

/-! ### `updBol` -/

@[simp] theorem Mach.updBol_regs (m : Mach) (b : Nat) (f : Bollard → Bollard) : (m.updBol b f).regs = m.regs := rfl
@[simp] theorem Mach.updBol_mem (m : Mach) (b : Nat) (f : Bollard → Bollard) : (m.updBol b f).mem = m.mem := rfl
@[simp] theorem Mach.updBol_ecc (m : Mach) (b : Nat) (f : Bollard → Bollard) : (m.updBol b f).ecc = m.ecc := rfl
@[simp] theorem Mach.updBol_counts (m : Mach) (b : Nat) (f : Bollard → Bollard) : (m.updBol b f).counts = m.counts := rfl
@[simp] theorem Mach.updBol_threads (m : Mach) (b : Nat) (f : Bollard → Bollard) : (m.updBol b f).threads = m.threads := rfl
@[simp] theorem Mach.updBol_locks (m : Mach) (b : Nat) (f : Bollard → Bollard) : (m.updBol b f).locks = m.locks := rfl
@[simp] theorem Mach.updBol_cores (m : Mach) (b : Nat) (f : Bollard → Bollard) : (m.updBol b f).cores = m.cores := rfl
@[simp] theorem Mach.updBol_iqs (m : Mach) (b : Nat) (f : Bollard → Bollard) : (m.updBol b f).iqs = m.iqs := rfl
@[simp] theorem Mach.updBol_eqs (m : Mach) (b : Nat) (f : Bollard → Bollard) : (m.updBol b f).eqs = m.eqs := rfl
@[simp] theorem Mach.updBol_gates (m : Mach) (b : Nat) (f : Bollard → Bollard) : (m.updBol b f).gates = m.gates := rfl
@[simp] theorem Mach.updBol_doms (m : Mach) (b : Nat) (f : Bollard → Bollard) : (m.updBol b f).doms = m.doms := rfl
@[simp] theorem Mach.updBol_links (m : Mach) (b : Nat) (f : Bollard → Bollard) : (m.updBol b f).links = m.links := rfl
@[simp] theorem Mach.updBol_waybill (m : Mach) (b : Nat) (f : Bollard → Bollard) : (m.updBol b f).waybill = m.waybill := rfl
@[simp] theorem Mach.updBol_sealU (m : Mach) (b : Nat) (f : Bollard → Bollard) : (m.updBol b f).sealU = m.sealU := rfl
@[simp] theorem Mach.updBol_sluice (m : Mach) (b : Nat) (f : Bollard → Bollard) : (m.updBol b f).sluice = m.sluice := rfl
@[simp] theorem Mach.updBol_tb (m : Mach) (b : Nat) (f : Bollard → Bollard) : (m.updBol b f).tb = m.tb := rfl
@[simp] theorem Mach.updBol_host (m : Mach) (b : Nat) (f : Bollard → Bollard) : (m.updBol b f).host = m.host := rfl
@[simp] theorem Mach.updBol_d0 (m : Mach) (b : Nat) (f : Bollard → Bollard) : (m.updBol b f).d0 = m.d0 := rfl
@[simp] theorem Mach.updBol_keep (m : Mach) (b : Nat) (f : Bollard → Bollard) : (m.updBol b f).keep = m.keep := rfl
@[simp] theorem Mach.updBol_keepScrub (m : Mach) (b : Nat) (f : Bollard → Bollard) : (m.updBol b f).keepScrub = m.keepScrub := rfl
@[simp] theorem Mach.updBol_evac (m : Mach) (b : Nat) (f : Bollard → Bollard) : (m.updBol b f).evac = m.evac := rfl
@[simp] theorem Mach.updBol_xchg (m : Mach) (b : Nat) (f : Bollard → Bollard) : (m.updBol b f).xchg = m.xchg := rfl
@[simp] theorem Mach.updBol_oldVecs (m : Mach) (b : Nat) (f : Bollard → Bollard) : (m.updBol b f).oldVecs = m.oldVecs := rfl
@[simp] theorem Mach.updBol_paceLow (m : Mach) (b : Nat) (f : Bollard → Bollard) : (m.updBol b f).paceLow = m.paceLow := rfl
@[simp] theorem Mach.updBol_dict (m : Mach) (b : Nat) (f : Bollard → Bollard) : (m.updBol b f).dict = m.dict := rfl
@[simp] theorem Mach.updBol_helpq (m : Mach) (b : Nat) (f : Bollard → Bollard) : (m.updBol b f).helpq = m.helpq := rfl
@[simp] theorem Mach.updBol_shovs (m : Mach) (b : Nat) (f : Bollard → Bollard) : (m.updBol b f).shovs = m.shovs := rfl
@[simp] theorem Mach.updBol_rdata (m : Mach) (b : Nat) (f : Bollard → Bollard) : (m.updBol b f).rdata = m.rdata := rfl
@[simp] theorem Mach.updBol_free (m : Mach) (b : Nat) (f : Bollard → Bollard) : (m.updBol b f).free = m.free := rfl
@[simp] theorem Mach.updBol_thr_of (m : Mach) (b : Nat) (f : Bollard → Bollard) (t' : Tid) : (m.updBol b f).thr t' = m.thr t' := rfl
@[simp] theorem Mach.updBol_lock_of (m : Mach) (b : Nat) (f : Bollard → Bollard) (p' : Nat) : (m.updBol b f).lock p' = m.lock p' := rfl
@[simp] theorem Mach.updBol_core_of (m : Mach) (b : Nat) (f : Bollard → Bollard) (k' : Nat) : (m.updBol b f).core k' = m.core k' := rfl
@[simp] theorem Mach.updBol_iq_of (m : Mach) (b : Nat) (f : Bollard → Bollard) (q' : Nat) : (m.updBol b f).iq q' = m.iq q' := rfl
@[simp] theorem Mach.updBol_eq_of (m : Mach) (b : Nat) (f : Bollard → Bollard) (q' : Nat) : (m.updBol b f).eq q' = m.eq q' := rfl
@[simp] theorem Mach.updBol_gate_of (m : Mach) (b : Nat) (f : Bollard → Bollard) (d' : Nat) : (m.updBol b f).gate d' = m.gate d' := rfl
@[simp] theorem Mach.updBol_shape_of (m : Mach) (b : Nat) (f : Bollard → Bollard) (q' : Nat) : (m.updBol b f).shape q' = m.shape q' := rfl
@[simp] theorem Mach.updBol_link_of (m : Mach) (b : Nat) (f : Bollard → Bollard) (k' : Nat) : (m.updBol b f).link k' = m.link k' := rfl
@[simp] theorem Mach.updBol_rget_of (m : Mach) (b : Nat) (f : Bollard → Bollard) (r' : RegRef) : (m.updBol b f).rget r' = m.rget r' := rfl
@[simp] theorem Mach.updBol_r_of (m : Mach) (b : Nat) (f : Bollard → Bollard) (a' : Reg) (i' : Nat) : (m.updBol b f).r a' i' = m.r a' i' := rfl
@[simp] theorem Mach.updBol_ru_of (m : Mach) (b : Nat) (f : Bollard → Bollard) (a' : Reg) (u' i' : Nat) : (m.updBol b f).ru a' u' i' = m.ru a' u' i' := rfl
@[simp] theorem Mach.updBol_cntKey_of (m : Mach) (b : Nat) (f : Bollard → Bollard) (k' : Nat) : (m.updBol b f).cntKey k' = m.cntKey k' := rfl
@[simp] theorem Mach.updBol_mem1_of (m : Mach) (b : Nat) (f : Bollard → Bollard) (k' : Nat) : (m.updBol b f).mem1 k' = m.mem1 k' := rfl
@[simp] theorem Mach.updBol_eccOf_of (m : Mach) (b : Nat) (f : Bollard → Bollard) (k' : Nat) : (m.updBol b f).eccOf k' = m.eccOf k' := rfl
@[simp] theorem Mach.updBol_isOn_of (m : Mach) (b : Nat) (f : Bollard → Bollard) (k' : Nat) : (m.updBol b f).isOn k' = m.isOn k' := rfl

/-! ### `updShape` -/

@[simp] theorem Mach.updShape_regs (m : Mach) (q : Nat) (f : Shape → Shape) : (m.updShape q f).regs = m.regs := rfl
@[simp] theorem Mach.updShape_mem (m : Mach) (q : Nat) (f : Shape → Shape) : (m.updShape q f).mem = m.mem := rfl
@[simp] theorem Mach.updShape_ecc (m : Mach) (q : Nat) (f : Shape → Shape) : (m.updShape q f).ecc = m.ecc := rfl
@[simp] theorem Mach.updShape_counts (m : Mach) (q : Nat) (f : Shape → Shape) : (m.updShape q f).counts = m.counts := rfl
@[simp] theorem Mach.updShape_threads (m : Mach) (q : Nat) (f : Shape → Shape) : (m.updShape q f).threads = m.threads := rfl
@[simp] theorem Mach.updShape_locks (m : Mach) (q : Nat) (f : Shape → Shape) : (m.updShape q f).locks = m.locks := rfl
@[simp] theorem Mach.updShape_cores (m : Mach) (q : Nat) (f : Shape → Shape) : (m.updShape q f).cores = m.cores := rfl
@[simp] theorem Mach.updShape_iqs (m : Mach) (q : Nat) (f : Shape → Shape) : (m.updShape q f).iqs = m.iqs := rfl
@[simp] theorem Mach.updShape_eqs (m : Mach) (q : Nat) (f : Shape → Shape) : (m.updShape q f).eqs = m.eqs := rfl
@[simp] theorem Mach.updShape_gates (m : Mach) (q : Nat) (f : Shape → Shape) : (m.updShape q f).gates = m.gates := rfl
@[simp] theorem Mach.updShape_doms (m : Mach) (q : Nat) (f : Shape → Shape) : (m.updShape q f).doms = m.doms := rfl
@[simp] theorem Mach.updShape_bollards (m : Mach) (q : Nat) (f : Shape → Shape) : (m.updShape q f).bollards = m.bollards := rfl
@[simp] theorem Mach.updShape_links (m : Mach) (q : Nat) (f : Shape → Shape) : (m.updShape q f).links = m.links := rfl
@[simp] theorem Mach.updShape_waybill (m : Mach) (q : Nat) (f : Shape → Shape) : (m.updShape q f).waybill = m.waybill := rfl
@[simp] theorem Mach.updShape_sealU (m : Mach) (q : Nat) (f : Shape → Shape) : (m.updShape q f).sealU = m.sealU := rfl
@[simp] theorem Mach.updShape_tb (m : Mach) (q : Nat) (f : Shape → Shape) : (m.updShape q f).tb = m.tb := rfl
@[simp] theorem Mach.updShape_host (m : Mach) (q : Nat) (f : Shape → Shape) : (m.updShape q f).host = m.host := rfl
@[simp] theorem Mach.updShape_d0 (m : Mach) (q : Nat) (f : Shape → Shape) : (m.updShape q f).d0 = m.d0 := rfl
@[simp] theorem Mach.updShape_keep (m : Mach) (q : Nat) (f : Shape → Shape) : (m.updShape q f).keep = m.keep := rfl
@[simp] theorem Mach.updShape_keepScrub (m : Mach) (q : Nat) (f : Shape → Shape) : (m.updShape q f).keepScrub = m.keepScrub := rfl
@[simp] theorem Mach.updShape_evac (m : Mach) (q : Nat) (f : Shape → Shape) : (m.updShape q f).evac = m.evac := rfl
@[simp] theorem Mach.updShape_xchg (m : Mach) (q : Nat) (f : Shape → Shape) : (m.updShape q f).xchg = m.xchg := rfl
@[simp] theorem Mach.updShape_oldVecs (m : Mach) (q : Nat) (f : Shape → Shape) : (m.updShape q f).oldVecs = m.oldVecs := rfl
@[simp] theorem Mach.updShape_paceLow (m : Mach) (q : Nat) (f : Shape → Shape) : (m.updShape q f).paceLow = m.paceLow := rfl
@[simp] theorem Mach.updShape_dict (m : Mach) (q : Nat) (f : Shape → Shape) : (m.updShape q f).dict = m.dict := rfl
@[simp] theorem Mach.updShape_helpq (m : Mach) (q : Nat) (f : Shape → Shape) : (m.updShape q f).helpq = m.helpq := rfl
@[simp] theorem Mach.updShape_shovs (m : Mach) (q : Nat) (f : Shape → Shape) : (m.updShape q f).shovs = m.shovs := rfl
@[simp] theorem Mach.updShape_rdata (m : Mach) (q : Nat) (f : Shape → Shape) : (m.updShape q f).rdata = m.rdata := rfl
@[simp] theorem Mach.updShape_free (m : Mach) (q : Nat) (f : Shape → Shape) : (m.updShape q f).free = m.free := rfl
@[simp] theorem Mach.updShape_thr_of (m : Mach) (q : Nat) (f : Shape → Shape) (t' : Tid) : (m.updShape q f).thr t' = m.thr t' := rfl
@[simp] theorem Mach.updShape_lock_of (m : Mach) (q : Nat) (f : Shape → Shape) (p' : Nat) : (m.updShape q f).lock p' = m.lock p' := rfl
@[simp] theorem Mach.updShape_core_of (m : Mach) (q : Nat) (f : Shape → Shape) (k' : Nat) : (m.updShape q f).core k' = m.core k' := rfl
@[simp] theorem Mach.updShape_iq_of (m : Mach) (q : Nat) (f : Shape → Shape) (q' : Nat) : (m.updShape q f).iq q' = m.iq q' := rfl
@[simp] theorem Mach.updShape_eq_of (m : Mach) (q : Nat) (f : Shape → Shape) (q' : Nat) : (m.updShape q f).eq q' = m.eq q' := rfl
@[simp] theorem Mach.updShape_gate_of (m : Mach) (q : Nat) (f : Shape → Shape) (d' : Nat) : (m.updShape q f).gate d' = m.gate d' := rfl
@[simp] theorem Mach.updShape_bol_of (m : Mach) (q : Nat) (f : Shape → Shape) (b' : Nat) : (m.updShape q f).bol b' = m.bol b' := rfl
@[simp] theorem Mach.updShape_link_of (m : Mach) (q : Nat) (f : Shape → Shape) (k' : Nat) : (m.updShape q f).link k' = m.link k' := rfl
@[simp] theorem Mach.updShape_rget_of (m : Mach) (q : Nat) (f : Shape → Shape) (r' : RegRef) : (m.updShape q f).rget r' = m.rget r' := rfl
@[simp] theorem Mach.updShape_r_of (m : Mach) (q : Nat) (f : Shape → Shape) (a' : Reg) (i' : Nat) : (m.updShape q f).r a' i' = m.r a' i' := rfl
@[simp] theorem Mach.updShape_ru_of (m : Mach) (q : Nat) (f : Shape → Shape) (a' : Reg) (u' i' : Nat) : (m.updShape q f).ru a' u' i' = m.ru a' u' i' := rfl
@[simp] theorem Mach.updShape_cntKey_of (m : Mach) (q : Nat) (f : Shape → Shape) (k' : Nat) : (m.updShape q f).cntKey k' = m.cntKey k' := rfl
@[simp] theorem Mach.updShape_mem1_of (m : Mach) (q : Nat) (f : Shape → Shape) (k' : Nat) : (m.updShape q f).mem1 k' = m.mem1 k' := rfl
@[simp] theorem Mach.updShape_eccOf_of (m : Mach) (q : Nat) (f : Shape → Shape) (k' : Nat) : (m.updShape q f).eccOf k' = m.eccOf k' := rfl
@[simp] theorem Mach.updShape_isOn_of (m : Mach) (q : Nat) (f : Shape → Shape) (k' : Nat) : (m.updShape q f).isOn k' = m.isOn k' := rfl

/-! ### `updLink` -/

@[simp] theorem Mach.updLink_regs (m : Mach) (k : Nat) (f : Link → Link) : (m.updLink k f).regs = m.regs := rfl
@[simp] theorem Mach.updLink_mem (m : Mach) (k : Nat) (f : Link → Link) : (m.updLink k f).mem = m.mem := rfl
@[simp] theorem Mach.updLink_ecc (m : Mach) (k : Nat) (f : Link → Link) : (m.updLink k f).ecc = m.ecc := rfl
@[simp] theorem Mach.updLink_counts (m : Mach) (k : Nat) (f : Link → Link) : (m.updLink k f).counts = m.counts := rfl
@[simp] theorem Mach.updLink_threads (m : Mach) (k : Nat) (f : Link → Link) : (m.updLink k f).threads = m.threads := rfl
@[simp] theorem Mach.updLink_locks (m : Mach) (k : Nat) (f : Link → Link) : (m.updLink k f).locks = m.locks := rfl
@[simp] theorem Mach.updLink_cores (m : Mach) (k : Nat) (f : Link → Link) : (m.updLink k f).cores = m.cores := rfl
@[simp] theorem Mach.updLink_iqs (m : Mach) (k : Nat) (f : Link → Link) : (m.updLink k f).iqs = m.iqs := rfl
@[simp] theorem Mach.updLink_eqs (m : Mach) (k : Nat) (f : Link → Link) : (m.updLink k f).eqs = m.eqs := rfl
@[simp] theorem Mach.updLink_gates (m : Mach) (k : Nat) (f : Link → Link) : (m.updLink k f).gates = m.gates := rfl
@[simp] theorem Mach.updLink_doms (m : Mach) (k : Nat) (f : Link → Link) : (m.updLink k f).doms = m.doms := rfl
@[simp] theorem Mach.updLink_bollards (m : Mach) (k : Nat) (f : Link → Link) : (m.updLink k f).bollards = m.bollards := rfl
@[simp] theorem Mach.updLink_waybill (m : Mach) (k : Nat) (f : Link → Link) : (m.updLink k f).waybill = m.waybill := rfl
@[simp] theorem Mach.updLink_sealU (m : Mach) (k : Nat) (f : Link → Link) : (m.updLink k f).sealU = m.sealU := rfl
@[simp] theorem Mach.updLink_sluice (m : Mach) (k : Nat) (f : Link → Link) : (m.updLink k f).sluice = m.sluice := rfl
@[simp] theorem Mach.updLink_tb (m : Mach) (k : Nat) (f : Link → Link) : (m.updLink k f).tb = m.tb := rfl
@[simp] theorem Mach.updLink_host (m : Mach) (k : Nat) (f : Link → Link) : (m.updLink k f).host = m.host := rfl
@[simp] theorem Mach.updLink_d0 (m : Mach) (k : Nat) (f : Link → Link) : (m.updLink k f).d0 = m.d0 := rfl
@[simp] theorem Mach.updLink_keep (m : Mach) (k : Nat) (f : Link → Link) : (m.updLink k f).keep = m.keep := rfl
@[simp] theorem Mach.updLink_keepScrub (m : Mach) (k : Nat) (f : Link → Link) : (m.updLink k f).keepScrub = m.keepScrub := rfl
@[simp] theorem Mach.updLink_evac (m : Mach) (k : Nat) (f : Link → Link) : (m.updLink k f).evac = m.evac := rfl
@[simp] theorem Mach.updLink_xchg (m : Mach) (k : Nat) (f : Link → Link) : (m.updLink k f).xchg = m.xchg := rfl
@[simp] theorem Mach.updLink_oldVecs (m : Mach) (k : Nat) (f : Link → Link) : (m.updLink k f).oldVecs = m.oldVecs := rfl
@[simp] theorem Mach.updLink_paceLow (m : Mach) (k : Nat) (f : Link → Link) : (m.updLink k f).paceLow = m.paceLow := rfl
@[simp] theorem Mach.updLink_dict (m : Mach) (k : Nat) (f : Link → Link) : (m.updLink k f).dict = m.dict := rfl
@[simp] theorem Mach.updLink_helpq (m : Mach) (k : Nat) (f : Link → Link) : (m.updLink k f).helpq = m.helpq := rfl
@[simp] theorem Mach.updLink_shovs (m : Mach) (k : Nat) (f : Link → Link) : (m.updLink k f).shovs = m.shovs := rfl
@[simp] theorem Mach.updLink_rdata (m : Mach) (k : Nat) (f : Link → Link) : (m.updLink k f).rdata = m.rdata := rfl
@[simp] theorem Mach.updLink_free (m : Mach) (k : Nat) (f : Link → Link) : (m.updLink k f).free = m.free := rfl
@[simp] theorem Mach.updLink_thr_of (m : Mach) (k : Nat) (f : Link → Link) (t' : Tid) : (m.updLink k f).thr t' = m.thr t' := rfl
@[simp] theorem Mach.updLink_lock_of (m : Mach) (k : Nat) (f : Link → Link) (p' : Nat) : (m.updLink k f).lock p' = m.lock p' := rfl
@[simp] theorem Mach.updLink_core_of (m : Mach) (k : Nat) (f : Link → Link) (k' : Nat) : (m.updLink k f).core k' = m.core k' := rfl
@[simp] theorem Mach.updLink_iq_of (m : Mach) (k : Nat) (f : Link → Link) (q' : Nat) : (m.updLink k f).iq q' = m.iq q' := rfl
@[simp] theorem Mach.updLink_eq_of (m : Mach) (k : Nat) (f : Link → Link) (q' : Nat) : (m.updLink k f).eq q' = m.eq q' := rfl
@[simp] theorem Mach.updLink_gate_of (m : Mach) (k : Nat) (f : Link → Link) (d' : Nat) : (m.updLink k f).gate d' = m.gate d' := rfl
@[simp] theorem Mach.updLink_bol_of (m : Mach) (k : Nat) (f : Link → Link) (b' : Nat) : (m.updLink k f).bol b' = m.bol b' := rfl
@[simp] theorem Mach.updLink_shape_of (m : Mach) (k : Nat) (f : Link → Link) (q' : Nat) : (m.updLink k f).shape q' = m.shape q' := rfl
@[simp] theorem Mach.updLink_rget_of (m : Mach) (k : Nat) (f : Link → Link) (r' : RegRef) : (m.updLink k f).rget r' = m.rget r' := rfl
@[simp] theorem Mach.updLink_r_of (m : Mach) (k : Nat) (f : Link → Link) (a' : Reg) (i' : Nat) : (m.updLink k f).r a' i' = m.r a' i' := rfl
@[simp] theorem Mach.updLink_ru_of (m : Mach) (k : Nat) (f : Link → Link) (a' : Reg) (u' i' : Nat) : (m.updLink k f).ru a' u' i' = m.ru a' u' i' := rfl
@[simp] theorem Mach.updLink_cntKey_of (m : Mach) (k : Nat) (f : Link → Link) (k' : Nat) : (m.updLink k f).cntKey k' = m.cntKey k' := rfl
@[simp] theorem Mach.updLink_mem1_of (m : Mach) (k : Nat) (f : Link → Link) (k' : Nat) : (m.updLink k f).mem1 k' = m.mem1 k' := rfl
@[simp] theorem Mach.updLink_eccOf_of (m : Mach) (k : Nat) (f : Link → Link) (k' : Nat) : (m.updLink k f).eccOf k' = m.eccOf k' := rfl
@[simp] theorem Mach.updLink_isOn_of (m : Mach) (k : Nat) (f : Link → Link) (k' : Nat) : (m.updLink k f).isOn k' = m.isOn k' := rfl

/-! ### `rset` -/

@[simp] theorem Mach.rset_mem (m : Mach) (r : RegRef) (v : Cell) : (m.rset r v).mem = m.mem := rfl
@[simp] theorem Mach.rset_ecc (m : Mach) (r : RegRef) (v : Cell) : (m.rset r v).ecc = m.ecc := rfl
@[simp] theorem Mach.rset_counts (m : Mach) (r : RegRef) (v : Cell) : (m.rset r v).counts = m.counts := rfl
@[simp] theorem Mach.rset_threads (m : Mach) (r : RegRef) (v : Cell) : (m.rset r v).threads = m.threads := rfl
@[simp] theorem Mach.rset_locks (m : Mach) (r : RegRef) (v : Cell) : (m.rset r v).locks = m.locks := rfl
@[simp] theorem Mach.rset_cores (m : Mach) (r : RegRef) (v : Cell) : (m.rset r v).cores = m.cores := rfl
@[simp] theorem Mach.rset_iqs (m : Mach) (r : RegRef) (v : Cell) : (m.rset r v).iqs = m.iqs := rfl
@[simp] theorem Mach.rset_eqs (m : Mach) (r : RegRef) (v : Cell) : (m.rset r v).eqs = m.eqs := rfl
@[simp] theorem Mach.rset_gates (m : Mach) (r : RegRef) (v : Cell) : (m.rset r v).gates = m.gates := rfl
@[simp] theorem Mach.rset_doms (m : Mach) (r : RegRef) (v : Cell) : (m.rset r v).doms = m.doms := rfl
@[simp] theorem Mach.rset_bollards (m : Mach) (r : RegRef) (v : Cell) : (m.rset r v).bollards = m.bollards := rfl
@[simp] theorem Mach.rset_links (m : Mach) (r : RegRef) (v : Cell) : (m.rset r v).links = m.links := rfl
@[simp] theorem Mach.rset_waybill (m : Mach) (r : RegRef) (v : Cell) : (m.rset r v).waybill = m.waybill := rfl
@[simp] theorem Mach.rset_sealU (m : Mach) (r : RegRef) (v : Cell) : (m.rset r v).sealU = m.sealU := rfl
@[simp] theorem Mach.rset_sluice (m : Mach) (r : RegRef) (v : Cell) : (m.rset r v).sluice = m.sluice := rfl
@[simp] theorem Mach.rset_tb (m : Mach) (r : RegRef) (v : Cell) : (m.rset r v).tb = m.tb := rfl
@[simp] theorem Mach.rset_host (m : Mach) (r : RegRef) (v : Cell) : (m.rset r v).host = m.host := rfl
@[simp] theorem Mach.rset_d0 (m : Mach) (r : RegRef) (v : Cell) : (m.rset r v).d0 = m.d0 := rfl
@[simp] theorem Mach.rset_keep (m : Mach) (r : RegRef) (v : Cell) : (m.rset r v).keep = m.keep := rfl
@[simp] theorem Mach.rset_keepScrub (m : Mach) (r : RegRef) (v : Cell) : (m.rset r v).keepScrub = m.keepScrub := rfl
@[simp] theorem Mach.rset_evac (m : Mach) (r : RegRef) (v : Cell) : (m.rset r v).evac = m.evac := rfl
@[simp] theorem Mach.rset_xchg (m : Mach) (r : RegRef) (v : Cell) : (m.rset r v).xchg = m.xchg := rfl
@[simp] theorem Mach.rset_oldVecs (m : Mach) (r : RegRef) (v : Cell) : (m.rset r v).oldVecs = m.oldVecs := rfl
@[simp] theorem Mach.rset_paceLow (m : Mach) (r : RegRef) (v : Cell) : (m.rset r v).paceLow = m.paceLow := rfl
@[simp] theorem Mach.rset_dict (m : Mach) (r : RegRef) (v : Cell) : (m.rset r v).dict = m.dict := rfl
@[simp] theorem Mach.rset_helpq (m : Mach) (r : RegRef) (v : Cell) : (m.rset r v).helpq = m.helpq := rfl
@[simp] theorem Mach.rset_shovs (m : Mach) (r : RegRef) (v : Cell) : (m.rset r v).shovs = m.shovs := rfl
@[simp] theorem Mach.rset_rdata (m : Mach) (r : RegRef) (v : Cell) : (m.rset r v).rdata = m.rdata := rfl
@[simp] theorem Mach.rset_free (m : Mach) (r : RegRef) (v : Cell) : (m.rset r v).free = m.free := rfl
@[simp] theorem Mach.rset_thr_of (m : Mach) (r : RegRef) (v : Cell) (t' : Tid) : (m.rset r v).thr t' = m.thr t' := rfl
@[simp] theorem Mach.rset_lock_of (m : Mach) (r : RegRef) (v : Cell) (p' : Nat) : (m.rset r v).lock p' = m.lock p' := rfl
@[simp] theorem Mach.rset_core_of (m : Mach) (r : RegRef) (v : Cell) (k' : Nat) : (m.rset r v).core k' = m.core k' := rfl
@[simp] theorem Mach.rset_iq_of (m : Mach) (r : RegRef) (v : Cell) (q' : Nat) : (m.rset r v).iq q' = m.iq q' := rfl
@[simp] theorem Mach.rset_eq_of (m : Mach) (r : RegRef) (v : Cell) (q' : Nat) : (m.rset r v).eq q' = m.eq q' := rfl
@[simp] theorem Mach.rset_gate_of (m : Mach) (r : RegRef) (v : Cell) (d' : Nat) : (m.rset r v).gate d' = m.gate d' := rfl
@[simp] theorem Mach.rset_bol_of (m : Mach) (r : RegRef) (v : Cell) (b' : Nat) : (m.rset r v).bol b' = m.bol b' := rfl
@[simp] theorem Mach.rset_shape_of (m : Mach) (r : RegRef) (v : Cell) (q' : Nat) : (m.rset r v).shape q' = m.shape q' := rfl
@[simp] theorem Mach.rset_link_of (m : Mach) (r : RegRef) (v : Cell) (k' : Nat) : (m.rset r v).link k' = m.link k' := rfl
@[simp] theorem Mach.rset_cntKey_of (m : Mach) (r : RegRef) (v : Cell) (k' : Nat) : (m.rset r v).cntKey k' = m.cntKey k' := rfl
@[simp] theorem Mach.rset_mem1_of (m : Mach) (r : RegRef) (v : Cell) (k' : Nat) : (m.rset r v).mem1 k' = m.mem1 k' := rfl
@[simp] theorem Mach.rset_eccOf_of (m : Mach) (r : RegRef) (v : Cell) (k' : Nat) : (m.rset r v).eccOf k' = m.eccOf k' := rfl
@[simp] theorem Mach.rset_isOn_of (m : Mach) (r : RegRef) (v : Cell) (k' : Nat) : (m.rset r v).isOn k' = m.isOn k' := rfl

/-! ### `w` -/

@[simp] theorem Mach.w_mem (m : Mach) (a : Reg) (v : Cell) (i : Nat) : (m.w a v i).mem = m.mem := rfl
@[simp] theorem Mach.w_ecc (m : Mach) (a : Reg) (v : Cell) (i : Nat) : (m.w a v i).ecc = m.ecc := rfl
@[simp] theorem Mach.w_counts (m : Mach) (a : Reg) (v : Cell) (i : Nat) : (m.w a v i).counts = m.counts := rfl
@[simp] theorem Mach.w_threads (m : Mach) (a : Reg) (v : Cell) (i : Nat) : (m.w a v i).threads = m.threads := rfl
@[simp] theorem Mach.w_locks (m : Mach) (a : Reg) (v : Cell) (i : Nat) : (m.w a v i).locks = m.locks := rfl
@[simp] theorem Mach.w_cores (m : Mach) (a : Reg) (v : Cell) (i : Nat) : (m.w a v i).cores = m.cores := rfl
@[simp] theorem Mach.w_iqs (m : Mach) (a : Reg) (v : Cell) (i : Nat) : (m.w a v i).iqs = m.iqs := rfl
@[simp] theorem Mach.w_eqs (m : Mach) (a : Reg) (v : Cell) (i : Nat) : (m.w a v i).eqs = m.eqs := rfl
@[simp] theorem Mach.w_gates (m : Mach) (a : Reg) (v : Cell) (i : Nat) : (m.w a v i).gates = m.gates := rfl
@[simp] theorem Mach.w_doms (m : Mach) (a : Reg) (v : Cell) (i : Nat) : (m.w a v i).doms = m.doms := rfl
@[simp] theorem Mach.w_bollards (m : Mach) (a : Reg) (v : Cell) (i : Nat) : (m.w a v i).bollards = m.bollards := rfl
@[simp] theorem Mach.w_links (m : Mach) (a : Reg) (v : Cell) (i : Nat) : (m.w a v i).links = m.links := rfl
@[simp] theorem Mach.w_waybill (m : Mach) (a : Reg) (v : Cell) (i : Nat) : (m.w a v i).waybill = m.waybill := rfl
@[simp] theorem Mach.w_sealU (m : Mach) (a : Reg) (v : Cell) (i : Nat) : (m.w a v i).sealU = m.sealU := rfl
@[simp] theorem Mach.w_sluice (m : Mach) (a : Reg) (v : Cell) (i : Nat) : (m.w a v i).sluice = m.sluice := rfl
@[simp] theorem Mach.w_tb (m : Mach) (a : Reg) (v : Cell) (i : Nat) : (m.w a v i).tb = m.tb := rfl
@[simp] theorem Mach.w_host (m : Mach) (a : Reg) (v : Cell) (i : Nat) : (m.w a v i).host = m.host := rfl
@[simp] theorem Mach.w_d0 (m : Mach) (a : Reg) (v : Cell) (i : Nat) : (m.w a v i).d0 = m.d0 := rfl
@[simp] theorem Mach.w_keep (m : Mach) (a : Reg) (v : Cell) (i : Nat) : (m.w a v i).keep = m.keep := rfl
@[simp] theorem Mach.w_keepScrub (m : Mach) (a : Reg) (v : Cell) (i : Nat) : (m.w a v i).keepScrub = m.keepScrub := rfl
@[simp] theorem Mach.w_evac (m : Mach) (a : Reg) (v : Cell) (i : Nat) : (m.w a v i).evac = m.evac := rfl
@[simp] theorem Mach.w_xchg (m : Mach) (a : Reg) (v : Cell) (i : Nat) : (m.w a v i).xchg = m.xchg := rfl
@[simp] theorem Mach.w_oldVecs (m : Mach) (a : Reg) (v : Cell) (i : Nat) : (m.w a v i).oldVecs = m.oldVecs := rfl
@[simp] theorem Mach.w_paceLow (m : Mach) (a : Reg) (v : Cell) (i : Nat) : (m.w a v i).paceLow = m.paceLow := rfl
@[simp] theorem Mach.w_dict (m : Mach) (a : Reg) (v : Cell) (i : Nat) : (m.w a v i).dict = m.dict := rfl
@[simp] theorem Mach.w_helpq (m : Mach) (a : Reg) (v : Cell) (i : Nat) : (m.w a v i).helpq = m.helpq := rfl
@[simp] theorem Mach.w_shovs (m : Mach) (a : Reg) (v : Cell) (i : Nat) : (m.w a v i).shovs = m.shovs := rfl
@[simp] theorem Mach.w_rdata (m : Mach) (a : Reg) (v : Cell) (i : Nat) : (m.w a v i).rdata = m.rdata := rfl
@[simp] theorem Mach.w_free (m : Mach) (a : Reg) (v : Cell) (i : Nat) : (m.w a v i).free = m.free := rfl
@[simp] theorem Mach.w_thr_of (m : Mach) (a : Reg) (v : Cell) (i : Nat) (t' : Tid) : (m.w a v i).thr t' = m.thr t' := rfl
@[simp] theorem Mach.w_lock_of (m : Mach) (a : Reg) (v : Cell) (i : Nat) (p' : Nat) : (m.w a v i).lock p' = m.lock p' := rfl
@[simp] theorem Mach.w_core_of (m : Mach) (a : Reg) (v : Cell) (i : Nat) (k' : Nat) : (m.w a v i).core k' = m.core k' := rfl
@[simp] theorem Mach.w_iq_of (m : Mach) (a : Reg) (v : Cell) (i : Nat) (q' : Nat) : (m.w a v i).iq q' = m.iq q' := rfl
@[simp] theorem Mach.w_eq_of (m : Mach) (a : Reg) (v : Cell) (i : Nat) (q' : Nat) : (m.w a v i).eq q' = m.eq q' := rfl
@[simp] theorem Mach.w_gate_of (m : Mach) (a : Reg) (v : Cell) (i : Nat) (d' : Nat) : (m.w a v i).gate d' = m.gate d' := rfl
@[simp] theorem Mach.w_bol_of (m : Mach) (a : Reg) (v : Cell) (i : Nat) (b' : Nat) : (m.w a v i).bol b' = m.bol b' := rfl
@[simp] theorem Mach.w_shape_of (m : Mach) (a : Reg) (v : Cell) (i : Nat) (q' : Nat) : (m.w a v i).shape q' = m.shape q' := rfl
@[simp] theorem Mach.w_link_of (m : Mach) (a : Reg) (v : Cell) (i : Nat) (k' : Nat) : (m.w a v i).link k' = m.link k' := rfl
@[simp] theorem Mach.w_cntKey_of (m : Mach) (a : Reg) (v : Cell) (i : Nat) (k' : Nat) : (m.w a v i).cntKey k' = m.cntKey k' := rfl
@[simp] theorem Mach.w_mem1_of (m : Mach) (a : Reg) (v : Cell) (i : Nat) (k' : Nat) : (m.w a v i).mem1 k' = m.mem1 k' := rfl
@[simp] theorem Mach.w_eccOf_of (m : Mach) (a : Reg) (v : Cell) (i : Nat) (k' : Nat) : (m.w a v i).eccOf k' = m.eccOf k' := rfl
@[simp] theorem Mach.w_isOn_of (m : Mach) (a : Reg) (v : Cell) (i : Nat) (k' : Nat) : (m.w a v i).isOn k' = m.isOn k' := rfl

/-! ### `wu` -/

@[simp] theorem Mach.wu_mem (m : Mach) (a : Reg) (u : Nat) (v : Cell) (i : Nat) : (m.wu a u v i).mem = m.mem := rfl
@[simp] theorem Mach.wu_ecc (m : Mach) (a : Reg) (u : Nat) (v : Cell) (i : Nat) : (m.wu a u v i).ecc = m.ecc := rfl
@[simp] theorem Mach.wu_counts (m : Mach) (a : Reg) (u : Nat) (v : Cell) (i : Nat) : (m.wu a u v i).counts = m.counts := rfl
@[simp] theorem Mach.wu_threads (m : Mach) (a : Reg) (u : Nat) (v : Cell) (i : Nat) : (m.wu a u v i).threads = m.threads := rfl
@[simp] theorem Mach.wu_locks (m : Mach) (a : Reg) (u : Nat) (v : Cell) (i : Nat) : (m.wu a u v i).locks = m.locks := rfl
@[simp] theorem Mach.wu_cores (m : Mach) (a : Reg) (u : Nat) (v : Cell) (i : Nat) : (m.wu a u v i).cores = m.cores := rfl
@[simp] theorem Mach.wu_iqs (m : Mach) (a : Reg) (u : Nat) (v : Cell) (i : Nat) : (m.wu a u v i).iqs = m.iqs := rfl
@[simp] theorem Mach.wu_eqs (m : Mach) (a : Reg) (u : Nat) (v : Cell) (i : Nat) : (m.wu a u v i).eqs = m.eqs := rfl
@[simp] theorem Mach.wu_gates (m : Mach) (a : Reg) (u : Nat) (v : Cell) (i : Nat) : (m.wu a u v i).gates = m.gates := rfl
@[simp] theorem Mach.wu_doms (m : Mach) (a : Reg) (u : Nat) (v : Cell) (i : Nat) : (m.wu a u v i).doms = m.doms := rfl
@[simp] theorem Mach.wu_bollards (m : Mach) (a : Reg) (u : Nat) (v : Cell) (i : Nat) : (m.wu a u v i).bollards = m.bollards := rfl
@[simp] theorem Mach.wu_links (m : Mach) (a : Reg) (u : Nat) (v : Cell) (i : Nat) : (m.wu a u v i).links = m.links := rfl
@[simp] theorem Mach.wu_waybill (m : Mach) (a : Reg) (u : Nat) (v : Cell) (i : Nat) : (m.wu a u v i).waybill = m.waybill := rfl
@[simp] theorem Mach.wu_sealU (m : Mach) (a : Reg) (u : Nat) (v : Cell) (i : Nat) : (m.wu a u v i).sealU = m.sealU := rfl
@[simp] theorem Mach.wu_sluice (m : Mach) (a : Reg) (u : Nat) (v : Cell) (i : Nat) : (m.wu a u v i).sluice = m.sluice := rfl
@[simp] theorem Mach.wu_tb (m : Mach) (a : Reg) (u : Nat) (v : Cell) (i : Nat) : (m.wu a u v i).tb = m.tb := rfl
@[simp] theorem Mach.wu_host (m : Mach) (a : Reg) (u : Nat) (v : Cell) (i : Nat) : (m.wu a u v i).host = m.host := rfl
@[simp] theorem Mach.wu_d0 (m : Mach) (a : Reg) (u : Nat) (v : Cell) (i : Nat) : (m.wu a u v i).d0 = m.d0 := rfl
@[simp] theorem Mach.wu_keep (m : Mach) (a : Reg) (u : Nat) (v : Cell) (i : Nat) : (m.wu a u v i).keep = m.keep := rfl
@[simp] theorem Mach.wu_keepScrub (m : Mach) (a : Reg) (u : Nat) (v : Cell) (i : Nat) : (m.wu a u v i).keepScrub = m.keepScrub := rfl
@[simp] theorem Mach.wu_evac (m : Mach) (a : Reg) (u : Nat) (v : Cell) (i : Nat) : (m.wu a u v i).evac = m.evac := rfl
@[simp] theorem Mach.wu_xchg (m : Mach) (a : Reg) (u : Nat) (v : Cell) (i : Nat) : (m.wu a u v i).xchg = m.xchg := rfl
@[simp] theorem Mach.wu_oldVecs (m : Mach) (a : Reg) (u : Nat) (v : Cell) (i : Nat) : (m.wu a u v i).oldVecs = m.oldVecs := rfl
@[simp] theorem Mach.wu_paceLow (m : Mach) (a : Reg) (u : Nat) (v : Cell) (i : Nat) : (m.wu a u v i).paceLow = m.paceLow := rfl
@[simp] theorem Mach.wu_dict (m : Mach) (a : Reg) (u : Nat) (v : Cell) (i : Nat) : (m.wu a u v i).dict = m.dict := rfl
@[simp] theorem Mach.wu_helpq (m : Mach) (a : Reg) (u : Nat) (v : Cell) (i : Nat) : (m.wu a u v i).helpq = m.helpq := rfl
@[simp] theorem Mach.wu_shovs (m : Mach) (a : Reg) (u : Nat) (v : Cell) (i : Nat) : (m.wu a u v i).shovs = m.shovs := rfl
@[simp] theorem Mach.wu_rdata (m : Mach) (a : Reg) (u : Nat) (v : Cell) (i : Nat) : (m.wu a u v i).rdata = m.rdata := rfl
@[simp] theorem Mach.wu_free (m : Mach) (a : Reg) (u : Nat) (v : Cell) (i : Nat) : (m.wu a u v i).free = m.free := rfl
@[simp] theorem Mach.wu_thr_of (m : Mach) (a : Reg) (u : Nat) (v : Cell) (i : Nat) (t' : Tid) : (m.wu a u v i).thr t' = m.thr t' := rfl
@[simp] theorem Mach.wu_lock_of (m : Mach) (a : Reg) (u : Nat) (v : Cell) (i : Nat) (p' : Nat) : (m.wu a u v i).lock p' = m.lock p' := rfl
@[simp] theorem Mach.wu_core_of (m : Mach) (a : Reg) (u : Nat) (v : Cell) (i : Nat) (k' : Nat) : (m.wu a u v i).core k' = m.core k' := rfl
@[simp] theorem Mach.wu_iq_of (m : Mach) (a : Reg) (u : Nat) (v : Cell) (i : Nat) (q' : Nat) : (m.wu a u v i).iq q' = m.iq q' := rfl
@[simp] theorem Mach.wu_eq_of (m : Mach) (a : Reg) (u : Nat) (v : Cell) (i : Nat) (q' : Nat) : (m.wu a u v i).eq q' = m.eq q' := rfl
@[simp] theorem Mach.wu_gate_of (m : Mach) (a : Reg) (u : Nat) (v : Cell) (i : Nat) (d' : Nat) : (m.wu a u v i).gate d' = m.gate d' := rfl
@[simp] theorem Mach.wu_bol_of (m : Mach) (a : Reg) (u : Nat) (v : Cell) (i : Nat) (b' : Nat) : (m.wu a u v i).bol b' = m.bol b' := rfl
@[simp] theorem Mach.wu_shape_of (m : Mach) (a : Reg) (u : Nat) (v : Cell) (i : Nat) (q' : Nat) : (m.wu a u v i).shape q' = m.shape q' := rfl
@[simp] theorem Mach.wu_link_of (m : Mach) (a : Reg) (u : Nat) (v : Cell) (i : Nat) (k' : Nat) : (m.wu a u v i).link k' = m.link k' := rfl
@[simp] theorem Mach.wu_cntKey_of (m : Mach) (a : Reg) (u : Nat) (v : Cell) (i : Nat) (k' : Nat) : (m.wu a u v i).cntKey k' = m.cntKey k' := rfl
@[simp] theorem Mach.wu_mem1_of (m : Mach) (a : Reg) (u : Nat) (v : Cell) (i : Nat) (k' : Nat) : (m.wu a u v i).mem1 k' = m.mem1 k' := rfl
@[simp] theorem Mach.wu_eccOf_of (m : Mach) (a : Reg) (u : Nat) (v : Cell) (i : Nat) (k' : Nat) : (m.wu a u v i).eccOf k' = m.eccOf k' := rfl
@[simp] theorem Mach.wu_isOn_of (m : Mach) (a : Reg) (u : Nat) (v : Cell) (i : Nat) (k' : Nat) : (m.wu a u v i).isOn k' = m.isOn k' := rfl

/-! ### `wbit` -/

@[simp] theorem Mach.wbit_mem (m : Mach) (a : Reg) (b : Nat) (x : Bool) (i : Nat) : (m.wbit a b x i).mem = m.mem := rfl
@[simp] theorem Mach.wbit_ecc (m : Mach) (a : Reg) (b : Nat) (x : Bool) (i : Nat) : (m.wbit a b x i).ecc = m.ecc := rfl
@[simp] theorem Mach.wbit_counts (m : Mach) (a : Reg) (b : Nat) (x : Bool) (i : Nat) : (m.wbit a b x i).counts = m.counts := rfl
@[simp] theorem Mach.wbit_threads (m : Mach) (a : Reg) (b : Nat) (x : Bool) (i : Nat) : (m.wbit a b x i).threads = m.threads := rfl
@[simp] theorem Mach.wbit_locks (m : Mach) (a : Reg) (b : Nat) (x : Bool) (i : Nat) : (m.wbit a b x i).locks = m.locks := rfl
@[simp] theorem Mach.wbit_cores (m : Mach) (a : Reg) (b : Nat) (x : Bool) (i : Nat) : (m.wbit a b x i).cores = m.cores := rfl
@[simp] theorem Mach.wbit_iqs (m : Mach) (a : Reg) (b : Nat) (x : Bool) (i : Nat) : (m.wbit a b x i).iqs = m.iqs := rfl
@[simp] theorem Mach.wbit_eqs (m : Mach) (a : Reg) (b : Nat) (x : Bool) (i : Nat) : (m.wbit a b x i).eqs = m.eqs := rfl
@[simp] theorem Mach.wbit_gates (m : Mach) (a : Reg) (b : Nat) (x : Bool) (i : Nat) : (m.wbit a b x i).gates = m.gates := rfl
@[simp] theorem Mach.wbit_doms (m : Mach) (a : Reg) (b : Nat) (x : Bool) (i : Nat) : (m.wbit a b x i).doms = m.doms := rfl
@[simp] theorem Mach.wbit_bollards (m : Mach) (a : Reg) (b : Nat) (x : Bool) (i : Nat) : (m.wbit a b x i).bollards = m.bollards := rfl
@[simp] theorem Mach.wbit_links (m : Mach) (a : Reg) (b : Nat) (x : Bool) (i : Nat) : (m.wbit a b x i).links = m.links := rfl
@[simp] theorem Mach.wbit_waybill (m : Mach) (a : Reg) (b : Nat) (x : Bool) (i : Nat) : (m.wbit a b x i).waybill = m.waybill := rfl
@[simp] theorem Mach.wbit_sealU (m : Mach) (a : Reg) (b : Nat) (x : Bool) (i : Nat) : (m.wbit a b x i).sealU = m.sealU := rfl
@[simp] theorem Mach.wbit_sluice (m : Mach) (a : Reg) (b : Nat) (x : Bool) (i : Nat) : (m.wbit a b x i).sluice = m.sluice := rfl
@[simp] theorem Mach.wbit_tb (m : Mach) (a : Reg) (b : Nat) (x : Bool) (i : Nat) : (m.wbit a b x i).tb = m.tb := rfl
@[simp] theorem Mach.wbit_host (m : Mach) (a : Reg) (b : Nat) (x : Bool) (i : Nat) : (m.wbit a b x i).host = m.host := rfl
@[simp] theorem Mach.wbit_d0 (m : Mach) (a : Reg) (b : Nat) (x : Bool) (i : Nat) : (m.wbit a b x i).d0 = m.d0 := rfl
@[simp] theorem Mach.wbit_keep (m : Mach) (a : Reg) (b : Nat) (x : Bool) (i : Nat) : (m.wbit a b x i).keep = m.keep := rfl
@[simp] theorem Mach.wbit_keepScrub (m : Mach) (a : Reg) (b : Nat) (x : Bool) (i : Nat) : (m.wbit a b x i).keepScrub = m.keepScrub := rfl
@[simp] theorem Mach.wbit_evac (m : Mach) (a : Reg) (b : Nat) (x : Bool) (i : Nat) : (m.wbit a b x i).evac = m.evac := rfl
@[simp] theorem Mach.wbit_xchg (m : Mach) (a : Reg) (b : Nat) (x : Bool) (i : Nat) : (m.wbit a b x i).xchg = m.xchg := rfl
@[simp] theorem Mach.wbit_oldVecs (m : Mach) (a : Reg) (b : Nat) (x : Bool) (i : Nat) : (m.wbit a b x i).oldVecs = m.oldVecs := rfl
@[simp] theorem Mach.wbit_paceLow (m : Mach) (a : Reg) (b : Nat) (x : Bool) (i : Nat) : (m.wbit a b x i).paceLow = m.paceLow := rfl
@[simp] theorem Mach.wbit_dict (m : Mach) (a : Reg) (b : Nat) (x : Bool) (i : Nat) : (m.wbit a b x i).dict = m.dict := rfl
@[simp] theorem Mach.wbit_helpq (m : Mach) (a : Reg) (b : Nat) (x : Bool) (i : Nat) : (m.wbit a b x i).helpq = m.helpq := rfl
@[simp] theorem Mach.wbit_shovs (m : Mach) (a : Reg) (b : Nat) (x : Bool) (i : Nat) : (m.wbit a b x i).shovs = m.shovs := rfl
@[simp] theorem Mach.wbit_rdata (m : Mach) (a : Reg) (b : Nat) (x : Bool) (i : Nat) : (m.wbit a b x i).rdata = m.rdata := rfl
@[simp] theorem Mach.wbit_free (m : Mach) (a : Reg) (b : Nat) (x : Bool) (i : Nat) : (m.wbit a b x i).free = m.free := rfl
@[simp] theorem Mach.wbit_thr_of (m : Mach) (a : Reg) (b : Nat) (x : Bool) (i : Nat) (t' : Tid) : (m.wbit a b x i).thr t' = m.thr t' := rfl
@[simp] theorem Mach.wbit_lock_of (m : Mach) (a : Reg) (b : Nat) (x : Bool) (i : Nat) (p' : Nat) : (m.wbit a b x i).lock p' = m.lock p' := rfl
@[simp] theorem Mach.wbit_core_of (m : Mach) (a : Reg) (b : Nat) (x : Bool) (i : Nat) (k' : Nat) : (m.wbit a b x i).core k' = m.core k' := rfl
@[simp] theorem Mach.wbit_iq_of (m : Mach) (a : Reg) (b : Nat) (x : Bool) (i : Nat) (q' : Nat) : (m.wbit a b x i).iq q' = m.iq q' := rfl
@[simp] theorem Mach.wbit_eq_of (m : Mach) (a : Reg) (b : Nat) (x : Bool) (i : Nat) (q' : Nat) : (m.wbit a b x i).eq q' = m.eq q' := rfl
@[simp] theorem Mach.wbit_gate_of (m : Mach) (a : Reg) (b : Nat) (x : Bool) (i : Nat) (d' : Nat) : (m.wbit a b x i).gate d' = m.gate d' := rfl
@[simp] theorem Mach.wbit_bol_of (m : Mach) (a : Reg) (b : Nat) (x : Bool) (i : Nat) (b' : Nat) : (m.wbit a b x i).bol b' = m.bol b' := rfl
@[simp] theorem Mach.wbit_shape_of (m : Mach) (a : Reg) (b : Nat) (x : Bool) (i : Nat) (q' : Nat) : (m.wbit a b x i).shape q' = m.shape q' := rfl
@[simp] theorem Mach.wbit_link_of (m : Mach) (a : Reg) (b : Nat) (x : Bool) (i : Nat) (k' : Nat) : (m.wbit a b x i).link k' = m.link k' := rfl
@[simp] theorem Mach.wbit_cntKey_of (m : Mach) (a : Reg) (b : Nat) (x : Bool) (i : Nat) (k' : Nat) : (m.wbit a b x i).cntKey k' = m.cntKey k' := rfl
@[simp] theorem Mach.wbit_mem1_of (m : Mach) (a : Reg) (b : Nat) (x : Bool) (i : Nat) (k' : Nat) : (m.wbit a b x i).mem1 k' = m.mem1 k' := rfl
@[simp] theorem Mach.wbit_eccOf_of (m : Mach) (a : Reg) (b : Nat) (x : Bool) (i : Nat) (k' : Nat) : (m.wbit a b x i).eccOf k' = m.eccOf k' := rfl
@[simp] theorem Mach.wbit_isOn_of (m : Mach) (a : Reg) (b : Nat) (x : Bool) (i : Nat) (k' : Nat) : (m.wbit a b x i).isOn k' = m.isOn k' := rfl

/-! ### `wubit` -/

@[simp] theorem Mach.wubit_mem (m : Mach) (a : Reg) (u b : Nat) (x : Bool) (i : Nat) : (m.wubit a u b x i).mem = m.mem := rfl
@[simp] theorem Mach.wubit_ecc (m : Mach) (a : Reg) (u b : Nat) (x : Bool) (i : Nat) : (m.wubit a u b x i).ecc = m.ecc := rfl
@[simp] theorem Mach.wubit_counts (m : Mach) (a : Reg) (u b : Nat) (x : Bool) (i : Nat) : (m.wubit a u b x i).counts = m.counts := rfl
@[simp] theorem Mach.wubit_threads (m : Mach) (a : Reg) (u b : Nat) (x : Bool) (i : Nat) : (m.wubit a u b x i).threads = m.threads := rfl
@[simp] theorem Mach.wubit_locks (m : Mach) (a : Reg) (u b : Nat) (x : Bool) (i : Nat) : (m.wubit a u b x i).locks = m.locks := rfl
@[simp] theorem Mach.wubit_cores (m : Mach) (a : Reg) (u b : Nat) (x : Bool) (i : Nat) : (m.wubit a u b x i).cores = m.cores := rfl
@[simp] theorem Mach.wubit_iqs (m : Mach) (a : Reg) (u b : Nat) (x : Bool) (i : Nat) : (m.wubit a u b x i).iqs = m.iqs := rfl
@[simp] theorem Mach.wubit_eqs (m : Mach) (a : Reg) (u b : Nat) (x : Bool) (i : Nat) : (m.wubit a u b x i).eqs = m.eqs := rfl
@[simp] theorem Mach.wubit_gates (m : Mach) (a : Reg) (u b : Nat) (x : Bool) (i : Nat) : (m.wubit a u b x i).gates = m.gates := rfl
@[simp] theorem Mach.wubit_doms (m : Mach) (a : Reg) (u b : Nat) (x : Bool) (i : Nat) : (m.wubit a u b x i).doms = m.doms := rfl
@[simp] theorem Mach.wubit_bollards (m : Mach) (a : Reg) (u b : Nat) (x : Bool) (i : Nat) : (m.wubit a u b x i).bollards = m.bollards := rfl
@[simp] theorem Mach.wubit_links (m : Mach) (a : Reg) (u b : Nat) (x : Bool) (i : Nat) : (m.wubit a u b x i).links = m.links := rfl
@[simp] theorem Mach.wubit_waybill (m : Mach) (a : Reg) (u b : Nat) (x : Bool) (i : Nat) : (m.wubit a u b x i).waybill = m.waybill := rfl
@[simp] theorem Mach.wubit_sealU (m : Mach) (a : Reg) (u b : Nat) (x : Bool) (i : Nat) : (m.wubit a u b x i).sealU = m.sealU := rfl
@[simp] theorem Mach.wubit_sluice (m : Mach) (a : Reg) (u b : Nat) (x : Bool) (i : Nat) : (m.wubit a u b x i).sluice = m.sluice := rfl
@[simp] theorem Mach.wubit_tb (m : Mach) (a : Reg) (u b : Nat) (x : Bool) (i : Nat) : (m.wubit a u b x i).tb = m.tb := rfl
@[simp] theorem Mach.wubit_host (m : Mach) (a : Reg) (u b : Nat) (x : Bool) (i : Nat) : (m.wubit a u b x i).host = m.host := rfl
@[simp] theorem Mach.wubit_d0 (m : Mach) (a : Reg) (u b : Nat) (x : Bool) (i : Nat) : (m.wubit a u b x i).d0 = m.d0 := rfl
@[simp] theorem Mach.wubit_keep (m : Mach) (a : Reg) (u b : Nat) (x : Bool) (i : Nat) : (m.wubit a u b x i).keep = m.keep := rfl
@[simp] theorem Mach.wubit_keepScrub (m : Mach) (a : Reg) (u b : Nat) (x : Bool) (i : Nat) : (m.wubit a u b x i).keepScrub = m.keepScrub := rfl
@[simp] theorem Mach.wubit_evac (m : Mach) (a : Reg) (u b : Nat) (x : Bool) (i : Nat) : (m.wubit a u b x i).evac = m.evac := rfl
@[simp] theorem Mach.wubit_xchg (m : Mach) (a : Reg) (u b : Nat) (x : Bool) (i : Nat) : (m.wubit a u b x i).xchg = m.xchg := rfl
@[simp] theorem Mach.wubit_oldVecs (m : Mach) (a : Reg) (u b : Nat) (x : Bool) (i : Nat) : (m.wubit a u b x i).oldVecs = m.oldVecs := rfl
@[simp] theorem Mach.wubit_paceLow (m : Mach) (a : Reg) (u b : Nat) (x : Bool) (i : Nat) : (m.wubit a u b x i).paceLow = m.paceLow := rfl
@[simp] theorem Mach.wubit_dict (m : Mach) (a : Reg) (u b : Nat) (x : Bool) (i : Nat) : (m.wubit a u b x i).dict = m.dict := rfl
@[simp] theorem Mach.wubit_helpq (m : Mach) (a : Reg) (u b : Nat) (x : Bool) (i : Nat) : (m.wubit a u b x i).helpq = m.helpq := rfl
@[simp] theorem Mach.wubit_shovs (m : Mach) (a : Reg) (u b : Nat) (x : Bool) (i : Nat) : (m.wubit a u b x i).shovs = m.shovs := rfl
@[simp] theorem Mach.wubit_rdata (m : Mach) (a : Reg) (u b : Nat) (x : Bool) (i : Nat) : (m.wubit a u b x i).rdata = m.rdata := rfl
@[simp] theorem Mach.wubit_free (m : Mach) (a : Reg) (u b : Nat) (x : Bool) (i : Nat) : (m.wubit a u b x i).free = m.free := rfl
@[simp] theorem Mach.wubit_thr_of (m : Mach) (a : Reg) (u b : Nat) (x : Bool) (i : Nat) (t' : Tid) : (m.wubit a u b x i).thr t' = m.thr t' := rfl
@[simp] theorem Mach.wubit_lock_of (m : Mach) (a : Reg) (u b : Nat) (x : Bool) (i : Nat) (p' : Nat) : (m.wubit a u b x i).lock p' = m.lock p' := rfl
@[simp] theorem Mach.wubit_core_of (m : Mach) (a : Reg) (u b : Nat) (x : Bool) (i : Nat) (k' : Nat) : (m.wubit a u b x i).core k' = m.core k' := rfl
@[simp] theorem Mach.wubit_iq_of (m : Mach) (a : Reg) (u b : Nat) (x : Bool) (i : Nat) (q' : Nat) : (m.wubit a u b x i).iq q' = m.iq q' := rfl
@[simp] theorem Mach.wubit_eq_of (m : Mach) (a : Reg) (u b : Nat) (x : Bool) (i : Nat) (q' : Nat) : (m.wubit a u b x i).eq q' = m.eq q' := rfl
@[simp] theorem Mach.wubit_gate_of (m : Mach) (a : Reg) (u b : Nat) (x : Bool) (i : Nat) (d' : Nat) : (m.wubit a u b x i).gate d' = m.gate d' := rfl
@[simp] theorem Mach.wubit_bol_of (m : Mach) (a : Reg) (u b : Nat) (x : Bool) (i : Nat) (b' : Nat) : (m.wubit a u b x i).bol b' = m.bol b' := rfl
@[simp] theorem Mach.wubit_shape_of (m : Mach) (a : Reg) (u b : Nat) (x : Bool) (i : Nat) (q' : Nat) : (m.wubit a u b x i).shape q' = m.shape q' := rfl
@[simp] theorem Mach.wubit_link_of (m : Mach) (a : Reg) (u b : Nat) (x : Bool) (i : Nat) (k' : Nat) : (m.wubit a u b x i).link k' = m.link k' := rfl
@[simp] theorem Mach.wubit_cntKey_of (m : Mach) (a : Reg) (u b : Nat) (x : Bool) (i : Nat) (k' : Nat) : (m.wubit a u b x i).cntKey k' = m.cntKey k' := rfl
@[simp] theorem Mach.wubit_mem1_of (m : Mach) (a : Reg) (u b : Nat) (x : Bool) (i : Nat) (k' : Nat) : (m.wubit a u b x i).mem1 k' = m.mem1 k' := rfl
@[simp] theorem Mach.wubit_eccOf_of (m : Mach) (a : Reg) (u b : Nat) (x : Bool) (i : Nat) (k' : Nat) : (m.wubit a u b x i).eccOf k' = m.eccOf k' := rfl
@[simp] theorem Mach.wubit_isOn_of (m : Mach) (a : Reg) (u b : Nat) (x : Bool) (i : Nat) (k' : Nat) : (m.wubit a u b x i).isOn k' = m.isOn k' := rfl

/-! ### `addKey` -/

@[simp] theorem Mach.addKey_regs (m : Mach) (k n : Nat) : (m.addKey k n).regs = m.regs := rfl
@[simp] theorem Mach.addKey_mem (m : Mach) (k n : Nat) : (m.addKey k n).mem = m.mem := rfl
@[simp] theorem Mach.addKey_ecc (m : Mach) (k n : Nat) : (m.addKey k n).ecc = m.ecc := rfl
@[simp] theorem Mach.addKey_threads (m : Mach) (k n : Nat) : (m.addKey k n).threads = m.threads := rfl
@[simp] theorem Mach.addKey_locks (m : Mach) (k n : Nat) : (m.addKey k n).locks = m.locks := rfl
@[simp] theorem Mach.addKey_cores (m : Mach) (k n : Nat) : (m.addKey k n).cores = m.cores := rfl
@[simp] theorem Mach.addKey_iqs (m : Mach) (k n : Nat) : (m.addKey k n).iqs = m.iqs := rfl
@[simp] theorem Mach.addKey_eqs (m : Mach) (k n : Nat) : (m.addKey k n).eqs = m.eqs := rfl
@[simp] theorem Mach.addKey_gates (m : Mach) (k n : Nat) : (m.addKey k n).gates = m.gates := rfl
@[simp] theorem Mach.addKey_doms (m : Mach) (k n : Nat) : (m.addKey k n).doms = m.doms := rfl
@[simp] theorem Mach.addKey_bollards (m : Mach) (k n : Nat) : (m.addKey k n).bollards = m.bollards := rfl
@[simp] theorem Mach.addKey_links (m : Mach) (k n : Nat) : (m.addKey k n).links = m.links := rfl
@[simp] theorem Mach.addKey_waybill (m : Mach) (k n : Nat) : (m.addKey k n).waybill = m.waybill := rfl
@[simp] theorem Mach.addKey_sealU (m : Mach) (k n : Nat) : (m.addKey k n).sealU = m.sealU := rfl
@[simp] theorem Mach.addKey_sluice (m : Mach) (k n : Nat) : (m.addKey k n).sluice = m.sluice := rfl
@[simp] theorem Mach.addKey_tb (m : Mach) (k n : Nat) : (m.addKey k n).tb = m.tb := rfl
@[simp] theorem Mach.addKey_host (m : Mach) (k n : Nat) : (m.addKey k n).host = m.host := rfl
@[simp] theorem Mach.addKey_d0 (m : Mach) (k n : Nat) : (m.addKey k n).d0 = m.d0 := rfl
@[simp] theorem Mach.addKey_keep (m : Mach) (k n : Nat) : (m.addKey k n).keep = m.keep := rfl
@[simp] theorem Mach.addKey_keepScrub (m : Mach) (k n : Nat) : (m.addKey k n).keepScrub = m.keepScrub := rfl
@[simp] theorem Mach.addKey_evac (m : Mach) (k n : Nat) : (m.addKey k n).evac = m.evac := rfl
@[simp] theorem Mach.addKey_xchg (m : Mach) (k n : Nat) : (m.addKey k n).xchg = m.xchg := rfl
@[simp] theorem Mach.addKey_oldVecs (m : Mach) (k n : Nat) : (m.addKey k n).oldVecs = m.oldVecs := rfl
@[simp] theorem Mach.addKey_paceLow (m : Mach) (k n : Nat) : (m.addKey k n).paceLow = m.paceLow := rfl
@[simp] theorem Mach.addKey_dict (m : Mach) (k n : Nat) : (m.addKey k n).dict = m.dict := rfl
@[simp] theorem Mach.addKey_helpq (m : Mach) (k n : Nat) : (m.addKey k n).helpq = m.helpq := rfl
@[simp] theorem Mach.addKey_shovs (m : Mach) (k n : Nat) : (m.addKey k n).shovs = m.shovs := rfl
@[simp] theorem Mach.addKey_rdata (m : Mach) (k n : Nat) : (m.addKey k n).rdata = m.rdata := rfl
@[simp] theorem Mach.addKey_free (m : Mach) (k n : Nat) : (m.addKey k n).free = m.free := rfl
@[simp] theorem Mach.addKey_thr_of (m : Mach) (k n : Nat) (t' : Tid) : (m.addKey k n).thr t' = m.thr t' := rfl
@[simp] theorem Mach.addKey_lock_of (m : Mach) (k n : Nat) (p' : Nat) : (m.addKey k n).lock p' = m.lock p' := rfl
@[simp] theorem Mach.addKey_core_of (m : Mach) (k n : Nat) (k' : Nat) : (m.addKey k n).core k' = m.core k' := rfl
@[simp] theorem Mach.addKey_iq_of (m : Mach) (k n : Nat) (q' : Nat) : (m.addKey k n).iq q' = m.iq q' := rfl
@[simp] theorem Mach.addKey_eq_of (m : Mach) (k n : Nat) (q' : Nat) : (m.addKey k n).eq q' = m.eq q' := rfl
@[simp] theorem Mach.addKey_gate_of (m : Mach) (k n : Nat) (d' : Nat) : (m.addKey k n).gate d' = m.gate d' := rfl
@[simp] theorem Mach.addKey_bol_of (m : Mach) (k n : Nat) (b' : Nat) : (m.addKey k n).bol b' = m.bol b' := rfl
@[simp] theorem Mach.addKey_shape_of (m : Mach) (k n : Nat) (q' : Nat) : (m.addKey k n).shape q' = m.shape q' := rfl
@[simp] theorem Mach.addKey_link_of (m : Mach) (k n : Nat) (k' : Nat) : (m.addKey k n).link k' = m.link k' := rfl
@[simp] theorem Mach.addKey_rget_of (m : Mach) (k n : Nat) (r' : RegRef) : (m.addKey k n).rget r' = m.rget r' := rfl
@[simp] theorem Mach.addKey_r_of (m : Mach) (k n : Nat) (a' : Reg) (i' : Nat) : (m.addKey k n).r a' i' = m.r a' i' := rfl
@[simp] theorem Mach.addKey_ru_of (m : Mach) (k n : Nat) (a' : Reg) (u' i' : Nat) : (m.addKey k n).ru a' u' i' = m.ru a' u' i' := rfl
@[simp] theorem Mach.addKey_mem1_of (m : Mach) (k n : Nat) (k' : Nat) : (m.addKey k n).mem1 k' = m.mem1 k' := rfl
@[simp] theorem Mach.addKey_eccOf_of (m : Mach) (k n : Nat) (k' : Nat) : (m.addKey k n).eccOf k' = m.eccOf k' := rfl
@[simp] theorem Mach.addKey_isOn_of (m : Mach) (k n : Nat) (k' : Nat) : (m.addKey k n).isOn k' = m.isOn k' := rfl

/-! ### `count` -/

@[simp] theorem Mach.count_regs (m : Mach) (k n : Nat) : (m.count k n).regs = m.regs := rfl
@[simp] theorem Mach.count_mem (m : Mach) (k n : Nat) : (m.count k n).mem = m.mem := rfl
@[simp] theorem Mach.count_ecc (m : Mach) (k n : Nat) : (m.count k n).ecc = m.ecc := rfl
@[simp] theorem Mach.count_threads (m : Mach) (k n : Nat) : (m.count k n).threads = m.threads := rfl
@[simp] theorem Mach.count_locks (m : Mach) (k n : Nat) : (m.count k n).locks = m.locks := rfl
@[simp] theorem Mach.count_cores (m : Mach) (k n : Nat) : (m.count k n).cores = m.cores := rfl
@[simp] theorem Mach.count_iqs (m : Mach) (k n : Nat) : (m.count k n).iqs = m.iqs := rfl
@[simp] theorem Mach.count_eqs (m : Mach) (k n : Nat) : (m.count k n).eqs = m.eqs := rfl
@[simp] theorem Mach.count_gates (m : Mach) (k n : Nat) : (m.count k n).gates = m.gates := rfl
@[simp] theorem Mach.count_doms (m : Mach) (k n : Nat) : (m.count k n).doms = m.doms := rfl
@[simp] theorem Mach.count_bollards (m : Mach) (k n : Nat) : (m.count k n).bollards = m.bollards := rfl
@[simp] theorem Mach.count_links (m : Mach) (k n : Nat) : (m.count k n).links = m.links := rfl
@[simp] theorem Mach.count_waybill (m : Mach) (k n : Nat) : (m.count k n).waybill = m.waybill := rfl
@[simp] theorem Mach.count_sealU (m : Mach) (k n : Nat) : (m.count k n).sealU = m.sealU := rfl
@[simp] theorem Mach.count_sluice (m : Mach) (k n : Nat) : (m.count k n).sluice = m.sluice := rfl
@[simp] theorem Mach.count_tb (m : Mach) (k n : Nat) : (m.count k n).tb = m.tb := rfl
@[simp] theorem Mach.count_host (m : Mach) (k n : Nat) : (m.count k n).host = m.host := rfl
@[simp] theorem Mach.count_d0 (m : Mach) (k n : Nat) : (m.count k n).d0 = m.d0 := rfl
@[simp] theorem Mach.count_keep (m : Mach) (k n : Nat) : (m.count k n).keep = m.keep := rfl
@[simp] theorem Mach.count_keepScrub (m : Mach) (k n : Nat) : (m.count k n).keepScrub = m.keepScrub := rfl
@[simp] theorem Mach.count_evac (m : Mach) (k n : Nat) : (m.count k n).evac = m.evac := rfl
@[simp] theorem Mach.count_xchg (m : Mach) (k n : Nat) : (m.count k n).xchg = m.xchg := rfl
@[simp] theorem Mach.count_oldVecs (m : Mach) (k n : Nat) : (m.count k n).oldVecs = m.oldVecs := rfl
@[simp] theorem Mach.count_paceLow (m : Mach) (k n : Nat) : (m.count k n).paceLow = m.paceLow := rfl
@[simp] theorem Mach.count_dict (m : Mach) (k n : Nat) : (m.count k n).dict = m.dict := rfl
@[simp] theorem Mach.count_helpq (m : Mach) (k n : Nat) : (m.count k n).helpq = m.helpq := rfl
@[simp] theorem Mach.count_shovs (m : Mach) (k n : Nat) : (m.count k n).shovs = m.shovs := rfl
@[simp] theorem Mach.count_rdata (m : Mach) (k n : Nat) : (m.count k n).rdata = m.rdata := rfl
@[simp] theorem Mach.count_free (m : Mach) (k n : Nat) : (m.count k n).free = m.free := rfl
@[simp] theorem Mach.count_thr_of (m : Mach) (k n : Nat) (t' : Tid) : (m.count k n).thr t' = m.thr t' := rfl
@[simp] theorem Mach.count_lock_of (m : Mach) (k n : Nat) (p' : Nat) : (m.count k n).lock p' = m.lock p' := rfl
@[simp] theorem Mach.count_core_of (m : Mach) (k n : Nat) (k' : Nat) : (m.count k n).core k' = m.core k' := rfl
@[simp] theorem Mach.count_iq_of (m : Mach) (k n : Nat) (q' : Nat) : (m.count k n).iq q' = m.iq q' := rfl
@[simp] theorem Mach.count_eq_of (m : Mach) (k n : Nat) (q' : Nat) : (m.count k n).eq q' = m.eq q' := rfl
@[simp] theorem Mach.count_gate_of (m : Mach) (k n : Nat) (d' : Nat) : (m.count k n).gate d' = m.gate d' := rfl
@[simp] theorem Mach.count_bol_of (m : Mach) (k n : Nat) (b' : Nat) : (m.count k n).bol b' = m.bol b' := rfl
@[simp] theorem Mach.count_shape_of (m : Mach) (k n : Nat) (q' : Nat) : (m.count k n).shape q' = m.shape q' := rfl
@[simp] theorem Mach.count_link_of (m : Mach) (k n : Nat) (k' : Nat) : (m.count k n).link k' = m.link k' := rfl
@[simp] theorem Mach.count_rget_of (m : Mach) (k n : Nat) (r' : RegRef) : (m.count k n).rget r' = m.rget r' := rfl
@[simp] theorem Mach.count_r_of (m : Mach) (k n : Nat) (a' : Reg) (i' : Nat) : (m.count k n).r a' i' = m.r a' i' := rfl
@[simp] theorem Mach.count_ru_of (m : Mach) (k n : Nat) (a' : Reg) (u' i' : Nat) : (m.count k n).ru a' u' i' = m.ru a' u' i' := rfl
@[simp] theorem Mach.count_mem1_of (m : Mach) (k n : Nat) (k' : Nat) : (m.count k n).mem1 k' = m.mem1 k' := rfl
@[simp] theorem Mach.count_eccOf_of (m : Mach) (k n : Nat) (k' : Nat) : (m.count k n).eccOf k' = m.eccOf k' := rfl
@[simp] theorem Mach.count_isOn_of (m : Mach) (k n : Nat) (k' : Nat) : (m.count k n).isOn k' = m.isOn k' := rfl

/-! ### `countN` -/

@[simp] theorem Mach.countN_regs (m : Mach) (i k n : Nat) : (m.countN i k n).regs = m.regs := rfl
@[simp] theorem Mach.countN_mem (m : Mach) (i k n : Nat) : (m.countN i k n).mem = m.mem := rfl
@[simp] theorem Mach.countN_ecc (m : Mach) (i k n : Nat) : (m.countN i k n).ecc = m.ecc := rfl
@[simp] theorem Mach.countN_threads (m : Mach) (i k n : Nat) : (m.countN i k n).threads = m.threads := rfl
@[simp] theorem Mach.countN_locks (m : Mach) (i k n : Nat) : (m.countN i k n).locks = m.locks := rfl
@[simp] theorem Mach.countN_cores (m : Mach) (i k n : Nat) : (m.countN i k n).cores = m.cores := rfl
@[simp] theorem Mach.countN_iqs (m : Mach) (i k n : Nat) : (m.countN i k n).iqs = m.iqs := rfl
@[simp] theorem Mach.countN_eqs (m : Mach) (i k n : Nat) : (m.countN i k n).eqs = m.eqs := rfl
@[simp] theorem Mach.countN_gates (m : Mach) (i k n : Nat) : (m.countN i k n).gates = m.gates := rfl
@[simp] theorem Mach.countN_doms (m : Mach) (i k n : Nat) : (m.countN i k n).doms = m.doms := rfl
@[simp] theorem Mach.countN_bollards (m : Mach) (i k n : Nat) : (m.countN i k n).bollards = m.bollards := rfl
@[simp] theorem Mach.countN_links (m : Mach) (i k n : Nat) : (m.countN i k n).links = m.links := rfl
@[simp] theorem Mach.countN_waybill (m : Mach) (i k n : Nat) : (m.countN i k n).waybill = m.waybill := rfl
@[simp] theorem Mach.countN_sealU (m : Mach) (i k n : Nat) : (m.countN i k n).sealU = m.sealU := rfl
@[simp] theorem Mach.countN_sluice (m : Mach) (i k n : Nat) : (m.countN i k n).sluice = m.sluice := rfl
@[simp] theorem Mach.countN_tb (m : Mach) (i k n : Nat) : (m.countN i k n).tb = m.tb := rfl
@[simp] theorem Mach.countN_host (m : Mach) (i k n : Nat) : (m.countN i k n).host = m.host := rfl
@[simp] theorem Mach.countN_d0 (m : Mach) (i k n : Nat) : (m.countN i k n).d0 = m.d0 := rfl
@[simp] theorem Mach.countN_keep (m : Mach) (i k n : Nat) : (m.countN i k n).keep = m.keep := rfl
@[simp] theorem Mach.countN_keepScrub (m : Mach) (i k n : Nat) : (m.countN i k n).keepScrub = m.keepScrub := rfl
@[simp] theorem Mach.countN_evac (m : Mach) (i k n : Nat) : (m.countN i k n).evac = m.evac := rfl
@[simp] theorem Mach.countN_xchg (m : Mach) (i k n : Nat) : (m.countN i k n).xchg = m.xchg := rfl
@[simp] theorem Mach.countN_oldVecs (m : Mach) (i k n : Nat) : (m.countN i k n).oldVecs = m.oldVecs := rfl
@[simp] theorem Mach.countN_paceLow (m : Mach) (i k n : Nat) : (m.countN i k n).paceLow = m.paceLow := rfl
@[simp] theorem Mach.countN_dict (m : Mach) (i k n : Nat) : (m.countN i k n).dict = m.dict := rfl
@[simp] theorem Mach.countN_helpq (m : Mach) (i k n : Nat) : (m.countN i k n).helpq = m.helpq := rfl
@[simp] theorem Mach.countN_shovs (m : Mach) (i k n : Nat) : (m.countN i k n).shovs = m.shovs := rfl
@[simp] theorem Mach.countN_rdata (m : Mach) (i k n : Nat) : (m.countN i k n).rdata = m.rdata := rfl
@[simp] theorem Mach.countN_free (m : Mach) (i k n : Nat) : (m.countN i k n).free = m.free := rfl
@[simp] theorem Mach.countN_thr_of (m : Mach) (i k n : Nat) (t' : Tid) : (m.countN i k n).thr t' = m.thr t' := rfl
@[simp] theorem Mach.countN_lock_of (m : Mach) (i k n : Nat) (p' : Nat) : (m.countN i k n).lock p' = m.lock p' := rfl
@[simp] theorem Mach.countN_core_of (m : Mach) (i k n : Nat) (k' : Nat) : (m.countN i k n).core k' = m.core k' := rfl
@[simp] theorem Mach.countN_iq_of (m : Mach) (i k n : Nat) (q' : Nat) : (m.countN i k n).iq q' = m.iq q' := rfl
@[simp] theorem Mach.countN_eq_of (m : Mach) (i k n : Nat) (q' : Nat) : (m.countN i k n).eq q' = m.eq q' := rfl
@[simp] theorem Mach.countN_gate_of (m : Mach) (i k n : Nat) (d' : Nat) : (m.countN i k n).gate d' = m.gate d' := rfl
@[simp] theorem Mach.countN_bol_of (m : Mach) (i k n : Nat) (b' : Nat) : (m.countN i k n).bol b' = m.bol b' := rfl
@[simp] theorem Mach.countN_shape_of (m : Mach) (i k n : Nat) (q' : Nat) : (m.countN i k n).shape q' = m.shape q' := rfl
@[simp] theorem Mach.countN_link_of (m : Mach) (i k n : Nat) (k' : Nat) : (m.countN i k n).link k' = m.link k' := rfl
@[simp] theorem Mach.countN_rget_of (m : Mach) (i k n : Nat) (r' : RegRef) : (m.countN i k n).rget r' = m.rget r' := rfl
@[simp] theorem Mach.countN_r_of (m : Mach) (i k n : Nat) (a' : Reg) (i' : Nat) : (m.countN i k n).r a' i' = m.r a' i' := rfl
@[simp] theorem Mach.countN_ru_of (m : Mach) (i k n : Nat) (a' : Reg) (u' i' : Nat) : (m.countN i k n).ru a' u' i' = m.ru a' u' i' := rfl
@[simp] theorem Mach.countN_mem1_of (m : Mach) (i k n : Nat) (k' : Nat) : (m.countN i k n).mem1 k' = m.mem1 k' := rfl
@[simp] theorem Mach.countN_eccOf_of (m : Mach) (i k n : Nat) (k' : Nat) : (m.countN i k n).eccOf k' = m.eccOf k' := rfl
@[simp] theorem Mach.countN_isOn_of (m : Mach) (i k n : Nat) (k' : Nat) : (m.countN i k n).isOn k' = m.isOn k' := rfl

/-! ### `coreCount` -/

@[simp] theorem Mach.coreCount_regs (m : Mach) (i k n : Nat) : (m.coreCount i k n).regs = m.regs := by unfold Mach.coreCount; split <;> rfl
@[simp] theorem Mach.coreCount_mem (m : Mach) (i k n : Nat) : (m.coreCount i k n).mem = m.mem := by unfold Mach.coreCount; split <;> rfl
@[simp] theorem Mach.coreCount_ecc (m : Mach) (i k n : Nat) : (m.coreCount i k n).ecc = m.ecc := by unfold Mach.coreCount; split <;> rfl
@[simp] theorem Mach.coreCount_threads (m : Mach) (i k n : Nat) : (m.coreCount i k n).threads = m.threads := by unfold Mach.coreCount; split <;> rfl
@[simp] theorem Mach.coreCount_locks (m : Mach) (i k n : Nat) : (m.coreCount i k n).locks = m.locks := by unfold Mach.coreCount; split <;> rfl
@[simp] theorem Mach.coreCount_cores (m : Mach) (i k n : Nat) : (m.coreCount i k n).cores = m.cores := by unfold Mach.coreCount; split <;> rfl
@[simp] theorem Mach.coreCount_iqs (m : Mach) (i k n : Nat) : (m.coreCount i k n).iqs = m.iqs := by unfold Mach.coreCount; split <;> rfl
@[simp] theorem Mach.coreCount_eqs (m : Mach) (i k n : Nat) : (m.coreCount i k n).eqs = m.eqs := by unfold Mach.coreCount; split <;> rfl
@[simp] theorem Mach.coreCount_gates (m : Mach) (i k n : Nat) : (m.coreCount i k n).gates = m.gates := by unfold Mach.coreCount; split <;> rfl
@[simp] theorem Mach.coreCount_doms (m : Mach) (i k n : Nat) : (m.coreCount i k n).doms = m.doms := by unfold Mach.coreCount; split <;> rfl
@[simp] theorem Mach.coreCount_bollards (m : Mach) (i k n : Nat) : (m.coreCount i k n).bollards = m.bollards := by unfold Mach.coreCount; split <;> rfl
@[simp] theorem Mach.coreCount_links (m : Mach) (i k n : Nat) : (m.coreCount i k n).links = m.links := by unfold Mach.coreCount; split <;> rfl
@[simp] theorem Mach.coreCount_waybill (m : Mach) (i k n : Nat) : (m.coreCount i k n).waybill = m.waybill := by unfold Mach.coreCount; split <;> rfl
@[simp] theorem Mach.coreCount_sealU (m : Mach) (i k n : Nat) : (m.coreCount i k n).sealU = m.sealU := by unfold Mach.coreCount; split <;> rfl
@[simp] theorem Mach.coreCount_sluice (m : Mach) (i k n : Nat) : (m.coreCount i k n).sluice = m.sluice := by unfold Mach.coreCount; split <;> rfl
@[simp] theorem Mach.coreCount_tb (m : Mach) (i k n : Nat) : (m.coreCount i k n).tb = m.tb := by unfold Mach.coreCount; split <;> rfl
@[simp] theorem Mach.coreCount_host (m : Mach) (i k n : Nat) : (m.coreCount i k n).host = m.host := by unfold Mach.coreCount; split <;> rfl
@[simp] theorem Mach.coreCount_d0 (m : Mach) (i k n : Nat) : (m.coreCount i k n).d0 = m.d0 := by unfold Mach.coreCount; split <;> rfl
@[simp] theorem Mach.coreCount_keep (m : Mach) (i k n : Nat) : (m.coreCount i k n).keep = m.keep := by unfold Mach.coreCount; split <;> rfl
@[simp] theorem Mach.coreCount_keepScrub (m : Mach) (i k n : Nat) : (m.coreCount i k n).keepScrub = m.keepScrub := by unfold Mach.coreCount; split <;> rfl
@[simp] theorem Mach.coreCount_evac (m : Mach) (i k n : Nat) : (m.coreCount i k n).evac = m.evac := by unfold Mach.coreCount; split <;> rfl
@[simp] theorem Mach.coreCount_xchg (m : Mach) (i k n : Nat) : (m.coreCount i k n).xchg = m.xchg := by unfold Mach.coreCount; split <;> rfl
@[simp] theorem Mach.coreCount_oldVecs (m : Mach) (i k n : Nat) : (m.coreCount i k n).oldVecs = m.oldVecs := by unfold Mach.coreCount; split <;> rfl
@[simp] theorem Mach.coreCount_paceLow (m : Mach) (i k n : Nat) : (m.coreCount i k n).paceLow = m.paceLow := by unfold Mach.coreCount; split <;> rfl
@[simp] theorem Mach.coreCount_dict (m : Mach) (i k n : Nat) : (m.coreCount i k n).dict = m.dict := by unfold Mach.coreCount; split <;> rfl
@[simp] theorem Mach.coreCount_helpq (m : Mach) (i k n : Nat) : (m.coreCount i k n).helpq = m.helpq := by unfold Mach.coreCount; split <;> rfl
@[simp] theorem Mach.coreCount_shovs (m : Mach) (i k n : Nat) : (m.coreCount i k n).shovs = m.shovs := by unfold Mach.coreCount; split <;> rfl
@[simp] theorem Mach.coreCount_rdata (m : Mach) (i k n : Nat) : (m.coreCount i k n).rdata = m.rdata := by unfold Mach.coreCount; split <;> rfl
@[simp] theorem Mach.coreCount_free (m : Mach) (i k n : Nat) : (m.coreCount i k n).free = m.free := by unfold Mach.coreCount; split <;> rfl
@[simp] theorem Mach.coreCount_thr_of (m : Mach) (i k n : Nat) (t' : Tid) : (m.coreCount i k n).thr t' = m.thr t' := by unfold Mach.coreCount; split <;> rfl
@[simp] theorem Mach.coreCount_lock_of (m : Mach) (i k n : Nat) (p' : Nat) : (m.coreCount i k n).lock p' = m.lock p' := by unfold Mach.coreCount; split <;> rfl
@[simp] theorem Mach.coreCount_core_of (m : Mach) (i k n : Nat) (k' : Nat) : (m.coreCount i k n).core k' = m.core k' := by unfold Mach.coreCount; split <;> rfl
@[simp] theorem Mach.coreCount_iq_of (m : Mach) (i k n : Nat) (q' : Nat) : (m.coreCount i k n).iq q' = m.iq q' := by unfold Mach.coreCount; split <;> rfl
@[simp] theorem Mach.coreCount_eq_of (m : Mach) (i k n : Nat) (q' : Nat) : (m.coreCount i k n).eq q' = m.eq q' := by unfold Mach.coreCount; split <;> rfl
@[simp] theorem Mach.coreCount_gate_of (m : Mach) (i k n : Nat) (d' : Nat) : (m.coreCount i k n).gate d' = m.gate d' := by unfold Mach.coreCount; split <;> rfl
@[simp] theorem Mach.coreCount_bol_of (m : Mach) (i k n : Nat) (b' : Nat) : (m.coreCount i k n).bol b' = m.bol b' := by unfold Mach.coreCount; split <;> rfl
@[simp] theorem Mach.coreCount_shape_of (m : Mach) (i k n : Nat) (q' : Nat) : (m.coreCount i k n).shape q' = m.shape q' := by unfold Mach.coreCount; split <;> rfl
@[simp] theorem Mach.coreCount_link_of (m : Mach) (i k n : Nat) (k' : Nat) : (m.coreCount i k n).link k' = m.link k' := by unfold Mach.coreCount; split <;> rfl
@[simp] theorem Mach.coreCount_rget_of (m : Mach) (i k n : Nat) (r' : RegRef) : (m.coreCount i k n).rget r' = m.rget r' := by unfold Mach.coreCount; split <;> rfl
@[simp] theorem Mach.coreCount_r_of (m : Mach) (i k n : Nat) (a' : Reg) (i' : Nat) : (m.coreCount i k n).r a' i' = m.r a' i' := by unfold Mach.coreCount; split <;> rfl
@[simp] theorem Mach.coreCount_ru_of (m : Mach) (i k n : Nat) (a' : Reg) (u' i' : Nat) : (m.coreCount i k n).ru a' u' i' = m.ru a' u' i' := by unfold Mach.coreCount; split <;> rfl
@[simp] theorem Mach.coreCount_mem1_of (m : Mach) (i k n : Nat) (k' : Nat) : (m.coreCount i k n).mem1 k' = m.mem1 k' := by unfold Mach.coreCount; split <;> rfl
@[simp] theorem Mach.coreCount_eccOf_of (m : Mach) (i k n : Nat) (k' : Nat) : (m.coreCount i k n).eccOf k' = m.eccOf k' := by unfold Mach.coreCount; split <;> rfl
@[simp] theorem Mach.coreCount_isOn_of (m : Mach) (i k n : Nat) (k' : Nat) : (m.coreCount i k n).isOn k' = m.isOn k' := by unfold Mach.coreCount; split <;> rfl

/-! ### `take` -/

@[simp] theorem Mach.take_regs (m : Mach) : (m.take).regs = m.regs := rfl
@[simp] theorem Mach.take_mem (m : Mach) : (m.take).mem = m.mem := rfl
@[simp] theorem Mach.take_ecc (m : Mach) : (m.take).ecc = m.ecc := rfl
@[simp] theorem Mach.take_counts (m : Mach) : (m.take).counts = m.counts := rfl
@[simp] theorem Mach.take_threads (m : Mach) : (m.take).threads = m.threads := rfl
@[simp] theorem Mach.take_locks (m : Mach) : (m.take).locks = m.locks := rfl
@[simp] theorem Mach.take_cores (m : Mach) : (m.take).cores = m.cores := rfl
@[simp] theorem Mach.take_iqs (m : Mach) : (m.take).iqs = m.iqs := rfl
@[simp] theorem Mach.take_eqs (m : Mach) : (m.take).eqs = m.eqs := rfl
@[simp] theorem Mach.take_gates (m : Mach) : (m.take).gates = m.gates := rfl
@[simp] theorem Mach.take_doms (m : Mach) : (m.take).doms = m.doms := rfl
@[simp] theorem Mach.take_bollards (m : Mach) : (m.take).bollards = m.bollards := rfl
@[simp] theorem Mach.take_links (m : Mach) : (m.take).links = m.links := rfl
@[simp] theorem Mach.take_waybill (m : Mach) : (m.take).waybill = m.waybill := rfl
@[simp] theorem Mach.take_sealU (m : Mach) : (m.take).sealU = m.sealU := rfl
@[simp] theorem Mach.take_sluice (m : Mach) : (m.take).sluice = m.sluice := rfl
@[simp] theorem Mach.take_tb (m : Mach) : (m.take).tb = m.tb := rfl
@[simp] theorem Mach.take_host (m : Mach) : (m.take).host = m.host := rfl
@[simp] theorem Mach.take_d0 (m : Mach) : (m.take).d0 = m.d0 := rfl
@[simp] theorem Mach.take_keep (m : Mach) : (m.take).keep = m.keep := rfl
@[simp] theorem Mach.take_keepScrub (m : Mach) : (m.take).keepScrub = m.keepScrub := rfl
@[simp] theorem Mach.take_evac (m : Mach) : (m.take).evac = m.evac := rfl
@[simp] theorem Mach.take_xchg (m : Mach) : (m.take).xchg = m.xchg := rfl
@[simp] theorem Mach.take_oldVecs (m : Mach) : (m.take).oldVecs = m.oldVecs := rfl
@[simp] theorem Mach.take_paceLow (m : Mach) : (m.take).paceLow = m.paceLow := rfl
@[simp] theorem Mach.take_dict (m : Mach) : (m.take).dict = m.dict := rfl
@[simp] theorem Mach.take_helpq (m : Mach) : (m.take).helpq = m.helpq := rfl
@[simp] theorem Mach.take_shovs (m : Mach) : (m.take).shovs = m.shovs := rfl
@[simp] theorem Mach.take_rdata (m : Mach) : (m.take).rdata = m.rdata := rfl
@[simp] theorem Mach.take_thr_of (m : Mach) (t' : Tid) : (m.take).thr t' = m.thr t' := rfl
@[simp] theorem Mach.take_lock_of (m : Mach) (p' : Nat) : (m.take).lock p' = m.lock p' := rfl
@[simp] theorem Mach.take_core_of (m : Mach) (k' : Nat) : (m.take).core k' = m.core k' := rfl
@[simp] theorem Mach.take_iq_of (m : Mach) (q' : Nat) : (m.take).iq q' = m.iq q' := rfl
@[simp] theorem Mach.take_eq_of (m : Mach) (q' : Nat) : (m.take).eq q' = m.eq q' := rfl
@[simp] theorem Mach.take_gate_of (m : Mach) (d' : Nat) : (m.take).gate d' = m.gate d' := rfl
@[simp] theorem Mach.take_bol_of (m : Mach) (b' : Nat) : (m.take).bol b' = m.bol b' := rfl
@[simp] theorem Mach.take_shape_of (m : Mach) (q' : Nat) : (m.take).shape q' = m.shape q' := rfl
@[simp] theorem Mach.take_link_of (m : Mach) (k' : Nat) : (m.take).link k' = m.link k' := rfl
@[simp] theorem Mach.take_rget_of (m : Mach) (r' : RegRef) : (m.take).rget r' = m.rget r' := rfl
@[simp] theorem Mach.take_r_of (m : Mach) (a' : Reg) (i' : Nat) : (m.take).r a' i' = m.r a' i' := rfl
@[simp] theorem Mach.take_ru_of (m : Mach) (a' : Reg) (u' i' : Nat) : (m.take).ru a' u' i' = m.ru a' u' i' := rfl
@[simp] theorem Mach.take_cntKey_of (m : Mach) (k' : Nat) : (m.take).cntKey k' = m.cntKey k' := rfl
@[simp] theorem Mach.take_mem1_of (m : Mach) (k' : Nat) : (m.take).mem1 k' = m.mem1 k' := rfl
@[simp] theorem Mach.take_eccOf_of (m : Mach) (k' : Nat) : (m.take).eccOf k' = m.eccOf k' := rfl
@[simp] theorem Mach.take_isOn_of (m : Mach) (k' : Nat) : (m.take).isOn k' = m.isOn k' := rfl

/-! ### `put1` -/

@[simp] theorem Mach.put1_regs (m : Mach) (k : Nat) (v : Nonet) : (m.put1 k v).regs = m.regs := rfl
@[simp] theorem Mach.put1_ecc (m : Mach) (k : Nat) (v : Nonet) : (m.put1 k v).ecc = m.ecc := rfl
@[simp] theorem Mach.put1_counts (m : Mach) (k : Nat) (v : Nonet) : (m.put1 k v).counts = m.counts := rfl
@[simp] theorem Mach.put1_threads (m : Mach) (k : Nat) (v : Nonet) : (m.put1 k v).threads = m.threads := rfl
@[simp] theorem Mach.put1_locks (m : Mach) (k : Nat) (v : Nonet) : (m.put1 k v).locks = m.locks := rfl
@[simp] theorem Mach.put1_cores (m : Mach) (k : Nat) (v : Nonet) : (m.put1 k v).cores = m.cores := rfl
@[simp] theorem Mach.put1_iqs (m : Mach) (k : Nat) (v : Nonet) : (m.put1 k v).iqs = m.iqs := rfl
@[simp] theorem Mach.put1_eqs (m : Mach) (k : Nat) (v : Nonet) : (m.put1 k v).eqs = m.eqs := rfl
@[simp] theorem Mach.put1_gates (m : Mach) (k : Nat) (v : Nonet) : (m.put1 k v).gates = m.gates := rfl
@[simp] theorem Mach.put1_doms (m : Mach) (k : Nat) (v : Nonet) : (m.put1 k v).doms = m.doms := rfl
@[simp] theorem Mach.put1_bollards (m : Mach) (k : Nat) (v : Nonet) : (m.put1 k v).bollards = m.bollards := rfl
@[simp] theorem Mach.put1_links (m : Mach) (k : Nat) (v : Nonet) : (m.put1 k v).links = m.links := rfl
@[simp] theorem Mach.put1_waybill (m : Mach) (k : Nat) (v : Nonet) : (m.put1 k v).waybill = m.waybill := rfl
@[simp] theorem Mach.put1_sealU (m : Mach) (k : Nat) (v : Nonet) : (m.put1 k v).sealU = m.sealU := rfl
@[simp] theorem Mach.put1_sluice (m : Mach) (k : Nat) (v : Nonet) : (m.put1 k v).sluice = m.sluice := rfl
@[simp] theorem Mach.put1_tb (m : Mach) (k : Nat) (v : Nonet) : (m.put1 k v).tb = m.tb := rfl
@[simp] theorem Mach.put1_host (m : Mach) (k : Nat) (v : Nonet) : (m.put1 k v).host = m.host := rfl
@[simp] theorem Mach.put1_d0 (m : Mach) (k : Nat) (v : Nonet) : (m.put1 k v).d0 = m.d0 := rfl
@[simp] theorem Mach.put1_keep (m : Mach) (k : Nat) (v : Nonet) : (m.put1 k v).keep = m.keep := rfl
@[simp] theorem Mach.put1_keepScrub (m : Mach) (k : Nat) (v : Nonet) : (m.put1 k v).keepScrub = m.keepScrub := rfl
@[simp] theorem Mach.put1_evac (m : Mach) (k : Nat) (v : Nonet) : (m.put1 k v).evac = m.evac := rfl
@[simp] theorem Mach.put1_xchg (m : Mach) (k : Nat) (v : Nonet) : (m.put1 k v).xchg = m.xchg := rfl
@[simp] theorem Mach.put1_oldVecs (m : Mach) (k : Nat) (v : Nonet) : (m.put1 k v).oldVecs = m.oldVecs := rfl
@[simp] theorem Mach.put1_paceLow (m : Mach) (k : Nat) (v : Nonet) : (m.put1 k v).paceLow = m.paceLow := rfl
@[simp] theorem Mach.put1_dict (m : Mach) (k : Nat) (v : Nonet) : (m.put1 k v).dict = m.dict := rfl
@[simp] theorem Mach.put1_helpq (m : Mach) (k : Nat) (v : Nonet) : (m.put1 k v).helpq = m.helpq := rfl
@[simp] theorem Mach.put1_shovs (m : Mach) (k : Nat) (v : Nonet) : (m.put1 k v).shovs = m.shovs := rfl
@[simp] theorem Mach.put1_rdata (m : Mach) (k : Nat) (v : Nonet) : (m.put1 k v).rdata = m.rdata := rfl
@[simp] theorem Mach.put1_free (m : Mach) (k : Nat) (v : Nonet) : (m.put1 k v).free = m.free := rfl
@[simp] theorem Mach.put1_thr_of (m : Mach) (k : Nat) (v : Nonet) (t' : Tid) : (m.put1 k v).thr t' = m.thr t' := rfl
@[simp] theorem Mach.put1_lock_of (m : Mach) (k : Nat) (v : Nonet) (p' : Nat) : (m.put1 k v).lock p' = m.lock p' := rfl
@[simp] theorem Mach.put1_core_of (m : Mach) (k : Nat) (v : Nonet) (k' : Nat) : (m.put1 k v).core k' = m.core k' := rfl
@[simp] theorem Mach.put1_iq_of (m : Mach) (k : Nat) (v : Nonet) (q' : Nat) : (m.put1 k v).iq q' = m.iq q' := rfl
@[simp] theorem Mach.put1_eq_of (m : Mach) (k : Nat) (v : Nonet) (q' : Nat) : (m.put1 k v).eq q' = m.eq q' := rfl
@[simp] theorem Mach.put1_gate_of (m : Mach) (k : Nat) (v : Nonet) (d' : Nat) : (m.put1 k v).gate d' = m.gate d' := rfl
@[simp] theorem Mach.put1_bol_of (m : Mach) (k : Nat) (v : Nonet) (b' : Nat) : (m.put1 k v).bol b' = m.bol b' := rfl
@[simp] theorem Mach.put1_shape_of (m : Mach) (k : Nat) (v : Nonet) (q' : Nat) : (m.put1 k v).shape q' = m.shape q' := rfl
@[simp] theorem Mach.put1_link_of (m : Mach) (k : Nat) (v : Nonet) (k' : Nat) : (m.put1 k v).link k' = m.link k' := rfl
@[simp] theorem Mach.put1_rget_of (m : Mach) (k : Nat) (v : Nonet) (r' : RegRef) : (m.put1 k v).rget r' = m.rget r' := rfl
@[simp] theorem Mach.put1_r_of (m : Mach) (k : Nat) (v : Nonet) (a' : Reg) (i' : Nat) : (m.put1 k v).r a' i' = m.r a' i' := rfl
@[simp] theorem Mach.put1_ru_of (m : Mach) (k : Nat) (v : Nonet) (a' : Reg) (u' i' : Nat) : (m.put1 k v).ru a' u' i' = m.ru a' u' i' := rfl
@[simp] theorem Mach.put1_cntKey_of (m : Mach) (k : Nat) (v : Nonet) (k' : Nat) : (m.put1 k v).cntKey k' = m.cntKey k' := rfl
@[simp] theorem Mach.put1_eccOf_of (m : Mach) (k : Nat) (v : Nonet) (k' : Nat) : (m.put1 k v).eccOf k' = m.eccOf k' := rfl
@[simp] theorem Mach.put1_isOn_of (m : Mach) (k : Nat) (v : Nonet) (k' : Nat) : (m.put1 k v).isOn k' = m.isOn k' := rfl

/-! ### `setEcc` -/

@[simp] theorem Mach.setEcc_regs (m : Mach) (k : Nat) (v : BitVec 2) : (m.setEcc k v).regs = m.regs := rfl
@[simp] theorem Mach.setEcc_mem (m : Mach) (k : Nat) (v : BitVec 2) : (m.setEcc k v).mem = m.mem := rfl
@[simp] theorem Mach.setEcc_counts (m : Mach) (k : Nat) (v : BitVec 2) : (m.setEcc k v).counts = m.counts := rfl
@[simp] theorem Mach.setEcc_threads (m : Mach) (k : Nat) (v : BitVec 2) : (m.setEcc k v).threads = m.threads := rfl
@[simp] theorem Mach.setEcc_locks (m : Mach) (k : Nat) (v : BitVec 2) : (m.setEcc k v).locks = m.locks := rfl
@[simp] theorem Mach.setEcc_cores (m : Mach) (k : Nat) (v : BitVec 2) : (m.setEcc k v).cores = m.cores := rfl
@[simp] theorem Mach.setEcc_iqs (m : Mach) (k : Nat) (v : BitVec 2) : (m.setEcc k v).iqs = m.iqs := rfl
@[simp] theorem Mach.setEcc_eqs (m : Mach) (k : Nat) (v : BitVec 2) : (m.setEcc k v).eqs = m.eqs := rfl
@[simp] theorem Mach.setEcc_gates (m : Mach) (k : Nat) (v : BitVec 2) : (m.setEcc k v).gates = m.gates := rfl
@[simp] theorem Mach.setEcc_doms (m : Mach) (k : Nat) (v : BitVec 2) : (m.setEcc k v).doms = m.doms := rfl
@[simp] theorem Mach.setEcc_bollards (m : Mach) (k : Nat) (v : BitVec 2) : (m.setEcc k v).bollards = m.bollards := rfl
@[simp] theorem Mach.setEcc_links (m : Mach) (k : Nat) (v : BitVec 2) : (m.setEcc k v).links = m.links := rfl
@[simp] theorem Mach.setEcc_waybill (m : Mach) (k : Nat) (v : BitVec 2) : (m.setEcc k v).waybill = m.waybill := rfl
@[simp] theorem Mach.setEcc_sealU (m : Mach) (k : Nat) (v : BitVec 2) : (m.setEcc k v).sealU = m.sealU := rfl
@[simp] theorem Mach.setEcc_sluice (m : Mach) (k : Nat) (v : BitVec 2) : (m.setEcc k v).sluice = m.sluice := rfl
@[simp] theorem Mach.setEcc_tb (m : Mach) (k : Nat) (v : BitVec 2) : (m.setEcc k v).tb = m.tb := rfl
@[simp] theorem Mach.setEcc_host (m : Mach) (k : Nat) (v : BitVec 2) : (m.setEcc k v).host = m.host := rfl
@[simp] theorem Mach.setEcc_d0 (m : Mach) (k : Nat) (v : BitVec 2) : (m.setEcc k v).d0 = m.d0 := rfl
@[simp] theorem Mach.setEcc_keep (m : Mach) (k : Nat) (v : BitVec 2) : (m.setEcc k v).keep = m.keep := rfl
@[simp] theorem Mach.setEcc_keepScrub (m : Mach) (k : Nat) (v : BitVec 2) : (m.setEcc k v).keepScrub = m.keepScrub := rfl
@[simp] theorem Mach.setEcc_evac (m : Mach) (k : Nat) (v : BitVec 2) : (m.setEcc k v).evac = m.evac := rfl
@[simp] theorem Mach.setEcc_xchg (m : Mach) (k : Nat) (v : BitVec 2) : (m.setEcc k v).xchg = m.xchg := rfl
@[simp] theorem Mach.setEcc_oldVecs (m : Mach) (k : Nat) (v : BitVec 2) : (m.setEcc k v).oldVecs = m.oldVecs := rfl
@[simp] theorem Mach.setEcc_paceLow (m : Mach) (k : Nat) (v : BitVec 2) : (m.setEcc k v).paceLow = m.paceLow := rfl
@[simp] theorem Mach.setEcc_dict (m : Mach) (k : Nat) (v : BitVec 2) : (m.setEcc k v).dict = m.dict := rfl
@[simp] theorem Mach.setEcc_helpq (m : Mach) (k : Nat) (v : BitVec 2) : (m.setEcc k v).helpq = m.helpq := rfl
@[simp] theorem Mach.setEcc_shovs (m : Mach) (k : Nat) (v : BitVec 2) : (m.setEcc k v).shovs = m.shovs := rfl
@[simp] theorem Mach.setEcc_rdata (m : Mach) (k : Nat) (v : BitVec 2) : (m.setEcc k v).rdata = m.rdata := rfl
@[simp] theorem Mach.setEcc_free (m : Mach) (k : Nat) (v : BitVec 2) : (m.setEcc k v).free = m.free := rfl
@[simp] theorem Mach.setEcc_thr_of (m : Mach) (k : Nat) (v : BitVec 2) (t' : Tid) : (m.setEcc k v).thr t' = m.thr t' := rfl
@[simp] theorem Mach.setEcc_lock_of (m : Mach) (k : Nat) (v : BitVec 2) (p' : Nat) : (m.setEcc k v).lock p' = m.lock p' := rfl
@[simp] theorem Mach.setEcc_core_of (m : Mach) (k : Nat) (v : BitVec 2) (k' : Nat) : (m.setEcc k v).core k' = m.core k' := rfl
@[simp] theorem Mach.setEcc_iq_of (m : Mach) (k : Nat) (v : BitVec 2) (q' : Nat) : (m.setEcc k v).iq q' = m.iq q' := rfl
@[simp] theorem Mach.setEcc_eq_of (m : Mach) (k : Nat) (v : BitVec 2) (q' : Nat) : (m.setEcc k v).eq q' = m.eq q' := rfl
@[simp] theorem Mach.setEcc_gate_of (m : Mach) (k : Nat) (v : BitVec 2) (d' : Nat) : (m.setEcc k v).gate d' = m.gate d' := rfl
@[simp] theorem Mach.setEcc_bol_of (m : Mach) (k : Nat) (v : BitVec 2) (b' : Nat) : (m.setEcc k v).bol b' = m.bol b' := rfl
@[simp] theorem Mach.setEcc_shape_of (m : Mach) (k : Nat) (v : BitVec 2) (q' : Nat) : (m.setEcc k v).shape q' = m.shape q' := rfl
@[simp] theorem Mach.setEcc_link_of (m : Mach) (k : Nat) (v : BitVec 2) (k' : Nat) : (m.setEcc k v).link k' = m.link k' := rfl
@[simp] theorem Mach.setEcc_rget_of (m : Mach) (k : Nat) (v : BitVec 2) (r' : RegRef) : (m.setEcc k v).rget r' = m.rget r' := rfl
@[simp] theorem Mach.setEcc_r_of (m : Mach) (k : Nat) (v : BitVec 2) (a' : Reg) (i' : Nat) : (m.setEcc k v).r a' i' = m.r a' i' := rfl
@[simp] theorem Mach.setEcc_ru_of (m : Mach) (k : Nat) (v : BitVec 2) (a' : Reg) (u' i' : Nat) : (m.setEcc k v).ru a' u' i' = m.ru a' u' i' := rfl
@[simp] theorem Mach.setEcc_cntKey_of (m : Mach) (k : Nat) (v : BitVec 2) (k' : Nat) : (m.setEcc k v).cntKey k' = m.cntKey k' := rfl
@[simp] theorem Mach.setEcc_mem1_of (m : Mach) (k : Nat) (v : BitVec 2) (k' : Nat) : (m.setEcc k v).mem1 k' = m.mem1 k' := rfl
@[simp] theorem Mach.setEcc_isOn_of (m : Mach) (k : Nat) (v : BitVec 2) (k' : Nat) : (m.setEcc k v).isOn k' = m.isOn k' := rfl

/-! ## What each update sets -/

@[simp] theorem Mach.setThr_thr_self (m : Mach) (t : Tid) (x : Thread) : (m.setThr t x).thr t = x := mget_mset_self ..
@[simp] theorem Mach.updThr_thr_self (m : Mach) (t : Tid) (f : Thread → Thread) : (m.updThr t f).thr t = f (m.thr t) :=
  mget_mset_self ..
theorem Mach.setThr_thr_ne (m : Mach) {t u : Tid} (x : Thread) (h : u ≠ t) : (m.setThr t x).thr u = m.thr u :=
  mget_mset_ne _ _ _ _ fun e => h (BitVec.eq_of_toNat_eq e)
theorem Mach.updThr_thr_ne (m : Mach) {t u : Tid} (f : Thread → Thread) (h : u ≠ t) : (m.updThr t f).thr u = m.thr u :=
  m.setThr_thr_ne _ h
@[simp] theorem Mach.updLock_lock_self (m : Mach) (p : Nat) (f : Lock → Lock) : (m.updLock p f).lock p = f (m.lock p) :=
  mget_mset_self ..
theorem Mach.updLock_lock_ne (m : Mach) {p i : Nat} (f : Lock → Lock) (h : i ≠ p) : (m.updLock p f).lock i = m.lock i :=
  mget_mset_ne _ _ _ _ h
@[simp] theorem Mach.updCore_core_self (m : Mach) (k : Nat) (f : Core → Core) : (m.updCore k f).core k = f (m.core k) :=
  mget_mset_self ..
theorem Mach.updCore_core_ne (m : Mach) {k i : Nat} (f : Core → Core) (h : i ≠ k) : (m.updCore k f).core i = m.core i :=
  mget_mset_ne _ _ _ _ h
@[simp] theorem Mach.updIq_iq_self (m : Mach) (q : Nat) (f : Iq → Iq) : (m.updIq q f).iq q = f (m.iq q) :=
  mget_mset_self ..
theorem Mach.updIq_iq_ne (m : Mach) {q i : Nat} (f : Iq → Iq) (h : i ≠ q) : (m.updIq q f).iq i = m.iq i :=
  mget_mset_ne _ _ _ _ h
@[simp] theorem Mach.updEq_eq_self (m : Mach) (q : Nat) (f : Eq → Eq) : (m.updEq q f).eq q = f (m.eq q) :=
  mget_mset_self ..
theorem Mach.updEq_eq_ne (m : Mach) {q i : Nat} (f : Eq → Eq) (h : i ≠ q) : (m.updEq q f).eq i = m.eq i :=
  mget_mset_ne _ _ _ _ h
@[simp] theorem Mach.updGate_gate_self (m : Mach) (d : Nat) (f : Gate → Gate) : (m.updGate d f).gate d = f (m.gate d) :=
  mget_mset_self ..
theorem Mach.updGate_gate_ne (m : Mach) {d i : Nat} (f : Gate → Gate) (h : i ≠ d) : (m.updGate d f).gate i = m.gate i :=
  mget_mset_ne _ _ _ _ h
@[simp] theorem Mach.updBol_bol_self (m : Mach) (b : Nat) (f : Bollard → Bollard) : (m.updBol b f).bol b = f (m.bol b) :=
  mget_mset_self ..
theorem Mach.updBol_bol_ne (m : Mach) {b i : Nat} (f : Bollard → Bollard) (h : i ≠ b) : (m.updBol b f).bol i = m.bol i :=
  mget_mset_ne _ _ _ _ h
@[simp] theorem Mach.updShape_shape_self (m : Mach) (q : Nat) (f : Shape → Shape) : (m.updShape q f).shape q = f (m.shape q) :=
  mget_mset_self ..
theorem Mach.updShape_shape_ne (m : Mach) {q i : Nat} (f : Shape → Shape) (h : i ≠ q) : (m.updShape q f).shape i = m.shape i :=
  mget_mset_ne _ _ _ _ h
@[simp] theorem Mach.updLink_link_self (m : Mach) (k : Nat) (f : Link → Link) : (m.updLink k f).link k = f (m.link k) :=
  mget_mset_self ..
theorem Mach.updLink_link_ne (m : Mach) {k i : Nat} (f : Link → Link) (h : i ≠ k) : (m.updLink k f).link i = m.link i :=
  mget_mset_ne _ _ _ _ h
@[simp] theorem Mach.rset_rget_self (m : Mach) (r : RegRef) (v : Cell) : (m.rset r v).rget r = v := mget_mset_self ..
theorem Mach.rset_rget_ne (m : Mach) {r q : RegRef} (v : Cell) (h : q.key ≠ r.key) : (m.rset r v).rget q = m.rget q :=
  mget_mset_ne _ _ _ _ h
@[simp] theorem Mach.w_r_self (m : Mach) (a : Reg) (v : Cell) (i : Nat) : (m.w a v i).r a i = v := mget_mset_self ..
@[simp] theorem Mach.wu_ru_self (m : Mach) (a : Reg) (u : Nat) (v : Cell) (i : Nat) : (m.wu a u v i).ru a u i = v := mget_mset_self ..
@[simp] theorem Mach.put1_mem1_self (m : Mach) (k : Nat) (v : Nonet) : (m.put1 k v).mem1 k = v := mget_mset_self ..
theorem Mach.put1_mem1_ne (m : Mach) {k j : Nat} (v : Nonet) (h : j ≠ k) : (m.put1 k v).mem1 j = m.mem1 j := mget_mset_ne _ _ _ _ h
@[simp] theorem Mach.addKey_cntKey_self (m : Mach) (k n : Nat) : (m.addKey k n).cntKey k = m.cntKey k + BitVec.ofNat 36 n :=
  mget_mset_self ..
theorem Mach.addKey_cntKey_ne (m : Mach) {k j : Nat} (n : Nat) (h : j ≠ k) : (m.addKey k n).cntKey j = m.cntKey j :=
  mget_mset_ne _ _ _ _ h
@[simp] theorem Mach.take_free (m : Mach) : m.take.free = m.free + 1 := rfl

end Sys2Proof.Machine
end

