-- ==== Sys2Proof/Laws/Memory.lean ====
section
/-!
SUPPORT. Memory keeps its canonical form: `Memory.wf` holds after reset and after every operation that writes memory, and what an
operation writes reads back.
-/
namespace Sys2Proof.Machine

theorem reset_wf : Memory.wf Mach.reset.mem = true := rfl

/-! ## Folds -/

theorem foldl_mem {α : Type} (f : Mach → α → Mach) (h : ∀ n x, (f n x).mem = n.mem) (l : List α) (m : Mach) :
    (l.foldl f m).mem = m.mem := by
  induction l generalizing m with
  | nil => rfl
  | cons x r ih => rw [List.foldl_cons, ih, h]

theorem foldl_wf {α : Type} (f : Mach → α → Mach) (h : ∀ n x, Memory.wf n.mem = true → Memory.wf (f n x).mem = true) (l : List α)
    (m : Mach) (hm : Memory.wf m.mem = true) : Memory.wf (l.foldl f m).mem = true := by
  induction l generalizing m with
  | nil => exact hm
  | cons x r ih => exact ih _ (h _ _ hm)

/-! ## One nonet -/

@[simp] theorem put1_wf (m : Mach) (k : Nat) (v : Nonet) (h : Memory.wf m.mem = true) : Memory.wf (m.put1 k v).mem = true :=
  mwf_mset (fun _ => 0) m.mem k v h

@[simp] theorem putKey_wf (m : Mach) (k : Nat) (v : Nonet) (b : Bool) (h : Memory.wf m.mem = true) :
    Memory.wf (m.putKey k v b).mem = true := by
  unfold Mach.putKey; simp only; split
  · simp [h]
  · split <;> simp [h]

@[simp] theorem breakResv_mem (m : Mach) (g : Nat) (but : Option Tid) : (m.breakResv g but).mem = m.mem := rfl

@[simp] theorem putBasin_wf (m : Mach) (p off : Nat) (v : Nonet) (b : Bool) (h : Memory.wf m.mem = true) :
    Memory.wf (m.putBasin p off v b).mem = true := by
  unfold Mach.putBasin
  split <;> split <;> simp [h]

@[simp] theorem wr1_wf (m : Mach) (p : Place) (v : Nonet) (b : Bool) (but : Option Tid) (h : Memory.wf m.mem = true) :
    Memory.wf (m.wr1 p v b but).mem = true := by
  unfold Mach.wr1
  split
  · simp only; split <;> simp [h]
  · simp only; split <;> simp [h]
  · split <;> simp [h]
  · exact h

@[simp] theorem dumpCause_mem (m : Mach) (c : Nat) (v : Dbl) : (m.dumpCause c v).mem = m.mem := by
  unfold Mach.dumpCause; split <;> rfl

@[simp] theorem scrubWord_mem (m : Mach) (p b row : Nat) : (m.scrubWord p b row).mem = m.mem := by
  unfold Mach.scrubWord; simp only; split
  · rfl
  · split <;> simp

@[simp] theorem note1_mem (m : Mach) (p : Place) : (m.note1 p).mem = m.mem := by
  unfold Mach.note1; split
  · rfl
  · simp only; split
    · rfl
    · split <;> (repeat' split) <;> simp

@[simp] theorem notePart_mem (m : Mach) (t : Option Tid) (a n : Nat) : (m.notePart t a n).mem = m.mem := by
  unfold Mach.notePart; exact foldl_mem _ (fun n x => by split <;> simp) _ _

/-- What `putKey` writes reads back, and no other nonet changes. -/
theorem putKey_mem1 (m : Mach) (k j : Nat) (v : Nonet) (b : Bool) : (m.putKey k v b).mem1 j = if j = k then v else m.mem1 j := by
  have h : (m.put1 k v).mem1 j = if j = k then v else m.mem1 j := mget_mset ..
  unfold Mach.putKey; simp only; split
  · exact h
  · split <;> exact h

/-! ## Many nonets -/

@[simp] theorem wrN_wf (m : Mach) (t : Option Tid) (a : Nat) (vs : List Nonet) (but : Option Tid) (h : Memory.wf m.mem = true) :
    Memory.wf (m.wrN t a vs but).mem = true := by
  unfold Mach.wrN; exact foldl_wf _ (fun n x hn => by simp [hn]) _ _ (by simp [h])

@[simp] theorem wrCell_wf (m : Mach) (t : Option Tid) (a : Nat) (v : Cell) (h : Memory.wf m.mem = true) :
    Memory.wf (m.wrCell t a v).mem = true := wrN_wf _ _ _ _ _ h
@[simp] theorem wrDbl_wf (m : Mach) (t : Option Tid) (a : Nat) (v : Dbl) (h : Memory.wf m.mem = true) :
    Memory.wf (m.wrDbl t a v).mem = true := wrN_wf _ _ _ _ _ h
@[simp] theorem wrCells_wf (m : Mach) (t : Tid) (a : Nat) (cs : List Cell) (h : Memory.wf m.mem = true) :
    Memory.wf (m.wrCells t a cs).mem = true := wrN_wf _ _ _ _ _ h

@[simp] theorem putFlit_mem (m : Mach) (t : Tid) (p : Nat) (r : BitVec 3) (n : Nat) : (m.putFlit t p r n).mem = m.mem := rfl
@[simp] theorem flitAs_mem (m : Mach) (t : Tid) (a : Nat) (r : BitVec 3) (n : Nat) : (m.flitAs t a r n).mem = m.mem := by
  unfold Mach.flitAs; split <;> simp
@[simp] theorem flitTo_mem (m : Mach) (t : Tid) (a : Nat) : (m.flitTo t a).mem = m.mem := flitAs_mem ..

@[simp] theorem loadsBefore_mem (m : Mach) (t : Tid) (a n : Nat) : (m.loadsBefore t a n).mem = m.mem := rfl
@[simp] theorem wrThr_wf (m : Mach) (t : Tid) (a : Nat) (vs : List Nonet) (h : Memory.wf m.mem = true) :
    Memory.wf (m.wrThr t a vs).mem = true := wrN_wf _ _ _ _ _ (by simpa using h)

@[simp] theorem storeMem_wf (m : Mach) (t : Tid) (e : SbEntry) (h : Memory.wf m.mem = true) : Memory.wf (m.storeMem t e).mem = true := by
  unfold Mach.storeMem; split <;> simp [h]

/-! ## Whole banks and pages -/

@[simp] theorem zeroWhere_wf (m : Mach) (f : Nat → Bool) (h : Memory.wf m.mem = true) : Memory.wf (m.zeroWhere f).mem = true :=
  mwf_filter _ _ _ h

theorem porstLow_wf (m : Mach) (h : Memory.wf m.mem = true) : Memory.wf m.porstLow.mem = true := mwf_filter _ _ _ h

@[simp] theorem copyBank_wf (m : Mach) (p a b : Nat) (h : Memory.wf m.mem = true) : Memory.wf (m.copyBank p a b).mem = true := by
  unfold Mach.copyBank
  rw [foldl_mem _ (fun n x => by simp only; split <;> simp)]
  exact foldl_wf _ (fun n x hn => by simp [hn]) _ _ (by simp [h])

@[simp] theorem copyBasin_wf (m : Mach) (v s : Nat) (h : Memory.wf m.mem = true) : Memory.wf (m.copyBasin v s).mem = true := by
  unfold Mach.copyBasin
  rw [foldl_mem _ (fun n x => by simp only; split <;> simp)]
  exact foldl_wf _ (fun n x hn => by simp [hn]) _ _ (by simp [h])

@[simp] theorem mirrorStow_wf (m : Mach) (h : Memory.wf m.mem = true) : Memory.wf m.mirrorStow.mem = true := by
  unfold Mach.mirrorStow
  rw [foldl_mem _ (fun n x => by simp)]
  exact foldl_wf _ (fun n x hn => by simp [hn]) _ _ (by simp [h])

@[simp] theorem keepPut_wf (m : Mach) (off : Nat) (w : List Nonet) (h : Memory.wf m.mem = true) : Memory.wf (m.keepPut off w).mem = true := by
  unfold Mach.keepPut
  simp only [Mach.count_mem, Mach.setEcc_mem]
  exact foldl_wf _ (fun n x hn => by simp [hn]) _ _ h

@[simp] theorem lcPut_wf (m : Mach) (c w : Nat) (ns : List Nonet) (h : Memory.wf m.mem = true) : Memory.wf (m.lcPut c w ns).mem = true := by
  unfold Mach.lcPut
  exact foldl_wf _ (fun n x hn => by simp [hn]) _ _ h

end Sys2Proof.Machine
end

