-- ==== Sys2Proof/Laws/Registers.lean ====
section
/-!
SUPPORT. What the two shared forms of a register command do: the register that takes the write stores it, the register of a domain
that is on is read; and which unit's operation a write or a read is.
-/
namespace Sys2Proof.Machine

/-! ## Writes -/

/-- A register that takes the write stores it. -/
theorem rowWrite_takes {s : State} {r : RegRef} {v : Cell} {who : Master} (h : Takes s who r) (h1 : r.reg ≠ .odCmd)
    (h2 : ¬(r.reg.info.space = .core ∧ 272 ≤ r.unit ∧ r.reg.isWl = false)) :
    rowWrite s r v who = s.becomes (s.m.regStore r v who) := by
  unfold rowWrite
  rw [if_neg (by simp only [h.2.2]; simpa using h2)]
  simp [done, State.becomes, Mach.regWrite, h.1, h.2.1, h1, Mach.regWrite1]

/-- A register of a domain that is off takes no write. -/
theorem rowWrite_off {s : State} {r : RegRef} {v : Cell} {who : Master} (h : s.m.isOn r.domain = false) :
    rowWrite s r v who = s.becomes s.m := by
  unfold rowWrite
  split <;> simp [done, State.becomes, Mach.regWrite, h]

/-- A register that does not accept the master's writes leaves the block as it was but for a count. -/
theorem rowWrite_refused {s : State} {r : RegRef} {v : Cell} {who : Master} (h : s.m.isOn r.domain = true)
    (hw : s.m.mayWrite r who = false) (hn : s.m.narrowed r who true = false) (h1 : r.reg ≠ .odCmd)
    (h2 : ¬(r.reg.info.space = .core ∧ 272 ≤ r.unit ∧ r.reg.isWl = false)) :
    rowWrite s r v who = s.becomes (s.m.refusedWrite r who) := by
  unfold rowWrite
  rw [if_neg (by simp only [hn]; simpa using h2)]
  simp [done, State.becomes, Mach.regWrite, h, hw, h1, Mach.regWrite1]

theorem refusedWrite_frame (m : Mach) (r : RegRef) (who : Master) :
    (∀ q : RegRef, q.key ≠ 0x80A0200 → (m.refusedWrite r who).rget q = m.rget q) ∧ (m.refusedWrite r who).mem = m.mem ∧
      (m.refusedWrite r who).threads = m.threads := by
  unfold Mach.refusedWrite; simp only; split <;> split <;> (try split) <;> simp [Mach.lcCode]
  all_goals exact fun q hq => Mach.rset_rget_ne _ _ hq

/-! ## Which unit's operation -/

theorem regStore_lock {r : RegRef} (h : r.reg.info.space ≠ .abs) (m : Mach) (v : Cell) (who : Master) :
    m.regStore r v who = m.lockWrite r v who := if_pos h
theorem regStore_blk {r : RegRef} (h : r.reg.info.space = .abs) (h1 : r.key < 0x8010000) (m : Mach) (v : Cell) (who : Master) :
    m.regStore r v who = m.blkWrite r v who := by unfold Mach.regStore; rw [if_neg (by simp [h])]; exact if_pos h1
theorem regStore_quay {r : RegRef} (h : r.reg.info.space = .abs) (h1 : 0x8010000 ≤ r.key) (h2 : r.key < 0x8040000) (m : Mach) (v : Cell)
    (who : Master) : m.regStore r v who = m.quayWrite r v := by
  unfold Mach.regStore; rw [if_neg (by simp [h])]; simp only; rw [if_neg (by omega), if_pos h2]
theorem regStore_slu {r : RegRef} (h : r.reg.info.space = .abs) (h1 : 0x8040000 ≤ r.key) (h2 : r.key < 0x8050000) (m : Mach) (v : Cell)
    (who : Master) : m.regStore r v who = m.sluWrite r v := by
  unfold Mach.regStore; rw [if_neg (by simp [h])]; simp only; rw [if_neg (by omega), if_neg (by omega), if_pos h2]
theorem regStore_helper {r : RegRef} (h : r.reg.info.space = .abs) (h1 : 0x8050000 ≤ r.key) (h2 : r.key < 0x8080000) (m : Mach)
    (v : Cell) (who : Master) : m.regStore r v who = m.helperWrite r v := by
  unfold Mach.regStore; rw [if_neg (by simp [h])]; simp only
  rw [if_neg (by omega), if_neg (by omega), if_neg (by omega), if_pos h2]
theorem regStore_ctl {r : RegRef} (h : r.reg.info.space = .abs) (h1 : 0x8080000 ≤ r.key) (m : Mach) (v : Cell) (who : Master) :
    m.regStore r v who = m.ctlWrite r v who := by
  unfold Mach.regStore; rw [if_neg (by simp [h])]; simp only
  rw [if_neg (by omega), if_neg (by omega), if_neg (by omega), if_neg (by omega)]

/-- A plain write changes its own register alone. -/
theorem plainWrite_rget_ne (m : Mach) {r q : RegRef} (v : Cell) (h : q.key ≠ r.key) : (m.plainWrite r v).rget q = m.rget q :=
  m.rset_rget_ne _ h
theorem plainWrite_mem (m : Mach) (r : RegRef) (v : Cell) : (m.plainWrite r v).mem = m.mem := rfl
theorem plainWrite_threads (m : Mach) (r : RegRef) (v : Cell) : (m.plainWrite r v).threads = m.threads := rfl

/-! ## Reads -/

/-- A register that answers is read. -/
theorem rowRead_on {s : State} {r : RegRef} {who : Master} (h : Answers s who r)
    (h2 : ¬(r.reg.info.space = .core ∧ 272 ≤ r.unit ∧ r.reg.isWl = false)) :
    rowRead s r who = s.reads (s.m.regFetch r who (s.m.quiet who)).1 (s.m.regFetch r who (s.m.quiet who)).2 := by
  unfold rowRead
  rw [if_neg (by simp only [h.2]; simpa using h2)]
  simp [done, State.reads, State.becomes, Mach.keepRead, Mach.regRead, h.1]

/-- A register of a domain that is off reads zero. -/
theorem rowRead_off {s : State} {r : RegRef} {who : Master} (h : s.m.isOn r.domain = false) : rowRead s r who = s.reads s.m 0 := by
  unfold rowRead
  split <;> simp [done, State.reads, State.becomes, Mach.keepRead, Mach.regRead, h]

end Sys2Proof.Machine
end

