-- ==== Sys2Proof/Laws/Thread.lean ====
section
/-!
SUPPORT. What the shared forms of a thread's instruction do when the thread issues it: one lemma for each form.
-/
namespace Sys2Proof.Machine

/-- The core's choice changes no thread. -/
@[simp] theorem Mach.chosen_thr (m : Mach) (t u : Tid) : (m.chosen t).thr u = m.thr u := rfl

@[simp] theorem Mach.chosen_ru (m : Mach) (t : Tid) (a : Reg) (i j : Nat) : (m.chosen t).ru a i j = m.ru a i j := rfl
@[simp] theorem Mach.chosen_r (m : Mach) (t : Tid) (a : Reg) (i : Nat) : (m.chosen t).r a i = m.r a i := rfl
@[simp] theorem Mach.chosen_base (m : Mach) (t u : Tid) : (m.chosen t).base u = m.base u := rfl
@[simp] theorem Mach.chosen_blockFault (m : Mach) (t u : Tid) (a b c d) : (m.chosen t).blockFault u a b c d = m.blockFault u a b c d := rfl
@[simp] theorem Mach.chosen_shovTarget (m : Mach) (t u : Tid) (a) : (m.chosen t).shovTarget u a  = m.shovTarget u a := rfl
@[simp] theorem Mach.chosen_bol (m : Mach) (t : Tid) (a) : (m.chosen t).bol a  = m.bol a := rfl
@[simp] theorem Mach.chosen_lock (m : Mach) (t : Tid) (a) : (m.chosen t).lock a  = m.lock a := rfl
@[simp] theorem Mach.chosen_refOf (m : Mach) (t u : Tid) : (m.chosen t).refOf u  = m.refOf u := rfl
@[simp] theorem Mach.chosen_place (m : Mach) (t : Tid) (u a) : (m.chosen t).place u a  = m.place u a := rfl
@[simp] theorem Mach.chosen_rdCell (m : Mach) (t : Tid) (u a) : (m.chosen t).rdCell u a  = m.rdCell u a := rfl
@[simp] theorem Mach.chosen_rdN (m : Mach) (t : Tid) (u a n) : (m.chosen t).rdN u a n  = m.rdN u a n := rfl

/-- The core's choice changes nothing of a core but the thread selected last. -/
theorem Mach.chosen_core (m : Mach) (t : Tid) (k : Nat) :
    (m.chosen t).core k = { m.core k with last := if k = Tid.coreNo t then BitVec.ofNat 3 (Tid.num t) else (m.core k).last } := by
  rcases eq_or_ne k (Tid.coreNo t) with h | h
  · subst h; simp [Mach.chosen, Mach.updCore, Mach.core]
  · rw [if_neg h]; exact mget_mset_ne _ _ _ _ h
@[simp] theorem Mach.chosen_fbOn (m : Mach) (t : Tid) : (m.chosen t).fbOn = m.fbOn := rfl
@[simp] theorem Mach.chosen_usesReserved (m : Mach) (t u : Tid) : (m.chosen t).usesReserved u = m.usesReserved u := rfl
@[simp] theorem Mach.chosen_eff (m : Mach) (t u : Tid) : (m.chosen t).eff u = m.eff u := rfl
@[simp] theorem Mach.chosen_rank (m : Mach) (t u : Tid) : (m.chosen t).rank u = m.rank u := rfl
@[simp] theorem Mach.chosen_coreRuns (m : Mach) (t u : Tid) : (m.chosen t).coreRuns u = m.coreRuns u := rfl
@[simp] theorem Mach.chosen_fetchBad (m : Mach) (t : Tid) (k a : Nat) : ((m.chosen t).core k).fetchBad a = (m.core k).fetchBad a := by
  rw [Mach.chosen_core]; rfl
@[simp] theorem Mach.chosen_ctxHeld (m : Mach) (t u : Tid) : (m.chosen t).ctxHeld u = m.ctxHeld u := by
  simp [Mach.ctxHeld, Mach.chosen_core]
@[simp] theorem Mach.chosen_stalledFor (m : Mach) (t u v : Tid) : (m.chosen t).stalledFor u v = m.stalledFor u v := by
  simp [Mach.stalledFor]
@[simp] theorem Mach.chosen_ctxBusy (m : Mach) (t u : Tid) : (m.chosen t).ctxBusy u = m.ctxBusy u := by
  rw [Mach.ctxBusy, Mach.chosen_ctxHeld]; simp only [chosen_stalledFor]; rfl
@[simp] theorem Mach.chosen_saveDue (m : Mach) (t u : Tid) : (m.chosen t).saveDue u = m.saveDue u := rfl
@[simp] theorem Mach.chosen_tallyFault (m : Mach) (t u : Tid) (a b) : (m.chosen t).tallyFault u a b = m.tallyFault u a b := rfl

/-- Where a thread issues, `select` performs the instruction. -/
theorem Mach.select_of_selects {s : State} {t : Tid} {f : Mach → Mach} (h : Selects s t) : s.m.select t f = f (s.m.chosen t) := by
  obtain ⟨_, h1, h2, h3, h4, h5⟩ := h
  simp [Mach.select, h1, h2, h3, h4, h5, Mach.chosen]

/-- Where a thread issues, `issue` performs the instruction. -/
theorem Mach.issue_of_issues {s : State} {t : Tid} {e : Effect} {f : Mach → Mach} (h : Issues s t e) :
    s.m.issue t e f = f (s.m.chosen t) := by
  rw [Mach.issue, Mach.select_of_selects h.1]
  simp [h.2]

/-- Where the context that a routine takes is free and its first word is good, the routine runs (R224, R295). -/
theorem Mach.routine_of_runs {m : Mach} {t : Tid} {n : Nat} {f : Mach → Mach} (h1 : m.ctxBusy t = false)
    (h2 : (m.core (Tid.coreNo t)).fetchBad n = false) : m.routine t n f = f m := by
  simp [Mach.routine, h1, h2]

/-- A command of a thread that exists. -/
theorem onThread_of_ok {s : State} {t : Tid} {f : Mach → Mach} (h : Tid.ok t = true) : onThread t s f = done s (f s.m) :=
  if_pos h

/-- Where the routine that a chosen thread takes may run, it runs. -/
theorem Mach.routine_of_chosen {s : State} {t : Tid} {n : Nat} {f : Mach → Mach} (h : Runs s t n) :
    (s.m.chosen t).routine t n f = f (s.m.chosen t) := Mach.routine_of_runs (by simp [h.1]) (by simp [h.2])

/-- A Tally syllable in a thread with no lazy save to make. -/
theorem Mach.withSave_of_done {m : Mach} {t : Tid} {f : Mach → Mach} (h : m.saveDue t = false) : m.withSave t f = f m := by
  simp [Mach.withSave, h]

/-- A routine begins with fewer than four transactions outstanding. -/
theorem Mach.begins_of_txns {m : Mach} {t : Tid} {f : Mach → Mach} (h : ((m.flushMem t).thr t).txns < 4) :
    m.begins t f = f (m.flushMem t) := if_neg (by omega)

/-- An instruction that selects its thread. -/
theorem select_ends {s : State} {t : Tid} {f : Mach → Mach} (h : Selects s t) :
    onThread t s (fun m => m.select t f) = .next { s with m := f (s.m.chosen t) } := by
  rw [onThread_of_ok h.1, Mach.select_of_selects h]; rfl

/-- An instruction that issues. -/
theorem issue_ends {s : State} {t : Tid} {e : Effect} {f : Mach → Mach} (h : Issues s t e) :
    onThread t s (fun m => m.issue t e f) = .next { s with m := f (s.m.chosen t) } := by
  rw [onThread_of_ok h.1.1, Mach.issue_of_issues h]; rfl

/-- An instruction that changes only its thread. -/
theorem plain_ends {s : State} {t : Tid} {e : Effect} {n : Nat} {f : Thread → Thread} (h : Issues s t e) :
    onThread t s (fun m => m.plain t e n f) = ends s t (f (s.m.thr t)) n := by
  rw [onThread_of_ok h.1.1, Mach.plain, Mach.issue_of_issues h]; rfl

/-- An instruction that changes only the active bank. -/
theorem onBank_ends {s : State} {t : Tid} {e : Effect} {f : Bank → Bank} (h : Issues s t e) :
    onThread t s (fun m => m.onBank t e f) = ends s t ((s.m.thr t).setBank (f (s.m.thr t).bank)) 1 :=
  plain_ends (f := fun x => x.setBank (f x.bank)) h

/-- An instruction that replaces its top cells. -/
theorem cells_ends {s : State} {t : Tid} {i o : Nat} {f : Bank → List Cell} (h : Issues s t (dEff i o)) :
    onThread t s (fun m => m.cells t i o f) =
      ends s t ((s.m.thr t).withDs (f (s.m.thr t).bank ++ (s.m.thr t).bank.ds.drop i)) 1 :=
  onBank_ends (f := fun b => { b with ds := f b ++ b.ds.drop i }) h

/-- An operation with one result cell. -/
theorem alu_ends {s : State} {t : Tid} {n : Nat} {f : Bank → AluOut 18} (h : Issues s t (dEff n 1)) :
    onThread t s (fun m => m.alu t n f) =
      ends s t ((s.m.thr t).withDsFlg ((f (s.m.thr t).bank).r :: (s.m.thr t).bank.ds.drop n)
        (setNzcv (s.m.thr t).bank.flg (f (s.m.thr t).bank))) 1 :=
  onBank_ends (f := fun b => { (b.pop n).push (f b).r with flg := setNzcv b.flg (f b) }) h

/-- An operation with one result double. -/
theorem aluD_ends {s : State} {t : Tid} {n : Nat} {f : Bank → AluOut 36} (h : Issues s t (dEff n 2)) :
    onThread t s (fun m => m.aluD t n f) =
      ends s t ((s.m.thr t).withDsFlg (Dbl.hi (f (s.m.thr t).bank).r :: Dbl.lo (f (s.m.thr t).bank).r ::
        (s.m.thr t).bank.ds.drop n) (setNzcv (s.m.thr t).bank.flg (f (s.m.thr t).bank))) 1 :=
  onBank_ends (f := fun b => { (b.pop n).pushD (f b).r with flg := setNzcv b.flg (f b) }) h

end Sys2Proof.Machine
end

