-- ==== Sys2Proof/Tests/Slice0.lean ====
section
/-!
SUPPORT. The model's own tests: a term that `wf` refuses for each of its checks, a state and operands that meet the hypotheses of each
statement, and small examples of the spec worked by hand.
-/
namespace Sys2Proof.Tests

open Sys2Proof.Machine

set_option Elab.async false

/-! ## Well-formedness: one ill-formed term for each check -/

theorem test_wf_thread : (Instr.nop 0x880).wf = false ∧ (Instr.nop 0x87F).wf = true ∧ (Instr.nop 0xF80).wf = true := by decide
theorem test_wf_tollkeeper : (Instr.add 0xF90).wf = false ∧ (Instr.add 0xF8F).wf = true := by decide
theorem test_wf_master : (Instr.tbSnap (.thread 0x900)).wf = false ∧ (Instr.tbSnap .debug).wf = true := by decide
theorem test_wf_via : (Instr.dbgHalt (.reg (.thread 0x900)) false false 0).wf = false := by decide
theorem test_wf_item : (Instr.ageStep (.thread 0x900)).wf = false ∧ (Instr.ageStep (.ticket 0x900 0)).wf = false := by decide
theorem test_wf_index : (Instr.threadReset .host .tk 8).wf = false ∧ (Instr.threadReset .host .tk 7).wf = true := by decide
theorem test_wf_march : (Instr.marchTestDone 0 [⟨true, 15, 31, 0⟩, ⟨false, 0, 17, 0⟩]).wf = false := by decide
/-- A header beat of a host request with OP, SPACE, TAG, LEN and ADDR (R351). -/
def header (op : BitVec 4) (space : BitVec 2) (tag len : BitVec 8) (addr : BitVec 48) (last : Bool) : HostBeat :=
  let d : BitVec 72 := op ++ space ++ 0#2 ++ tag ++ len ++ addr
  ⟨d, lanePar d, last⟩
theorem test_wf_op : (Instr.hostRead [header 1 0 0 0 0 true]).wf = false ∧ (Instr.hostRead [header 0 0 0 0 0 true]).wf = true ∧
    (Instr.hostRead [header 0 0 0 0 0 false]).wf = false ∧ (Instr.hostWritePosted [header 0 0 0 0 0 true]).wf = false ∧
    (Instr.hostWriteAnswered [header 2 0 0 0 0 true]).wf = false := by
  decide
theorem test_wf_wb : (Instr.wbBadcmd .host 5).wf = false ∧ (Instr.wbBadcmd .host 6).wf = true := by decide

/-! ## States -/

/-- A block in service: every domain on, both tollkeepers released, lock 0 serving. -/
def up : Mach :=
  { Mach.reset with
    d0 := { Mach.reset.d0 with
            porst := false, tkHeldA := false, tkHeldB := false, power := (List.range 24).map fun d => (d, Power.on) },
    locks := [(0, { Lock.off with state := .serving })] }

/-- The same block 100 s later. -/
def late : Mach := { up with tb := { up.tb with mono := 100000000000 } }

/-- A state with nothing waiting. -/
def st (m : Mach) : State := ⟨[], m⟩
/-- Thread 0 of lock 0 changed. -/
def one (f : Thread → Thread) : State := st (up.updThr 0 f)
/-- Thread 0 of lock 0 with a data stack. -/
def cells (ds : List Cell) : State := one fun x => x.setBank { x.bank with ds := ds }
/-- The same with A set. -/
def cellsA (a : DAddr) (ds : List Cell) : State := one fun x => x.setBank { x.bank with ds := ds, a := a }
/-- Thread 0 of lock 0 in deck. -/
def deck (f : Thread → Thread) : State := one fun x => f (x.setBank { x.bank with flg := 0 })

/-- `Issues` as a test. -/
def issuesB (s : State) (t : Tid) (e : Effect) : Bool :=
  Tid.ok t && s.m.ready t && !(s.m.thr t).heldByTally && !(s.m.thr t).stalledOnLoad && !s.m.outranked t &&
    decide ((s.m.thr t).park = .none) && ((s.m.thr t).stackErr e).isNone
/-- `Runs` as a test. -/
def runsB (s : State) (t : Tid) (n : Nat) : Bool := !s.m.ctxBusy t && !(s.m.core (Tid.coreNo t)).fetchBad n
/-- `Takes` as a test. -/
def takesB (s : State) (who : Master) (r : RegRef) : Bool := s.m.isOn r.domain && s.m.mayWrite r who && !s.m.narrowed r who true
/-- `Answers` as a test. -/
def answersB (s : State) (who : Master) (r : RegRef) : Bool := s.m.isOn r.domain && !s.m.narrowed r who false

theorem issues_of {s : State} {t : Tid} {e : Effect} (h : issuesB s t e = true) : Issues s t e := by
  simp only [issuesB, Bool.and_eq_true, Bool.not_eq_true', Option.isNone_iff_eq_none, decide_eq_true_eq] at h
  obtain ⟨⟨⟨⟨⟨⟨a, b⟩, c⟩, d⟩, e⟩, f⟩, g⟩ := h
  exact ⟨⟨a, b, c, d, e, f⟩, g⟩
theorem runs_of {s : State} {t : Tid} {n : Nat} (h : runsB s t n = true) : Runs s t n := by
  simpa [runsB, Runs] using h
theorem all_issue {s : State} {t : Tid} {es : List Effect} (h : es.all (issuesB s t) = true) : ∀ e ∈ es, Issues s t e :=
  fun e he => issues_of (List.all_eq_true.mp h e he)
theorem takes_of {s : State} {who : Master} {r : RegRef} (h : takesB s who r = true) : Takes s who r := by
  simpa [takesB, Takes, and_assoc] using h
theorem answers_of {s : State} {who : Master} {r : RegRef} (h : answersB s who r = true) : Answers s who r := by
  simpa [answersB, Answers] using h
theorem all_take {s : State} {who : Master} {rs : List RegRef} (h : rs.all (takesB s who) = true) : ∀ r ∈ rs, Takes s who r :=
  fun r hr => takes_of (List.all_eq_true.mp h r hr)

/-! ## Hypotheses met: queue, memory and stack -/

theorem witness_QueueInvariant : (∀ c ∈ [Instr.nop 0, .tbSnap .host], c.wf = true) ∧ 1 ≤ [Instr.nop 0, .tbSnap .host].length := by decide
theorem witness_QueueOrder : (match step ⟨[.drop 0, .nop 0], up⟩ with | .next s => s.pending | _ => []) = [.nop 0] ∧
    Tid.ok 0x880 = false := by decide +kernel
theorem witness_MemoryReadsBack : Tid.ok 0x87F = true ∧ Tid.tk 0x87F = false ∧ 0x3FFE + [1, (2 : Nonet)].length ≤ 0x4000 := by decide
theorem witness_ThreadReset : Takes (st up) .host ⟨.evtTflt, 31, 7⟩ := takes_of (by decide +kernel)
theorem witness_StackMoves : ∀ e ∈ [dEff 0 0, dEff 1 0, dEff 1 2, dEff 2 2, dEff 2 3, dEff 3 3, dEff 2 1, dEff 2 0, dEff 2 4, dEff 4 4,
    dEff 4 6], Issues (cells [4, 3, 2, 1]) 0 e := all_issue (by decide +kernel)
theorem witness_StackMoves_pick : Issues (cells ([14] ++ List.replicate 15 (7 : Cell))) 0 (dEff (14 % 16 + 2) (14 % 16 + 2)) ∧
    Issues (cells [16, 5]) 0 (dEff (16 % 16 + 2) (16 % 16 + 2)) := ⟨issues_of (by decide +kernel), issues_of (by decide +kernel)⟩
theorem witness_LiteralsAndReturnStack :
    let s := one fun x => x.setBank { x.bank with ds := [7], rs := [0xFFFFF] }
    ∀ e ∈ [dEff 0 1, dEff 0 2, ⟨1, 0, 0, 1⟩, ⟨0, 1, 1, 0⟩, ⟨0, 1, 1, 1⟩, ⟨0, 0, 1, 0⟩, dEff 1 0], Issues s 0 e := all_issue (by decide +kernel)
theorem witness_Sums : (∀ e ∈ [dEff 2 1, dEff 2 0, dEff 1 1, dEff 4 2, dEff 4 0, dEff 2 2],
    Issues (cells (topD 0xFFFFFFFFF (topD 0x800000000 []))) 0 e) := all_issue (by decide +kernel)
theorem witness_LogicProductsDivision : ∀ e ∈ [dEff 2 1, dEff 1 1, dEff 2 2, dEff 3 3], Issues (cells [0, 0x20000, 0x3FFFF]) 0 e :=
  all_issue (by decide +kernel)
theorem witness_Shifts : ∀ e ∈ [dEff 2 1, dEff 3 2, dEff 1 2], Issues (cells (63 :: topD 0x800000001 [])) 0 e :=
  all_issue (by decide +kernel)
theorem witness_AddressRegisters : ∀ e ∈ [dEff 2 0, dEff 0 2, dEff 1 0, dEff 0 0], Issues (cells (topD 0xFFFFFFFFF [])) 0 e :=
  all_issue (by decide +kernel)

/-! ## Memory -/

/-- Thread 0 with stores in its buffer. -/
def stored (es : List SbEntry) (ds : List Cell) : State := one fun x => { x.setBank { x.bank with ds := ds } with sb := es }

theorem witness_LoadsAndStores_fault : Issues (cellsA 0x8000000 [1]) 0 (dEff 1 1) ∧
    (cellsA 0x8000000 [1]).m.accessFault 0 false .cell 0x8000001 = some 3 ∧ ((cellsA 0x8000000 [1]).m.thr 0).effAddr false = 0x8000001 ∧
    Issues (cellsA 0x4000 [0, 5]) 0 (dEff 2 0) ∧ (cellsA 0x4000 [0, 5]).m.accessFault 0 true .cell 0x4000 = some 0 :=
  ⟨issues_of (by decide +kernel), by decide +kernel, by decide +kernel, issues_of (by decide +kernel), by decide +kernel⟩
theorem witness_LoadsAndStores_load : ∀ es ∈ [[], [⟨0, .cell, 9, true, 0, 0⟩], [⟨0, .nonet, 9, true, 0, 0⟩]],
    issuesB (stored es [0]) 0 (dEff 1 1) = true ∧ (stored es [0]).m.accessFault 0 false .cell 0 = none ∧
      ((stored es [0]).m.thr 0).txns < 4 := by decide +kernel
theorem witness_LoadsAndStores_forward : (stored [] [0]).m.forward 0 0 2 = .memory ∧
    (stored [⟨0, .cell, 9, true, 0, 0⟩] [0]).m.forward 0 0 2 = .value 9 ∧ (stored [⟨0, .nonet, 9, true, 0, 0⟩] [0]).m.forward 0 0 2 = .wait ∧
    (stored [] [0]).m.badN (some 0) 0 2 = false := by decide +kernel
theorem witness_LoadsAndStores_store : issuesB (cells [0, 5]) 0 (dEff 2 0) = true ∧ (cells [0, 5]).m.accessFault 0 true .cell 0 = none ∧
    ((cells [0, 5]).m.thr 0).txns < 4 ∧
    issuesB (stored (List.replicate 4 ⟨8, .cell, 1, true, 0, 0⟩) [0, 5]) 0 (dEff 2 0) = true ∧
    4 ≤ ((stored (List.replicate 4 ⟨8, .cell, 1, true, 0, 0⟩) [0, 5]).m.thr 0).sb.length := by decide +kernel

/-- Thread 0 with a load outstanding. -/
def loading (l : Load) : State := one fun x => { x.setBank { x.bank with ds := [0] } with loads := [l] }

theorem witness_MemoryOrder_lands : let l : Load := ⟨0, .cell, 0x100, [.stow 0 0x100, .stow 0 0x101], 0, 0, 0, false, 0, none, false⟩
    ((loading l).m.thr 0).loads.find? (fun l => l.value.isNone && !l.fromHost) = some l ∧
      ((loading l).m.readLoad l).2 = some 0 := by decide +kernel
theorem witness_MemoryOrder_drain : ((stored [⟨0, .cell, 9, true, 0, 0⟩] []).m.thr 0).sb.head? = some ⟨0, .cell, 9, true, 0, 0⟩ ∧
    SbEntry.toMem ⟨0, .cell, 9, true, 0, 0⟩ = true := by decide +kernel
theorem witness_MemoryOrder_fence : issuesB (cells []) 0 (dEff 0 0) = true ∧ ((cells []).m.thr 0).quietMem = true ∧
    ((stored [⟨0, .cell, 9, true, 0, 0⟩] []).m.thr 0).quietMem = false := by decide +kernel
theorem witness_MemoryOrder_atomics :
    let s := cellsA 0x2000000 [0, 5]
    let r := one fun x => { x.setBank { x.bank with ds := [0, 5], a := 0x2000000 } with resv := some (granule 0 0) }
    s.m.atomicFault 0 false 0x2000000 = none ∧ s.m.atomicFault 0 true 0x2000000 = none ∧ (s.m.thr 0).quietMem = true ∧
      (s.m.thr 0).effAddr false = 0x2000000 ∧ issuesB s 0 (dEff 1 1) = true ∧ issuesB s 0 (dEff 2 0) = true ∧
      r.m.granuleAt 0 0x2000000 = granule 0 0 ∧ (s.m.thr 0).resv ≠ some (granule 0 0) ∧ s.m.badN (some 0) 0x2000000 2 = false := by
  decide +kernel

/-! ## Control -/

theorem witness_Branches : Issues (cells []) 0 (dEff 0 0) := issues_of (by decide +kernel)
theorem witness_CallsAndReturns :
    let s := one fun x => x.setBank { x.bank with ds := [0, 0x10], rs := [0x12345] }
    ∀ e ∈ [⟨0, 0, 0, 1⟩, dEff 0 0, ⟨2, 0, 0, 1⟩, dEff 2 0, ⟨0, 0, 1, 0⟩], Issues s 0 e := all_issue (by decide +kernel)
/-- Thread 0 with one frame in use, as an event of level 3 would leave it. -/
def framed : State := one fun x => { x with fdepth := 1 }
theorem witness_TrapsAndReturn : Issues (cells []) 0 (dEff 0 0) ∧ (cells []).m.brkHalts = false ∧
    ((deck id).m.thr 0).helm = false ∧ issuesB (deck id) 0 (dEff 0 0) = true ∧
    (framed.m.thr 0).helm = true ∧ (framed.m.thr 0).fdepth ≠ 0 ∧ assigned 0x016 = false ∧
    bit ((framed.m.rdCells 0 (frameAddr 0 0) 48).getD 3 0) 17 = false :=
  ⟨issues_of (by decide +kernel), by decide +kernel⟩
theorem witness_TrapsAndReturn_brk : 
    (Mach.w { up with d0 := { up.d0 with session := some ⟨2, none, [], [], 0, false, false, 0, 0⟩ } } .dbgCtl 0x8000).brkHalts = true := by
  decide +kernel
theorem witness_TrapsAndReturn_fetch : (one fun x => { x with p := 0x100000 }).m.beyond 0 1 = some 0x100000 := by decide +kernel
theorem witness_EntryState : let m := up.wu .evtVec 0 0x20010 0
    (m.thr 0).loads = [] ∧ (m.thr 0).modes = [] ∧ (m.thr 0).fdepth.toNat < 8 ∧ bit (m.vecOf 0 0) 17 = true := by decide +kernel
theorem witness_ControlRegisters : Issues (cells [0, 0, 7]) 0 (dEff 1 2) ∧ Issues (cells [1, 0, 7]) 0 (dEff 3 0) ∧
    ((cells [1, 0, 7]).m.thr 0).helm = true ∧ issuesB (deck fun x => x.setBank { x.bank with ds := [1, 0, 7] }) 0 (dEff 3 0) = true :=
  ⟨issues_of (by decide +kernel), issues_of (by decide +kernel), by decide +kernel⟩
theorem witness_RetireFrame : let x := up.thr 0
    x.loads = [] ∧ x.modes = [] ∧ x.stepping = false ∧ (0 : Tid) ≠ 1 ∧ (0 : Nat) ≠ Tid.coreNo 8 := by decide +kernel

/-! ## Hypotheses met: frames, tickets, bollards, boundaries -/

theorem witness_FramesEnd : issuesB (cells [0]) 0 (dEff 1 0) = true ∧ issuesB (one fun x => { x with mf := 0x2031800 }) 0 (dEff 0 0) = true ∧
    ((cells [0]).m.thr 0).mf = 0 ∧ ((one fun x => { x with mf := 0x2031800 }).m.thr 0).mf ≠ 0 ∧ ((cells []).m.thr 0).loads = [] ∧
    ((cells []).m.thr 0).modes = [] := by decide +kernel

/-- One manifest of class 3 waiting at lock 0, with its thread berthed. -/
def waitingFrame (k : Cell) : Mach :=
  ((up.w .blkKentry k 2).updThr 0 fun x => { x with berthed := true }).updLock 0 fun q => { q with queue := [⟨0x2031800, 3, 2, 0⟩] }
theorem witness_DispatchHandsOver : ((waitingFrame 0x20100).lock 0).state = .serving ∧
    (waitingFrame 0x20100).heads 0 = [(0, ⟨0x2031800, 3, 2, 0⟩)] := by decide +kernel
theorem witness_DispatchHandsOver_chosen : bit ((waitingFrame 0x20100).r .blkKentry 2) 17 = true ∧
    (waitingFrame 0x20100).chooseThread 0 3 = some 0 ∧ bit ((waitingFrame 0).r .blkKentry 2) 17 = false := by decide +kernel

/-- Thread 0 with slot 1 in a state. -/
def slot1 (k : DockState) (ds : List Cell) : State :=
  one fun x => (x.setBank { x.bank with ds := ds }).setDock 1 { Dock.empty with state := k, serial := 5 }
theorem witness_Tickets_tow : issuesB (cells [0]) 0 (dEff (0 + 1) 1) = true ∧
    (List.range 4).find? (fun i => (((cells [0]).m.thr 0).dock i).isFree) = some 0 ∧ ((cells [0]).m.thr 0).txns < 4 := by decide +kernel
theorem witness_Tickets_moor : (∀ k ∈ [DockState.complete, .busy, .free], issuesB (slot1 k [0x10005]) 0 (dEff 1 1) = true ∧
      ((slot1 k [0x10005]).m.thr 0).dock (fld 0x10005#18 17 16) = { Dock.empty with state := k, serial := 5 }) ∧
    (5 : BitVec 16).toNat = (0x10005#18).toNat % 65536 ∧ (0 : BitVec 16).toNat ≠ (0x10005#18).toNat % 65536 := by decide +kernel
theorem witness_Tickets_timeout : Tid.ok 0 = true ∧ (((slot1 .busy []).m.thr 0).dock (1 : BitVec 2).toNat).state = .busy := by decide +kernel

/-- Bollard 4095 owned, for thread 0 with a data stack. -/
def owned (o : Option (BitVec 20)) (ds : List Cell) : State :=
  st ((up.updThr 0 fun x => x.setBank { x.bank with ds := ds }).updBol 4095 fun b => { b with owner := o })
theorem witness_Bollards_take : issuesB (cells [4096]) 0 (dEff 1 1) = true ∧ 4095 < (4096#18).toNat ∧ (4095#18).toNat ≤ 4095 ∧
    ((owned none [4095]).m.bol 4095).owner = none ∧ ((owned none [4095]).m.bol 4095).fbonly = false ∧
    ((owned (some 0) [4095]).m.bol 4095).owner = some ((owned (some 0) [4095]).m.refOf 0) ∧
    (8 : BitVec 20) ≠ (owned (some 8) [4095]).m.refOf 0 ∧ issuesB (owned (some 8) [4095]) 0 (dEff 1 1) = true := by decide +kernel
theorem witness_Bollards_give : let f := ((owned (some 0) [4095]).m.chosen 0).flushMem 0
    (f.thr 0).sb = [] ∧ (f.thr 0).bank.at_ 0 = 4095 ∧ (f.bol 4095).owner = some (f.refOf 0) ∧ (f.bol 4094).owner ≠ some (f.refOf 0) := by
  decide +kernel
theorem witness_Bollards_wait : issuesB (owned (some 8) [1, 4095]) 0 (dEff 2 1) = true ∧ ((owned (some 8) [1, 4095]).m.thr 0).wait = none ∧
    (1#18).toNat / 65536 ≠ 3 ∧ ((owned (some 8) []).m.bol 4095).owner = some 8 := by decide +kernel
theorem witness_Bollards_timeout :
    ((one fun x => { x with wait := some ⟨.bollard 4095, some 0, 0, 0, none⟩ }).m.thr 0).wait = some ⟨.bollard 4095, some 0, 0, 0, none⟩ := by
  decide +kernel

/-- Source 40 of lock 0 aimed at thread 0 and pending. -/
def pended : Mach := ((up.wu .evtSrc 0 0x2A000 40).setPend 0 40 true).updThr 0 fun x => x.setBank { x.bank with ds := [0, 0x20028] }
theorem witness_WaitsAndAging : issuesB (st pended) 0 (dEff 2 1) = true ∧ (pended.thr 0).wait = none ∧ bit (0x20028#18) 17 = true ∧
    bit (0x20028#18) 16 = false ∧ pended.awaited 0 (.source 40) = some 40 ∧ up.awaited 0 .anySource = none ∧
    (pended.setPend 0 40 false).awaited 0 (.source 40) = none ∧ (pended.setPend 0 40 false).aimed 0 40 = true := by decide +kernel
theorem witness_WaitsAndAging_timeout : let s := one fun x => { x with wait := some ⟨.anySource, some 0, x.p, 0, none⟩ }
    (s.m.thr 0).wait = some ⟨.anySource, some 0, (s.m.thr 0).p, 0, none⟩ ∧ s.m.bestSource 0 = none := by decide +kernel
theorem witness_WaitsAndAging_aging : issuesB (cells [31]) 0 (dEff 1 2) = true ∧ (up.thr 0).ageing = true ∧
    (((slot1 .busy []).m.thr 0).dock 1).state = .busy := by decide +kernel

/-- The same source presented to a thread that runs with events enabled. -/
def presented : Mach := ((pended.wu .evtVec 0 0x20010 8).wu .evtThr 0 0 0).updThr 0 fun x => x.setFlg 0x30000
theorem witness_Boundaries_event : presented.boundary 0 = true ∧ (presented.thr 0).haltReq = none ∧ (presented.thr 0).tally.due = none := by
  decide +kernel
theorem witness_Boundaries_halt : let s := one fun x => { x with haltReq := some 1 }
    s.m.boundary 0 = true ∧ (s.m.thr 0).haltReq = some 1 ∧ (1 : BitVec 3) ≠ 6 := by decide +kernel
theorem witness_Boundaries_tally : let s := one fun x => { x with tally := { x.tally with due := some 7 } }
    s.m.boundary 0 = true ∧ (s.m.thr 0).haltReq = none ∧ (s.m.thr 0).tally.due = some 7 := by decide +kernel
theorem witness_Boundaries_deadline : (one fun x => { x with wdArmed := true }).m.wdRuns 0 = true := by decide +kernel

/-! ## Hypotheses met: blocks, customer syllables, Tally -/

theorem witness_BlockMovesAndShov_stm : let s := cellsA 0x100 [1, 7]
    issuesB s 0 (dEff 1 0) = true ∧ (s.m.thr 0).progress 0x100 = none ∧ dataCount 1 = some 1 ∧ 1 ≤ (s.m.thr 0).norm.ds.length - 1 ∧
      s.m.blockFault 0 true 0xF8 8 4 = none := by decide +kernel
theorem witness_BlockMovesAndShov_ldm : let s := cellsA 0x100 [0]
    issuesB s 0 (dEff 1 0) = true ∧ (s.m.thr 0).progress 0x140 = none ∧ dataCount 0 = some 0 ∧ s.m.blockFault 0 false 0x100 4 4 = none ∧
      s.m.badN (some 0) 0x100 4 = false ∧ pack (s.m.rdN (some 0) 0x100 4) = 0 ∧ s.m.ldmDenied 0 (ldmElems 0x100 0 0 0) = false := by
  decide +kernel
theorem witness_BlockMovesAndShov_tsave : let s := cellsA 0x100 [0]
    (s.m.thr 0).progress 0x180 = none ∧ (s.m.thr 0).progress 0x1C0 = none ∧ s.m.tallyFault 0 true 0x100 = none ∧
      s.m.tallyFault 0 false 0x100 = none ∧ s.m.saveDue 0 = false := by decide +kernel
theorem witness_BlockMovesAndShov_deck : ((deck id).m.thr 0).helm = false ∧ (deck id).m.ready 0 = true := by decide +kernel
theorem witness_BlockMovesAndShov_shov : [(0xFFF : Cell), 5].all (fun a => issuesB (cells [0, a, 0, 0x100, 0, 0]) 0 (dEff 6 2)) = true ∧
    ((cells [0, 5, 0, 0x100, 0, 0]).m.thr 0).progress 0x200 = none ∧ ((cells [0, 5, 0, 0x100, 0, 0]).m.thr 0).progress 0x240 = none ∧
    up.blockFault 0 true 0x100 128 8 = none ∧ up.blockFault 0 true 1 128 8 = some 0 ∧ up.shovTarget 0 5 = none ∧
    up.shovTarget 0 0xFFF = some 0 := by decide +kernel
theorem witness_BlockMovesAndShov_unshov : let m := up.wrCell (some 0) 0x104 0x10000
    issuesB (cells [0, 0xFFF, 0, 0x100]) 0 (dEff 4 2) = true ∧ ((cells []).m.thr 0).progress 0x280 = none ∧
      m.blockFault 0 false 0x100 128 8 = none ∧ m.badN (some 0) 0x100 8 = false ∧ fld (m.rdCell (some 0) 0x104) 17 16 = 1 := by
  decide +kernel

/-- A customer syllable defined, privileged if `h`. -/
def custom (v : Cell) : Mach := (up.wu .wlDt 0 v 62).wu .wlDt 0 0 63
theorem witness_CustomerRoutines : [0, (0x20000 : Cell)].all (fun v => (custom v).ready 0) = true ∧ (((custom 0).thr 0).shadow.filter fun h => h.cust) = none ∧
    bit ((custom 0).ru .wlDt 0 62) 17 = false ∧ bit ((custom 0x30000).ru .wlDt 0 62) 16 = true ∧
    (((custom 0x20000).thr 0).stackErr (dEff 0 0)).isNone = true ∧ (custom 0x20000).usesReserved 0 = false ∧ (custom 0x20000).ctxBusy 0 = false := by
  decide +kernel
/-- A routine of thread 0 in its core's context. -/
def inContext (ran : Nat) : Ctx := ⟨0, 0x140, ⟨0, 0, 0, 0, false, false, false, [], 0x700, 0, true, 0⟩, ran, false, 0, false⟩
theorem witness_CustomerRoutines_resume : let m := up.updCore 0 fun c => { c with main := some (inContext 32) }
    m.ctxOf 0 = some (inContext 32) ∧ m.coreRuns 0 = true ∧ (m.thr 0).halted = false ∧ (m.thr 0).faulted = false ∧ 32 ≤ (inContext 32).ran ∧
      up.ctxOf 0 = none := by decide +kernel

theorem witness_TallyOperations : ∀ e ∈ [dEff 2 0, dEff 0 0, dEff 0 2, dEff 0 1, dEff 1 0], Issues (cells [0, 5]) 0 e :=
  all_issue (by decide +kernel)
/-- Thread 0 with one Tally operation outstanding, precise and raising NV if `p`. -/
def tallying (p : Bool) : TallyOp := ⟨0x168, 0, 1, 9, none, 16, 16, true, p⟩
theorem witness_TallyOperations_complete : (∀ p ∈ [true, false],
      ((one fun x => { x with tally := { x.tally with queue := [tallying p] } }).m.thr 0).tally.queue = [tallying p]) ∧
    (tallying true).exc &&& (tallying true).enabled ≠ 0 ∧ (up.thr 0).faulted = false := by decide +kernel
theorem witness_EdgeResults : fmtS.num 0x7FC00000 = .nan false ∧ fmtS.num 0x7F800001 = .nan true ∧ fmtH.num 0x7E00 = .nan false ∧
    fmtS.num 1 = .fin false 1 (-149) := by decide +kernel

/-! ## Hypotheses met: timebase, canal, code, quays, gates, sluice -/

theorem witness_TimebaseAndAlarms : ∀ r ∈ [⟨.tbCtl, 0, 0⟩, ⟨.tbRate, 0, 1⟩, ⟨.tbAlmt, 0, 3⟩, ⟨.tbAlmctl, 0, 0⟩], Takes (st up) .host r :=
  all_take (by decide +kernel)
theorem witness_TimebaseAndAlarms_due : (up.setAlarm 15 ⟨0, 0, true, false, true⟩).alarmDue 15 = true ∧
    up.isOn (RegRef.domain ⟨.tbTspop, 0, 0⟩) = true := by decide +kernel
theorem witness_TimebaseAndAlarms_stamps : bit ((up.wbit .qeCtl 17 true 15).r .qeCtl 15) 17 = true ∧ (up.eq 15).stamps.length < 64 ∧
    64 ≤ ((up.updEq 15 fun e => { e with stamps := List.replicate 64 (0, 0) }).eq 15).stamps.length ∧ bit (up.r .qeCtl 15) 17 = false := by
  decide +kernel

/-- The request link of port 0 with flits waiting. -/
def links (fs : List Flit) : Mach := up.updLink 0 fun k => { k with waiting := fs }
/-- That link. -/
def link0 : LinkId := ⟨0, false⟩
theorem witness_CanalFlits : let f : Flit := ⟨.flyboat, 7, 0, none, 0⟩
    let n : Flit := ⟨.normal, 3, 0, none, 0⟩
    let t : Flit := ⟨.towpath, 4, 0, none, 0⟩
    let n5 : Flit := ⟨.normal, 5, 0, none, 0⟩
    (links [f]).headOf link0 .flyboat = some f ∧ 0 < ((links [f]).link 0).credits .flyboat ∧
    (links [n]).headOf link0 .normal = some n ∧ (links [n]).headOf link0 .towpath = none ∧ (links [n]).headOf link0 .flyboat = none ∧
    (links [t]).headOf link0 .towpath = some t ∧ (links [t]).headOf link0 .normal = none ∧
    (links [n, t]).headOf link0 .normal = some n ∧ (links [n, t]).headOf link0 .towpath = some t ∧
      (links [n, t]).headOf link0 .flyboat = none ∧ (links [n, t]).flitPri n < (links [n, t]).flitPri t ∧
      (links [n5, t]).flitPri t < (links [n5, t]).flitPri n5 ∧ ¬ 2 ^ (fld (up.r .cnlVccfg) 15 13 + 1) ≤ (up.link 0).sinceTow + 1 := by
  decide +kernel
theorem witness_CanalFlits_credits : 0 < (up.link 0).credits .normal ∧ 0 < (up.link 0).credits .towpath ∧
    (Link.credits { Link.idle with grants := ⟨0, 56, 8⟩ } .flyboat = 0) ∧ 64 ≤ Link.reserved { Link.idle with reserved := 64 } ∧
    up.current 0 = true ∧ up.current 0xFF000 = false ∧ Takes (st up) .host ⟨.cnlVccfg, 0, 0⟩ :=
  ⟨by decide +kernel, by decide +kernel, by decide, by decide, by decide +kernel, by decide +kernel, takes_of (by decide +kernel)⟩
theorem witness_CanalFlits_buffered : let f : Flit := ⟨.normal, 3, 0, none, 0⟩
    takeCredit .normal [(f, .towpath), (f, .normal)] = (some f, [(f, .towpath)]) ∧
      Link.flying { Link.idle with flying := [(f, .normal)] } = [(f, .normal)] ∧
      64 ≤ (Link.buffered { Link.idle with buffered := List.replicate 64 (f, .normal) }).length ∧ Link.idle.buffered.length < 64 := by
  decide
theorem witness_CanalFlits_vccfg : fld (0x0010#18) 10 6 < 4 ∧ ¬(fld (0x0290#18) 10 6 < 4) ∧ ¬(16 < fld (0x0290#18) 10 6) ∧
    fld (0x0290#18) 5 0 + fld (0x0290#18) 10 6 + 16 ≤ 64 := by decide

theorem witness_Pace : (0 < 23 ∧ up.isOn 23 = true ∧ (up.lock 16).parked = false) ∧ up.isOn 0 = true ∧ Mach.reset.isOn 5 = false := by
  decide +kernel
theorem witness_Pace_cal : let m := up.updLock 0 fun k => { k with state := .held, calibrating := true }
    Takes (st m) .host ⟨.plPacecal, 0, 0⟩ ∧ (m.lock 0).state = .held ∧ (m.lock 0).calibrating = true :=
  ⟨takes_of (by decide +kernel), by decide +kernel⟩

/-- Line 0x7FFF of slot A held by both caches. -/
def cached : Mach :=
  let l : CodeLine := ⟨0x7FFF, [], 0, false⟩
  (up.updCore 0 fun c => { c with icache := [(252, l)] }).updLock 0 fun k => { k with lcc := [(4088, l)] }
theorem witness_CodeCaches : up.coreRuns 0 = true ∧ cacheFind (cached.core 0).icache 0x7FFF = some (252, ⟨0x7FFF, [], 0, false⟩) ∧
    cacheFind (up.core 0).icache 0x7FFF = none ∧ cacheFind (cached.lock 0).lcc 0x7FFF = some (4088, ⟨0x7FFF, [], 0, false⟩) ∧ Tid.tk 0 = false ∧
    (up.codeLine 1 0x7FFF).isSome = true := by decide +kernel
theorem witness_CodeCaches_rows : ∀ r ∈ [⟨.crCtl, 271, 0⟩, ⟨.lkLccctl, 16, 0⟩, ⟨.dbgPatch, 0, 63⟩, ⟨.dbgPram, 0, 2047⟩],
    Takes (st up) .host r := all_take (by decide +kernel)

/-- Quay 15 enabled, with a frame open or none. -/
def quay (f : Option OpenFrame) : Mach := (up.w .qiCtl 0x20000 15).updIq 15 fun i => { i with frame := f }
/-- An open frame. -/
def openOne (d : Bool) : OpenFrame :=
  ⟨0, 0, false, false, 0, 0, [], [], 0, false, false, false, d, false, none, 0, 0, [], 15, false, false⟩
theorem witness_Ingress : ((quay none).iq 15).frame = none ∧ bit ((quay none).r .qiCtl 15) 17 = true ∧ bit ((quay none).r .qiViol 15) 17 = false ∧
    (∀ d ∈ [true, false], ((quay (some (openOne d))).iq 15).frame = some (openOne d)) ∧ bit (up.r .qiCtl 15) 17 = false := by decide +kernel
theorem witness_Ingress_beat : (0xF : BitVec 4) = parityOf 0 ∧ badCnt 16 = false ∧ badCnt 17 = true := by decide +kernel
theorem witness_Ingress_parse : (up.parse false 0 (List.replicate 64 0) false).isSome = true ∧
    ((quay none).parse false 0 (List.replicate 512 0) false).isSome = true := by decide +kernel
theorem witness_Ingress_rows : Takes (st up) .host ⟨.qiViol, 0, 15⟩ ∧ Takes (st up) .host ⟨.gauCtl, 0, 0⟩ ∧ up.swapping = false ∧
    fld ((up.w .qiLim 0x4000 15).r .qiLim 15) 17 14 ≠ 0 :=
  ⟨takes_of (by decide +kernel), takes_of (by decide +kernel), by decide +kernel, by decide +kernel⟩

/-- A frame on its way out. -/
def shipped : Shipped := ⟨0, 0x2031800, 0, 64, 3, 0, 5, false, false⟩
theorem witness_GatesAndEgress_gate :
    let m := (late.w .qeOrdprof 1 0).updGate 4095 fun g => { g with timer := true, held := [shipped], pairs := [⟨5, false, .scuttled, 0⟩] }
    let g := m.gate 4095
    let due := g.timer && fld (m.r .qeOrdprof g.timerProf.toNat) 15 0 != 0 &&
      decide (g.timerAt + 1000 * fld (m.r .qeOrdprof g.timerProf.toNat) 15 0 ≤ m.now)
    due = true ∧ m.lowestHeld 4095 = some shipped ∧ (up.gate 4095).timer = false ∧
      g.pairs.find? (fun h => h.seq == 5) = some ⟨5, false, .scuttled, 0⟩ ∧ 0 + fld (m.r .blkFbctl) 9 0 ≤ m.now ∧
      up.now < 0 + fld ((up.w .blkFbctl 16).r .blkFbctl) 9 0 := by decide +kernel
/-- Quay 15 sending a frame. -/
def sending (e : Bool) : Mach :=
  let c : Sending := ⟨shipped, some 0, 0, 0, 0, [], [0], e, false, 0, 0⟩
  (up.w .qeCtl 0x20001 15).updEq 15 fun q => { q with cur := some c }
theorem witness_GatesAndEgress_quay : bit ((up.w .qeCtl 0x20000 15).r .qeCtl 15) 17 = true ∧ (up.eq 15).cur = none ∧
    (((up.w .qeCtl 0x20000 15).accrue 15).chooseQueue 15).isNone = true ∧ ((sending true).eq 15).cur.isSome = true ∧
    fld ((sending true).r .qeCtl 15) 3 0 ≠ 0 := by decide +kernel
theorem witness_GatesAndEgress_choice :
    let m := (up.w .qeCtl 0x20000 15).updShape 15 fun s => { s with lane := [[], [], [], [shipped], [], [], [], []] }
    (((List.range 8).foldl (fun m j => m.dropLong 15 j ((m.shape 15).depth j)) (m.accrue 15)).chooseQueue 15) = some (3, shipped) := by
  decide +kernel

theorem witness_GateLists : ∀ r ∈ [⟨.sluGo, 0, 15⟩, ⟨.sluGcld1, 0, 0⟩], Takes (st up) .host r := all_take (by decide +kernel)
theorem witness_GateLists_change : bit ((up.wbit .sluGst 17 true 15).r .sluGst 15) 17 = true ∧ (up.shape 15).changeAt ≤ up.tb.ns ∧
    bit (up.r .sluGst 15) 17 = false ∧ up.gclEntry.2.1 = true := by decide +kernel
theorem witness_GateLists_cycle : (up.w .sluCyc0 1 15).adminCyc 15 ≠ 0 ∧ up.adminCyc 15 = 0 := by decide +kernel
/-- Slot 3 of thread 0 with a helper command. -/
def dockOf (unit op narg arg : Nat) (ops : List Cell) : Mach :=
  (up.updThr 0 fun x => x.setDock 3
    { Dock.empty with state := .busy, cmd := BitVec.ofNat 18 (unit * 32768 + narg * 2048 + op * 64 + arg), ops := ops, helm := true
    }).setHeldCmds unit [⟨0, 3⟩]
/-- That command's slot. -/
def slot3 (m : Mach) : Dock := (m.thr 0).dock 3
theorem witness_StreamFilters : let d := slot3 (dockOf 2 0 3 0 [4095, 64, 2])
    d.active = true ∧ d.unit = 2 ∧ d.op = 0 ∧ d.narg = 3 ∧ (d.ops.getD 0 0).toNat < 4096 ∧ (d.ops.getD 2 0).toNat ≤ 2 ∧
      (dockOf 2 0 3 0 [4095, 64, 2]).firstCmd 2 = some ⟨0, 3⟩ ∧ d.owed ≠ .timedOut ∧ d.epoch = (dockOf 2 0 3 0 []).epochOf 0 := by decide +kernel
theorem witness_StreamFilters_bad : let d := slot3 (dockOf 2 0 3 0 [4096, 64, 3])
    4096 ≤ (d.ops.getD 0 0).toNat ∧ 2 < (d.ops.getD 2 0).toNat ∧ (slot3 (dockOf 2 0 1 0 [])).narg = 1 := by decide +kernel
theorem witness_StreamFilters_commit : let cyc : Mach → BitVec 30 := fun m => (m.r .sluSgcyc 1).extractLsb' 0 12 ++ m.r .sluSgcyc 0
    cyc up = 0 ∧ cyc (up.w .sluSgcyc 1 0) ≠ 0 ∧ (0 : Dbl).toNat < (mkDbl 0 1 : Dbl).toNat := by decide +kernel
theorem witness_StreamFilters_rows : ∀ r ∈ [⟨.sluFrate, 0, 7⟩, ⟨.sluFsel, 0, 0⟩, ⟨.sluSgd1, 0, 0⟩, ⟨.sluSgcfg, 0, 0⟩],
    Takes (st up) .host r := all_take (by decide +kernel)

/-! ## Hypotheses met: helpers, seal, registers of locks and cores -/

/-- Every waybill table of three key cells enabled, not deck's to change. -/
def tabled : Mach :=
  let w : Mach := { up with waybill := { up.waybill with tables := (List.range 96).map fun i => (i, ⟨0x20000, 0⟩) } }
  w
/-- A helper command of thread 0 in slot 3 of a block with its tables enabled. -/
def helped (helm : Bool) (unit op narg arg : Nat) (ops : List Cell) : Mach :=
  (tabled.updThr 0 fun x => x.setDock 3
    { Dock.empty with state := .busy, cmd := BitVec.ofNat 18 (unit * 32768 + narg * 2048 + op * 64 + arg), ops := ops, helm := helm
    }).setHeldCmds unit [⟨0, 3⟩]
theorem witness_HelperCommands : let k := (tabled.wbTable 63).kcells
    (tabled.wbTable 63).en = true ∧ (tabled.wbTable 63).learn = false ∧
      [(0, 0, k), (0, 1, 2), (0, 2, k + 2), (0, 3, k), (0, 8, 2), (0, 9, 2), (0, 16, 2), (3, 0, 0), (4, 0, 3), (4, 1, 0)].all
        (fun e => (slot3 (helped true e.1 e.2.1 e.2.2 15 [0, 0, 0])).active && (slot3 (helped true e.1 e.2.1 e.2.2 15 [0, 0, 0])).unit == e.1 &&
          (slot3 (helped true e.1 e.2.1 e.2.2 15 [0, 0, 0])).op == e.2.1 && (slot3 (helped true e.1 e.2.1 e.2.2 15 [0, 0, 0])).narg == e.2.2) = true := by
  decide +kernel
theorem witness_HelperCommands_lpm : tabled.lpmOk 15 false = true ∧ tabled.lpmOk 15 true = false := by decide +kernel
theorem witness_HelperCommands_read : (match (up.opRead 0 true 0 16).2 with | .ok ns => ns == List.replicate 16 0 | .error _ => false) = true ∧
    (up.noteN (some 0) 0 16) = up := by decide +kernel
theorem witness_WaybillTables : up.wbBusy = false ∧ (up.wbit .wbStat 17 true).wbBusy = true ∧
    (up.ternFind 0 1 0) = some 0 ∧ up.lpmFind 64 0 = none := by decide +kernel
theorem witness_WaybillTables_rows : ∀ r ∈ [⟨.wbCmd, 0, 0⟩, ⟨.wbTdesc, 0, 0⟩], Takes (st up) .host r := all_take (by decide +kernel)

theorem witness_Seal_rows : ∀ r ∈ [⟨.sealKdata, 0, 0⟩, ⟨.sealKcmd, 0, 0⟩, ⟨.sealSactl, 0, 0⟩],
    Takes (st up) (.thread 0xF80) r := all_take (by decide +kernel)
theorem witness_Seal_slots : slotBarred 2 true = true ∧ slotBarred 31 true = false ∧ slotBarred 7 false = true ∧ slotBarred 8 false = false := by
  decide
/-- A sealing of thread 0xF80 in slot 3. -/
def sealing : Mach :=
  let k : Dock :=
    { Dock.empty with state := .busy, cmd := BitVec.ofNat 18 (32768 + 4 * 2048 + 3 * 64 + 31), ops := [0, 0, 0, 31], helm := true }
  ((up.w .sealCtl 0x20000).updThr 0xF80 fun x => x.setDock 3 k).setHeldCmds 1 [⟨0xF80, 3⟩]
theorem witness_Seal_cmac : let k := (sealing.thr 0xF80).dock 3
    k.active = true ∧ k.unit = 1 ∧ k.op = 3 ∧ k.narg = 4 ∧ sealing.opRange 0xF80 true (k.addr 0) 0 = true ∧
      sealing.firstCmd 1 = some ⟨0xF80, 3⟩ ∧ k.owed ≠ .timedOut ∧ k.epoch = sealing.epochOf 0xF80 ∧ bit (sealing.r .sealCtl) 17 = true ∧
      slotBarred (k.arg % 32) k.helm = false ∧ (k.ops.getD 3 0).toNat = 31 ∧ Tid.tk 0xF80 = true := by decide +kernel
theorem witness_Seal_stage : (up.setStage (List.replicate 30 1)).sealU.stage.length < 31 ∧
    (up.setStage (List.replicate 8 1)).sealU.stage.length = 8 ∧ (up.sa up.saSel).xpn = false ∧ (up.sa up.saSel).long = false := by
  decide +kernel

theorem witness_Pools : let m := up.updLock 16 fun k => { k with state := .held }
    (m.lock 16).parked = true ∧ poolFits 0 6144 0x31800 = true ∧ up.freeHold 0 = some 0 ∧ fld (up.ru .lkFrctl 0) 9 0 < up.freeHolds 0 ∧
      (up.lock 0).parked = false := by decide +kernel
theorem witness_Pools_rows : ∀ r ∈ [⟨.lkHoldbase, 16, 0⟩, ⟨.lkHoldcnt, 16, 0⟩, ⟨.lkManbase, 16, 0⟩, ⟨.lkHoldret, 16, 0⟩],
    Takes (st up) .host r := all_take (by decide +kernel)
theorem witness_Pools_taken : mget false ((up.updLock 0 fun k => { k with holds := [(6143, true)] }).lock 0).holds 6143 = true ∧
    mget false (up.lock 0).holds 6143 = false ∧ 7 ≤ (up.updThr 0 fun x => { x with mf := 1, cls := 7 }).readerClass (.thread 0) := by
  decide +kernel

theorem witness_EventAndThreadRegisters : pended.bestSource 0 = some 40 ∧ up.bestSource 0 = none ∧
    up.isOn (RegRef.domain ⟨.evtClaim, 0, 0⟩) = true ∧ (up.setAct 0 511 true).actBit 0 511 = true ∧ up.actBit 0 511 = false ∧
    fld (0x2003F#18) 8 0 < 64 ∧ 64 ≤ fld (0x00040#18) 8 0 ∧ fld (0x20240#18) 16 9 ≠ up.ringEpoch 0 := by decide +kernel
theorem witness_EventAndThreadRegisters_rows : ∀ r ∈ [⟨.evtDone, 31, 0⟩, ⟨.evtRing, 0, 0⟩, ⟨.evtSrc, 16, 511⟩, ⟨.evtThr, 16, 127⟩,
    ⟨.evtTflt, 31, 7⟩, ⟨.thView, 0, 31⟩, ⟨.bolForce, 0, 0⟩], Takes (st up) .host r := all_take (by decide +kernel)
theorem witness_EventAndThreadRegisters_view : (up.thr 0).halted = false ∧ ((one fun x => { x with halted := true }).m.thr 0).halted = true ∧
    (up.bol 0).owner = none ∧ ((owned (some 8) []).m.bol 4095).owner = some 8 := by decide +kernel

/-- Every thread of the spare has reached `berth`. -/
def spareUp : Mach :=
  let x : Thread := { threadReset 0 with hasBerthed := true, berthed := true }
  let m : Mach := { up with threads := (List.range 128).map fun i => (16 * 128 + i, x) }
  m.updLock 16 fun k => { k with state := .spare }
theorem witness_LockMap : spareUp.spareReady = true ∧ fld (0x20010#18) 4 0 = spareUp.spare ∧ bit (0x20010#18) 17 = true ∧
    (spareUp.lock (spareUp.plockOf 0)).state = .serving ∧ (up.lock 16).state ≠ .spare ∧ fld (0x00010#18) 4 0 = spareUp.spare := by
  decide +kernel
theorem witness_LockMap_copied : let m := { spareUp with evac := some ⟨0, 16, 0, 0⟩ }.setEvac 2
    m.evacState = 2 ∧ fld (m.r .blkEvac) 3 0 = 0 ∧ m.evac = some ⟨0, 16, 0, 0⟩ := by decide +kernel
theorem witness_LockMap_admit : let m := (List.range 16).foldl (fun m x => m.wu .wlVer (16 * 5 + x) 1) (up.updLock 5 fun k => { k with state := .held })
    m.admitOk 5 = true ∧ up.admitOk 5 = false ∧ (m.lock 5).state = .held := by decide +kernel
theorem witness_LockMap_done : let m := up.updLock 5 fun k => { k with state := .admitting }
    (m.lock 5).state = .admitting ∧ m.recorded 5 = false ∧ fld (0x20005#18) 3 0 ≠ 4 := by decide +kernel
theorem witness_LockMap_rows : Takes (st up) (.thread 0xF80) ⟨.blkRemap, 0, 0⟩ ∧ Takes (st up) .host ⟨.plState, 16, 0⟩ ∧
    Takes (st up) .host ⟨.blkFbctl, 0, 0⟩ ∧ Takes (st up) .host ⟨.blkFbpart, 0, 15⟩ :=
  ⟨takes_of (by decide +kernel), takes_of (by decide +kernel), takes_of (by decide +kernel), takes_of (by decide +kernel)⟩
theorem witness_CoreRegisters : ∀ r ∈ [⟨.crCtl, 271, 0⟩, ⟨.wlMdata, 0, 0⟩, ⟨.wlNdata, 0, 7⟩, ⟨.wlDt, 0, 63⟩],
    Takes (st up) .host r := all_take (by decide +kernel)
theorem witness_CoreRegisters_cnt : up.isOn (RegRef.domain ⟨.crCnt, 271, 14⟩) = true ∧
    (up.updLock 16 fun k => { k with state := .held }).wlOpen 271 .host = true := by decide +kernel

/-! ## Hypotheses met: memory engines, keep store, host -/

theorem witness_MemoryEngines : ∀ r ∈ [⟨.plBank, 16, 16⟩, ⟨.plMarch, 16, 0⟩], Takes (st up) .host r := all_take (by decide +kernel)
theorem witness_MemoryEngines_copy : up.owner 0 15 = 0 ∧ up.evacOn 0 = false ∧ up.mirrorOk 0 15 = true ∧ up.quietLock 0 = false ∧
    up.quietLock 16 = true ∧ up.mirrorOk 0 16 = false ∧ ({ up with evac := some ⟨0, 16, 0, 0⟩ }.setEvac 1).evacOn 0 = true := by decide +kernel
theorem witness_MemoryEngines_back : let m := (up.setOwner 0 15 3).setServes 0 15
    m.owner 0 15 ≠ 0 ∧ m.serves 0 = 15 ∧ m.retired 0 15 = false ∧ (m.lock 0).copy = none ∧ (m.lock 0).march = none := by decide +kernel
theorem witness_MemoryEngines_march : let m := (up.updLock 0 fun k => { k with march := some (1, 15) }).wu .plMstat 0 0x1000
    (m.lock 0).march = some (1, 15) ∧ fld (m.ru .plMstat 0) 13 11 = 2 ∧ bit ((up.wu .plScrub 16 0x20000).ru .plScrub 16) 17 = true := by
  decide +kernel

theorem witness_KeepStore : Takes (st up) .host ⟨.keepCmd, 0, 0⟩ ∧ up.keepBusy = false ∧ (up.wbit .keepStat 17 true).keepBusy = true :=
  ⟨takes_of (by decide +kernel), by decide +kernel, by decide +kernel⟩
theorem witness_KeepStore_dst : (up.w .keepWp 0).keepRefusal 0x4000 1 = some 10 ∧ (up.w .keepWp 0).keepRefusal 0x700000 1 = none ∧
    up.keepRefusal 1 1 = some 9 := by decide +kernel
theorem witness_KeepStore_scrub : bit ((up.w .keepCtl 0x20000).r .keepCtl) 17 = true ∧ up.isOn 6 = true ∧ up.keepScrub.toNat ≠ 2 ^ 18 - 1 := by
  decide +kernel

theorem witness_HostTarget : let r := HostReq.ofBeats [header 0 2 255 0 0x2000000 true]
    HostReq.malformed r = false ∧ HostReq.inMap r = true ∧ up.lcHost r = false ∧ up.hostOff r = false ∧ up.hostCode r = 0 ∧
      up.host.rsps.length < 32 := by decide +kernel
theorem witness_HostTarget_codes : HostReq.malformed (HostReq.ofBeats [header 3 0 0 0 0 true]) = true ∧
    HostReq.inMap (HostReq.ofBeats [header 0 0 0 0 1 true]) = false ∧
    Mach.reset.hostOff (HostReq.ofBeats [header 0 2 0 0 0x2000000 true]) = true ∧ Takes (st up) .host ⟨.blkHpctl, 0, 0⟩ ∧
    (HostReq.ofBeats [header 1 0 0 0 0 false, ⟨5, lanePar 5, true⟩]).op = 1 ∧
    (HostReq.ofBeats [header 2 0 0 0 0 false, ⟨5, lanePar 5, true⟩]).op = 2 :=
  ⟨by decide, by decide +kernel, by decide +kernel, takes_of (by decide +kernel), by decide, by decide⟩
theorem witness_HostTarget_bad : let p : Place := .basin 0 0
    let m := up.setEcc ((up.wordOf p).getD 0) 2
    m.hostCode (HostReq.ofBeats [header 0 2 255 0 0x2000000 true]) = 3 := by decide +kernel
theorem witness_HostInitiator : let q : InitReq := ⟨255, 0, .keep, 0⟩
    let m : Mach := { late with host := { up.host with reqs := [q], rx := [(7, [shipped])] } }
    let h := rspHeader 255 0
    m.host.reqs.find? (fun q => q.tag == 255) = some q ∧ up.host.reqs.find? (fun q => q.tag == 255) = none ∧
      m.rxWaiting 7 = [shipped] ∧ h.extractLsb' 56 8 = (255 : BitVec 8) ∧ lanePar h ≠ ~~~lanePar h ∧ lanePar 5 = (⟨5, lanePar 5, true⟩ : HostBeat).par ∧
      0 + 1000 * fld (m.r .blkHpctl) 11 0 ≤ m.now := by decide +kernel
theorem witness_HostInitiator_ring : let m := (up.w .blkRctl 0x20000 23).w .blkRtail 1 23
    (m.acceptWaiting 31).ringReady 23 = true ∧ ((m.acceptWaiting 31).iq 31).waiting = [] ∧ ((up.w .blkRctl 0x20000 7).w .blkRtail 1 7).ringReady 7 = true := by
  decide +kernel

/-! ## Hypotheses met: D0, evacuation, failover -/

/-- The same block with D0 changed. -/
def withD0 (f : D0 → D0) : Mach := { up with d0 := f up.d0 }
theorem witness_ResetsAndStartUp : Mach.reset.d0.porst = true ∧ up.d0.porst = false ∧ (withD0 fun d => { d with lineLow := true }).d0.lineLow = true ∧
    up.d0.lineLow = false := by decide +kernel
theorem witness_Power : Takes (st up) .host ⟨.pwrDom, 0, 23⟩ ∧ up.power 23 = .on ∧ Mach.reset.power 23 = .off ∧ up.offOk 0 = false ∧
    (up.updLock 16 fun k => { k with state := .held }).offOk 23 = true ∧ Takes (st up) .host ⟨.pwrIso, 0, 0⟩ :=
  ⟨takes_of (by decide +kernel), by decide +kernel, by decide +kernel, by decide +kernel, by decide +kernel, takes_of (by decide +kernel)⟩
theorem witness_Power_iso : let m := up.w .pwrIso 0x8000
    m.isoState = 2 ∧ m.offOk 1 = true ∧ m.offOk 6 = true ∧ up.isoState = 0 := by decide +kernel
theorem witness_Power_handshake : (withD0 fun d => { d with hs := .requested 3 }).d0.hs = .requested 3 ∧
    (withD0 fun d => { d with hs := .powering 3 }).d0.hs = .powering 3 ∧ (withD0 fun d => { d with hs := .falling 3 }).d0.hs = .falling 3 ∧
    up.d0.hs = .idle := by decide +kernel
theorem witness_Evacuation : Takes (st up) (.thread 0xF80) ⟨.blkEvac, 0, 0⟩ ∧ Takes (st up) (.thread 0xF80) ⟨.blkMove, 0, 0⟩ ∧ spareUp.evacGoOk 0 = true ∧
    up.evacGoOk 0 = false :=
  ⟨takes_of (by decide +kernel), takes_of (by decide +kernel), by decide +kernel, by decide +kernel⟩
/-- An evacuation of logical lock 0 in a state. -/
def evacuating (k : Nat) : Mach := { spareUp with evac := some ⟨0, 16, 0, 0⟩ }.setEvac k
theorem witness_Evacuation_states : (evacuating 1).evacState = 1 ∧ (evacuating 2).evacState = 2 ∧ 3 ≤ (evacuating 3).evacState ∧
    (evacuating 3).drained = true ∧ (evacuating 3).evac = some ⟨0, 16, 0, 0⟩ ∧ (evacuating 0).evacState ≠ 3 := by decide +kernel
theorem witness_Evacuation_late : ((evacuating 3).updThr 0 fun x => { x with mf := 0x2031800 }).evacHolders ≠ [] := by decide +kernel
theorem witness_Evacuation_test : up.fwRuns = true ∧ up.odVarNat 0x500304 24 ≠ 0 ∧ (up.nextTest).isSome = true := by decide +kernel
theorem witness_Failover : ∀ r ∈ [⟨.blkXchg, 0, 0⟩, ⟨.blkTkctl, 0, 0⟩, ⟨.blkTkwd, 0, 0⟩, ⟨.pwrBwdsvc, 0, 0⟩], Takes (st up) (.thread 0xF80) r :=
  all_take (by decide +kernel)
theorem witness_Failover_states : up.xchg = none ∧ up.tkRuns 0 = true ∧ up.tkFrozen 0 = false ∧ up.activeTk = 0 ∧ up.isOn 1 = true ∧
    bit ((up.wbit .pwrBwd 17 true).r .pwrBwd) 17 = true ∧ up.bwdFrozen = false ∧ Mach.reset.tkRuns 0 = false := by decide +kernel

/-! ## Hypotheses met: dictionary, LPP, wire, life cycle, registers -/

theorem witness_DictionaryCommands : Takes (st up) .host ⟨.odCmd, 0, 0⟩ ∧ bit (up.r .odStat) 17 = false ∧ up.fwRuns = true ∧
    bit ((up.wbit .odStat 17 true).r .odStat) 17 = true ∧ up.placeOff (.stow 255 0) = false ∧ Mach.reset.fwRuns = false :=
  ⟨takes_of (by decide +kernel), by decide +kernel, by decide +kernel, by decide +kernel, by decide +kernel, by decide +kernel⟩
/-- Whether an entry is there, and its access. -/
def accOfEntry (i j : Nat) : Option Acc := match up.odEntry i j with | .ok e => some e.acc | .error _ => none
theorem witness_DictionaryCommands_entries : accOfEntry 0x1000 0 ≠ none ∧ accOfEntry 0x0FFF 0 = none := by decide +kernel
theorem witness_LppRequests : up.fwRuns = true ∧ up.isOn 2 = true ∧ Takes (st up) .host ⟨.blkLppship, 0, 2⟩ ∧ up.quiet .host = false ∧
    up.quiet .debug = true :=
  ⟨by decide +kernel, by decide +kernel, takes_of (by decide +kernel), by decide, by decide +kernel⟩
/-- A manifest in slot 0 of lock 0 with a chain of one hold and a length. -/
def laid (len : Nat) : Mach :=
  let m := up.updLock 0 fun k => { k with slots := [(0, true)], holds := [(0, true)] }
  let mf := m.slotAddr 0 0
  let h := m.holdAddr 0 0
  (((m.setMcell mf 0 (BitVec.ofNat 18 len)).wrDbl none (mf + 4) (BitVec.ofNat 36 h)).wrDbl none h 0).wrCell none (h + 4) (BitVec.ofNat 18 len)
/-- Its octets. -/
def lppOs (len : Nat) : Option (List (BitVec 8)) := ((laid len).lppFrame ((laid len).slotAddr 0 0)).map fun f => f.os
theorem witness_LppRequests_frame : (match lppOs 20 with | some os => (lppParse os).isSome | none => false) = true ∧
    (match lppOs 0 with | some os => (lppParse os).isNone | none => false) = true := by decide +kernel
/-- A session on the wire. -/
def session (lv : BitVec 2) : Mach := withD0 fun d => { d with session := some ⟨lv, none, [], [0x80], 0, false, false, 0, 0⟩ }
theorem witness_WirePulses : (session 2).d0.session = some ⟨2, none, [], [0x80], 0, false, false, 0, 0⟩ ∧ (session 2).d0.porst = false ∧
    ((session 2).wirePoll).d0.session = some ⟨2, none, [], [0x80], 0, false, false, 0, 0⟩ ∧ up.wirePoll.d0.session = none ∧
    Takes (st (session 2)) .debug ⟨.dbgCtl, 0, 0⟩ :=
  ⟨by decide +kernel, by decide +kernel, by decide +kernel, by decide +kernel, takes_of (by decide +kernel)⟩
theorem witness_WirePackets : crc8 [1] = 0x07 ∧ targetOk 2 = true ∧ targetOk 0xFF = false ∧ accessOk 0 0x8000000 = true ∧ accessOk 2 0 = false := by
  decide +kernel
theorem witness_RunControl : crc8 ([6, 1] ++ beOctets 0 2 ++ beOctets 0 4) = crc8 [6, 1, 0, 0, 0, 0, 0, 0] ∧
    Takes (st (session 2)) .debug ⟨.dbgRun, 0, 0⟩ ∧ (up.thr 0).faulted = false ∧ up.coreRuns 0 = true ∧
    ((one fun x => { x with faulted := true, halted := true }).m.thr 0).faulted = true :=
  ⟨by decide +kernel, takes_of (by decide +kernel), by decide +kernel, by decide +kernel, by decide +kernel⟩
theorem witness_LifeCycleAndTerminals : ∀ r ∈ [⟨.lcChal, 0, 0⟩, ⟨.lcCmd, 0, 0⟩, ⟨.lcKdata, 0, 0⟩, ⟨.dbgVtin, 0, 0⟩],
    Takes (st (session 2)) .host r := all_take (by decide +kernel)
theorem witness_LifeCycleAndTerminals_states : up.d0.lcState ≠ 1 ∧ (withD0 fun d => { d with lcState := 1 }).d0.lcState = 1 ∧ up.d0.ckey = false ∧
    up.d0.lcBad = false ∧ up.d0.lockout = false ∧ up.vtSel = some 0 ∧ (up.thr 0).helm = true := by decide +kernel
theorem witness_RegisterAccess : up.regAt 0x8010000 .host ≠ none ∧ up.regAt 0x83FFFFF .host = none ∧
    up.mayWrite ⟨.blkRemap, 0, 0⟩ .host = false ∧ Mach.reset.isOn (RegRef.domain ⟨.sealCtl, 0, 0⟩) = false ∧
    Takes (st up) .host ⟨.blkHpctl, 0, 0⟩ :=
  ⟨by decide +kernel, by decide +kernel, by decide +kernel, by decide +kernel, takes_of (by decide +kernel)⟩

/-! ## Further clauses of the statements above -/

/-- Thread 0 with four loads outstanding, none of them on its top. -/
def four (ds : List Cell) : State := one fun x =>
  { x.setBank { x.bank with ds := ds } with loads := List.replicate 4 ⟨9, .cell, 0x100, [], 0, 0, 0, false, 0, none, false⟩ }
theorem witness_LoadsAndStores_full : issuesB (four [0, 5]) 0 (dEff 1 1) = true ∧ issuesB (four [0, 5]) 0 (dEff 2 0) = true ∧
    (four [0, 5]).m.accessFault 0 false .cell 0 = none ∧ (four [0, 5]).m.accessFault 0 true .cell 0 = none ∧
    4 ≤ ((four [0, 5]).m.thr 0).txns := by decide +kernel
theorem witness_LoadsAndStores_places : (cellsA 0x8010000 [0]).m.accessFault 0 false .cell 0x8010000 = none ∧ inRegs 0x8010000 = true ∧
    (cellsA 0x8010000 [0]).m.forward 0 0x8010000 2 = .memory ∧ (cellsA 0xC000000 [0]).m.accessFault 0 false .cell 0xC000000 = none ∧
    (((cellsA 0xC000000 [0]).m.chosen 0).flitTo 0 0xC000000 |>.initiate (up.hostAddr 0xC000000) (.load 0)).2 = .sent ∧
    (cellsA 0 [0]).m.forward 0 0 2 = .memory ∧ ((cellsA 0 [0]).m.places 0 0 2).all (ownStow 0) = true ∧
    ((cellsA 0 [0]).m.places 0 0x2000000 2).all (ownStow 0) = false ∧ (up.setEcc (stowKey 0 0 / 8) 2).badN (some 0) 0 2 = true := by decide +kernel
theorem witness_LoadsAndStores_quiet : let m := up.wbit .blkHpctl 17 true
    m.hostQuiet = true ∧ up.hostQuiet = false ∧ m.accessFault 0 true .cell 0xC000000 = none := by decide +kernel
theorem witness_TrapsAndReturn_enters : (cells []).m.ctxHeld 0 = false ∧ (up.core 0).fetchBad 0 = false ∧ runsB framed 0 0x040 = true ∧
    bit ((framed.m.rdCells 0 (frameAddr 0 0) 48).getD 3 0) 16 = false := by decide +kernel
theorem witness_EntryState_kinds : let m := (up.wu .evtVec 0 0x20010 3).wu .evtVec 0 0x20010 15
    bit (m.vecOf 0 (EntryKind.event 3).vec) 17 = true ∧ bit (m.vecOf 0 (EntryKind.event 15).vec) 17 = true ∧
      bit (m.vecOf 0 EntryKind.fast.vec) 17 = true := by decide +kernel
theorem witness_ControlRegisters_flg : (up.thr 0).modes = [] ∧ (0x20000#18 ^^^ (up.thr 0).flg) &&& 0x3C000 = 0 ∧
    bit ((0x30000#18 ^^^ (up.thr 0).flg) &&& 0x3C000) 15 = false ∧ (0x30000#18 ^^^ (up.thr 0).flg) &&& 0x3C000 ≠ 0 ∧
    bit ((0x28000#18 ^^^ (up.thr 0).flg) &&& 0x3C000) 15 = true ∧ Dbl.lo 0x28000 = 0x28000 := by decide +kernel

/-- A command of one unit held in its queue more often than it has entries. -/
def crowded : Mach := up.setHeldCmds 4 (List.replicate (Config.helperEntries 4 + 17) ⟨0xF80, 0⟩)
theorem witness_Tickets_crowded : crowded.entryFree 4 0 = false ∧ reservedCmd 4 0 = false := by
  have h : crowded.heldCmds 4 = List.replicate (Config.helperEntries 4 + 17) ⟨0xF80, 0⟩ := by
    simp [crowded, Mach.heldCmds, Mach.setHeldCmds]
  have r : bit (crowded.r .blkFbctl) 17 = false := by decide +kernel
  exact ⟨by simp [Mach.entryFree, h, r], by decide⟩
theorem witness_Tickets_entry : up.entryFree 4 0 = true ∧ reservedCmd 7 0 = true ∧ late.past 0 (1000 * fld (late.r .blkHlptmo) 11 0) = true := by
  decide +kernel
theorem witness_Bollards_runs : [0x2C0, 0x300, 0x340].all (runsB (cells []) 0) = true ∧ ((cells []).m.thr 0).ended = [] ∧
    (0 : BitVec 64).toNat ≤ up.now ∧ up.base 0 ≠ 7 := by decide +kernel
theorem witness_Bollards_fbonly : let s := st ((deck id).m.updBol 4095 fun b => { b with owner := some 8, fbonly := true })
    (s.m.bol 4095).fbonly = true ∧ s.m.base 0 ≠ 7 ∧ (s.m.thr 0).helm = false ∧ (s.m.bol 4095).owner ≠ some (s.m.refOf 0) := by decide +kernel
theorem witness_WaitsAndAging_ticket : (((slot1 .busy []).m.thr 0).dock (1 : BitVec 2).toNat).active = true := by decide +kernel
theorem witness_Boundaries_runs : presented.presented 0 = some 40 ∧ runsB (st presented) 0 0 = true ∧ up.ctxBusy 0 = false ∧
    ((one fun x => { x with wdArmed := true }).m.thr 0).wdEnd ≤ up.now := by decide +kernel

/-- Thread 0 inside a protected run: a mode change is pending. -/
def guarded (a : DAddr) (ds : List Cell) : State := one fun x =>
  { x.setBank { x.bank with ds := ds, a := a } with modes := [⟨3, .lvl 0⟩] }
theorem witness_BlockMovesAndShov_runs : [0x100, 0x140, 0x180, 0x1C0, 0x200, 0x240, 0x280].all (runsB (cells []) 0) = true ∧
    ((cells []).m.thr 0).txns < 4 := by decide +kernel
theorem witness_BlockMovesAndShov_guarded : ((guarded 0x100 [0]).m.thr 0).atBoundary = false ∧
    ((guarded 0x100 [0]).m.thr 0).norm.rs.length ≤ 16 ∧ issuesB (guarded 0x100 [0]) 0 (dEff 1 0) = true ∧
    issuesB (guarded 0x100 [0, 0xFFF, 0, 0x100, 0, 0]) 0 (dEff 6 2) = true ∧ (0x100 : Nat) + 40 ≤ 0xC000000 ∧
    (List.range 5).all (fun j => !up.badN (some 0) (0x100 + 8 * j) 8) = true := by decide +kernel
theorem witness_BlockMovesAndShov_target : up.shovBusy 0 0 = false ∧ (up.thr 0).sb = [] ∧
    (up.updThr 9 fun x => { x with halted := true }).shovTarget 0 9 = some 9 := by decide +kernel
theorem witness_CustomerRoutines_end :
    let m := (custom 0x20000).updCore 0 fun c => { c with micro := [(0x700, 0xA0)] }
    let w := (m.core 0).micro1 0x700
    fld w 8 4 = 10 ∧ bit w 0 = false ∧ (m.core 0).nano1 (fld w 17 9) = 0 ∧ (m.core 0).fetchBad 0x700 = false ∧ (m.thr 0).responses = [] ∧
      (m.thr 0).loads = [] ∧ (m.thr 0).modes = [] ∧ (m.thr 0).stepping = false ∧ (m.thr 0).bank.ds.length < 32 ∧ m.ctxBusy 0 = false := by
  decide +kernel
theorem witness_CustomerRoutines_contexts :
    let busy := up.updCore 0 fun c => { c with main := some { inContext 0 with tid := 1 } }
    let fly := (up.wbit .blkFbctl 17 true).updThr 0 fun x => { x with mf := 1, cls := 7 }
    busy.ctxBusy 0 = true ∧ fly.usesReserved 0 = true ∧ fly.ctxBusy 0 = false := by decide +kernel
theorem witness_CustomerRoutines_paused :
    let h : Shadow := (inContext 0).sh
    let m := up.updThr 0 fun x => { x with shadow := some h }
    let n := up.updCore 0 fun c => { c with main := some { inContext 0 with sh := { h with cust := false, mpc := 0x1C0 } } }
    m.ctxOf 0 = none ∧ (m.thr 0).shadow = some h ∧ h.cust = true ∧ runsB (st m) 0 0x0C0 = true ∧ m.outranked 0 = false ∧
      (n.ctxOf 0).isSome = true ∧ 0x700 ≤ h.mpc.toNat ∧ (inContext 0).waits = false := by decide +kernel

theorem witness_TimebaseAndAlarms_pop : let m := up.updEq 0 fun e => { e with stamps := [(5, 9)] }
    answersB (st m) .host ⟨.tbTspop, 0, 0⟩ = true ∧ (m.eq (m.r .tbTssel).toNat).stamps = (5, 9) :: [] ∧ up.alarmDue 0 = false := by decide +kernel
theorem witness_CodeCaches_fill : (up.codeLine 1 0).isSome = true ∧ cacheFind (up.lock 0).lcc 0 = none ∧ bit (up.r .dbgPatch 0) 17 = false ∧
    bit ((up.w .dbgPatch 0x20001 0).r .dbgPatch 0) 17 = true ∧ (271 : Nat) < 272 := by decide +kernel
theorem witness_Ingress_transfers : (quay none).transfers 15 = true ∧ up.transfers 15 = false ∧ (openOne false).discard = false ∧
    (openOne false).oversize = false ∧ (openOne false).parse = none := by decide +kernel
theorem witness_Ingress_timers : let m := (late.w .qiLim 0x4000 15).updIq 15 fun i => { i with frame := some (openOne false) }
    fld (m.r .qiLim 15) 17 14 ≠ 0 ∧ (m.iq 15).beatAt + 1000 * 2 ^ fld (m.r .qiLim 15) 17 14 ≤ m.now ∧
      (m.iq 15).violAt + 1000000 * fld (m.r .qiQthr 15) 11 0 ≤ m.now ∧ ¬ (up.iq 15).violAt + 1000000 * fld ((up.w .qiQthr 1 15).r .qiQthr 15) 11 0 ≤ up.now ∧
      (up.iq 15).waiting = [] ∧ (up.iq 15).ended = [] ∧ ((quay (some (openOne false))).resume 15 |>.iq 15).frame = some (openOne false) := by
  decide +kernel
theorem witness_Ingress_quarantine : bit ((up.w .qiViol 0x20000 15).r .qiViol 15) 17 = true ∧ bit (up.r .qiViol 15) 17 = false := by decide +kernel
/-- What a quay sends, at its last beat or before it. -/
def onWay (n : Nat) : Sending := ⟨shipped, none, 0, 0, 0, List.replicate n 0, [0], true, false, 0, 0⟩
theorem witness_GatesAndEgress_beats : (onWay 16).beat.eof = true ∧ (onWay 17).beat.eof = false ∧
    0 + 1000 * 2 ^ fld ((sending true).r .qeCtl 15) 3 0 ≤ late.now ∧ up.now < 0 + 1000 * 2 ^ fld ((sending true).r .qeCtl 15) 3 0 ∧
    fld ((up.w .qeCtl 0 15).r .qeCtl 15) 3 0 = 0 := by decide +kernel
theorem witness_GateLists_window : bit (up.r .sluGclsel) 13 = false ∧ bit ((up.w .sluGclsel 0x2000).r .sluGclsel) 13 = true ∧
    (up.updShape 0 fun s => { s with bank := true }).gclEntry.2.1 = false ∧ up.tb.ns < ((up.updShape 0 fun s => { s with changeAt := 9 }).shape 0).changeAt ∧
    answersB (st up) .host ⟨.sluGcld1, 0, 0⟩ = true := by decide +kernel
theorem witness_HelperCommands_next : let m := helped true 0 2 5 0 [0, 0, 0, 0, 0]
    m.firstCmd 0 = some ⟨0, 3⟩ ∧ (slot3 m).owed ≠ .timedOut ∧ (slot3 m).epoch = m.epochOf 0 ∧
    (slot3 (m.updThr 0 fun x => x.setDock 3 { x.dock 3 with owed := .timedOut })).owed = .timedOut ∧
    (slot3 (m.updThr 0 fun x => x.setDock 3 { x.dock 3 with epoch := 9 })).epoch ≠ m.epochOf 0 := by decide +kernel
theorem witness_HelperCommands_learn : let t : WbTable := ⟨0x22000, 0⟩
    (t.learn || (⟨0x21000, 0⟩ : WbTable).learn || (⟨0x3FFFF, 0⟩ : WbTable).learn) = true := by decide
/-- The frame of one hold in lock 0, with SA 0 enabled, keyed, for transmission if `tx`. -/
def sealable (tx : Bool) : Mach :=
  (((laid 20).w .sealCtl 0x20000).updSa 0 fun a => { a with ctl := 0x20020 + (if tx then 0x10000 else 0) }).setHeldCmds 1 [⟨0, 3⟩]
theorem witness_Seal_frame : let m := sealable true
    let mf := m.slotAddr 0 0
    m.manifest mf = some (0, 0) ∧ (m.sa 0).en = true ∧ (m.sa 0).kvalid = true ∧ (m.sa 0).tx = true ∧ ((sealable false).sa 0).tx = false ∧
      chainLen (chainTo (m.chainOf 0 mf) (m.mLen mf)) = m.mLen mf ∧ m.mLen mf = 20 ∧ bit (m.r .sealCtl) 17 = true ∧ m.manifest 0 = none := by
  decide +kernel
theorem witness_Seal_keys : let x := up.sa up.saSel
    (up.setStage (List.replicate 8 1)).sealU.stage.length = (if x.xpn then (if x.long then 16 else 8) + 6 else if x.long then 16 else 8) ∧
      (up.setStage [1]).sealU.stage.length ≠ 8 ∧ bit (0x08000#18) 15 = true ∧ bit (0x10000#18) 15 = false := by decide +kernel
theorem witness_Pools_reads : answersB (st up) .host ⟨.lkHoldalloc, 16, 0⟩ = true ∧ poolFits 0x3FFFF 6144 0 = false ∧
    (up.wu .lkFrctl 0 0x3FF).readerClass .host < 7 ∧
    7 ≤ (up.updThr 0 fun x => { x with mf := 1, cls := 7 }).readerClass (.thread 0) ∧ (up.wu .lkHoldcnt 0 0).freeHold 0 = none := by decide +kernel
theorem witness_EventAndThreadRegisters_restore : let h : ShovHold := ⟨1, true, false, [], false⟩
    ({ up with shovs := [(0, some h)] }.shovOn 0).filter (fun h => h.load) = some h ∧ (up.shovOn 0).filter (fun h => h.load) = none ∧
      Tid.ctl 0 = Ctl.unit (.lock 0) ∧ Tid.ctl 0xF80 = 31 ∧ Tid.core 0xF80 = up.activeTk ∧ Tid.ctl 0x80 ≠ Ctl.unit (.lock 0) := by decide +kernel
theorem witness_LockMap_states : let h : ShovHold := ⟨2049, false, false, [], false⟩
    ({ spareUp with shovs := [(2048, some h)] }.shovs.any fun e => e.1 / 128 == 16 && e.2.isSome) = true ∧
      (spareUp.shovs.any fun e => e.1 / 128 == 16 && e.2.isSome) = false ∧ (spareUp.lock 16).state = .spare ∧ (up.lock 16).state ≠ .held ∧
      (spareUp.lock (spareUp.plockOf 1)).state ≠ .serving ∧ up.fbOn = false ∧ (up.wbit .blkFbctl 17 true).fbOn = true ∧
      ¬ fld ((up.w .cnlVccfg 0x288).r .cnlVccfg) 5 0 < 8 ∧ fld ((up.w .cnlVccfg 0x280).r .cnlVccfg) 5 0 < 8 ∧ up.fbBusy = false := by decide +kernel
theorem witness_CoreRegisters_answers : answersB (st up) .host ⟨.crCnt, 271, 14⟩ = true := by decide +kernel

theorem witness_MemoryEngines_march1 : up.serves 16 = 0x1F ∧ up.evacOn 16 = false ∧ up.retired 16 15 = false ∧ up.quietLock 16 = true ∧
    (up.lock 16).spareRetired = false ∧ (up.lock 16).copy = none ∧ (up.lock 16).march = none ∧ up.owner 16 15 = 0 ∧
    fld (setBit (0x08010#18) 17 true) 4 0 = 16 ∧ fld (setBit (0x0800F#18) 17 true) 16 15 = 1 ∧ fld (0x10000#18) 16 15 = 2 ∧
    fld (0x18000#18) 16 15 = 3 ∧ up.mirrorOk 16 15 = true := by decide +kernel
theorem witness_MemoryEngines_done : let m := (up.updLock 0 fun k => { k with copy := some ⟨15, 3, true, false⟩ })
    (m.lock 0).copy = some ⟨15, 3, true, false⟩ ∧ fld (((up.updLock 0 fun k => { k with march := some (2, 0) }).wu .plMstat 0 0x2000).ru .plMstat 0) 13 11 = 4 ∧
    up.isOn 7 = true := by decide +kernel

/-- The keep controller free to write at the address that KEEP_DST names. -/
def keepFree : Mach := ((up.w .keepWp 0).w .keepDst 0 0).w .keepDst 0x1C 1
theorem witness_KeepStore_go : keepFree.keepBusy = false ∧ keepFree.keepRefusal keepFree.keepDst 1 = none ∧ keepFree.d0.powerFail = false ∧
    ({ keepFree with d0 := { keepFree.d0 with powerFail := true } } : Mach).keepRefusal keepFree.keepDst 1 = none ∧
    (up.w .keepWp 0).keepRefusal ((up.w .keepDst 1 0).w .keepWp 0).keepDst 1 = some 9 := by decide +kernel
theorem witness_KeepStore_ends : let k : KeepCmd := ⟨4, some 9, 0, 0x700000, 1, 0x700000, 0⟩
    let j : KeepCmd := ⟨1, some 0, 0, 0x700000, 1, 0x700000, 0⟩
    ({ up with keep := some k } : Mach).keep = some k ∧ k.code = some 9 ∧ (9 : BitVec 4) ≠ 0 ∧ j.code = some 0 ∧ j.op = 1 := by decide

theorem witness_Power_changes : (up.setPower 23 .changing).power 23 = .changing ∧ (up.setPower 23 .retention).power 23 = .retention ∧
    (up.lock 16).parked = false ∧ ((up.updLock 16 fun k => { k with state := .held }).lock 16).parked = true ∧ up.isoState ≠ 2 ∧
    late.past up.d0.fltAt 1000 = true ∧ up.past up.d0.fltAt 1000 = false ∧ (up.w .pwrIso 0x4000).isoState ≠ 0 := by decide +kernel
theorem witness_Evacuation_past : let m : Mach := { late with evac := some ⟨0, 16, 0, 0⟩ }.setEvac 3
    m.evacState = 3 ∧ m.past 0 (1000 * fld (m.r .blkEvdrain) 13 0) = true ∧
    (evacuating 3).past 0 (1000 * fld (((evacuating 3).w .blkEvdrain 1).r .blkEvdrain) 13 0) = false ∧ up.evacHolders = [] := by decide +kernel
theorem witness_Evacuation_abort : let put (m : Mach) : Mach := m.w .blkEvac (setFld (setBit (m.r .blkEvac) 12 false) 3 0 0)
    (put (evacuating 1)).evacState = 1 ∧ (put up).evacState ≠ 1 ∧ (put up).evacState ≠ 2 := by decide +kernel
theorem witness_Evacuation_move : let stop (x : Thread) : Thread := { x with halted := true, cause := 6 }
    let m := ((evacuating 3).updThr 0 stop).updThr 2048 stop
    m.moveOk 0 2048 = true ∧ up.moveOk 0 2048 = false := by decide +kernel

theorem witness_Failover_exchange : let m : Mach := { up with xchg := some 0 }
    m.xchg = some 0 ∧ up.xchgRefused 0 = true ∧ up.xchgRefused 2 = true := by decide +kernel
theorem witness_Failover_due : let m := late.w .pwrBoot 0x20000
    8 ≤ m.bootStep ∧ late.past late.d0.tkSvcB (1000 * fld (late.r .blkTkwd) 15 0) = true ∧ ((late.w .pwrBwd 0x20001).bwdLeft = 0) := by decide +kernel

theorem witness_DictionaryCommands_full : let q : Dict := { up.dict with waits := List.replicate 16 (.window 0) }
    16 ≤ ({ up with dict := q } : Mach).dict.waits.length ∧ up.dict.waits.length < 16 ∧
      ({ up with d0 := { up.d0 with tkHeldA := true } } : Mach).fwRuns = false := by decide +kernel
/-- Whether a stage ends in a code, and how a read does. -/
def readOk (i j : Nat) : Bool := match up.odGet i j with | .ok _ => true | .error _ => false
theorem witness_DictionaryCommands_reads : readOk 0x1000 0 = true ∧ readOk 0x0FFF 0 = false := by decide +kernel
theorem witness_DictionaryCommands_kinds : accOfEntry 0x1000 0 = some .const ∧ accOfEntry 0x5003 4 ≠ none := by decide +kernel

theorem witness_LppRequests_timers : let e : LppSession := ⟨1, 0, 16, 0, 0, 0⟩
    let t : Transfer := ⟨true, 0, 0, 0, [], 0⟩
    let u : Subscr := ⟨0, 0x1000, 0, 1, 0, 0, 0, [], [], 0⟩
    let m : Mach := { late with dict := { up.dict with sessions := [(0, e)], transfers := [(0, t)], subs := [(0, u)] } }
    m.dict.sessions.any (fun e => e.1 == 0 && m.past e.2.heard (1000000000 * beNat (m.odVarValue 0x120002 (beOctets 60 3)))) = true ∧
      m.transfer 0 = some t ∧ m.past t.since 100000000 = true ∧ up.past t.since 100000000 = false ∧
      m.dict.subs.find? (fun e => e.1 == 0) = some (0, u) ∧ m.past u.sent (1000000 * max 1 u.period.toNat) = true ∧
      up.dict.sessions.any (fun e => e.1 == 0) = false := by decide +kernel
theorem witness_LppRequests_queue : let m : Mach := { up with dict := { up.dict with lppQueue := [5] } }
    m.dict.lppQueue = 5 :: [] ∧ answersB (st m) .host ⟨.blkLpppop0, 0, 0⟩ = true ∧ answersB (st m) .host ⟨.blkLppnew0, 0, 0⟩ = true ∧
      (up.lppAlloc 0).isSome = true ∧ ((up.setPower 7 .off).lppAlloc 0).isNone = true := by decide +kernel

/-- The session of the wire changed. -/
def onWire (f : Session → Session) : Mach := (session 2).updSession f
theorem witness_WirePulses_slots : let w (m : Mach) : Mach := m.wirePoll.updSession fun e => { e with slotAt := m.now }
    ((w (onWire fun e => { e with tx := [1, 2] })).d0.session.map fun e => (e.tx, e.endAfter)) = some ([1, 2], false) ∧
    ((w (onWire fun e => { e with tx := [1], txBit := 7, endAfter := true })).d0.session.map fun e => (e.tx, e.txBit, e.cmdBusy, e.endAfter)) =
      some ([1], 7, false, true) ∧
    ((w (onWire fun e => { e with tx := [] })).d0.session.map fun e => (e.tx, e.cmdBusy)) = some ([], false) ∧ (w up).d0.session = none := by
  decide +kernel
/-- A run command that still waits for thread 0 to halt. -/
def running : Mach :=
  let m := (onWire fun e => { e with tx := [], cmdBusy := true }).updThr 0 fun x => { x with haltReq := some 1, bySession := true }
  { m with d0 := { m.d0 with lastRun := some (false, false, 0) } }
theorem witness_WirePulses_busy : (running.wirePoll.d0.session.map fun e => (e.tx, e.cmdBusy)) = some ([], true) ∧
    running.past 0 100000 = false ∧ ({ running with tb := late.tb } : Mach).wirePoll.past 0 100000 = true ∧ late.past 0 10000000000 = true ∧
    up.past 0 10000000000 = false := by decide +kernel
theorem witness_WirePackets_states : (session 2).d0.lockout = false ∧ (session 2).isOn 5 = true ∧ (session 2).d0.porst = false ∧
    ((session 2).setPower 5 .off).isOn 5 = false ∧ (withD0 fun d => { d with lockout := true }).d0.lockout = true := by decide +kernel
theorem witness_WirePackets_sums : crc8 [10] ≠ crc8 [1] ∧ accessOk 1 0x7000000 = true ∧ (decide ((273 : BitVec 16).toNat < 274)) = true := by
  decide +kernel
theorem witness_RunControl_held : let x := (one fun x => { x with halted := true }).m.thr 0
    x.halted = true ∧ x.faulted = false ∧ (one fun x => { x with halted := true }).m.coreRuns 0 = true ∧ x.shadow = none ∧ up.shovOn 0 = none := by
  decide +kernel
theorem witness_LifeCycleAndTerminals_key : let m := withD0 fun d => { d with lcState := 1, stagedKey := List.replicate 7 1 }
    8 ≤ (m.d0.stagedKey ++ [1#16]).length ∧ ([] ++ [1#16]).length < 8 ∧ late.past up.d0.lockAt 1000000000 = true ∧
      up.past up.d0.lockAt 1000000000 = false ∧ targetOk 0xFF = false ∧ answersB (st up) .host ⟨.dbgVtout, 0, 0⟩ = true ∧
      ((up.setPower 5 .off).isOn 5 = false) := by decide +kernel
theorem witness_RegisterAccess_codes : (⟨.blkHpctl, 0, 0⟩ : RegRef).key ≠ (⟨.blkRemap, 0, 0⟩ : RegRef).key ∧
    up.narrowed ⟨.blkRemap, 0, 0⟩ .host true = false ∧ up.isOn (RegRef.domain ⟨.blkRemap, 0, 0⟩) = true ∧
    (withD0 fun d => { d with lcState := 3 }).narrowed ⟨.thView, 0, 0⟩ .host true = true := by decide +kernel

/-! ## Examples of the spec, worked by hand -/

/-- What `exec` leaves of thread 0 of lock 0, where it answers a next state. -/
def after {α : Type} (i : Instr) (s : State) (f : Thread → α) : Option α :=
  match exec i s with
  | .next t => some (f (t.m.thr 0))
  | _ => none
/-- The data stack it leaves, top first. -/
def stackOf (i : Instr) (ds : List Cell) : Option (List Cell) := after i (cells ds) fun x => x.bank.ds
/-- The nano-word of four loader cells, WL_NDATA0, 1, 2 and 5 (spec/10_windlass_microcode.md, the worked example). -/
def nano (a b c d : Nat) : BitVec 144 := BitVec.ofNat 144 (a + b * 2 ^ 18 + c * 2 ^ 36 + d * 2 ^ 90)
/-- `oadd` in slot 5 of core 0, as spec/10_windlass_microcode.md lists what the loader writes. -/
def oadd : Mach :=
  let m := (up.wu .wlDt 0 0x20700 10).wu .wlDt 0 0x11 11
  let micro : Map Cell := [(0x700, 0x38000), (0x701, 0x38200), (0x702, 0x38400), (0x703, 0x38600), (0x704, 0x388A0)]
  let words : Map (BitVec 144) :=
    [(0x1C0, nano 0x4218 0xC020 0x50 0), (0x1C1, nano 0xC060 0xC380 0 0x2000), (0x1C2, nano 0xC018 0xC061 0 0),
     (0x1C3, nano 0xC058 0xC180 0 0x400), (0x1C4, nano 0xC060 0x180 0x80 0x400)]
  m.updCore 0 fun c => { c with micro := micro, nano := words }
/-- The example's a = 0xFFF0 and b = 0x0020 leave 0x0_0011. -/
theorem test_customer_slot_oadd :
    after (.customerSlot 0 5) (st (oadd.updThr 0 fun x => x.setBank { x.bank with ds := [0xFFF0, 0x20] })) (fun x => x.bank.ds) = some [0x11] := by
  decide +kernel
/-- R189: a step of the division of 1,000 by 7 shifts the double left, and 0 is below 7. -/
theorem test_dstep_shifts : stackOf (.dstep 0) [7, 0, 1000] = some [7, 0, 2000] := by decide +kernel
/-- R189: 3 and the top bit of the low cell make 7, which 7 divides once. -/
theorem test_dstep_divides : stackOf (.dstep 0) [7, 3, 0x20000] = some [7, 0, 1] := by decide +kernel
/-- R188: 0x1FFFF + 1 is negative, with N and V and without C. -/
theorem test_add_overflow : stackOf (.add 0) [0x1FFFF, 1] = some [0x20000] ∧
    (after (.add 0) (cells [0x1FFFF, 1]) fun x => fld x.bank.flg 4 1) = some 0b1001 := by decide +kernel
/-- spec/09_tally_coprocessor.md, the worked example: 8,000,024 is exact in binary32. -/
theorem test_fcvt_from_int : (fmtS.fromInt 0 8000024).1 = 0x4AF42430 ∧ (fmtS.fromInt 0 80000).1 = 0x479C4000 := by decide +kernel
/-- The check value of CRC-32C (RFC 3720: 32 octets of zero give 0x8A9136AA, least significant octet first 0xAA 0x36 0x91 0x8A). -/
theorem test_crc32c_zeros : crc32c (List.replicate 32 0) = 0x8A9136AA := by decide +kernel
/-- CRC-8 with the polynomial of R453: the check value over the digits 1 to 9. -/
theorem test_crc8_digits : crc8 [0x31, 0x32, 0x33, 0x34, 0x35, 0x36, 0x37, 0x38, 0x39] = 0xF4 := by decide +kernel
/-- RFC 4493, example 1: AES-CMAC of the empty message. -/
theorem test_cmac_empty : aesCmac 0x2b7e151628aed2a6abf7158809cf4f3c [] =
    [0xbb, 0x1d, 0x69, 0x29, 0xe9, 0x59, 0x37, 0x28, 0x7f, 0xa3, 0x7d, 0x12, 0x9b, 0x75, 0x67, 0x46] := by decide +kernel
/-- spec/13_object_dictionary.md, the worked example: 1,234,567,890 is U36 0x4_9960_2D2 in five octets. -/
theorem test_u36_octets : beOctets 1234567890 5 = [0x00, 0x49, 0x96, 0x02, 0xD2] := by decide +kernel

/-- spec/06_bolcia_instructions.md, the worked example `udiv` at 0x1200: syllables 0, swap, 18, >i, dstep, loop and ret. -/
theorem test_decode_udiv :
    decodeSyllables 0 [0x100] = some (.shortLiteral 0 0, 1) ∧ decodeSyllables 0 [0x003] = some (.swap 0, 1) ∧
    decodeSyllables 0 [0x112] = some (.shortLiteral 0 18, 1) ∧ decodeSyllables 0 [0x014] = some (.toI 0, 1) ∧
    decodeSyllables 0 [0x036] = some (.dstep 0, 1) ∧ decodeSyllables 0 [0x1A8, 0x1FD] = some (.loopOp 0 false (-3), 2) ∧
    decodeSyllables 0 [0x1AA] = some (.ret 0, 1) := by decide +kernel
/-- R181, R197: a literal, a double, a long branch and a call, most significant syllable first; R182: 0x167 and 0x1C0. -/
theorem test_decode_operands :
    decodeSyllables 5 [0x00E, 0x001, 0x002] = some (.lit 5 0x202, 3) ∧
    decodeSyllables 5 [0x00F, 1, 2, 3, 4] = some (.litD 5 0x8080604, 5) ∧
    decodeSyllables 5 [0x191, 0x1FF, 0x1FE] = some (.bCc 5 1 true (-2), 3) ∧
    decodeSyllables 5 [0x1A2, 0, 1] = some (.call 5 0x80001, 3) ∧
    decodeSyllables 5 [0x177, 0x053] = some (.fma 5 true 0x053, 2) ∧
    decodeSyllables 5 [0x167] = some (.illegalSyllable 5 0x167, 1) ∧
    decodeSyllables 5 [0x1C0] = some (.illegalSyllable 5 0x1C0, 1) ∧ decodeSyllables 5 [0x00E, 0] = none := by decide +kernel

end Sys2Proof.Tests
end

/-!
PROOFS. The queue (O1, O2, O3): what a command may come to, and from it what a step and a run leave of the queue.
-/
namespace Sys2Proof.Machine

/-! ## What a command may come to -/

/-- What a command may come to: a next state that differs from the one it began in by the block alone, or the fault of a thread that the
block does not have, which no well-formed command meets. -/
def CompletesOrFaults (ok : Bool) (s : State) (o : Host.Outcome State Fault Refusal) : Prop :=
  (∃ m, o = .next { s with m := m }) ∨ (o = .fault .noSuchThread ∧ ok = false)

theorem done_completes (ok : Bool) (s : State) (m : Mach) : CompletesOrFaults ok s (done s m) := .inl ⟨m, rfl⟩

theorem onThread_completes (t : Tid) (s : State) (f : Mach → Mach) : CompletesOrFaults (threadOk t) s (onThread t s f) := by
  by_cases h : Tid.ok t = true
  · rw [onThread_of_ok h]; exact done_completes ..
  · exact .inr ⟨if_neg h, eq_false_of_ne_true h⟩

theorem gaugerLeaf_completes (q : Quay) (s : State) : CompletesOrFaults true s (execGaugerLeaf q s) := by
  simp only [execGaugerLeaf]
  split
  · exact done_completes ..
  · split
    · exact done_completes ..
    · split <;> exact done_completes ..

theorem missingEof_completes (q : Quay) (s : State) : CompletesOrFaults true s (execMissingEof q s) := by
  simp only [execMissingEof]
  split
  · split <;> exact done_completes ..
  · exact done_completes ..

theorem ingressHoldResume_completes (q : Quay) (s : State) : CompletesOrFaults true s (execIngressHoldResume q s) := by
  simp only [execIngressHoldResume]
  split <;> exact done_completes ..

/-- Every command completes or names a thread that the block does not have (R7). The commands have three forms: those of the ingress
quays that decide by the frame they find, those that are `done` at once, and a thread's, which have the form `onThread`. -/
theorem exec_completes (c : Instr) (s : State) : CompletesOrFaults c.wf s (exec c s) := by
  cases c
  case gaugerLeaf q => exact gaugerLeaf_completes q s
  case missingEof q => exact missingEof_completes q s
  case ingressHoldResume q => exact ingressHoldResume_completes q s
  any_goals exact done_completes ..
  all_goals
    dsimp only [exec]
    exact onThread_completes ..

/-! ## Steps and runs -/

theorem step_cons (c : Instr) (r : List Instr) (m : Mach) : step ⟨c :: r, m⟩ = exec c ⟨r, m⟩ := rfl

theorem step_empty (s : State) (h : s.pending = []) : step s = s.becomes s.m.idle := by
  obtain ⟨_, m⟩ := s
  subst h; rfl

/-- A command that completes leaves the queue as it stands. -/
theorem exec_pending {c : Instr} {s s' : State} (h : exec c s = .next s') : s'.pending = s.pending := by
  rcases exec_completes c s with ⟨m, hm⟩ | ⟨hf, _⟩
  · cases hm.symm.trans h; rfl
  · cases hf.symm.trans h

/-- A well-formed command completes. -/
theorem exec_of_wf {c : Instr} (s : State) (h : c.wf = true) : ∃ m, exec c s = .next { s with m := m } := by
  rcases exec_completes c s with hm | ⟨_, hw⟩
  · exact hm
  · exact absurd (h.symm.trans hw) (by decide)

theorem exec_ne_refused (c : Instr) (s : State) (r : Refusal) : exec c s ≠ .refused r := by
  rcases exec_completes c s with ⟨m, hm⟩ | ⟨hf, _⟩
  · simp [hm]
  · simp [hf]

theorem exec_fault_wf {c : Instr} {s : State} {f : Fault} (h : exec c s = .fault f) : c.wf = false := by
  rcases exec_completes c s with ⟨m, hm⟩ | ⟨_, hw⟩
  · cases hm.symm.trans h
  · exact hw

/-- A step takes the front command alone from the queue. -/
theorem step_pending {s s' : State} (h : step s = .next s') : s'.pending = s.pending.tail := by
  obtain ⟨q, m⟩ := s
  cases q with
  | nil => cases h; rfl
  | cons c r => exact exec_pending h

theorem safeQueue_step {s s' : State} (hs : SafeQueue s) (h : step s = .next s') : SafeQueue s' := fun c hc =>
  hs c (List.mem_of_mem_tail (step_pending h ▸ hc))

theorem run_succ_of_step {M : Host.Core} {s s' : M.State} (h : M.step s = .next s') (k : Nat) : M.run (k + 1) s = M.run k s' := by
  rw [Host.Core.run, h]

/-- After k steps of a queue of well-formed commands the first k have left it: induction along the queue. -/
theorem run_of_safeQueue (q : List Instr) (m : Mach) (hs : SafeQueue ⟨q, m⟩) (k : Nat) (hk : k ≤ q.length) :
    ∃ m', Host.Core.run core k (⟨q, m⟩ : State) = .next (⟨q.drop k, m'⟩ : State) := by
  induction q generalizing m k with
  | nil => exact ⟨m, by rw [Nat.le_zero.mp hk]; rfl⟩
  | cons c r ih =>
    cases k with
    | zero => exact ⟨m, rfl⟩
    | succ k =>
      obtain ⟨n, hn⟩ := exec_of_wf ⟨r, m⟩ (hs c List.mem_cons_self)
      obtain ⟨m', hm'⟩ := ih n (fun d hd => hs d (List.mem_cons_of_mem c hd)) k (Nat.le_of_succ_le_succ hk)
      exact ⟨m', (run_succ_of_step hn k).trans hm'⟩

/-! ## The statements -/

/-- Settles O1, by the equations of `step`; no word spells a command. -/
theorem stepRunsFront : Obligations.StepRunsFront := by
  unfold Obligations.StepRunsFront
  exact fun c s _ _ => ⟨step_cons c s.pending s.m, step_empty s, rfl⟩

/-- Settles O3: every command completes or names a thread that the block does not have. -/
theorem queueOrder : Obligations.QueueOrder := by
  unfold Obligations.QueueOrder
  exact ⟨fun _ _ => step_pending, exec_ne_refused, fun _ _ _ => exec_fault_wf, fun t s h => if_neg (by simp [h])⟩

/-- Settles O2, by induction along the queue. -/
theorem queueInvariant : Obligations.QueueInvariant := by
  unfold Obligations.QueueInvariant
  exact fun s hs => ⟨fun _ => safeQueue_step hs, run_of_safeQueue s.pending s.m hs⟩

end Sys2Proof.Machine

/-!
PROOFS. A thread's own stowage (O6, R8, R314): where its nonets lie, what a store to them changes, and that it reads back.
-/
namespace Sys2Proof.Machine

/-! ## Values as nonets -/

theorem pack_unpack (v n : Nat) : pack (unpack v n) = v % 512 ^ n := by
  induction n generalizing v with
  | zero => simp [unpack, pack, Nat.mod_one]
  | succ n ih => simp only [unpack, pack, ih, BitVec.toNat_ofNat, pow_succ' 512, Nat.mod_mul, Nat.reducePow]

theorem unpack_length (v n : Nat) : (unpack v n).length = n := by
  induction n generalizing v with
  | zero => rfl
  | succ n ih => simp [unpack, ih]

/-- Two bit vectors side by side, as a sum. -/
theorem toNat_append_eq_add {v w : Nat} (x : BitVec v) (y : BitVec w) : (x ++ y).toNat = x.toNat * 2 ^ w + y.toNat := by
  rw [BitVec.toNat_append, ← Nat.shiftLeft_add_eq_or_of_lt y.isLt, Nat.shiftLeft_eq]

/-- A cell in memory has its lower nonet in bits 8:0 (R8). -/
theorem rdCell_eq_append (m : Mach) (o : Option Tid) (a : Nat) :
    m.rdCell o a = m.rd1 (m.place o (a + 1)) ++ m.rd1 (m.place o a) := by
  apply BitVec.eq_of_toNat_eq
  have hlo := (m.rd1 (m.place o a)).isLt
  have hhi := (m.rd1 (m.place o (a + 1))).isLt
  have hpack : pack (m.rdN o a 2) = (m.rd1 (m.place o a)).toNat + 512 * (m.rd1 (m.place o (a + 1))).toNat := rfl
  rw [toNat_append_eq_add, Mach.rdCell, BitVec.toNat_ofNat, hpack]
  omega

/-- A double in memory has its lower cell in bits 17:0 (R8). -/
theorem rdDbl_eq_append (m : Mach) (o : Option Tid) (a : Nat) : m.rdDbl o a = m.rdCell o (a + 2) ++ m.rdCell o a := by
  apply BitVec.eq_of_toNat_eq
  have hlo := (m.rdCell o a).isLt
  have hhi := (m.rdCell o (a + 2)).isLt
  have hpack : pack (m.rdN o a 4) = (m.rdCell o a).toNat + 2 ^ 18 * (m.rdCell o (a + 2)).toNat := by
    simp only [rdCell_eq_append, toNat_append_eq_add]
    simp only [Mach.rdN, Mach.placesOf, List.range, List.range.loop, List.map, pack, Nat.add_assoc, Nat.add_zero, Nat.reduceAdd]
    omega
  rw [toNat_append_eq_add, Mach.rdDbl, BitVec.toNat_ofNat, hpack]
  omega

/-! ## Where a thread's own stowage lies -/

/-- A thread of a lock, which is no tollkeeper's. -/
theorem coreNo_lt {t : Tid} (hok : Tid.ok t = true) (htk : Tid.tk t = false) : Tid.coreNo t < 272 := by
  have hcore : Tid.core t < 16 := Nat.mod_lt _ (by decide)
  simp only [Tid.ok, Tid.tk, Bool.or_eq_true, Bool.and_eq_true, decide_eq_true_eq, decide_eq_false_iff_not] at hok htk
  simp only [Tid.coreNo, Tid.tk, htk, decide_false, Bool.false_eq_true, if_false]
  omega

/-- The lowest addresses of a thread name its own core's stowage, whatever the state (R314). -/
theorem place_own (m : Mach) (t : Tid) {a : Nat} (h : a < 0x4000) : m.place (some t) a = .stow (Tid.coreNo t) a := by
  simp [Mach.place, h]

theorem rd1_stow (m : Mach) (k off : Nat) : m.rd1 (.stow k off) = m.mem1 (stowKey k off) := rfl

theorem rdN_own (m : Mach) (t : Tid) {a n : Nat} (h : a + n ≤ 0x4000) :
    m.rdN (some t) a n = (List.range n).map fun i => m.mem1 (stowKey (Tid.coreNo t) a + i) := by
  simp only [Mach.rdN, Mach.placesOf, List.map_map]
  refine List.map_congr_left fun i hi => ?_
  have hi := List.mem_range.mp hi
  rw [Function.comp_apply, place_own m t (by omega), rd1_stow]
  simp [stowKey, Nat.add_assoc]

/-- A store to the stowage of a lock's core is kept there alone; only the tollkeepers' has a mirror (R423). -/
theorem wr1_stow (m : Mach) {k : Nat} (off : Nat) (v : Nonet) (whole : Bool) (but : Option Tid) (h : k < 272) :
    m.wr1 (.stow k off) v whole but = m.putKey (stowKey k off) v whole := by
  have hk : k ≠ 272 + m.activeTk := by omega
  simp [Mach.wr1, hk]

/-! ## What a store to it changes -/

theorem foldl_keeps {α β : Type} (g : Mach → β) (f : Mach → α → Mach) (l : List α) (m : Mach)
    (h : ∀ n, ∀ x ∈ l, g (f n x) = g n) : g (l.foldl f m) = g m := by
  induction l generalizing m with
  | nil => rfl
  | cons x r ih => rw [List.foldl_cons, ih _ fun n y hy => h n y (.tail _ hy), h m x (.head _)]

theorem foldl_eq_self {α : Type} (f : Mach → α → Mach) (l : List α) (m : Mach) (h : ∀ x ∈ l, f m x = m) : l.foldl f m = m := by
  induction l with
  | nil => rfl
  | cons x r ih => rw [List.foldl_cons, h x (.head _), ih fun y hy => h y (.tail _ hy)]

/-- A nonet written at a key: the memory alone changes, and the check bits where the word becomes good. -/
theorem putKey_cases (m : Mach) (k : Nat) (v : Nonet) (whole : Bool) :
    m.putKey k v whole = m.put1 k v ∨ m.putKey k v whole = (m.put1 k v).setEcc (k / 8) 0 := by
  unfold Mach.putKey
  dsimp only
  split
  · exact .inr rfl
  · split
    · exact .inr rfl
    · exact .inl rfl

@[simp] theorem putKey_threads (m : Mach) (k : Nat) (v : Nonet) (whole : Bool) : (m.putKey k v whole).threads = m.threads := by
  rcases putKey_cases m k v whole with h | h <;> simp [h]
@[simp] theorem putKey_locks (m : Mach) (k : Nat) (v : Nonet) (whole : Bool) : (m.putKey k v whole).locks = m.locks := by
  rcases putKey_cases m k v whole with h | h <;> simp [h]
@[simp] theorem putKey_regs (m : Mach) (k : Nat) (v : Nonet) (whole : Bool) : (m.putKey k v whole).regs = m.regs := by
  rcases putKey_cases m k v whole with h | h <;> simp [h]

/-- The record of a word of stowage that is read with an error lies in the registers and the counters (R320). -/
theorem note1_stow_frame (m : Mach) (k off : Nat) :
    (m.note1 (.stow k off)).threads = m.threads ∧ (m.note1 (.stow k off)).locks = m.locks := by
  simp only [Mach.note1, Mach.wordOf, Mach.keyOf, Option.map_some]
  split
  · exact ⟨rfl, rfl⟩
  · split <;> split <;> exact ⟨rfl, rfl⟩

theorem note1_stow_of_good {m : Mach} {k off : Nat} (h : m.eccOf (stowKey k off / 8) = 0) : m.note1 (.stow k off) = m := by
  simp [Mach.note1, Mach.wordOf, Mach.keyOf, h]

theorem notePart_own_frame (m : Mach) (t : Tid) {a n : Nat} (h : a + n ≤ 0x4000) :
    (m.notePart (some t) a n).threads = m.threads ∧ (m.notePart (some t) a n).locks = m.locks := by
  rw [← Prod.mk.injEq]
  refine foldl_keeps (fun m => (m.threads, m.locks)) _ _ m fun m' i hi => ?_
  have hi := List.mem_range.mp hi
  split
  · rw [place_own m' t (by omega), (note1_stow_frame ..).1, (note1_stow_frame ..).2]
  · rfl

theorem notePart_own_of_good {m : Mach} {t : Tid} {a n : Nat} (h : a + n ≤ 0x4000)
    (hgood : ∀ i < n, m.eccOf ((stowKey (Tid.coreNo t) a + i) / 8) = 0) : m.notePart (some t) a n = m := by
  refine foldl_eq_self _ _ m fun i hi => ?_
  have hi := List.mem_range.mp hi
  split
  · rw [place_own m t (by omega)]
    exact note1_stow_of_good (by rw [stowKey, ← Nat.add_assoc]; exact hgood i hi)
  · rfl

/-- What nonets put at keys in a row leave at a key. -/
theorem foldl_putKey_mem1 (base : Nat) (whole : Nat → Bool) (ns : List Nonet) (i j : Nat) (m : Mach) :
    ((ns.zipIdx i).foldl (fun m e => m.putKey (base + e.2) e.1 (whole e.2)) m).mem1 j =
      if base + i ≤ j then ns[j - (base + i)]?.getD (m.mem1 j) else m.mem1 j := by
  induction ns generalizing i m with
  | nil => simp
  | cons v r ih =>
    rw [List.zipIdx_cons, List.foldl_cons, ih, putKey_mem1]
    rcases lt_trichotomy j (base + i) with hlt | heq | hgt
    · rw [if_neg (by omega), if_neg (by omega), if_neg (by omega)]
    · subst heq; simp
    · obtain ⟨d, rfl⟩ := Nat.exists_eq_add_of_lt hgt
      have hne : ¬base + i + d + 1 = base + i := by omega
      rw [if_neg hne, if_pos (by omega), if_pos (by omega), show base + i + d + 1 - (base + (i + 1)) = d by omega,
        show base + i + d + 1 - (base + i) = d + 1 by omega, List.getElem?_cons_succ]

/-- A store to a thread's own stowage puts its nonets at the keys there, after the words that it covers in part are read. -/
theorem wrN_own (m : Mach) {t : Tid} {a : Nat} {ns : List Nonet} (hc : Tid.coreNo t < 272) (h : a + ns.length ≤ 0x4000) :
    m.wrN (some t) a ns = ns.zipIdx.foldl
      (fun m e => m.putKey (stowKey (Tid.coreNo t) a + e.2) e.1 (wholeWord a ns.length (a + e.2)))
      (m.notePart (some t) a ns.length) := by
  refine List.foldl_ext _ _ _ fun m' e he => ?_
  have he := List.snd_lt_of_mem_zipIdx he
  dsimp only
  rw [place_own m' t (by omega), wr1_stow m' _ _ _ _ hc, stowKey, ← Nat.add_assoc]
  rfl

theorem wrN_own_frame (m : Mach) {t : Tid} {a : Nat} {ns : List Nonet} (hc : Tid.coreNo t < 272) (h : a + ns.length ≤ 0x4000) :
    (m.wrN (some t) a ns).threads = m.threads ∧ (m.wrN (some t) a ns).locks = m.locks := by
  obtain ⟨hthreads, hlocks⟩ := notePart_own_frame m t h
  rw [wrN_own m hc h, ← hthreads, ← hlocks]
  exact ⟨foldl_keeps Mach.threads _ _ _ fun _ _ _ => putKey_threads ..,
    foldl_keeps Mach.locks _ _ _ fun _ _ _ => putKey_locks ..⟩

/-- Where no word stored to was bad, no register records an error (R320). -/
theorem wrN_own_regs {m : Mach} {t : Tid} {a : Nat} {ns : List Nonet} (hc : Tid.coreNo t < 272) (h : a + ns.length ≤ 0x4000)
    (hgood : ∀ i < ns.length, m.eccOf ((stowKey (Tid.coreNo t) a + i) / 8) = 0) : (m.wrN (some t) a ns).regs = m.regs := by
  rw [wrN_own m hc h, notePart_own_of_good h hgood]
  exact foldl_keeps Mach.regs _ _ _ fun _ _ _ => putKey_regs ..

theorem wrN_own_mem1 (m : Mach) {t : Tid} {a : Nat} {ns : List Nonet} (hc : Tid.coreNo t < 272) (h : a + ns.length ≤ 0x4000) (j : Nat) :
    (m.wrN (some t) a ns).mem1 j =
      if stowKey (Tid.coreNo t) a ≤ j then ns[j - stowKey (Tid.coreNo t) a]?.getD (m.mem1 j) else m.mem1 j := by
  have hnote : (m.notePart (some t) a ns.length).mem1 j = m.mem1 j := by simp [Mach.mem1]
  rw [wrN_own m hc h, foldl_putKey_mem1 _ (fun i => wholeWord a ns.length (a + i)), hnote, Nat.add_zero]

theorem wrN_own_mem1_outside (m : Mach) {t : Tid} {a : Nat} {ns : List Nonet} (hc : Tid.coreNo t < 272)
    (h : a + ns.length ≤ 0x4000) {j : Nat} (hj : j < stowKey (Tid.coreNo t) a ∨ stowKey (Tid.coreNo t) a + ns.length ≤ j) :
    (m.wrN (some t) a ns).mem1 j = m.mem1 j := by
  rw [wrN_own_mem1 m hc h]
  rcases hj with hlow | hhigh
  · rw [if_neg (by omega)]
  · rw [if_pos (by omega), List.getElem?_eq_none (by omega)]; rfl

/-- What is stored in a thread's own stowage reads back, lowest nonet first. -/
theorem rdN_wrN_own (m : Mach) {t : Tid} {a : Nat} {ns : List Nonet} (hc : Tid.coreNo t < 272) (h : a + ns.length ≤ 0x4000) :
    (m.wrN (some t) a ns).rdN (some t) a ns.length = ns := by
  rw [rdN_own _ t h]
  refine List.ext_getElem (by simp) fun i hi hi' => ?_
  simp [wrN_own_mem1 m hc h, hi']

theorem rdCell_wrCell_own (m : Mach) {t : Tid} {a : Nat} (v : Cell) (hc : Tid.coreNo t < 272) (h : a + 2 ≤ 0x4000) :
    (m.wrCell (some t) a v).rdCell (some t) a = v := by
  have hback := rdN_wrN_own m (ns := unpack v.toNat 2) hc h
  rw [unpack_length] at hback
  rw [Mach.wrCell, Mach.rdCell, hback, pack_unpack]
  exact BitVec.eq_of_toNat_eq (by simp [Nat.mod_eq_of_lt v.isLt])

/-! ## The statement -/

/-- Settles O6: a thread that is no tollkeeper's has its stowage in a lock's core, where a store has no mirror. -/
theorem memoryReadsBack : Obligations.MemoryReadsBack := by
  unfold Obligations.MemoryReadsBack
  refine ⟨fun m o a => ⟨rdCell_eq_append m o a, rdDbl_eq_append m o a⟩, fun m t a ns v hok htk => ?_⟩
  have hc := coreNo_lt hok htk
  refine ⟨fun h => ⟨rdN_wrN_own m hc h, fun _ => wrN_own_mem1_outside m hc h, ?_, ?_, wrN_own_regs hc h⟩, rdCell_wrCell_own m v hc⟩
  · exact (wrN_own_frame m hc h).1
  · exact (wrN_own_frame m hc h).2

end Sys2Proof.Machine

/-!
PROOFS. A write at a data address (O59): the register that the address names is looked up, and takes the write, refuses it or is off.
-/
namespace Sys2Proof.Machine

/-! ## A register written by a master -/

theorem regWrite_off {m : Mach} {r : RegRef} {v : Cell} {who : Master} (h : m.isOn r.domain = false) : m.regWrite r v who = m := by
  simp [Mach.regWrite, h]

theorem regWrite_of_mayWrite {m : Mach} {r : RegRef} {v : Cell} {who : Master} (hcmd : r.reg ≠ .odCmd) (hon : m.isOn r.domain = true)
    (hw : m.mayWrite r who = true) : m.regWrite r v who = m.regStore r v who := by
  simp [Mach.regWrite, Mach.regWrite1, hcmd, hon, hw]

theorem regWrite_refused {m : Mach} {r : RegRef} {v : Cell} {who : Master} (hcmd : r.reg ≠ .odCmd) (hon : m.isOn r.domain = true)
    (hw : m.mayWrite r who = false) : m.regWrite r v who = m.refusedWrite r who := by
  simp [Mach.regWrite, Mach.regWrite1, hcmd, hon, hw]

/-- A plain write stores the writable bits and clears those written 1 to clear (R12, R13). -/
theorem plainWrite_rget_self (m : Mach) (r : RegRef) (v : Cell) :
    (m.plainWrite r v).rget r = (m.rget r &&& ~~~r.reg.info.rw ||| v &&& r.reg.info.rw) &&& ~~~(v &&& r.reg.info.w1c) :=
  m.rset_rget_self ..

/-! ## The write at an address -/

section
variable {s : State} {who : Master} {a : DAddr} {v : Cell} {r : RegRef}

/-- An address that names no register takes no write (R13). -/
theorem registerWrite_nowhere (h : s.m.regAt a.toNat who = none) : exec (.registerWrite who a v) s = s.becomes s.m := by
  show execRegisterWrite who a v s = _
  simp [execRegisterWrite, h, done, State.becomes]

/-- The life-cycle state may bar the host from the register (R447). -/
theorem registerWrite_narrowed (h : s.m.regAt a.toNat who = some r) (hn : s.m.narrowed r who true = true) :
    exec (.registerWrite who a v) s = s.becomes s.m := by
  show execRegisterWrite who a v s = _
  simp [execRegisterWrite, h, hn, done, State.becomes]

theorem registerWrite_at (h : s.m.regAt a.toNat who = some r) (hn : s.m.narrowed r who true = false) :
    exec (.registerWrite who a v) s = s.becomes (s.m.regWrite r v who) := by
  show execRegisterWrite who a v s = _
  simp [execRegisterWrite, h, hn, done, State.becomes]

theorem registerWrite_off (h : s.m.regAt a.toNat who = some r) (hoff : s.m.isOn r.domain = false) :
    exec (.registerWrite who a v) s = s.becomes s.m := by
  cases hn : s.m.narrowed r who true with
  | true => exact registerWrite_narrowed h hn
  | false => rw [registerWrite_at h hn, regWrite_off hoff]

end

/-! ## The statement -/

/-- Settles O59: each case of the address, the register's domain, the life-cycle state and the master by its own lemma. -/
theorem registerAccess : Obligations.RegisterAccess := by
  unfold Obligations.RegisterAccess
  intro s who a v r
  refine ⟨registerWrite_nowhere, fun h => ⟨?_, ?_, ?_⟩, plainWrite_rget_self s.m r v, fun q => plainWrite_rget_ne s.m v⟩
  · rintro (hoff | hn)
    · exact registerWrite_off h hoff
    · exact registerWrite_narrowed h hn
  · rintro hcmd ⟨hon, hw, hn⟩
    rw [registerWrite_at h hn, regWrite_of_mayWrite hcmd hon hw]
  · intro hcmd hon hw hn
    rw [registerWrite_at h hn, regWrite_refused hcmd hon hw]
    exact ⟨rfl, refusedWrite_frame s.m r who⟩

end Sys2Proof.Machine

/-!
PROOFS. Dispatch (O22): what replacing a thread leaves of the block, the thread that is handed a frame, and a lock-keeper's decision.
-/
namespace Sys2Proof.Machine

/-! ## A thread replaced -/

/-- A thread replaced with a new MF takes its manifest's class, and its history is flushed where its privilege changes (R113, R233, R266):
nothing else of it differs from what was given. -/
theorem setThrH_thr_self (m : Mach) (t : Tid) (x : Thread) :
    ∃ c w h, (m.setThrH t x).thr t = { x with cls := c, wdArmed := w, hist := h } := by
  have hnew : ∃ c w, m.newMf (m.thr t) x = { x with cls := c, wdArmed := w } := by
    unfold Mach.newMf
    split
    · exact ⟨x.cls, x.wdArmed, rfl⟩
    · exact ⟨_, _, rfl⟩
  obtain ⟨c, w, hcw⟩ := hnew
  unfold Mach.setThrH
  dsimp only
  split
  · exact ⟨c, w, x.hist, by rw [Mach.setThr_thr_self, hcw]⟩
  · exact ⟨c, w, 0, by rw [Mach.flushPred, Mach.updThr_thr_self, Mach.updCore_thr_of, Mach.setThr_thr_self, hcw]⟩

/-- Beside the thread, a thread replaced touches its core's predictor alone. -/
theorem setThrH_frame (m : Mach) (t : Tid) (x : Thread) :
    (m.setThrH t x).mem = m.mem ∧ (m.setThrH t x).regs = m.regs ∧ (m.setThrH t x).locks = m.locks ∧
      ∀ u, u ≠ t → (m.setThrH t x).thr u = m.thr u := by
  unfold Mach.setThrH
  dsimp only
  split
  · exact ⟨rfl, rfl, rfl, fun u hu => m.setThr_thr_ne _ hu⟩
  · refine ⟨rfl, rfl, rfl, fun u hu => ?_⟩
    rw [Mach.flushPred, Mach.updThr_thr_ne _ _ hu, Mach.updCore_thr_of, Mach.setThr_thr_ne _ _ hu]

theorem takeSlot_thr_self (m : Mach) (t : Tid) : ∃ b, (m.takeSlot t).thr t = { m.thr t with slot := b } := by
  unfold Mach.takeSlot
  split
  · exact ⟨(m.thr t).slot, rfl⟩
  · exact ⟨_, m.updThr_thr_self t _⟩

theorem takeSlot_frame (m : Mach) (t : Tid) :
    (m.takeSlot t).mem = m.mem ∧ (m.takeSlot t).regs = m.regs ∧ (m.takeSlot t).locks = m.locks ∧
      ∀ u, u ≠ t → (m.takeSlot t).thr u = m.thr u := by
  unfold Mach.takeSlot
  split
  · exact ⟨rfl, rfl, rfl, fun _ _ => rfl⟩
  · exact ⟨rfl, rfl, rfl, fun u hu => m.updThr_thr_ne _ hu⟩

@[simp] theorem Thread.setBank_bank (x : Thread) (b : Bank) : (x.setBank b).bank = b := by
  unfold Thread.setBank Thread.bank
  split <;> simp [*]

/-- The halt of a single-stepped thread (R458) leaves its P, its MF and its stacks. -/
theorem Thread.stepEnd_keeps (x : Thread) :
    x.stepEnd.p = x.p ∧ x.stepEnd.mf = x.mf ∧ x.stepEnd.bank = x.bank ∧ (x.berthed = false → x.stepEnd.berthed = false) := by
  unfold Thread.stepEnd
  split
  · exact ⟨rfl, rfl, rfl, fun _ => rfl⟩
  · exact ⟨rfl, rfl, rfl, id⟩

/-! ## A frame handed to a thread (R57, R266) -/

/-- The thread as a dispatch sets it up for a frame, before the halt of a single step and the choice of the image slot. -/
def Mach.dispatched (m : Mach) (t : Tid) (e : QEntry) : Thread :=
  let head := m.mHead e.mf.toNat
  let dl := m.ru .evtDlb (Tid.lock t) e.cls.toNat
  let x := m.thr t
  { x.setBank { x.bank with
      ds := [], rs := [], a := BitVec.ofNat 28 (head + 8 + fld (m.rdCell none (head + 4)) 17 9), b := e.mf } with
    mf := e.mf, p := BitVec.ofNat 21 (fld (m.r .blkKentry e.kind.toNat) 15 0 * 16), berthed := false, waited := 0,
    wdArmed := fld dl 15 0 != 0, wdBudget := dl, wdEnd := m.tb.mono.toNat + countNs dl, wdLeft := none }

theorem handFrame_eq (m : Mach) (t : Tid) (e : QEntry) :
    m.handFrame t e = ((m.setThrH t (m.dispatched t e).stepEnd).takeSlot t).coreCount (Tid.coreNo t) 0 1 := rfl

theorem dispatched_bank (m : Mach) (t : Tid) (e : QEntry) :
    (m.dispatched t e).bank = { (m.thr t).bank with
      ds := [], rs := [], b := e.mf,
      a := BitVec.ofNat 28 (m.mHead e.mf.toNat + 8 + fld (m.rdCell none (m.mHead e.mf.toNat + 4)) 17 9) } :=
  Thread.setBank_bank ..

/-- The thread that is handed a frame has its P, its MF and its bank as the dispatch set them up, and is berthed no more. -/
theorem handFrame_thr_self (m : Mach) (t : Tid) (e : QEntry) :
    let x := (m.handFrame t e).thr t
    x.p = (m.dispatched t e).p ∧ x.mf = e.mf ∧ x.bank = (m.dispatched t e).bank ∧ x.berthed = false := by
  obtain ⟨hp, hmf, hbank, hb⟩ := (m.dispatched t e).stepEnd_keeps
  rw [handFrame_eq, Mach.coreCount_thr_of]
  obtain ⟨slot, hslot⟩ := takeSlot_thr_self (m.setThrH t (m.dispatched t e).stepEnd) t
  obtain ⟨c, w, h, hset⟩ := setThrH_thr_self m t (m.dispatched t e).stepEnd
  rw [hslot, hset]
  exact ⟨hp, hmf, hbank, hb rfl⟩

theorem handFrame_frame (m : Mach) (t : Tid) (e : QEntry) :
    (m.handFrame t e).mem = m.mem ∧ (m.handFrame t e).regs = m.regs ∧ (m.handFrame t e).locks = m.locks ∧
      ∀ u, u ≠ t → (m.handFrame t e).thr u = m.thr u := by
  obtain ⟨hmem, hregs, hlocks, hthr⟩ := setThrH_frame m t (m.dispatched t e).stepEnd
  obtain ⟨hmem', hregs', hlocks', hthr'⟩ := takeSlot_frame (m.setThrH t (m.dispatched t e).stepEnd) t
  simp only [handFrame_eq, Mach.coreCount_mem, Mach.coreCount_regs, Mach.coreCount_locks, Mach.coreCount_thr_of]
  exact ⟨hmem'.trans hmem, hregs'.trans hregs, hlocks'.trans hlocks, fun u hu => (hthr' u hu).trans (hthr u hu)⟩

/-! ## One decision of a lock-keeper (R19, R58) -/

/-- The block with an entry of a lock's class queues taken out. -/
def Mach.unqueued (m : Mach) (p i : Nat) : Mach := m.updLock p fun k => { k with queue := k.queue.eraseIdx i }

/-- The frame of a withdrawn kind is scuttled and counted (R58). -/
theorem offer_of_withdrawn {m : Mach} {p : Nat} {h : Nat × QEntry} (hk : bit (m.r .blkKentry h.2.kind.toNat) 17 = false) :
    m.offer p h = some (((m.unqueued p h.1).scuttleFrame h.2.mf.toNat).bareCount 0 p) := by
  simp [Mach.offer, Mach.unqueued, hk]

theorem offer_of_chosen {m : Mach} {p : Nat} {h : Nat × QEntry} {t : Tid} (hk : bit (m.r .blkKentry h.2.kind.toNat) 17 = true)
    (ht : m.chooseThread p h.2.cls.toNat = some t) :
    m.offer p h = some (((m.unqueued p h.1).handFrame t h.2).updLock p fun k => { k with lastCore := BitVec.ofNat 4 (Tid.core t) }) := by
  simp [Mach.offer, Mach.unqueued, hk, ht]

/-- What is offered first and taken is the decision. -/
theorem dispatch_first {s : State} {p : PLock} {h : Nat × QEntry} {hs : List (Nat × QEntry)} {m : Mach}
    (hserv : (s.m.lock p.val).state = .serving) (hheads : s.m.heads p.val = h :: hs) (hoffer : s.m.offer p.val h = some m) :
    exec (.dispatch p) s = s.becomes m := by
  show execDispatch p s = _
  simp [execDispatch, hserv, hheads, hoffer, done, State.becomes]

/-- Settles O22: the first head is offered, and either outcome takes it. -/
theorem dispatchHandsOver : Obligations.DispatchHandsOver := by
  unfold Obligations.DispatchHandsOver
  intro s p h hs t k out head hserv hheads
  refine ⟨fun hk => dispatch_first hserv hheads (offer_of_withdrawn hk), fun hk ht => ?_⟩
  refine ⟨_, dispatch_first hserv hheads (offer_of_chosen hk ht), ?_⟩
  obtain ⟨hp, hmf, hbank, hb⟩ := handFrame_thr_self (s.m.unqueued p.val h.1) t h.2
  obtain ⟨hmem, hregs, hlocks, hthr⟩ := handFrame_frame (s.m.unqueued p.val h.1) t h.2
  have hqueue : ((s.m.unqueued p.val h.1).lock p.val).queue = (s.m.lock p.val).queue.eraseIdx h.1 := by simp [Mach.unqueued]
  have hlock : ((s.m.unqueued p.val h.1).handFrame t h.2).lock p.val = (s.m.unqueued p.val h.1).lock p.val := by
    rw [Mach.lock, hlocks, Mach.lock]
  rw [Mach.updLock_lock_self, Mach.updLock_thr_of, Mach.updLock_mem, Mach.updLock_regs, hbank, dispatched_bank, hlock]
  refine ⟨hqueue, rfl, hmf, rfl, rfl, ?_, rfl, rfl, hb, hmem, hregs, hthr⟩
  rw [hp]
  show BitVec.ofNat 21 (fld k 15 0 * 16) = _
  simp [fld]

end Sys2Proof.Machine

/-!
PROOFS. The canal (O31): which flit a link's sender chooses, how a received flit ends, and the division of the receiver's buffers.
-/
namespace Sys2Proof.Machine

/-! ## The sender's choice (R22 to R24, R34) -/

section
variable {m : Mach} {l : LinkId} {f g : Flit}

/-- Where no waiting flit may leave, no channel has one to send (R23). -/
theorem headOf_of_blocked (h : ∀ f ∈ (m.link (LinkId.key l)).waiting, m.hasSpace l f = false) (c : Channel) : m.headOf l c = none := by
  have hnone : ((m.link (LinkId.key l)).waiting.filter fun f => f.ch == c && m.hasSpace l f) = [] :=
    List.filter_eq_nil_iff.mpr fun f hf => by simp [h f hf]
  rw [Mach.headOf, hnone]
  rfl

theorem sendFlit_none (hf : ∀ c, m.headOf l c = none) : m.sendFlit l = m := by
  simp [Mach.sendFlit, hf]

/-- A fly-boat flit goes first, under its own credit or else a normal one. -/
theorem sendFlit_flyboat (hf : m.headOf l .flyboat = some f)
    (hc : 0 < (m.link (LinkId.key l)).credits .flyboat ∨ 0 < (m.link (LinkId.key l)).credits .normal) :
    m.sendFlit l = m.sendOver l f (if 0 < (m.link (LinkId.key l)).credits .flyboat then .flyboat else .normal)
      (m.link (LinkId.key l)).sinceTow := by
  have hc : (decide (0 < (m.link (LinkId.key l)).credits .flyboat) || decide (0 < (m.link (LinkId.key l)).credits .normal)) = true := by
    simpa using hc
  simp only [Mach.sendFlit, hf, hc, decide_eq_true_eq]

section
variable (hfb : m.headOf l .flyboat = none)
include hfb

theorem sendFlit_normal (hn : m.headOf l .normal = some f) (hc : 0 < (m.link (LinkId.key l)).credits .normal)
    (ht : m.headOf l .towpath = none) : m.sendFlit l = m.sendOver l f .normal ((m.link (LinkId.key l)).sinceTow + 1) := by
  simp [Mach.sendFlit, hfb, hn, hc, ht]

theorem sendFlit_towpath (hn : m.headOf l .normal = none) (ht : m.headOf l .towpath = some g)
    (hc : 0 < (m.link (LinkId.key l)).credits .towpath) : m.sendFlit l = m.sendOver l g .towpath 0 := by
  simp [Mach.sendFlit, hfb, hn, hc, ht]

/-- Whether the towpath's share of the handshakes is due (R24). -/
def Mach.towDue (m : Mach) (l : LinkId) : Prop :=
  2 ^ (fld (m.r .cnlVccfg) 15 13 + 1) ≤ (m.link (LinkId.key l)).sinceTow + 1

section
variable (hn : m.headOf l .normal = some f) (ht : m.headOf l .towpath = some g)
  (hcn : 0 < (m.link (LinkId.key l)).credits .normal) (hct : 0 < (m.link (LinkId.key l)).credits .towpath)
include hn ht hcn hct

theorem sendFlit_towpath_of_due_or_urgent (h : m.towDue l ∨ m.flitPri f < m.flitPri g) :
    m.sendFlit l = m.sendOver l g .towpath 0 := by
  rw [Mach.towDue] at h
  rcases h with h | h <;> simp [Mach.sendFlit, hfb, hn, ht, hcn, hct, h]

theorem sendFlit_normal_of_urgent (hd : ¬ m.towDue l) (h : m.flitPri g < m.flitPri f) :
    m.sendFlit l = m.sendOver l f .normal ((m.link (LinkId.key l)).sinceTow + 1) := by
  have hle : ¬ m.flitPri f < m.flitPri g := by omega
  have hne : m.flitPri f ≠ m.flitPri g := by omega
  rw [Mach.towDue] at hd
  simp [Mach.sendFlit, hfb, hn, ht, hcn, hct, hd, hle, hne]

end
end
end

/-! ## A received flit (R22, R27, R399) -/

section
variable {s : State} {l : LinkId} {f : Flit} {ch : Channel} {rest : List (Flit × Channel)}

/-- The block with the flit that arrives taken from the wire, and its credit given back. -/
def Mach.flitLost (m : Mach) (l : LinkId) (ch : Channel) (rest : List (Flit × Channel)) : Mach :=
  m.updLink (LinkId.key l) fun k => { k with flying := rest, grants := m.regrant k.grants ch }

/-- The first flit on the wire: parity is checked first, then whether a buffer is free, and last the epoch of its thread (R399). -/
theorem receive_first (h : (s.m.link (LinkId.key l)).flying = (f, ch) :: rest) (ok : Bool) :
    exec (.canalFlitReceive l ok) s = s.becomes (
      if ok = false then ((s.m.flitLost l ch rest).canalErr 2 2).answer l f
      else if 64 ≤ (s.m.link (LinkId.key l)).buffered.length then ((s.m.flitLost l ch rest).canalErr 1 3).answer l f
      else if f.ref.all s.m.current = false then ((s.m.flitLost l ch rest).canalErr 3 1).answer l f
      else s.m.updLink (LinkId.key l) fun k => { k with flying := rest, buffered := k.buffered ++ [(f, ch)] }) := by
  show execCanalFlitReceive l ok s = _
  simp only [execCanalFlitReceive, h, Bool.not_eq_true']
  rfl

/-- The oldest buffer of a channel that frees gives back its credit, and its transaction goes on (R22, R26). -/
theorem creditReturn_first (h : takeCredit ch (s.m.link (LinkId.key l)).buffered = (some f, rest)) :
    exec (.creditReturn l ch) s = s.becomes ((s.m.updLink (LinkId.key l) fun k =>
      { k with buffered := rest, grants := s.m.regrant k.grants ch }).answer l f) := by
  show execCreditReturn l ch s = _
  simp [execCreditReturn, h, done, State.becomes]

end

/-! ## CNL_VCCFG (R26, R132) -/

theorem vccfgWrite_takes {s : State} {who : Master} {v : Cell} (h : Takes s who ⟨.cnlVccfg, 0, 0⟩) :
    exec (.vccfgWrite who v) s = s.becomes (s.m.vccfg v) := by
  show execVccfgWrite who v s = _
  rw [execVccfgWrite, rowWrite_takes h (by decide) (by decide), regStore_quay rfl (by decide) (by decide)]
  rfl

/-! ## The statement -/

/-- Settles O31: each case of the sender, of the receiver and of the register by its own lemma (that 64 buffered flits grant no credit, and
the order of regrants, are the model's choice: log entry 57). -/
theorem canalFlits : Obligations.CanalFlits := by
  unfold Obligations.CanalFlits
  intro s l f g who v ok ch rest m k sends ends due lost
  have hsend {n : Mach} (h : m.sendFlit l = n) : exec (.canalFlitSend l) s = s.becomes n := h ▸ rfl
  refine ⟨fun h => ?_, fun hf => ⟨fun hc => ?_, fun hc hn => ?_⟩, fun hfb => ⟨?_, ?_, ?_⟩, fun hk => ⟨?_, ?_, ?_, ?_⟩,
    creditReturn_first, fun ht => ?_⟩
  · refine hsend (sendFlit_none (headOf_of_blocked fun f hf => ?_))
    obtain ⟨hresp, hfull⟩ := h f hf
    simpa [Mach.hasSpace, hresp] using hfull
  · exact hsend ((sendFlit_flyboat hf (.inl hc)).trans (by rw [if_pos hc]; rfl))
  · exact hsend ((sendFlit_flyboat hf (.inr hn)).trans (by rw [if_neg hc.not_gt]; rfl))
  · exact fun hn hc ht => hsend (sendFlit_normal hfb hn hc ht)
  · exact fun hn ht hc => hsend (sendFlit_towpath hfb hn ht hc)
  · exact fun hn ht hcn hct => ⟨fun h => hsend (sendFlit_towpath_of_due_or_urgent hfb hn ht hcn hct h),
      fun hd h => hsend (sendFlit_normal_of_urgent hfb hn ht hcn hct hd h)⟩
  · exact fun hok => by rw [receive_first hk, if_pos hok]; rfl
  · exact fun hok hb he => by rw [receive_first hk, if_neg ((Bool.not_eq_false _).mpr hok), if_neg hb.not_ge, if_neg ((Bool.not_eq_false _).mpr he)]
  · exact fun hok hb he => by rw [receive_first hk, if_neg ((Bool.not_eq_false _).mpr hok), if_neg hb.not_ge, if_pos he]; rfl
  · exact fun hok hb => by rw [receive_first hk, if_neg ((Bool.not_eq_false _).mpr hok), if_pos hb]; rfl
  · rw [vccfgWrite_takes ht]
    exact ⟨fun hbad => by rw [Mach.vccfg, if_pos hbad], fun hok => by rw [Mach.vccfg, if_neg hok]⟩

end Sys2Proof.Machine

/-!
PROOFS. The lock map (O43): BLK_REMAP, the commands of PL_STATE, admission, and the fly-boat registers.
-/
namespace Sys2Proof.Machine

/-! ## Bits of a register -/

theorem setFld_getLsbD {w : Nat} (c : BitVec w) {hi lo : Nat} (v i : Nat) (hlo : lo ≤ hi) (hi' : i < w) :
    (setFld c hi lo v).getLsbD i = if lo ≤ i ∧ i ≤ hi then v.testBit (i - lo) else c.getLsbD i := by
  have hmask : ((2 ^ (hi + 1 - lo) - 1) * 2 ^ lo).testBit i = decide (lo ≤ i ∧ i ≤ hi) := by
    rw [← Nat.shiftLeft_eq, Nat.testBit_shiftLeft, Nat.testBit_two_pow_sub_one]
    by_cases hi'' : lo ≤ i
    · simp only [hi'', true_and, decide_true, Bool.true_and, decide_eq_decide]; omega
    · simp [hi'']
  have hval : (v * 2 ^ lo).testBit i = (decide (lo ≤ i) && v.testBit (i - lo)) := by
    rw [← Nat.shiftLeft_eq, Nat.testBit_shiftLeft]
  simp only [setFld, BitVec.getLsbD_or, BitVec.getLsbD_and, BitVec.getLsbD_not, BitVec.getLsbD_ofNat, hmask, hval, hi']
  by_cases h : lo ≤ i ∧ i ≤ hi
  · simp [h]
  · simp [h]

/-! ## BLK_REMAP (R17, R410, R412) -/

section
variable {s : State} {who : Master} {v : Cell}

theorem remap_takes (h : Takes s who ⟨.blkRemap, 0, 0⟩) : exec (.remap who v) s = s.becomes (s.m.remapWrite v) := by
  show execRemap who v s = _
  rw [execRemap, rowWrite_takes h (by decide) (by decide), regStore_blk rfl (by decide)]
  rfl

end

section
variable {m : Mach} {v : Cell}

/-- A write that does not name a spare lock that is ready is refused and counted. -/
theorem remapWrite_unfit (h : ¬ (fld v 4 0 = m.spare ∧ m.spareReady = true)) : m.remapWrite v = m.count 0x7000 4 := by
  rw [Mach.remapWrite, if_pos]
  simpa [Classical.or_iff_not_imp_left] using h

/-- Another is judged by ON, by the lock that serves, and by the evacuation that the switch needs. -/
theorem remapWrite_fit (h : fld v 4 0 = m.spare ∧ m.spareReady = true) : m.remapWrite v =
    if bit v 17 = false then m
    else if ¬ (m.lock (m.plockOf (fld v 8 5))).state = .serving then m.exchange (fld v 8 5)
    else if m.evacState = 2 ∧ fld (m.r .blkEvac) 3 0 = fld v 8 5 ∧ ∃ e, m.evac = some e ∧ e.lock.val = fld v 8 5 then m.switchOver (fld v 8 5)
    else m.count 0x7000 4 := by
  rw [Mach.remapWrite, if_neg (by simp [h])]
  cases m.evac <;> simp [and_assoc]

end

/-! ## PL_STATE (R211, R396, R400) -/

section
variable {s : State} {who : Master} {p : PLock}

theorem plState_takes {v : Cell} (h : Takes s who ⟨.plState, p.val, 0⟩) :
    rowWrite s ⟨.plState, p.val, 0⟩ v who = s.becomes (s.m.plStateWrite p.val v) := by
  have hspace : Reg.plState.info.space ≠ .core := by decide
  have habs : Reg.plState.info.space ≠ .abs := by decide
  rw [rowWrite_takes h Reg.noConfusion (fun e => hspace e.1), regStore_lock habs]
  rfl

theorem lockAdmit_takes (h : Takes s who ⟨.plState, p.val, 0⟩) :
    exec (.lockAdmit who p) s = s.becomes
      (if s.m.admitOk p.val then s.m.updLock p.val fun k => { k with state := .admitting } else s.m.plRefuse p.val) := by
  show execLockAdmit who p s = _
  rw [execLockAdmit, plState_takes h]
  rfl

theorem lockPark_takes (h : Takes s who ⟨.plState, p.val, 0⟩) :
    exec (.lockPark who p) s = s.becomes (if (s.m.lock p.val).state = .spare then s.m.park_ p.val else s.m.plRefuse p.val) := by
  show execLockPark who p s = _
  rw [execLockPark, plState_takes h]
  rfl

theorem lockUnfit_takes (h : Takes s who ⟨.plState, p.val, 0⟩) :
    exec (.lockUnfit who p) s = s.becomes (if (s.m.lock p.val).state = .held
      then (s.m.updLock p.val fun k => { k with state := .unfit }).dumpCause 3 (lockSource p.val) else s.m.plRefuse p.val) := by
  show execLockUnfit who p s = _
  rw [execLockUnfit, plState_takes h]
  rfl

end

section
variable {m : Mach} {p : Nat}

/-- Whether a shov-family instruction is under way on a thread of a lock. -/
def Mach.shovsIn (m : Mach) (p : Nat) : Bool := m.shovs.any fun e => e.1 / 128 == p && e.2.isSome

theorem park_of_free (h : m.shovsIn p = false) : m.park_ p = m.parkLock p := by
  rw [Mach.shovsIn] at h
  simp only [Mach.park_, h, Bool.false_eq_true, if_false]

/-- A park that waits leaves locks and threads as they stand (R211). -/
theorem park_of_held (h : m.shovsIn p = true) : (m.park_ p).locks = m.locks ∧ (m.park_ p).threads = m.threads := by
  rw [Mach.shovsIn] at h
  simp only [Mach.park_, h, if_true, and_self]

theorem admitStep_of_ready (h : (m.lock p).state = .admitting) (hr : m.recorded p = false) : m.admitStep p = m.admitDone p := by
  simp [Mach.admitStep, h, hr]

theorem admitStep_of_waiting (h : (m.lock p).state ≠ .admitting ∨ m.recorded p = true) : m.admitStep p = m := by
  rw [Mach.admitStep, if_neg]
  rcases h with h | h <;> simp [h]

end

/-! ## The fly-boat registers (R131, R142) -/

section
variable {s : State} {who : Master} {v : Cell}

theorem fbEnable_takes (h : Takes s who ⟨.blkFbctl, 0, 0⟩) : exec (.fbEnable who v) s = s.becomes (s.m.fbctlWrite v) := by
  show execFbEnable who v s = _
  rw [execFbEnable, rowWrite_takes h (by decide) (by decide), regStore_blk rfl (by decide)]
  rfl

theorem fbpartWrite_takes {l : LLock} (h : Takes s who ⟨.blkFbpart, 0, l.val⟩) :
    exec (.fbpartWrite who l v) s = s.becomes (s.m.fbpartWrite l.val v) := by
  have hspace : Reg.blkFbpart.info.space ≠ .core := by decide
  have hkey : ∀ l : LLock, (⟨.blkFbpart, 0, l.val⟩ : RegRef).key < 0x8010000 := by decide
  show execFbpartWrite who l v s = _
  rw [execFbpartWrite, rowWrite_takes h Reg.noConfusion (fun e => hspace e.1), regStore_blk rfl (hkey l)]
  rfl

end

section
variable {m : Mach} {v : Cell}

/-- What BLK_FBCTL holds after a write whose EN is accepted. -/
def Mach.fbNew (m : Mach) (v : Cell) : Cell := setFld (blend (m.r .blkFbctl) 0x2C000 v) 9 0 (min 1000 (max 16 (fld v 9 0)))

theorem fbNew_en : bit (m.fbNew v) 17 = bit v 17 := by
  rw [bit, Mach.fbNew, setFld_getLsbD _ _ _ (by omega) (by omega), if_neg (by omega), blend, BitVec.getLsbD_or, BitVec.getLsbD_and,
    BitVec.getLsbD_and]
  simp [bit]

/-- Whether R131 refuses a write's EN: it may rise with eight credits of the class, and fall with no class-7 manifest and no quay that
makes any. -/
def Mach.fbRefused (m : Mach) (v : Cell) : Prop :=
  (bit v 17 = true ∧ m.fbOn = false ∧ fld (m.r .cnlVccfg) 5 0 < 8) ∨
    (bit v 17 = false ∧ m.fbOn = true ∧ (m.fbBusy = true ∨ ∃ q : Quay, bit (m.r .qiCtl q.val) 15 = true))

theorem anyQuay_iff (f : Nat → Bool) : ((List.range 16).any f = true) ↔ ∃ q : Quay, f q.val = true := by
  simp only [List.any_eq_true, List.mem_range]
  exact ⟨fun ⟨q, hq, h⟩ => ⟨⟨q, hq⟩, h⟩, fun ⟨q, h⟩ => ⟨q.val, q.isLt, h⟩⟩

theorem fbRefused_iff : m.fbRefused v ↔ (if bit v 17 then !m.fbOn && decide (fld (m.r .cnlVccfg) 5 0 < 8)
    else m.fbOn && (m.fbBusy || (List.range 16).any fun q => bit (m.r .qiCtl q) 15)) = true := by
  cases hv : bit v 17 <;> simp [Mach.fbRefused, hv, ← anyQuay_iff (fun q => bit (m.r .qiCtl q) 15)]

theorem fbctlWrite_refused (h : m.fbRefused v) :
    m.fbctlWrite v = (m.w .blkFbctl (setBit (m.fbNew v) 17 m.fbOn)).wbit .blkFberr 0 true := by
  have h := fbRefused_iff.mp h
  simp only [Mach.fbOn] at h
  simp only [Mach.fbctlWrite, h, if_true]
  rfl

theorem fbctlWrite_kept (h : ¬ m.fbRefused v) (hv : bit v 17 = false ∨ m.fbOn = true) : m.fbctlWrite v = m.w .blkFbctl (m.fbNew v) := by
  have h := mt fbRefused_iff.mpr h
  have hv : ¬ ((bit v 17 && !m.fbOn) = true) := by rcases hv with hv | hv <;> simp [hv]
  simp only [Mach.fbOn] at h hv
  simp only [Mach.fbctlWrite, if_neg h, if_neg hv]
  rfl

/-- The threads that stand berthed when EN rises, noted for READY (R131). -/
def Mach.noteBerthed (m : Mach) (ks : List Nat) : Mach :=
  ks.foldl (fun m k => m.updThr (BitVec.ofNat 12 k) fun x => { x with fbBerthed := x.berthed }) m

theorem fbctlWrite_rises (h : ¬ m.fbRefused v) (hv : bit v 17 = true) (hoff : m.fbOn = false) :
    m.fbctlWrite v = (m.w .blkFbctl (m.fbNew v)).noteBerthed (m.threads.map Prod.fst) := by
  have h := mt fbRefused_iff.mpr h
  have hv : (bit v 17 && !m.fbOn) = true := by simp [hv, hoff]
  simp only [Mach.fbOn] at h hv
  simp only [Mach.fbctlWrite, if_neg h, if_pos hv]
  rfl

theorem noteBerthed_frame (m : Mach) (ks : List Nat) :
    (m.noteBerthed ks).regs = m.regs ∧ (m.noteBerthed ks).mem = m.mem ∧ (m.noteBerthed ks).locks = m.locks := by
  exact ⟨foldl_keeps Mach.regs _ _ _ fun _ _ _ => rfl, foldl_keeps Mach.mem _ _ _ fun _ _ _ => rfl,
    foldl_keeps Mach.locks _ _ _ fun _ _ _ => rfl⟩

theorem noteBerthed_thr (m : Mach) (ks : List Nat) (u : Tid) :
    ((m.noteBerthed ks).thr u).norm = (m.thr u).norm ∧ ((m.noteBerthed ks).thr u).p = (m.thr u).p := by
  rw [← Prod.mk.injEq]
  refine foldl_keeps (fun m => ((m.thr u).norm, (m.thr u).p)) _ _ m fun n k _ => ?_
  rcases eq_or_ne u (BitVec.ofNat 12 k) with rfl | hu
  · rw [Mach.updThr_thr_self]
  · rw [Mach.updThr_thr_ne _ _ hu]

theorem fbpartWrite_self {l : Nat} (h : fld v 3 0 = l) : m.fbpartWrite l v = m.wbit .blkFberr 2 true := if_pos h

theorem fbpartWrite_other {l : Nat} (h : fld v 3 0 ≠ l) : m.fbpartWrite l v = m.w .blkFbpart (v &&& 0x2000F) l := if_neg h

end

/-! ## The statement -/

/-- Settles O43: each register's row by its own lemma (that a write of BLK_REMAP with GO 0 has no effect, and that a refused EN still stores the other
fields of BLK_FBCTL, are the model's choice: log entries 65 and 102). -/
theorem lockMap : Obligations.LockMap := by
  unfold Obligations.LockMap
  intro s who v p l m n serving copied fits held
  refine ⟨fun h => ?_, fun h => ?_, fun h hr => ?_, fun h => ?_, fun h => ?_, fun h => ?_⟩
  · rw [remap_takes h]
    refine ⟨fun hf => by rw [remapWrite_unfit hf], fun hf hv => ?_, fun hf hv hs => ?_, fun hf hv hs hc => ?_, fun hf hv hs hc => ?_⟩
    all_goals rw [remapWrite_fit hf]
    · rw [if_pos hv]
    · rw [if_neg (by simp [hv]), if_pos hs]
    · rw [if_neg (by simp [hv]), if_neg (not_not.mpr hs), if_pos hc]
    · rw [if_neg (by simp [hv]), if_neg (not_not.mpr hs), if_neg hc]
  · rw [lockAdmit_takes h, lockPark_takes h, lockUnfit_takes h]
    refine ⟨fun ha => by rw [if_pos ha], fun ha => by rw [if_neg (ne_true_of_eq_false ha)], fun hp hh => ?_, fun hp hh => ?_, fun hp => ?_,
      fun hp => by rw [if_pos hp], fun hp => by rw [if_neg hp]⟩
    · rw [if_pos hp, park_of_free hh]
    · rw [if_pos hp]
      exact ⟨_, rfl, park_of_held hh⟩
    · rw [if_neg hp]
  · show s.becomes (m.admitStep p.val).bootGo = _
    rw [admitStep_of_ready h hr]
  · show s.becomes (m.admitStep p.val).bootGo = _
    rw [admitStep_of_waiting h]
  · rw [fbEnable_takes h]
    refine ⟨fun hr => by rw [fbctlWrite_refused hr]; rfl, fun hr hv => by rw [fbctlWrite_kept hr hv]; rfl, fun hr hv hoff => ?_⟩
    obtain ⟨hregs, hmem, hlocks⟩ := noteBerthed_frame (m.w .blkFbctl (m.fbNew v)) (m.threads.map Prod.fst)
    have hnew : (m.fbctlWrite v).r .blkFbctl = m.fbNew v := by
      rw [fbctlWrite_rises hr hv hoff, Mach.r, Mach.rget, hregs]
      exact m.w_r_self ..
    refine ⟨_, rfl, hnew, ?_, ?_, ?_, fun u => ?_⟩
    · rw [Mach.fbOn, hnew, fbNew_en, hv]
    · rw [fbctlWrite_rises hr hv hoff, hmem, Mach.w_mem]
    · rw [fbctlWrite_rises hr hv hoff, hlocks, Mach.w_locks]
    · rw [fbctlWrite_rises hr hv hoff]
      exact noteBerthed_thr ..
  · rw [fbpartWrite_takes h]
    exact ⟨fun hl => by rw [fbpartWrite_self hl], fun hl => by rw [fbpartWrite_other hl]⟩

end Sys2Proof.Machine

/-!
PROOFS. Blocks (O27): how the steps of a block operation run inside a protected run, what its routine keeps in the shadow, what the
operations begin with, and what each of them has done when it ends.
-/
namespace Sys2Proof.Machine

/-! ## The steps of a protected run (R206) -/

/-- Inside a protected run no step yields: where each step of a list answers that it is done, changes the block by `g` and keeps what is
known of the routine's state, all of them run and the instruction ends. -/
theorem runSteps_guarded {α : Type} {t : Tid} {fin : Mach → Shadow → Mach} {step : α → BlockStep} {g : Mach → α → Mach}
    (l : List α) (I : Nat → Shadow → Prop) (m : Mach) (h : Shadow) (h0 : I 0 h)
    (hs : ∀ i e, l[i]? = some e → ∀ h, I i h → ∃ k, step e ((l.take i).foldl g m) h = (g ((l.take i).foldl g m) e, k, .ok) ∧
      I (i + 1) (k.at_ (k.index + 1))) :
    ∃ k, I l.length k ∧ m.runSteps t true fin h (l.map step) = fin ((l.foldl g m).freeCtx t) k := by
  induction l generalizing I m h with
  | nil => exact ⟨h, h0, rfl⟩
  | cons e r ih =>
    obtain ⟨k, hstep, hk⟩ := hs 0 e rfl h h0
    simp only [List.take_zero, List.foldl_nil] at hstep
    obtain ⟨k', hk', hrun⟩ := ih (fun i => I (i + 1)) (g m e) (k.at_ (k.index + 1)) hk fun i e' he' => hs (i + 1) e' he'
    exact ⟨k', hk', by simpa [Mach.runSteps, hstep] using hrun⟩

/-- The same for steps that leave the routine's state and end in a way that does not read it. -/
theorem runSteps_guarded_of_kept {α : Type} {t : Tid} {fin : Mach → Mach} {step : α → BlockStep} {g : Mach → α → Mach}
    {l : List α} {m : Mach} {h : Shadow}
    (hs : ∀ i e, l[i]? = some e → ∀ h, step e ((l.take i).foldl g m) h = (g ((l.take i).foldl g m) e, h, .ok)) :
    m.runSteps t true (fun m _ => fin m) h (l.map step) = fin ((l.foldl g m).freeCtx t) := by
  obtain ⟨_, _, hrun⟩ := runSteps_guarded (t := t) (fin := fun m _ => fin m) l (fun _ _ => True) m h trivial
    fun i e he h _ => ⟨h, hs i e he h, trivial⟩
  exact hrun

/-- What is left of the routine's state by steps that change the block alone: the index alone moves on. -/
theorem runSteps_plain (m : Mach) (t : Tid) (fin : Mach → Shadow → Mach) (h : Shadow) (gs : List (Mach → Mach)) :
    m.runSteps t true fin h (gs.map fun g m h => (g m, h, .ok)) =
      fin ((gs.foldl (fun m g => g m) m).freeCtx t) (gs.foldl (fun h _ => h.at_ (h.index + 1)) h) := by
  induction gs generalizing m h with
  | nil => rfl
  | cons g r ih => simpa [Mach.runSteps] using ih (g m) (h.at_ (h.index + 1))

/-! ## What the shadow keeps (log entry 20) -/

section
variable (entry : BitVec 11) {ptr mask extra : Nat}

theorem builtinShadow_index : (builtinShadow entry ptr mask extra).index = 0 := by
  show fld (0 : BitVec 36) 5 0 = 0
  rfl

theorem builtinShadow_mt0 (h : ptr < 2 ^ 36) : (builtinShadow entry ptr mask extra).mt0.toNat = ptr := Nat.mod_eq_of_lt h
theorem builtinShadow_mt2 (h : mask < 2 ^ 36) : (builtinShadow entry ptr mask extra).mt2.toNat = mask := Nat.mod_eq_of_lt h
theorem builtinShadow_mt3 (h : extra < 2 ^ 36) : (builtinShadow entry ptr mask extra).mt3.toNat = extra := Nat.mod_eq_of_lt h

end

/-! ## `stm` (R202 to R204) -/

/-- The block with a thread's top cells taken. -/
def Mach.popped (m : Mach) (t : Tid) (n : Nat) : Mach := m.updThr t fun x => x.setBank (x.bank.pop n)

theorem at_zero_of_cons {b : Bank} {c : Cell} {r : List Cell} (h : b.ds = c :: r) : b.at_ 0 = c := by rw [Bank.at_, h]; rfl

/-- The data cells that a block operation finds beside its operand (R203). -/
def Thread.spareCells (x : Thread) : Nat := if x.fastOn then x.norm.ds.length else x.norm.ds.length - 1

/-- The nonets of the block that `stm` writes. -/
def Thread.stmSize (x : Thread) (mask : Nat) : Nat := 4 * (blockElems mask x.norm.rs.length).length
/-- Where that block starts, below the pointer. -/
def Thread.stmStart (x : Thread) (mask : Nat) : Nat := (x.bank.a.toNat + 0x10000000 - x.stmSize mask) % 0x10000000

/-- A thread that issues and finds its context free runs its routine in the block in which its core has chosen it. -/
theorem routine_ends {s : State} {t : Tid} {n : Nat} {f : Mach → Mach} (hsel : Selects s t) (hr : Runs s t n) :
    onThread t s (fun m => m.select t fun m => m.routine t n f) = s.becomes (f (s.m.chosen t)) := by
  rw [select_ends hsel, Mach.routine_of_chosen hr]; rfl

section
variable {s : State} {t : Tid} {c : Cell} {r : List Cell}

theorem stm_begins {k : Nat} (hds : (s.m.thr t).bank.ds = c :: r) (hi : Issues s t (dEff 1 0)) (hr : Runs s t 0x100)
    (htx : (((s.m.chosen t).flushMem t).thr t).txns < 4) (hp : (s.m.thr t).progress 0x100 = none) (hk : dataCount c.toNat = some k)
    (hle : k ≤ (s.m.thr t).spareCells)
    (hbf : s.m.blockFault t true ((s.m.thr t).stmStart c.toNat) ((s.m.thr t).stmSize c.toNat) 4 = none) :
    exec (.stm t) s = s.becomes ((((s.m.chosen t).flushMem t).popped t 1).stmRun t (!(s.m.thr t).atBoundary)
      (builtinShadow 0x100 ((s.m.thr t).stmStart c.toNat) c.toNat (s.m.thr t).norm.rs.length)) := by
  refine (routine_ends hi.1 hr).trans (congrArg _ ?_)
  have herr := hi.2
  rw [← s.m.chosen_blockFault t] at hbf
  rw [← s.m.chosen_thr t t] at hds hp hle hbf herr ⊢
  generalize s.m.chosen t = m at *
  rw [Thread.stmStart, Thread.stmSize] at hbf ⊢
  rw [Thread.spareCells] at hle
  simp only [hp, herr, at_zero_of_cons hds, hk, if_neg hle.not_gt, hbf, Mach.begins_of_txns htx]
  rfl

end

/-- The elements of the block with their addresses. -/
def stmPlaces (mask rd start : Nat) : List (BlockElem × Nat) := (blockElems mask rd).zipIdx.map fun e => (e.1, start + 4 * e.2)

/-- The block after `stm` has written one element. -/
def Mach.stmPut (m : Mach) (t : Tid) (mask rd : Nat) (e : BlockElem × Nat) : Mach :=
  (m.wrThr t e.2 (unpack ((m.thr t).elemOut mask rd e.1) 4)).updThr t fun x => x.elemPop e.1

/-- In a protected run every element is written, from the highest down, and the pointer ends at the start of the block. -/
theorem stmRun_protected (m : Mach) (t : Tid) {start mask rd : Nat} (hstart : start < 2 ^ 36) (hmask : mask < 2 ^ 36) (hrd : rd < 2 ^ 36) :
    let n := ((stmPlaces mask rd start).reverse.foldl (fun m => m.stmPut t mask rd) m).freeCtx t
    m.stmRun t true (builtinShadow 0x100 start mask rd) = n.retire t ((n.thr t).setPtr start) 1 := by
  rw [Mach.stmRun, builtinShadow_index, builtinShadow_mt0 _ hstart, builtinShadow_mt2 _ hmask, builtinShadow_mt3 _ hrd]
  exact runSteps_guarded_of_kept (fin := fun m => m.retire t ((m.thr t).setPtr start) 1) (g := fun m => m.stmPut t mask rd)
    fun _ _ _ _ => rfl

/-! ## `tsave` and `trest` (R213, R263) -/

section
variable {s : State} {t : Tid} {c : Cell} {r : List Cell} {load : Bool}

/-- The address of a Tally block (R213). -/
def Thread.tallyAt (x : Thread) (c : Cell) : Nat := (x.bank.a + c.signExtend 28).toNat

theorem tallyBlock_begins (hds : (s.m.thr t).bank.ds = c :: r) (hi : Issues s t (dEff 1 0)) (hr : Runs s t (tallyEntry load).toNat)
    (htx : ((((s.m.chosen t).drainTally t).flushMem t).thr t).txns < 4) (hp : (s.m.thr t).progress (tallyEntry load) = none)
    (hf : s.m.tallyFault t (!load) ((s.m.thr t).tallyAt c) = none) (hsave : load = true → s.m.saveDue t = false) :
    onThread t s (fun m => m.tallyBlock t load) = s.becomes (((((s.m.chosen t).drainTally t).flushMem t).popped t 1).tallyRun t
      (!(s.m.thr t).atBoundary) load (builtinShadow (tallyEntry load) ((s.m.thr t).tallyAt c) 0 0)) := by
  refine (routine_ends hi.1 hr).trans (congrArg _ ?_)
  have herr := hi.2
  rw [← s.m.chosen_tallyFault t] at hf
  rw [← s.m.chosen_saveDue t] at hsave
  rw [← s.m.chosen_thr t t] at hds hp hf herr ⊢
  generalize s.m.chosen t = m at *
  rw [Thread.tallyAt] at hf ⊢
  simp only [hp, herr, at_zero_of_cons hds, hf]
  cases load with
  | false => rw [if_neg Bool.false_ne_true, Mach.begins_of_txns htx, Mach.popped]
  | true => rw [if_pos rfl, Mach.withSave_of_done (hsave rfl), Mach.begins_of_txns htx, Mach.popped]

end

/-- The block after `tsave` has written one basin word of stowage or a basin. -/
def Mach.tsavePut (m : Mach) (t : Tid) (a j : Nat) : Mach := m.wrCells t (a + 8 * j) (((m.thr t).tally.cells.drop (4 * j)).take 4)

theorem tsaveRun_protected (m : Mach) (t : Tid) {a : Nat} (ha : a + 40 ≤ 0xC000000) :
    let n := ((List.range 5).foldl (fun m => m.tsavePut t a) m).freeCtx t
    m.tallyRun t true false (builtinShadow 0x180 a 0 0) = n.retire t (n.thr t) 1 := by
  rw [Mach.tallyRun, builtinShadow_index, List.drop_zero, builtinShadow_mt0 _ (by omega)]
  refine runSteps_guarded_of_kept (fin := fun m => m.retire t (m.thr t) 1) (g := fun m => m.tsavePut t a) fun i j hj h => ?_
  have hj : j < 5 := List.mem_range.mp (List.mem_of_getElem? hj)
  exact if_pos (by omega)

/-- The block after `trest` has read one basin word of stowage or a basin. -/
def Mach.trestGet (m : Mach) (t : Tid) (a j : Nat) : Mach :=
  (m.noteN (some t) (a + 8 * j) 8).updThr t fun x => { x with tally := x.tally.wordIn j (m.rdN (some t) (a + 8 * j) 8) }

/-- A block that is read without an uncorrectable word. -/
theorem readBlock_of_good {m : Mach} {t : Tid} {a n : Nat} (h : m.badN (some t) a n = false) :
    m.readBlock t a n = (m.noteN (some t) a n, .ok, m.rdN (some t) a n) := by
  simp [Mach.readBlock, h]

theorem getElem?_range_eq {n i j : Nat} (h : (List.range n)[i]? = some j) : j = i ∧ i < n := by
  obtain ⟨hi, h⟩ := List.getElem?_eq_some_iff.mp h
  exact ⟨by simpa using h.symm, by simpa using hi⟩

theorem trestRun_protected (m : Mach) (t : Tid) {a : Nat} (ha : a + 40 ≤ 0xC000000)
    (hgood : ∀ j < 5, ((List.range j).foldl (fun m => m.trestGet t a) m).badN (some t) (a + 8 * j) 8 = false) :
    let n := ((List.range 5).foldl (fun m => m.trestGet t a) m).freeCtx t
    m.tallyRun t true true (builtinShadow 0x1C0 a 0 0) = n.retire t (n.thr t) 1 := by
  rw [Mach.tallyRun, builtinShadow_index, List.drop_zero, builtinShadow_mt0 _ (by omega)]
  refine runSteps_guarded_of_kept (fin := fun m => m.retire t (m.thr t) 1) (g := fun m => m.trestGet t a) fun i j hj h => ?_
  obtain ⟨rfl, hi⟩ := getElem?_range_eq hj
  rw [List.take_range, min_eq_left hi.le]
  have hb : a + 8 * j < 0xC000000 := by omega
  simp only [if_true, trestStep, if_pos hb, readBlock_of_good (hgood j hi)]
  rfl

/-! ## The shov family (R207 to R211, R238) -/

section
variable {s : State} {t id : Tid}

/-- The shov family is privileged (R207). -/
theorem privileged_ends {n code : Nat} {f : Mach → Mach} (hsel : Selects s t) (hh : (s.m.thr t).helm = false) :
    onThread t s (fun m => m.select t fun m => if !(m.thr t).helm then m.privTrap t code else m.routine t n f) =
      s.becomes ((s.m.chosen t).privTrap t code) := by
  rw [select_ends hsel, Mach.chosen_thr, if_pos (by simp [hh])]; rfl

theorem helm_ends {n code : Nat} {f : Mach → Mach} (hsel : Selects s t) (hh : (s.m.thr t).helm = true) (hr : Runs s t n) :
    onThread t s (fun m => m.select t fun m => if !(m.thr t).helm then m.privTrap t code else m.routine t n f) =
      s.becomes (f (s.m.chosen t)) := by
  rw [select_ends hsel, Mach.chosen_thr, if_neg (by simp [hh]), Mach.routine_of_chosen hr]; rfl

/-- A thread marked as the target of another's instruction (R211). -/
def Mach.shovMarked (m : Mach) (t id : Tid) (load : Bool) : Mach :=
  if id = t then m else { m with shovs := mset none m.shovs id.toNat (some ⟨t, load, false, [], false⟩) }

/-- On a target that no other instruction holds, and whose stores have drained before a save, the instruction begins. -/
theorem shovBegins_of_free {m : Mach} {load : Bool} {f : Mach → Mach} (htx : ((m.flushMem t).thr t).txns < 4)
    (hb : ((m.flushMem t).flushMem id).shovBusy t id = false) (hsb : load = true ∨ (((m.flushMem t).flushMem id).thr id).sb = []) :
    m.shovBegins t id load f = f (((m.flushMem t).flushMem id).shovMarked t id load) := by
  rw [Mach.shovBegins, Mach.begins_of_txns htx]
  dsimp only
  rw [if_neg, Mach.shovMarked]
  rcases hsb with hsb | hsb <;> simp [hb, hsb]

/-! ### Saves (R209) -/

/-- The area that a save or a restore names (R208). -/
def Bank.area (b : Bank) : Nat := ((b.dblAt 2).setWidth 28).toNat

section
variable {hi : Bool} (hiss : Issues s t (dEff 6 2)) (hh : (s.m.thr t).helm = true) (hr : Runs s t (shovEntry hi).toNat)
  (hp : (s.m.thr t).progress (shovEntry hi) = none)
include hiss hh hr hp

theorem shov_fault {why : Nat} (hbf : s.m.blockFault t true (s.m.thr t).bank.area 128 8 = some why) :
    onThread t s (fun m => m.shovOp t hi) = s.becomes ((s.m.chosen t).dataFault t why true .block (s.m.thr t).bank.area) := by
  refine (helm_ends hiss.1 hh hr).trans (congrArg _ ?_)
  have herr := hiss.2
  rw [← s.m.chosen_blockFault t] at hbf
  rw [← s.m.chosen_thr t t] at hp hbf herr ⊢
  generalize s.m.chosen t = m at *
  rw [Bank.area] at hbf ⊢
  simp only [hp, herr, hbf]

variable (hbf : s.m.blockFault t true (s.m.thr t).bank.area 128 8 = none)
include hbf

theorem shov_noTarget (hid : s.m.shovTarget t ((s.m.thr t).bank.dblAt 0) = none) :
    onThread t s (fun m => m.shovOp t hi) =
      ends s t (((s.m.thr t).setBank ((s.m.thr t).bank.pop 6)).pushNext ((s.m.thr t).bank.dblAt 4) false) 1 := by
  refine (helm_ends hiss.1 hh hr).trans (congrArg s.becomes ?_)
  have herr := hiss.2
  rw [← s.m.chosen_blockFault t] at hbf
  rw [← s.m.chosen_shovTarget t] at hid
  rw [← s.m.chosen_thr t t] at hp hbf herr hid ⊢
  generalize s.m.chosen t = m at *
  rw [Bank.area] at hbf
  simp only [hp, herr, hbf, hid]

theorem shov_begins (hid : s.m.shovTarget t ((s.m.thr t).bank.dblAt 0) = some id)
    (htx : (((s.m.chosen t).flushMem t).thr t).txns < 4)
    (hb : (((s.m.chosen t).flushMem t).flushMem id).shovBusy t id = false)
    (hsb : ((((s.m.chosen t).flushMem t).flushMem id).thr id).sb = []) :
    let g := ((((s.m.chosen t).flushMem t).flushMem id).shovMarked t id false).popped t 6
    onThread t s (fun m => m.shovOp t hi) = s.becomes ((if hi then g.drainTally id else g).shovRun t (!(s.m.thr t).atBoundary) hi
      (builtinShadow (shovEntry hi) (s.m.thr t).bank.area id.toNat ((s.m.thr t).bank.dblAt 4).toNat)) := by
  refine (helm_ends hiss.1 hh hr).trans (congrArg s.becomes ?_)
  have herr := hiss.2
  rw [← s.m.chosen_blockFault t] at hbf
  rw [← s.m.chosen_shovTarget t] at hid
  rw [← s.m.chosen_thr t t] at hp hbf herr hid ⊢
  generalize s.m.chosen t = m at *
  rw [Bank.area] at hbf ⊢
  simp only [hp, herr, hbf, hid, shovBegins_of_free htx hb (.inr hsb)]
  rfl

end

/-- The block after a save has written one basin word of the area. -/
def Mach.shovPut (m : Mach) (t id : Tid) (hi : Bool) (area : Nat) (next : Dbl) (j : Nat) : Mach :=
  let y := m.thr id
  m.wrCells t (area + 8 * j) (((y.areaCells hi id next (if id = t then y.p + 1 else y.p)).drop (4 * j)).take 4)

/-- In a protected run a save writes all sixteen words, sets Z and answers the area. -/
theorem shovRun_protected (m : Mach) (t id : Tid) (hi : Bool) (entry : BitVec 11) {area : Nat} (next : Dbl) (harea : area < 2 ^ 28) :
    let n := ((List.range 16).foldl (fun m => m.shovPut t id hi area next) m).freeCtx t
    m.shovRun t true hi (builtinShadow entry area id.toNat next.toNat) =
      (n.retire t ((n.thr t).pushNext (BitVec.ofNat 36 area) true) 1).shovEnds id := by
  have hid : (builtinShadow entry area id.toNat next.toNat).mt2.setWidth 12 = id :=
    BitVec.eq_of_toNat_eq (by simp [builtinShadow])
  have hnext : (builtinShadow entry area id.toNat next.toNat).mt3 = next := BitVec.ofNat_toNat ..
  rw [Mach.shovRun, builtinShadow_index, builtinShadow_mt0 _ (by omega), hid, hnext]
  exact runSteps_guarded_of_kept (fin := fun m => (m.retire t ((m.thr t).pushNext (BitVec.ofNat 36 area) true) 1).shovEnds id)
    (g := fun m => m.shovPut t id hi area next) fun _ _ _ _ => rfl

/-! ### Restores (R210) -/

section
variable (hiss : Issues s t (dEff 4 2)) (hh : (s.m.thr t).helm = true) (hr : Runs s t 0x280)
  (hp : (s.m.thr t).progress 0x280 = none) (hbf : s.m.blockFault t false (s.m.thr t).bank.area 128 8 = none)
include hiss hh hr hp hbf

theorem unshov_noTarget (hid : s.m.shovTarget t ((s.m.thr t).bank.dblAt 0) = none) :
    exec (.unshov t) s =
      ends s t (((s.m.thr t).setBank ((s.m.thr t).bank.pop 4)).pushNext ((s.m.thr t).bank.dblAt 2) false) 1 := by
  refine (helm_ends hiss.1 hh hr).trans (congrArg s.becomes ?_)
  have herr := hiss.2
  rw [← s.m.chosen_blockFault t] at hbf
  rw [← s.m.chosen_shovTarget t] at hid
  rw [← s.m.chosen_thr t t] at hp hbf herr hid ⊢
  generalize s.m.chosen t = m at *
  rw [Bank.area] at hbf
  simp only [hp, herr, hbf, hid]

theorem unshov_begins {kind : Nat} (hid : s.m.shovTarget t ((s.m.thr t).bank.dblAt 0) = some id)
    (htx : (((s.m.chosen t).flushMem t).thr t).txns < 4)
    (hgood : ((s.m.chosen t).flushMem t).badN (some t) (s.m.thr t).bank.area 8 = false)
    (hkind : fld (((s.m.chosen t).flushMem t).rdCell (some t) ((s.m.thr t).bank.area + 4)) 17 16 = kind) (hk : kind = 1 ∨ kind = 2)
    (hroom : id ≠ t ∨ (s.m.thr t).fastOn = true ∨ kind ≠ 2 ∨
      fld (((s.m.chosen t).flushMem t).rdCell (some t) ((s.m.thr t).bank.area + 4)) 4 0 ≤ 14)
    (htx2 : ((((s.m.chosen t).flushMem t).flushMem t).thr t).txns < 4)
    (hb : ((((s.m.chosen t).flushMem t).flushMem t).flushMem id).shovBusy t id = false) :
    exec (.unshov t) s = s.becomes ((((((((s.m.chosen t).flushMem t).flushMem t).flushMem id).shovMarked t id true).popped t 4).unshovRun t
      (!(s.m.thr t).atBoundary) (builtinShadow 0x280 (s.m.thr t).bank.area id.toNat kind))) := by
  refine (helm_ends hiss.1 hh hr).trans (congrArg s.becomes ?_)
  have herr := hiss.2
  rw [← s.m.chosen_blockFault t] at hbf
  rw [← s.m.chosen_shovTarget t] at hid
  rw [← s.m.chosen_thr t t] at hp hbf herr hid hgood hkind hroom ⊢
  generalize s.m.chosen t = m at *
  rw [Bank.area] at hbf hgood hkind hroom ⊢
  have hk : ¬ (kind ≠ 1 ∧ kind ≠ 2) := by omega
  have hroom : ¬ (id = t ∧ (!(m.thr t).fastOn) = true ∧ kind = 2 ∧
      14 < fld ((m.flushMem t).rdCell (some t) ((((m.thr t).bank.dblAt 2).setWidth 28).toNat + 4)) 4 0) := by
    rintro ⟨hid, hfast, hkind, hdepth⟩
    rcases hroom with h | h | h | h
    · exact h hid
    · simp [h] at hfast
    · exact h hkind
    · exact h.not_gt hdepth
  simp only [hp, herr, hbf, hid, Mach.begins_of_txns htx, hgood, hkind, if_neg hk, if_neg hroom, shovBegins_of_free htx2 hb (.inl rfl)]
  rfl

end

/-- In a protected run a restore into another thread reads all sixteen words, replaces the thread's half and answers NEXT. -/
theorem unshovRun_protected (m : Mach) {t id : Tid} {area kind : Nat} (harea : area < 2 ^ 28) (hkind : kind < 2 ^ 36) (hne : id ≠ t)
    (hgood : ∀ j < 16, ((List.range j).foldl (fun m j => m.noteN (some t) (area + 8 * j) 8) m).badN (some t) (area + 8 * j) 8 = false) :
    let n := ((List.range 16).foldl (fun m j => m.noteN (some t) (area + 8 * j) 8) m).freeCtx t
    let cs := (n.rdCells t area 64).set 2 (setFld ((n.rdCells t area 64).getD 2 0) 17 16 kind)
    let w := n.restoreInto id cs
    m.unshovRun t true (builtinShadow 0x280 area id.toNat kind) =
      (w.retire t ((w.thr t).pushNext (mkDbl (cs.getD 1 0) (cs.getD 0 0)) true) 1).shovEnds id := by
  intro n cs w
  rw [Mach.unshovRun, builtinShadow_index, List.drop_zero, builtinShadow_mt0 _ (by omega)]
  obtain ⟨k, ⟨hmt2, hmt3⟩, hrun⟩ := runSteps_guarded (t := t) (fin := fun m h => m.unshovEnd t (h.mt2.setWidth 12) area h.mt3.toNat)
    (step := unshovStep t area) (g := fun m j => m.noteN (some t) (area + 8 * j) 8) (List.range 16)
    (fun _ h => h.mt2 = BitVec.ofNat 36 id.toNat ∧ h.mt3 = BitVec.ofNat 36 kind) m (builtinShadow 0x280 area id.toNat kind) ⟨rfl, rfl⟩
    fun i j hj h hh => by
      obtain ⟨rfl, hi⟩ := getElem?_range_eq hj
      rw [List.take_range, min_eq_left hi.le]
      exact ⟨h, by simp only [unshovStep, readBlock_of_good (hgood j hi)], hh⟩
  have hid : (BitVec.ofNat 36 id.toNat).setWidth 12 = id := BitVec.eq_of_toNat_eq (by simp)
  rw [hrun, hmt2, hmt3, hid, BitVec.toNat_ofNat, Nat.mod_eq_of_lt hkind, Mach.unshovEnd]
  simp only [hne, false_and, if_false]
  rfl

end
end Sys2Proof.Machine

/-!
PROOFS. `ldm` (O27): what reading and storing leave of a thread, the element A kept in the shadow, and the end of the instruction.
-/
namespace Sys2Proof.Machine

/-! ## What reading a block leaves of a thread (R320) -/

@[simp] theorem dumpCause_threads (m : Mach) (c : Nat) (v : Dbl) : (m.dumpCause c v).threads = m.threads := by
  unfold Mach.dumpCause; split <;> rfl

@[simp] theorem note1_threads (m : Mach) (p : Place) : (m.note1 p).threads = m.threads := by
  unfold Mach.note1; split
  · rfl
  · simp only; split
    · rfl
    · split <;> (repeat' split) <;> simp

@[simp] theorem noteN_thr (m : Mach) (o : Option Tid) (a n : Nat) (t : Tid) : (m.noteN o a n).thr t = m.thr t := by
  have h : (m.noteN o a n).threads = m.threads := foldl_keeps Mach.threads _ _ m fun n e _ => by
    split
    · exact note1_threads ..
    · rfl
  rw [Mach.thr, h, Mach.thr]

@[simp] theorem freeCtx_thr (m : Mach) (t u : Tid) : (m.freeCtx t).thr u = m.thr u := by
  unfold Mach.freeCtx; split <;> rfl

/-! ## What a thread's stores leave of it (R170, R174, R177) -/

/-- Where a change of a map's entries keeps their keys and leaves out none that satisfies `Q`, the value at a key that satisfies `Q` becomes
one that `R` ties to it. -/
theorem mget_filterMap {α : Type} {d : α} {f : Nat × α → Option (Nat × α)} {i : Nat} {Q : α → Prop} {R : α → α → Prop}
    (hkey : ∀ k x e, f (k, x) = some e → e.1 = k) (hval : ∀ x, Q x → ∃ y, f (i, x) = some (i, y) ∧ R x y) (hd : R d d)
    (m : Map α) (h : Q (mget d m i)) : R (mget d m i) (mget d (m.filterMap f) i) := by
  induction m with
  | nil => exact hd
  | cons e r ih =>
    obtain ⟨k, x⟩ := e
    rw [mget] at h ⊢
    by_cases hk : k = i
    · subst hk
      rw [if_pos rfl] at h ⊢
      obtain ⟨y, hy, hr⟩ := hval x h
      rw [List.filterMap_cons_some hy, mget, if_pos rfl]
      exact hr
    · rw [if_neg hk] at h ⊢
      cases hf : f (k, x) with
      | none => rw [List.filterMap_cons_none hf]; exact ih h
      | some e =>
        rw [List.filterMap_cons_some hf, mget, if_neg (by rw [hkey k x e hf]; exact hk)]
        exact ih h

/-- A thread in the same bank, with the same stores in its buffer. -/
def Thread.Alike (x y : Thread) : Prop := y.fastOn = x.fastOn ∧ y.sb = x.sb

/-- An entry of the threads with its reservation on a granule broken, but for one thread's. -/
def resvBroken (g : Nat) (but : Option Tid) (e : Nat × Thread) : Option (Nat × Thread) :=
  if e.2.resv = some g ∧ but.map BitVec.toNat ≠ some e.1 then
    if { e.2 with resv := none } = threadReset e.1 then none else some (e.1, { e.2 with resv := none })
  else some e

/-- A thread that buffers stores is not as its reset left it, and stays listed when its reservation is broken. -/
theorem breakResv_alike (m : Mach) (g : Nat) (but : Option Tid) {t : Tid} (h : (m.thr t).sb ≠ []) :
    (m.thr t).Alike ((m.breakResv g but).thr t) := by
  refine mget_filterMap (f := resvBroken g but) (Q := fun x => x.sb ≠ []) (R := Thread.Alike) (fun k x e he => ?_) (fun x hx => ?_)
    ⟨rfl, rfl⟩ m.threads h
  · unfold resvBroken at he
    split at he
    · split at he <;> simp_all [Prod.ext_iff]
    · simp_all [Prod.ext_iff]
  · have hne : { x with resv := none } ≠ threadReset t.toNat := fun e => hx (congrArg Thread.sb e)
    by_cases hr : x.resv = some g ∧ but.map BitVec.toNat ≠ some t.toNat
    · exact ⟨{ x with resv := none }, (if_pos hr).trans (if_neg hne), rfl, rfl⟩
    · exact ⟨x, if_neg hr, rfl, rfl⟩

theorem Thread.Alike.trans {x y z : Thread} (h : x.Alike y) (h' : y.Alike z) : x.Alike z := ⟨h'.1.trans h.1, h'.2.trans h.2⟩

theorem putBasin_threads (m : Mach) (p off : Nat) (v : Nonet) (whole : Bool) : (m.putBasin p off v whole).threads = m.threads := by
  unfold Mach.putBasin
  split <;> split <;> simp

section
variable {m : Mach} {t : Tid} (h : (m.thr t).sb ≠ [])
include h

theorem putBasin_breakResv_alike (p off : Nat) (v : Nonet) (whole : Bool) (g : Nat) (but : Option Tid) :
    (m.thr t).Alike (((m.putBasin p off v whole).breakResv g but).thr t) := by
  have hthr : (m.putBasin p off v whole).thr t = m.thr t := by rw [Mach.thr, putBasin_threads, Mach.thr]
  rw [← hthr] at h ⊢
  exact breakResv_alike _ g but h

theorem wr1_alike (p : Place) (v : Nonet) (whole : Bool) (but : Option Tid) : (m.thr t).Alike ((m.wr1 p v whole but).thr t) := by
  have hput (n : Mach) (k : Nat) : (n.putKey k v whole).thr t = n.thr t := by rw [Mach.thr, putKey_threads, Mach.thr]
  unfold Mach.wr1
  split
  · dsimp only
    split
    · rw [hput, hput]; exact ⟨rfl, rfl⟩
    · rw [hput]; exact ⟨rfl, rfl⟩
  · dsimp only
    rename_i l off
    have h1 := putBasin_breakResv_alike h l off v whole (granule l off) but
    split
    · exact h1.trans (putBasin_breakResv_alike (by rw [h1.2]; exact h) ..)
    · exact h1
  · split
    · rw [hput]; exact ⟨rfl, rfl⟩
    · exact ⟨rfl, rfl⟩
  · exact ⟨rfl, rfl⟩

end

/-- An operation repeated keeps a thread alike if each step does while the thread buffers stores. -/
theorem foldl_alike {α : Type} {f : Mach → α → Mach} {t : Tid} (l : List α) (m : Mach) (h : (m.thr t).sb ≠ [])
    (hf : ∀ (n : Mach) (e : α), (n.thr t).sb ≠ [] → (n.thr t).Alike ((f n e).thr t)) : (m.thr t).Alike ((l.foldl f m).thr t) := by
  induction l generalizing m with
  | nil => exact ⟨rfl, rfl⟩
  | cons e r ih =>
    have he := hf m e h
    exact he.trans (ih (f m e) (by rw [he.2]; exact h))

theorem storeMem_alike (m : Mach) {t : Tid} (e : SbEntry) (h : (m.thr t).sb ≠ []) : (m.thr t).Alike ((m.storeMem t e).thr t) := by
  have hflit : (m.flitAs t e.addr.toNat e.pri e.waited).thr t = m.thr t := by
    unfold Mach.flitAs
    split <;> rfl
  have hloads (n : Mach) (a k : Nat) : (n.thr t).Alike ((n.loadsBefore t a k).thr t) := by
    rw [Mach.loadsBefore, Mach.updThr_thr_self]
    exact ⟨rfl, rfl⟩
  have hpart (n : Mach) (a k : Nat) : (n.notePart (some t) a k).thr t = n.thr t := by
    rw [Mach.thr, Mach.notePart, foldl_keeps Mach.threads _ _ _ fun n i _ => by split; exacts [note1_threads .., rfl], Mach.thr]
  unfold Mach.storeMem
  split
  · exact ⟨rfl, rfl⟩
  · rw [← hflit] at h ⊢
    have h1 := hloads (m.flitAs t e.addr.toNat e.pri e.waited) e.addr.toNat e.nonets.length
    have h2 := hpart ((m.flitAs t e.addr.toNat e.pri e.waited).loadsBefore t e.addr.toNat e.nonets.length) e.addr.toNat e.nonets.length
    refine h1.trans ?_
    rw [Mach.wrThr, Mach.wrN, ← h2]
    exact foldl_alike _ _ (by rw [h2, h1.2]; exact h) fun n i hn => wr1_alike hn ..

/-- A thread whose stores are performed stays in its bank. -/
theorem flushMem_fastOn (m : Mach) (t : Tid) : ((m.flushMem t).thr t).fastOn = (m.thr t).fastOn := by
  rw [Mach.flushMem, Mach.updThr_thr_self]
  dsimp only
  rcases List.eq_nil_or_concat (m.thr t).sb with h | h
  · rw [h]; rfl
  · refine (foldl_alike _ m ?_ fun n e hn => storeMem_alike n e hn).1
    obtain ⟨l, e, h⟩ := h
    simp [h]

/-! ## The element A in the shadow (R205, log entry 20) -/

theorem fld_testBit {w : Nat} (c : BitVec w) (hi lo i : Nat) :
    (fld c hi lo).testBit i = (decide (i < hi + 1 - lo) && c.getLsbD (lo + i)) := by
  rw [fld, Nat.testBit_mod_two_pow, Nat.testBit_div_two_pow, Nat.add_comm i lo]
  rfl

theorem at_held (h : Shadow) (i : Nat) : (h.at_ i).held = h.held := by
  have hfld : fld (setFld h.mt1 5 0 i) 33 6 = fld h.mt1 33 6 := Nat.eq_of_testBit_eq fun j => by
    rw [fld_testBit, fld_testBit]
    by_cases hj : j < 28
    · rw [setFld_getLsbD _ _ _ (by omega) (by omega), if_neg (by omega)]
    · simp [hj]
  rw [Shadow.held, Shadow.at_, hfld, Shadow.held]

theorem hold_held (h : Shadow) (a : DAddr) : (h.hold a).held = a := by
  have hfld : fld (setFld h.mt1 33 6 a.toNat) 33 6 = a.toNat := Nat.eq_of_testBit_eq fun j => by
    rw [fld_testBit]
    by_cases hj : j < 28
    · rw [setFld_getLsbD _ _ _ (by omega) (by omega), if_pos (by omega), Nat.add_sub_cancel_left]
      simp [hj]
    · rw [Nat.testBit_lt_two_pow (x := a.toNat) (i := j) (lt_of_lt_of_le a.isLt (Nat.pow_le_pow_right (by omega) (by omega)))]
      simp [hj]
  rw [Shadow.held, Shadow.hold, hfld, BitVec.ofNat_toNat, BitVec.setWidth_eq]

/-! ## The elements that `ldm` loads (R203, R205) -/

/-- A block has one element A at most. -/
theorem count_a_blockElems (mask rd : Nat) : (blockElems mask rd).count .a ≤ 1 := by
  have hpick (i : Nat) (e : BlockElem) (he : e ≠ .a) : (if mask.testBit i then [e] else []).count .a = 0 := by
    split <;> simp [he]
  have hstack : (if mask.testBit 17 then BlockElem.depth :: List.replicate rd .entry else []).count .a = 0 := by
    split <;> simp [List.count_replicate]
  have ha : (if mask.testBit 12 then [BlockElem.a] else []).count .a ≤ 1 := by
    split <;> simp
  simp only [blockElems, List.count_append, hstack, hpick, ne_eq, reduceCtorEq, not_false_eq_true, List.count_replicate]
  simpa using ha

theorem ldmElems_fst_sublist (ptr mask head rd : Nat) : ((ldmElems ptr mask head rd).map Prod.fst).Sublist (blockElems head rd) := by
  have h : ((blockElems head rd).zipIdx.map fun e => (e.1, ptr + 4 * e.2)).map Prod.fst = blockElems head rd := by
    rw [List.map_map]
    exact List.zipIdx_map_fst ..
  rw [← h, ldmElems]
  exact List.filter_sublist.map _

/-- So `ldm` loads it from one place at most. -/
theorem ldmElems_a_unique {ptr mask head rd i j : Nat} {e f : BlockElem × Nat} (hi : (ldmElems ptr mask head rd)[i]? = some e)
    (hj : (ldmElems ptr mask head rd)[j]? = some f) (he : e.1 = .a) (hf : f.1 = .a) : ¬ i < j := by
  intro hlt
  have hone := (ldmElems_fst_sublist ptr mask head rd).count_le .a |>.trans (count_a_blockElems head rd)
  have htwo : List.Duplicate .a ((ldmElems ptr mask head rd).map Prod.fst) := by
    obtain ⟨hi', hi⟩ := List.getElem?_eq_some_iff.mp hi
    obtain ⟨hj', hj⟩ := List.getElem?_eq_some_iff.mp hj
    exact List.duplicate_iff_exists_distinct_get.mpr
      ⟨⟨i, by simpa using hi'⟩, ⟨j, by simpa using hj'⟩, hlt, by simp [hi, he], by simp [hj, hf]⟩
  exact absurd (List.duplicate_iff_two_le_count.mp htwo) (by omega)

/-! ## `ldm` in a protected run -/

@[simp] theorem Thread.setBank_fastOn (x : Thread) (b : Bank) : (x.setBank b).fastOn = x.fastOn := by
  unfold Thread.setBank; split <;> rfl

@[simp] theorem Thread.setBank_setBank (x : Thread) (b c : Bank) : (x.setBank b).setBank c = x.setBank c := by
  cases h : x.fastOn <;> simp [Thread.setBank, h]

@[simp] theorem Thread.setPtr_fastOn (x : Thread) (a : Nat) : (x.setPtr a).fastOn = x.fastOn := Thread.setBank_fastOn ..

/-- The pointer set twice is the pointer set last. -/
@[simp] theorem Thread.setPtr_setPtr (x : Thread) (a b : Nat) : (x.setPtr a).setPtr b = x.setPtr b := by
  simp [Thread.setPtr]

@[simp] theorem Thread.elemIn_fastOn (x : Thread) (e : BlockElem) (a : Nat) (v : Dbl) (flg : Cell) :
    (x.elemIn e a v flg).fastOn = x.fastOn := by
  cases e <;> simp only [Thread.elemIn]
  case a => split <;> rfl
  case flg =>
    unfold Thread.flagsIn
    split
    · rfl
    · exact Thread.setBank_fastOn ..

section
variable (m : Mach) (t : Tid)

/-- The value of an element as `ldm` finds it in memory. -/
def Mach.elemVal (e : BlockElem × Nat) : Dbl := BitVec.ofNat 36 (pack (m.rdN (some t) e.2 4))

/-- The block after `ldm` has read one element. -/
def Mach.ldmGet (flg : Nat) (e : BlockElem × Nat) : Mach :=
  (m.noteN (some t) e.2 4).updThr t fun x => x.elemIn e.1 e.2 (m.elemVal t e) (BitVec.ofNat 18 flg)

@[simp] theorem ldmGet_fastOn (flg : Nat) (e : BlockElem × Nat) : ((m.ldmGet t flg e).thr t).fastOn = (m.thr t).fastOn := by
  rw [Mach.ldmGet, Mach.updThr_thr_self, Thread.elemIn_fastOn, noteN_thr]

end

/-- What the routine of `ldm` keeps while it runs: its operands, and the value of the element A once that is read. -/
structure LdmKeeps (t : Tid) (ptr mask head : Nat) (es : List (BlockElem × Nat)) (till : Nat → Mach) (i : Nat) (h : Shadow) : Prop where
  mt0 : h.mt0 = BitVec.ofNat 36 ptr
  mt2 : h.mt2 = BitVec.ofNat 36 mask
  mt3 : h.mt3 = BitVec.ofNat 36 head
  held : ∀ j < i, ∀ e, es[j]? = some e → e.1 = .a → h.held = ((till j).elemVal t e).setWidth 28

theorem ldmStep_keeps {t : Tid} {ptr mask head flg i : Nat} {mask' head' rd' : Nat} {till : Nat → Mach} {e : BlockElem × Nat} {h : Shadow}
    (he : (ldmElems ptr mask' head' rd')[i]? = some e) (hgood : (till i).badN (some t) e.2 4 = false)
    (hflg : Dbl.hi (BitVec.ofNat 36 mask) = BitVec.ofNat 18 flg)
    (hk : LdmKeeps t ptr mask head (ldmElems ptr mask' head' rd') till i h) :
    ∃ k, ldmStep t e (till i) h = ((till i).ldmGet t flg e, k, .ok) ∧
      LdmKeeps t ptr mask head (ldmElems ptr mask' head' rd') till (i + 1) (k.at_ (k.index + 1)) := by
  obtain ⟨hmt0, hmt2, hmt3, hheld⟩ := hk
  refine ⟨if e.1 = .a then h.hold (((till i).elemVal t e).setWidth 28) else h, ?_, ?_⟩
  · simp only [ldmStep, readBlock_of_good hgood, hmt2, hflg]
    rfl
  · refine ⟨?_, ?_, ?_, fun j hj f hf hfa => ?_⟩
    · split <;> exact hmt0
    · split <;> exact hmt2
    · split <;> exact hmt3
    · rw [at_held]
      rcases Nat.lt_succ_iff_lt_or_eq.mp hj with hj | rfl
      · have hea : e.1 ≠ .a := fun hea => ldmElems_a_unique hf he hfa hea hj
        rw [if_neg hea]
        exact hheld j hj f hf hfa
      · obtain rfl : e = f := Option.some.inj (he.symm.trans hf)
        rw [if_pos hfa, hold_held]

/-- The address that the pointer ends at (R205): past the block, or where the normal bank is active and A was loaded, the value of A. -/
def ldmPtr (t : Tid) (fast : Bool) (es : List (BlockElem × Nat)) (till : Nat → Mach) (past : Nat) : Nat :=
  if fast then past
  else ((es.zipIdx.find? fun e => e.1.1 == .a).map fun e => pack ((till e.2).rdN (some t) e.1.2 4)).getD past

/-- The thread at the end of `ldm`, but for what the end of an instruction does. -/
def Thread.ldmDone (x : Thread) (fast : Bool) (es : List (BlockElem × Nat)) (flg ptr : Nat) : Thread :=
  let z := x.setPtr ptr
  if es.any (fun e => e.1 == .flg) ∧ fast = false then z.writeFlg (blend (BitVec.ofNat 18 flg) 0x1F z.flg) else z

theorem setPtr_elemVal (x : Thread) (m : Mach) (t : Tid) (e : BlockElem × Nat) :
    x.setPtr ((m.elemVal t e).setWidth 28 : DAddr).toNat = x.setPtr (pack (m.rdN (some t) e.2 4)) := by
  have h : BitVec.ofNat 28 ((m.elemVal t e).setWidth 28 : DAddr).toNat = BitVec.ofNat 28 (pack (m.rdN (some t) e.2 4)) :=
    BitVec.eq_of_toNat_eq (by simp [Mach.elemVal])
  rw [Thread.setPtr, h, Thread.setPtr]

theorem ldmEnd_eq {n : Mach} {t : Tid} {h : Shadow} {ptr mask head flg size : Nat} {mask' head' rd' : Nat} {till : Nat → Mach}
    (hflg : Dbl.hi (BitVec.ofNat 36 mask) = BitVec.ofNat 18 flg) (hptr : ptr < 2 ^ 36)
    (hk : LdmKeeps t ptr mask head (ldmElems ptr mask' head' rd') till (ldmElems ptr mask' head' rd').length h) :
    n.ldmEnd t h (ldmElems ptr mask' head' rd') size =
      n.retire t ((n.thr t).ldmDone (n.thr t).fastOn (ldmElems ptr mask' head' rd') flg
        (ldmPtr t (n.thr t).fastOn (ldmElems ptr mask' head' rd') till (ptr + size))) 1 := by
  obtain ⟨hmt0, hmt2, -, hheld⟩ := hk
  generalize ldmElems ptr mask' head' rd' = es at *
  have hptr : h.mt0.toNat = ptr := by rw [hmt0]; exact Nat.mod_eq_of_lt hptr
  have hset : (if (es.any fun q => q.1 == .a) && !(n.thr t).fastOn then ((n.thr t).setPtr (ptr + size)).setPtr h.held.toNat
      else (n.thr t).setPtr (ptr + size)) = (n.thr t).setPtr (ldmPtr t (n.thr t).fastOn es till (ptr + size)) := by
    cases hfast : (n.thr t).fastOn with
    | true => simp [ldmPtr]
    | false =>
      cases hfind : es.zipIdx.find? fun e => e.1.1 == .a with
      | none =>
        have hnone : (es.any fun q => q.1 == .a) = false := List.any_eq_false.mpr fun q hq => by
          obtain ⟨i, hi⟩ := List.getElem?_of_mem hq
          exact List.find?_eq_none.mp hfind (q, i) (List.mem_zipIdx_iff_getElem?.mpr hi)
        simp [ldmPtr, hfind, hnone]
      | some e =>
        have hea : e.1.1 = .a := by simpa using List.find?_some hfind
        have hmem := List.mem_zipIdx_iff_getElem?.mp (List.mem_of_find?_eq_some hfind)
        have hlt : e.2 < es.length := (List.getElem?_eq_some_iff.mp hmem).1
        have hany : (es.any fun q => q.1 == .a) = true := List.any_eq_true.mpr ⟨e.1, List.mem_of_getElem? hmem, by simp [hea]⟩
        rw [hheld e.2 hlt e.1 hmem hea, setPtr_elemVal, Thread.setPtr_setPtr]
        simp [ldmPtr, hfind, hany]
  simp only [Mach.ldmEnd, hptr, hmt2, hflg, hset, Thread.setPtr_fastOn, Thread.ldmDone]
  congr 1
  simp only [Bool.and_eq_true, Bool.not_eq_true']

/-- Two cells packed as the routine's state holds them: the upper in bits 35:18. -/
theorem hi_packed {a b : Nat} (hb : b < 2 ^ 18) : Dbl.hi (BitVec.ofNat 36 (a * 2 ^ 18 + b)) = BitVec.ofNat 18 a :=
  BitVec.eq_of_toNat_eq (by
    rw [Dbl.hi, BitVec.extractLsb'_toNat, BitVec.toNat_ofNat, BitVec.toNat_ofNat, Nat.shiftRight_eq_div_pow]
    omega)

theorem lo_packed {a b : Nat} (hb : b < 2 ^ 18) : (Dbl.lo (BitVec.ofNat 36 (a * 2 ^ 18 + b))).toNat = b := by
  rw [Dbl.lo, BitVec.toNat_setWidth, BitVec.toNat_ofNat]
  omega

/-- In a protected run `ldm` reads every element, and A, where it is the pointer, and the modes of FLG change at the end (R166, R205). -/
theorem ldmRun_protected (m : Mach) (t : Tid) {ptr mask head rd flg : Nat} (hptr : ptr < 2 ^ 28) (hmask : mask < 2 ^ 18)
    (hhead : head < 2 ^ 18) (hrd : rd < 2 ^ 18) (es : List (BlockElem × Nat)) (hes : es = ldmElems ptr mask head rd)
    (till : Nat → Mach) (htill : till = fun i => (es.take i).foldl (fun m => m.ldmGet t flg) m)
    (hgood : ∀ i e, es[i]? = some e → (till i).badN (some t) e.2 4 = false) :
    let n := (till es.length).freeCtx t
    m.ldmRun t true (builtinShadow 0x140 ptr (flg * 2 ^ 18 + mask) (rd * 2 ^ 18 + head)) =
      n.retire t ((n.thr t).ldmDone (m.thr t).fastOn es flg
        (ldmPtr t (m.thr t).fastOn es till (ptr + 4 * (blockElems head rd).length))) 1 := by
  intro n
  have hfast : (n.thr t).fastOn = (m.thr t).fastOn := by
    rw [freeCtx_thr, htill]
    exact foldl_keeps (fun m => (m.thr t).fastOn) _ _ m fun k e _ => ldmGet_fastOn k t flg e
  have hlast : till es.length = es.foldl (fun m => m.ldmGet t flg) m := by rw [htill]; simp
  subst hes
  obtain ⟨k, hk, hrun⟩ := runSteps_guarded (t := t)
    (fin := fun m h => m.ldmEnd t h (ldmElems ptr mask head rd) (4 * (blockElems head rd).length)) (step := ldmStep t)
    (g := fun m => m.ldmGet t flg) (ldmElems ptr mask head rd)
    (LdmKeeps t ptr (flg * 2 ^ 18 + mask) (rd * 2 ^ 18 + head) (ldmElems ptr mask head rd) till) m
    (builtinShadow 0x140 ptr (flg * 2 ^ 18 + mask) (rd * 2 ^ 18 + head)) ⟨rfl, rfl, rfl, fun j hj => absurd hj (by omega)⟩
    fun i e he h hh => by
      have hstep := ldmStep_keeps he (hgood i e he) (hi_packed hmask) hh
      rw [htill] at hstep ⊢
      exact hstep
  rw [Mach.ldmRun, builtinShadow_index, List.drop_zero, builtinShadow_mt0 _ (by omega)]
  simp only [builtinShadow, lo_packed hmask, lo_packed hhead, hi_packed hhead, BitVec.toNat_ofNat, Nat.mod_eq_of_lt hrd] at hrun ⊢
  rw [hrun, ← hlast, ldmEnd_eq (hi_packed hmask) (by omega) hk, hfast]

/-! ## How `ldm` begins (R153, R205) -/

section
variable (m : Mach) (t : Tid)

/-- The return depth that a header names, read from the block (R203). -/
def Mach.headDepth (ptr head : Nat) : Nat :=
  if head.testBit 17 then fld (m.rdDbl (some t) (ptr + 4 * ((blockElems head 0).length - 1))) 4 0 else 0

/-- The value of FLG among the elements that are loaded. -/
def Mach.loadedFlg (es : List (BlockElem × Nat)) : Nat :=
  match es.find? fun e => e.1 == .flg with
  | some e => (Dbl.lo (m.rdDbl (some t) e.2)).toNat
  | none => 0

/-- The checks that come after the header is read and before any change; `rd` is the return depth that the header names, and `es` are the
elements that are loaded. -/
structure LdmPasses (ptr mask k head rd : Nat) (es : List (BlockElem × Nat)) : Prop where
  header : (dataCount head).isSome = true
  data : k = 0 ∨ mask % 4096 = head % 4096
  room : (m.thr t).spareCells + k ≤ 16
  depth : mask.testBit 17 = false ∨ rd ≤ 16
  block : m.blockFault t false ptr (4 * (blockElems head rd).length) 4 = none
  words : ((es.filter fun e => e.1 == .flg || e.1 == .u).find? fun e => m.badN (some t) e.2 4) = none
  rights : m.ldmDenied t es = false

theorem ldmStart_of_passes {ptr mask k head rd flg : Nat} {es : List (BlockElem × Nat)} (hrd : rd = m.headDepth t ptr head)
    (hes : es = ldmElems ptr mask head rd) (hflg : flg = m.loadedFlg t es) (h : LdmPasses m t ptr mask k head rd es) :
    m.ldmStart t ptr mask k head = (m.popped t 1).ldmRun t (!(m.thr t).atBoundary)
      (builtinShadow 0x140 ptr (flg * 2 ^ 18 + mask) (rd * 2 ^ 18 + head)) := by
  obtain ⟨hheader, hdata, hroom, hdepth, hblock, hwords, hrights⟩ := h
  obtain ⟨n, hn⟩ := Option.isSome_iff_exists.mp hheader
  have hdata : ¬ (k ≠ 0 ∧ mask % 4096 ≠ head % 4096) := by tauto
  have hdepth : ¬ (mask.testBit 17 = true ∧ 16 < rd) := by
    rintro ⟨h17, hlt⟩
    rcases hdepth with hdepth | hdepth
    · exact Bool.false_ne_true (hdepth.symm.trans h17)
    · exact hdepth.not_gt hlt
  have hroom := hroom.not_gt
  rw [Thread.spareCells] at hroom
  subst hflg hes hrd
  rw [Mach.headDepth] at hdepth hblock hwords hrights ⊢
  simp only [Mach.ldmStart, hn, if_neg hdata, if_neg hroom, if_neg hdepth, hblock, hwords, hrights, Bool.false_eq_true, if_false]
  rfl

end

theorem ldm_begins {s : State} {t : Tid} {c : Cell} {r : List Cell} {k : Nat} {f g : Mach} {ptr head : Nat}
    (hf : f = (s.m.chosen t).flushMem t) (hptr : ptr = (s.m.thr t).bank.a.toNat) (hhead : head = pack (f.rdN (some t) ptr 4) % 2 ^ 18)
    (hg : g = f.noteN (some t) ptr 4)
    (hds : (s.m.thr t).bank.ds = c :: r) (hi : Issues s t (dEff 1 0)) (hr : Runs s t 0x140)
    (htx : (f.thr t).txns < 4) (hp : (s.m.thr t).progress 0x140 = none) (hk : dataCount c.toNat = some k)
    (hbf : s.m.blockFault t false ptr 4 4 = none) (hgood : f.badN (some t) ptr 4 = false) :
    exec (.ldm t) s = s.becomes (g.ldmStart t ptr c.toNat k head) := by
  refine (routine_ends hi.1 hr).trans (congrArg _ ?_)
  have herr := hi.2
  rw [← s.m.chosen_blockFault t] at hbf
  rw [← s.m.chosen_thr t t] at hds hp herr hptr
  generalize s.m.chosen t = m at *
  subst hf hptr hhead hg
  simp only [hp, herr, at_zero_of_cons hds, hk, hbf, Mach.begins_of_txns htx, readBlock_of_good hgood]

end Sys2Proof.Machine

/-!
PROOFS. Block moves and the shov family (O27): the statement, from the beginning and the run of each instruction.
-/
namespace Sys2Proof.Machine

theorem fld_lt {w : Nat} (c : BitVec w) (hi lo : Nat) : fld c hi lo < 2 ^ (hi + 1 - lo) := Nat.mod_lt _ (by positivity)

theorem headDepth_lt (m : Mach) (t : Tid) (ptr head : Nat) : m.headDepth t ptr head < 2 ^ 18 := by
  unfold Mach.headDepth
  split
  · exact (fld_lt _ 4 0).trans (by decide)
  · decide

@[simp] theorem popped_fastOn (m : Mach) (t : Tid) (n : Nat) : ((m.popped t n).thr t).fastOn = (m.thr t).fastOn := by
  rw [Mach.popped, Mach.updThr_thr_self, Thread.setBank_fastOn]

section
variable {s : State} {t : Tid} {c : Cell} {r : List Cell} {k : Nat}

/-- `ldm` from its issue to its end in a protected run. -/
theorem ldm_protected {g : Mach} {ptr head rd flg : Nat} {es : List (BlockElem × Nat)} {till : Nat → Mach}
    (hg : g = ((s.m.chosen t).flushMem t).noteN (some t) ptr 4) (hptr : ptr < 2 ^ 28) (hhead : head < 2 ^ 18)
    (hrd : rd = g.headDepth t ptr head) (hes : es = ldmElems ptr c.toNat head rd) 
    (htill : till = fun i => (es.take i).foldl (fun m => m.ldmGet t flg) (g.popped t 1))
    (hgood : ∀ i e, es[i]? = some e → (till i).badN (some t) e.2 4 = false) :
    let n := (till es.length).freeCtx t
    (g.popped t 1).ldmRun t true (builtinShadow 0x140 ptr (flg * 2 ^ 18 + c.toNat) (rd * 2 ^ 18 + head)) =
      n.retire t ((n.thr t).ldmDone (s.m.thr t).fastOn es flg
        (ldmPtr t (s.m.thr t).fastOn es till (ptr + 4 * (blockElems head rd).length))) 1 := by
  have hfast : ((g.popped t 1).thr t).fastOn = (s.m.thr t).fastOn := by
    rw [popped_fastOn, hg, noteN_thr, flushMem_fastOn, Mach.chosen_thr]
  have hend := ldmRun_protected (g.popped t 1) t hptr c.isLt hhead (by rw [hrd]; exact headDepth_lt ..)
    es hes till htill hgood
  rw [hfast] at hend
  exact hend

end

/-- Settles O27: each instruction by the lemma on how it begins and the lemma on its run (how the routine packs its pointer, masks and index,
and reason 0 for a block out of place, are the model's choice: log entries 20 and 21). -/
theorem blockMovesAndShov : Obligations.BlockMovesAndShov := by
  unfold Obligations.BlockMovesAndShov
  refine ⟨fun s t c r k gs fin h => ?_, fun s t id why => ?_⟩
  · intro x f popped mask rd size start ptr head g y hrd es flg a d
    refine ⟨fun hds hi => ⟨fun hr htx hp hk hle hbf => ?_, fun hr htx hp hk hbf hgood hheader hdata hroom hdepth hblock hwords hrights => ?_,
      fun hr htx hp hf => ?_, fun hr htx hp hf hsave => ?_⟩, runSteps_plain s.m t fin h gs⟩
    · have hrun := stm_begins hds hi hr htx hp hk hle hbf
      refine ⟨hrun, fun hb hrd => hrun.trans ?_⟩
      rw [hb]
      exact congrArg s.becomes (stmRun_protected _ t ((Nat.mod_lt _ (by decide)).trans (by decide)) (c.isLt.trans (by decide))
        (hrd.trans_lt (by decide)))
    · have hrdef : hrd = g.headDepth t ptr head := rfl
      have hflgdef : flg = g.loadedFlg t es := by
        dsimp only [flg]
        unfold Mach.loadedFlg
        cases es.find? fun e => e.1 == .flg <;> rfl
      have hesdef : es = ldmElems ptr mask head hrd := rfl
      clear_value flg es hrd
      have hpass : LdmPasses g t ptr mask k head hrd es := ⟨hheader, hdata, hroom, hdepth, hblock, hwords, hrights⟩
      have hrun := (ldm_begins (s := s) rfl rfl rfl rfl hds hi hr htx hp hk hbf hgood).trans
        (congrArg s.becomes (ldmStart_of_passes g t hrdef hesdef hflgdef hpass))
      refine ⟨hrun, ?_⟩
      intro hb get till n newA past z hgood
      rw [hrun, hb]
      exact congrArg s.becomes (ldm_protected (till := till) rfl x.bank.a.isLt (Nat.mod_lt _ (by decide)) hrdef hesdef rfl hgood)
    · have hrun := tallyBlock_begins (load := false) hds hi hr htx hp hf Bool.noConfusion
      refine ⟨hrun, fun hb ha => hrun.trans ?_⟩
      rw [hb]
      exact congrArg s.becomes (tsaveRun_protected _ t ha)
    · have hrun := tallyBlock_begins (load := true) hds hi hr htx hp hf fun _ => hsave
      refine ⟨hrun, ?_⟩
      intro hb ha get till n hgood
      refine hrun.trans ?_
      rw [hb]
      exact congrArg s.becomes (trestRun_protected _ t ha hgood)
  · intro x m f area kind marked popped saves
    have hsaves (op : Instr) (hi : Bool) (entry : Nat) (hop : exec op s = onThread t s fun m => m.shovOp t hi)
        (hn : entry = (shovEntry hi).toNat) (he : BitVec.ofNat 11 entry = shovEntry hi) : saves op hi entry := by
      intro hiss hh hr hp
      rw [hn] at hr
      rw [he] at hp
      rw [hop, he]
      refine ⟨shov_fault hiss hh hr hp, shov_noTarget hiss hh hr hp, ?_⟩
      intro hbf hid htx e hb hsb g w
      have hrun := shov_begins hiss hh hr hp hbf hid htx hb hsb
      refine ⟨hrun, ?_⟩
      intro hat put n
      refine hrun.trans ?_
      rw [hat]
      exact congrArg s.becomes (shovRun_protected w t id hi _ _ (BitVec.isLt _))
    refine ⟨fun hsel hh => ⟨privileged_ends hsel hh, privileged_ends hsel hh, privileged_ends hsel hh⟩,
      hsaves (.shovLo t) false 0x200 rfl rfl rfl, hsaves (.shovHi t) true 0x240 rfl rfl rfl, fun hiss hh hr hp hbf =>
      ⟨unshov_noTarget hiss hh hr hp hbf, ?_⟩⟩
    intro hid hgood hkind hroom htx f2 htx2 e hb g
    have hrun := unshov_begins hiss hh hr hp hbf hid htx hgood rfl hkind hroom htx2 hb
    refine ⟨hrun, ?_⟩
    intro hat hne till hgood
    refine hrun.trans ?_
    rw [hat]
    exact congrArg s.becomes (unshovRun_protected g (BitVec.isLt _) ((fld_lt _ 17 16).trans (by decide)) hne hgood)

end Sys2Proof.Machine

/-!
PROOFS. Hold pools (O41): the lowest free index of a pool, the placement registers, and the allocation and return of a hold.
-/
namespace Sys2Proof.Machine

/-! ## The lowest free index (log entry 12) -/

/-- What a search from i finds is free, and every index that it passed is taken. -/
theorem firstFree_eq_some {taken : Map Bool} {n i k : Nat} (h : firstFree taken n i = some k) :
    mget false taken k = false ∧ ∀ j, i ≤ j → j < k → mget false taken j = true := by
  induction n generalizing i with
  | zero => simp [firstFree] at h
  | succ n ih =>
    unfold firstFree at h
    split at h
    case isTrue hi =>
      obtain ⟨hfree, htaken⟩ := ih h
      refine ⟨hfree, fun j hij hjk => ?_⟩
      rcases Nat.eq_or_lt_of_le hij with rfl | hlt
      · exact hi
      · exact htaken j hlt hjk
    case isFalse hi =>
      cases h
      exact ⟨by simpa using hi, fun j hij hji => absurd hji hij.not_gt⟩

theorem lowestFree_eq_some {taken : Map Bool} {n k : Nat} (h : lowestFree taken n = some k) :
    mget false taken k = false ∧ ∀ j < k, mget false taken j = true := by
  obtain ⟨hfree, htaken⟩ := firstFree_eq_some h
  exact ⟨hfree, fun j => htaken j j.zero_le⟩

/-! ## Registers outside the cores' space -/

section
variable {s : State} {who : Master} {a : Reg} {u i : Nat}

theorem rowWrite_stores {v : Cell} (h : Takes s who ⟨a, u, i⟩) (hcmd : a ≠ .odCmd) (hspace : a.info.space ≠ .core) :
    rowWrite s ⟨a, u, i⟩ v who = s.becomes (s.m.regStore ⟨a, u, i⟩ v who) :=
  rowWrite_takes h hcmd fun e => hspace e.1

theorem rowRead_fetches (h : Answers s who ⟨a, u, i⟩) (hspace : a.info.space ≠ .core) :
    rowRead s ⟨a, u, i⟩ who =
      s.reads (s.m.regFetch ⟨a, u, i⟩ who (s.m.quiet who)).1 (s.m.regFetch ⟨a, u, i⟩ who (s.m.quiet who)).2 :=
  rowRead_on h fun e => hspace e.1

end

/-! ## The hold registers of a lock (R47, R49, R50) -/

section
variable {s : State} {who : Master} {p : PLock} {v : Cell}

/-- The register that a placement row writes. -/
def placementReg (r : Fin 3) : Reg := [.lkHoldbase, .lkHoldcnt, .lkManbase][r]

theorem poolPlacementWrite_takes {r : Fin 3} (h : Takes s who ⟨placementReg r, p.val, 0⟩) :
    exec (.poolPlacementWrite who p r v) s = s.becomes (s.m.poolWrite p.val (placementReg r) v) := by
  have hrow : exec (.poolPlacementWrite who p r v) s = rowWrite s ⟨placementReg r, p.val, 0⟩ v who := by
    fin_cases r <;> rfl
  have hstore : s.m.regStore ⟨placementReg r, p.val, 0⟩ v who = s.m.poolWrite p.val (placementReg r) v := by
    fin_cases r <;> rfl
  rw [hrow, rowWrite_stores h (by fin_cases r <;> decide) (by fin_cases r <;> decide), hstore]

theorem holdAlloc_answers (h : Answers s who ⟨.lkHoldalloc, p.val, 0⟩) :
    exec (.holdAlloc who p) s =
      s.reads (s.m.holdAlloc p.val who (s.m.quiet who)).1 (s.m.holdAlloc p.val who (s.m.quiet who)).2 :=
  rowRead_fetches h (by decide)

theorem holdReturn_takes (h : Takes s who ⟨.lkHoldret, p.val, 0⟩) :
    exec (.holdReturn who p v) s = s.becomes (s.m.holdRet p.val v) :=
  rowWrite_stores h (by decide) (by decide)

end

/-! ## Allocation (R50) -/

section
variable {m : Mach} {p : Nat} {who : Master} {quiet : Bool}

/-- Whether as many holds are free as the reader's class leaves to others. -/
def Mach.holdRoom (m : Mach) (p : Nat) (who : Master) : Prop :=
  7 ≤ m.readerClass who ∨ fld (m.ru .lkFrctl p) 9 0 < m.freeHolds p

theorem holdAlloc_of_free {i : Nat} (hr : m.holdRoom p who) (hi : m.freeHold p = some i) :
    m.holdAlloc p who quiet = (if quiet then m else m.updLock p fun k => { k with holds := mset false k.holds i true },
      BitVec.ofNat 18 (0x20000 + i)) := by
  unfold Mach.holdRoom at hr
  simp only [Mach.holdAlloc, if_pos hr, hi]

theorem holdAlloc_of_full (hi : m.freeHold p = none) : m.holdAlloc p who quiet = (m, 0) := by
  rw [Mach.holdAlloc, hi, ite_self]

theorem holdAlloc_of_reserved (hr : ¬ m.holdRoom p who) : m.holdAlloc p who quiet = (m, 0) := if_neg hr

end

/-! ## The statement -/

/-- Settles O41: a placement register by the one rule of R49, the allocation by whether a hold is left and free, the return by whether the
hold was taken (that the lowest free hold is given is the model's choice: log entry 12). -/
theorem pools : Obligations.Pools := by
  unfold Obligations.Pools
  intro s who p r v i m k reg w at_ fits room mark
  have hreg : reg = placementReg r := by fin_cases r <;> rfl
  refine ⟨fun ht => ?_, fun ha => ?_, fun ht => ?_⟩
  · rw [hreg] at ht
    have hrow : exec (.poolPlacementWrite who p r v) s = s.becomes (m.poolWrite p.val reg v) :=
      hreg ▸ poolPlacementWrite_takes ht
    refine ⟨fun hk hf => hrow.trans (congrArg s.becomes (if_pos ?_)), fun h => hrow.trans (congrArg s.becomes (if_neg ?_))⟩
    · exact Bool.and_eq_true_iff.mpr ⟨hk, hf⟩
    · exact Bool.eq_false_iff.mp (Bool.and_eq_false_iff.mpr h)
  · rw [holdAlloc_answers ha]
    refine ⟨fun hr hi => ⟨?_, lowestFree_eq_some hi⟩, fun _ hi => ?_, fun hr => ?_⟩
    · rw [holdAlloc_of_free hr hi]
    · rw [holdAlloc_of_full hi]
    · rw [holdAlloc_of_reserved hr]
  · rw [holdReturn_takes ht]
    exact ⟨fun h => congrArg s.becomes (if_pos h), fun h => congrArg s.becomes (if_neg (Bool.eq_false_iff.mp h))⟩

end Sys2Proof.Machine

/-!
PROOFS. The end of a frame by its thread (O21): `ship`, `scuttle` and `berth`.
-/
namespace Sys2Proof.Machine

section
variable {s : State} {t : Tid}

/-! ## `ship` and `scuttle` (R59, R62) -/

theorem mf_toNat_eq_zero {x : Thread} : x.mf.toNat = 0 ↔ x.mf = 0 := ⟨fun h => BitVec.eq_of_toNat_eq h, fun h => by rw [h]; rfl⟩

/-- What `ship` does once it issues: the trap without a frame, else the frame's end, past the stores that go before it. -/
theorem ship_issues (h : Issues s t (dEff 1 0)) :
    exec (.ship t) s = s.becomes (if (s.m.thr t).mf.toNat = 0 then (s.m.chosen t).trap t 7 1 0
      else
        let f := (s.m.chosen t).flushMem t
        let sent := f.shipFrame (s.m.thr t).mf.toNat ((f.thr t).bank.at_ 0)
        sent.endMf t ((sent.thr t).setBank ((sent.thr t).bank.pop 1)) 1) :=
  issue_ends h

theorem ship_trap (h : Issues s t (dEff 1 0)) (hmf : (s.m.thr t).mf = 0) :
    exec (.ship t) s = s.becomes ((s.m.chosen t).trap t 7 1 0) := by
  rw [ship_issues h, if_pos (mf_toNat_eq_zero.mpr hmf)]

theorem ship_frame (h : Issues s t (dEff 1 0)) (hmf : (s.m.thr t).mf ≠ 0) :
    let f := (s.m.chosen t).flushMem t
    let sent := f.shipFrame (s.m.thr t).mf.toNat ((f.thr t).bank.at_ 0)
    exec (.ship t) s = endsAs s sent t { (sent.thr t).setBank ((sent.thr t).bank.pop 1) with mf := 0 } 1 := by
  rw [ship_issues h, if_neg (mf_toNat_eq_zero.not.mpr hmf)]
  rfl

theorem scuttle_issues (h : Issues s t (dEff 0 0)) :
    exec (.scuttle t) s = s.becomes (if (s.m.thr t).mf.toNat = 0 then (s.m.chosen t).trap t 7 2 0
      else
        let gone := (s.m.chosen t).scuttleFrame (s.m.thr t).mf.toNat
        gone.endMf t (gone.thr t) 1) :=
  issue_ends h

theorem scuttle_trap (h : Issues s t (dEff 0 0)) (hmf : (s.m.thr t).mf = 0) :
    exec (.scuttle t) s = s.becomes ((s.m.chosen t).trap t 7 2 0) := by
  rw [scuttle_issues h, if_pos (mf_toNat_eq_zero.mpr hmf)]

theorem scuttle_frame (h : Issues s t (dEff 0 0)) (hmf : (s.m.thr t).mf ≠ 0) :
    let gone := (s.m.chosen t).scuttleFrame (s.m.thr t).mf.toNat
    exec (.scuttle t) s = endsAs s gone t { gone.thr t with mf := 0 } 1 := by
  rw [scuttle_issues h, if_neg (mf_toNat_eq_zero.not.mpr hmf)]
  rfl

/-! ## `berth` (R57, R79, R177) -/

/-- The thread as `berth` leaves it. -/
def Thread.atBerth (x : Thread) : Thread :=
  { x.dropTickets with berthed := true, hasBerthed := true, fbBerthed := true, resv := none }

/-- A thread with no load and no mode change outstanding is as it was at the end of its instruction (R163, R166). -/
theorem Thread.age_of_settled {x : Thread} (hl : x.loads = []) (hm : x.modes = []) : x.ageLoads.ageModes = x := by
  obtain ⟨⟩ := x
  subst hl hm
  rfl

/-- Without a frame to leave behind, `berth` only replaces its thread. -/
theorem berth_frameless (h : Issues s t (dEff 0 0)) (hmf : (s.m.thr t).mf = 0) (hl : (s.m.thr t).loads = [])
    (hm : (s.m.thr t).modes = []) :
    exec (.berth t) s = s.becomes ((s.m.chosen t).setThrH t (s.m.thr t).atBerth) := by
  have hissue : exec (.berth t) s = s.becomes (((s.m.chosen t).orphanFrame t).setThrH t
      (((s.m.chosen t).orphanFrame t).thr t).atBerth.ageLoads.ageModes) := issue_ends h
  have horphan : (s.m.chosen t).orphanFrame t = s.m.chosen t := if_pos (mf_toNat_eq_zero.mpr hmf)
  rw [hissue, horphan, Mach.chosen_thr, Thread.age_of_settled (x := (s.m.thr t).atBerth) hl hm]

end

/-! ## The statement -/

/-- Settles O21: each instruction with and without a frame by its own lemma; `berth` replaces its thread, and a thread replaced keeps
what it was given. -/
theorem framesEnd : Obligations.FramesEnd := by
  unfold Obligations.FramesEnd
  intro s t x m f sent gone
  refine ⟨fun h => ⟨ship_trap h, ship_frame h⟩, fun h => ⟨scuttle_trap h, scuttle_frame h, fun hmf hl hm => ?_⟩⟩
  refine ⟨_, berth_frameless h hmf hl hm, ?_⟩
  obtain ⟨c, w, hist, hself⟩ := setThrH_thr_self m t x.atBerth
  obtain ⟨hmem, hregs, -, hothers⟩ := setThrH_frame m t x.atBerth
  rw [hself]
  exact ⟨rfl, rfl, rfl, rfl, rfl, hmem, hregs, hothers⟩

end Sys2Proof.Machine

/-!
PROOFS. An ingress quay (O34): the beats that it takes, what else happens to its open frame, its quarantine and its waiting frames, and the
exchange of the gauger's banks.
-/
namespace Sys2Proof.Machine

section
variable {m : Mach} {q : Nat} {b : Beat} {f : OpenFrame}

/-! ## A beat that transfers (R343 to R346) -/

section
variable (hfr : (m.iq q).frame = none)
include hfr

/-- A quay that is off takes no beat without a frame. -/
theorem takeBeat_disabled (hen : bit (m.r .qiCtl q) 17 = false) : m.takeBeat q b = m :=
  if_pos (by simp [hfr, hen])

variable (hen : bit (m.r .qiCtl q) 17 = true) (hquar : bit (m.r .qiViol q) 17 = false) (hov : b.overrun = false)
include hen hquar hov

/-- An SOF opens a frame; one of an unknown kind is a violation, and is discarded (R41). -/
theorem takeBeat_sof (hsof : b.sof = true) : m.takeBeat q b =
    (if m.unknownKind b.kind then m.viol q 5 9 else m).beatIn q { m.openFrame q b with discard := m.unknownKind b.kind } b := by
  simp [Mach.takeBeat, hfr, hen, hquar, hov, hsof]

theorem takeBeat_stray (hsof : b.sof = false) : m.takeBeat q b = m.count (0x7100 + q) 0x0D := by
  simp [Mach.takeBeat, hfr, hen, hquar, hov, hsof]

end

/-- A later beat of an open frame joins it; one of a frame that is discarded in quarantine is counted (R346). -/
theorem takeBeat_within (hfr : (m.iq q).frame = some f) (hov : b.overrun = false) (hsof : b.sof = false) : m.takeBeat q b =
    (if bit (m.r .qiViol q) 17 && f.discard then m.bareCount 2 q else m).beatIn q f b := by
  simp [Mach.takeBeat, hfr, hov, hsof]

/-! ## The lanes of a beat of good parity (R70) -/

/-- What an EOF does with the frame that its lanes leave open. -/
def Mach.closeOpen (m : Mach) (q : Nat) : Mach :=
  match (m.iq q).frame with
  | some f => m.closeFrame q f
  | none => m

@[simp] theorem setFrame_iq_self (m : Mach) (q : Nat) (o : Option OpenFrame) : ((m.setFrame q o).iq q).frame = o := by
  simp [Mach.setFrame]

theorem lanes_length (d : BitVec 144) : (lanes d).length = 16 := by simp [lanes]

section
variable (hpar : b.par = parityOf b.data)
include hpar

/-- A beat of good parity, and of a good CNT at an EOF, counts no violation. -/
theorem beatIn_good (hcnt : (b.eof && badCnt b.cnt) = false) : m.beatIn q f b =
    let g : OpenFrame := { f with err := f.err || (b.eof && b.err) }
    let n := m.setFrame q (some f)
    let k := if f.discard ∨ f.oversize then n.setFrame q (some g)
      else n.addLanes q g ((lanes b.data).take (if b.eof then b.cnt.toNat else 16))
    if b.eof then k.closeOpen q else k := by
  simp only [Mach.beatIn, hpar, hcnt, bne_self_eq_false, Bool.false_eq_true, if_false, false_and, setFrame_iq_self, Bool.or_false,
    Bool.not_false, Bool.and_true]
  rfl

theorem beatIn_inner (heof : b.eof = false) (hd : f.discard = false) (ho : f.oversize = false) :
    m.beatIn q f b = (m.setFrame q (some f)).addLanes q f (lanes b.data) := by
  rw [beatIn_good hpar (by rw [heof, Bool.false_and])]
  simp only [heof, Bool.false_eq_true, if_false, Bool.false_and, Bool.or_false, List.take_of_length_le, lanes_length, le_refl]
  exact if_neg (by simp [hd, ho])

theorem beatIn_eof (heof : b.eof = true) (hcnt : badCnt b.cnt = false) (hd : f.discard = false) (ho : f.oversize = false) :
    m.beatIn q f b =
      ((m.setFrame q (some f)).addLanes q { f with err := f.err || b.err } ((lanes b.data).take b.cnt.toNat)).closeOpen q := by
  rw [beatIn_good hpar (by rw [hcnt, Bool.and_false])]
  simp only [heof, if_true, Bool.true_and]
  rw [if_neg (by simp [hd, ho])]

/-- A frame that is discarded stays open and stores nothing. -/
theorem beatIn_discarded (heof : b.eof = false) (hd : f.discard = true) :
    m.beatIn q f b = (m.setFrame q (some f)).setFrame q (some f) := by
  rw [beatIn_good hpar (by rw [heof, Bool.false_and])]
  simp only [heof, Bool.false_eq_true, if_false, Bool.false_and, Bool.or_false]
  exact if_pos (.inl hd)

end

/-! ## A beat that is presented -/

theorem beat_held (h : m.transfers q = false) : m.beat q b = m := if_neg (Bool.eq_false_iff.mp h)

/-- The block at the transfer of a beat, which starts the quay's timer of missing EOFs again (R70). -/
def Mach.beaten (m : Mach) (q : Nat) : Mach := m.updIq q fun i => { i with beatAt := m.now }

@[simp] theorem beaten_frame (m : Mach) (q : Nat) : ((m.beaten q).iq q).frame = (m.iq q).frame := by simp [Mach.beaten]

section
variable (ht : m.transfers q = true)
include ht

theorem beat_transfers : m.beat q b = (m.beaten q).takeBeat q b := if_pos ht

theorem beat_disabled (hfr : (m.iq q).frame = none) (hen : bit (m.r .qiCtl q) 17 = false) : m.beat q b = m.beaten q :=
  (beat_transfers ht).trans (takeBeat_disabled ((beaten_frame m q).trans hfr) hen)

theorem beat_sof (hfr : (m.iq q).frame = none) (hen : bit (m.r .qiCtl q) 17 = true) (hquar : bit (m.r .qiViol q) 17 = false)
    (hov : b.overrun = false) (hsof : b.sof = true) : m.beat q b =
      (if m.unknownKind b.kind then (m.beaten q).viol q 5 9 else m.beaten q).beatIn q
        { (m.beaten q).openFrame q b with discard := m.unknownKind b.kind } b :=
  (beat_transfers ht).trans (takeBeat_sof ((beaten_frame m q).trans hfr) hen hquar hov hsof)

theorem beat_stray (hfr : (m.iq q).frame = none) (hen : bit (m.r .qiCtl q) 17 = true) (hquar : bit (m.r .qiViol q) 17 = false)
    (hov : b.overrun = false) (hsof : b.sof = false) : m.beat q b = (m.beaten q).count (0x7100 + q) 0x0D :=
  (beat_transfers ht).trans (takeBeat_stray ((beaten_frame m q).trans hfr) hen hquar hov hsof)

variable (hfr : (m.iq q).frame = some f) (hov : b.overrun = false) (hsof : b.sof = false) (hpar : b.par = parityOf b.data)
include hfr hov hsof

theorem beat_within : m.beat q b =
    (if bit (m.r .qiViol q) 17 && f.discard then (m.beaten q).bareCount 2 q else m.beaten q).beatIn q f b :=
  (beat_transfers ht).trans (takeBeat_within ((beaten_frame m q).trans hfr) hov hsof)

theorem beat_within_of_kept (hd : f.discard = false) : m.beat q b = (m.beaten q).beatIn q f b := by
  rw [beat_within ht hfr hov hsof, hd, Bool.and_false]
  rfl

include hpar

theorem beat_inner (heof : b.eof = false) (hd : f.discard = false) (ho : f.oversize = false) :
    m.beat q b = ((m.beaten q).setFrame q (some f)).addLanes q f (lanes b.data) :=
  (beat_within_of_kept ht hfr hov hsof hd).trans (beatIn_inner hpar heof hd ho)

theorem beat_eof (heof : b.eof = true) (hcnt : badCnt b.cnt = false) (hd : f.discard = false) (ho : f.oversize = false) :
    m.beat q b = (((m.beaten q).setFrame q (some f)).addLanes q { f with err := f.err || b.err }
      ((lanes b.data).take b.cnt.toNat)).closeOpen q :=
  (beat_within_of_kept ht hfr hov hsof hd).trans (beatIn_eof hpar heof hcnt hd ho)

theorem beat_discarded (heof : b.eof = false) (hd : f.discard = true) :
    ((m.beat q b).iq q).frame = some f ∧ (m.beat q b).mem = m.mem := by
  rw [beat_within ht hfr hov hsof, beatIn_discarded hpar heof hd]
  refine ⟨setFrame_iq_self .., ?_⟩
  show (if _ then (m.beaten q).bareCount 2 q else m.beaten q).mem = m.mem
  split <;> rfl

end

/-! ## The open frame beside its beats (R42, R70) -/

/-- The gauger's answer routes the open frame, which is then stored or, by the recovery path of R404, discarded (log entry 25). -/
theorem gaugerLeaf_of_parse {s : State} {q : Quay} {p : Parse} {marks : List Nat} (hfr : (s.m.iq q.val).frame = some f)
    (hd : f.discard = false) (hp : f.parse = none) (hparse : s.m.parse f.bank f.root (f.nonets.map octet) false = some (p, marks)) :
    let routed := s.m.route q.val f p marks
    exec (.gaugerLeaf q) s =
      s.becomes (if routed.2.2 then routed.1.storeOpen q.val routed.2.1 else routed.1.discard q.val routed.2.1) := by
  have hdeliver : s.m.deliver q.val f false = s.m.route q.val f p marks := by simp [Mach.deliver, hp, hparse]
  show execGaugerLeaf q s = _
  simp only [execGaugerLeaf, hfr, hd, hp, hdeliver, Option.isSome_none, Bool.false_eq_true, or_self, if_false]
  split <;> rfl

theorem eofPast_iff : m.eofPast q = true ↔
    fld (m.r .qiLim q) 17 14 ≠ 0 ∧ (m.iq q).beatAt + 1000 * 2 ^ fld (m.r .qiLim q) 17 14 ≤ m.now := by
  simp [Mach.eofPast, Mach.past]

theorem missingEof_of_late {s : State} {q : Quay} (hfr : (s.m.iq q.val).frame = some f) (h : s.m.eofPast q.val = true) :
    exec (.missingEof q) s = s.becomes ((s.m.viol q.val 1 5).cutFrame q.val f) := by
  show execMissingEof q s = _
  simp only [execMissingEof, hfr, h, if_true]
  rfl

theorem missingEof_of_early {s : State} {q : Quay} (h : ¬ s.m.eofPast q.val = true) : exec (.missingEof q) s = s.becomes s.m := by
  show execMissingEof q s = _
  simp only [execMissingEof, h]
  split <;> rfl

/-! ## Quarantine (R71, R72) -/

theorem windowPast_iff : m.windowPast q = true ↔ (m.iq q).violAt + 1000000 * fld (m.r .qiQthr q) 11 0 ≤ m.now :=
  decide_eq_true_iff

theorem quarClear_takes {s : State} {who : Master} {q : Quay} (h : Takes s who ⟨.qiViol, 0, q.val⟩) :
    exec (.quarClear who q) s = s.becomes (s.m.qiViolWrite q.val 0x20000) := by
  have hkey : ∀ q : Quay, 0x8010000 ≤ (⟨.qiViol, 0, q.val⟩ : RegRef).key ∧ (⟨.qiViol, 0, q.val⟩ : RegRef).key < 0x8040000 := by decide
  show execQuarClear who q s = _
  rw [execQuarClear, rowWrite_stores h (by decide) (by decide), regStore_quay rfl (hkey q).1 (hkey q).2]
  rfl

/-- A write of QUAR ends a quarantine that is under way, and its window with it; it ends none that comes after it (log entry 10). -/
theorem qiViolWrite_quar (m : Mach) (q : Nat) : m.qiViolWrite q 0x20000 = m.withLines [(31, 38 + q)] fun n =>
    if bit (m.r .qiViol q) 17 then (n.w .qiViol (n.r .qiViol q &&& 0x1FFFF) q).updIq q fun i => { i with viols := 0 }
    else n.w .qiViol (n.r .qiViol q &&& 0x1FFFF) q := by
  rfl

/-! ## Waiting frames (R40, R46) -/

theorem acceptWaiting_of_none (h : (m.iq q).waiting = []) : m.acceptWaiting q = m := by
  rw [Mach.acceptWaiting, h]
  rfl

theorem resume_of_idle (hw : (m.iq q).waiting = []) (he : (m.iq q).ended = []) : m.resume q = m := by
  simp only [Mach.resume, he, Mach.pump, acceptWaiting_of_none hw, hw]

theorem ingressHoldResume_of_open {s : State} {q : Quay} (h : ((s.m.resume q.val).iq q.val).frame = some f) :
    exec (.ingressHoldResume q) s = s.becomes ((s.m.resume q.val).storeOpen q.val f) := by
  show execIngressHoldResume q s = _
  simp only [execIngressHoldResume, h]
  rfl

theorem ingressHoldResume_of_closed {s : State} {q : Quay} (h : ((s.m.resume q.val).iq q.val).frame = none) :
    exec (.ingressHoldResume q) s = s.becomes (s.m.resume q.val) := by
  show execIngressHoldResume q s = _
  simp only [execIngressHoldResume, h]
  rfl

/-! ## The exchange of the gauger's banks (R88) -/

theorem gauSwap_takes {s : State} {who : Master} (h : Takes s who ⟨.gauCtl, 0, 0⟩) :
    exec (.gauSwap who) s = s.becomes s.m.gauSwap := by
  show execGauSwap who s = _
  rw [execGauSwap, rowWrite_stores h (by decide) (by decide), regStore_quay rfl (by decide) (by decide)]
  rfl

/-- Whether a quay takes the incoming bank at once. -/
def Mach.swapsNow (m : Mach) (q : Nat) : Bool := (m.iq q).frame.isNone || !bit (m.r .qiCtl q) 17

theorem swapsNow_iff (m : Mach) (q : Nat) : m.swapsNow q = true ↔ (m.iq q).frame = none ∨ bit (m.r .qiCtl q) 17 = false := by
  simp [Mach.swapsNow]

/-- A quay as the start of an exchange leaves it. -/
def Mach.swapped (m : Mach) (q : Nat) : Iq :=
  { m.iq q with swapping := !m.swapsNow q, bank := if m.swapsNow q then !m.gauBank else (m.iq q).bank }

/-- One quay's step of the start of an exchange. -/
def Mach.swapQuay (m : Mach) (q : Nat) : Mach := m.updIq q fun _ => m.swapped q

theorem startSwap_eq (m : Mach) : m.startSwap = (List.range 16).foldl Mach.swapQuay (m.wbit .gauCtl 15 true) := rfl

theorem swapQuay_iq (m : Mach) (x q : Nat) : (m.swapQuay x).iq q = if q = x then m.swapped q else m.iq q := by
  rcases eq_or_ne q x with rfl | h
  · rw [if_pos rfl, Mach.swapQuay, Mach.updIq_iq_self]
  · rw [if_neg h, Mach.swapQuay, Mach.updIq_iq_ne _ _ h]

theorem swapQuay_swapsNow (m : Mach) (x q : Nat) : (m.swapQuay x).swapsNow q = m.swapsNow q := by
  have hfr : ((m.swapQuay x).iq q).frame = (m.iq q).frame := by
    rw [swapQuay_iq]
    split <;> rfl
  rw [Mach.swapsNow, Mach.swapsNow, hfr]
  rfl

/-- No quay's step changes what another's, or its own when it comes again, makes of a quay. -/
theorem swapQuay_swapped (m : Mach) (x q : Nat) : (m.swapQuay x).swapped q = m.swapped q := by
  have hbank : (m.swapQuay x).gauBank = m.gauBank := rfl
  rw [Mach.swapped, swapQuay_swapsNow, swapQuay_iq, hbank]
  split
  · cases hnow : m.swapsNow q <;> simp [Mach.swapped, hnow]
  · rfl

theorem foldl_swapQuay_iq (l : List Nat) (m : Mach) (q : Nat) :
    (l.foldl Mach.swapQuay m).iq q = if q ∈ l then m.swapped q else m.iq q := by
  induction l generalizing m with
  | nil => rfl
  | cons x xs ih =>
    rw [List.foldl_cons, ih, swapQuay_swapped]
    by_cases hxs : q ∈ xs
    · rw [if_pos hxs, if_pos (List.mem_cons_of_mem x hxs)]
    · simp only [swapQuay_iq, List.mem_cons, hxs, or_false, if_false]

theorem startSwap_iq (m : Mach) (q : Quay) : m.startSwap.iq q.val = m.swapped q.val := by
  have hkey : ∀ q : Quay, (⟨.qiCtl, 0, q.val⟩ : RegRef).key ≠ (⟨.gauCtl, 0, 0⟩ : RegRef).key := by decide
  have hctl : (m.wbit .gauCtl 15 true).r .qiCtl q.val = m.r .qiCtl q.val := m.rset_rget_ne _ (hkey q)
  have hbank : (m.wbit .gauCtl 15 true).gauBank = m.gauBank := by
    rw [Mach.gauBank, Mach.wbit, Mach.w_r_self]
    exact setFld_getLsbD _ _ _ le_rfl (by decide)
  rw [startSwap_eq, foldl_swapQuay_iq, if_pos (List.mem_range.mpr q.isLt), Mach.swapped, Mach.swapsNow, hctl, hbank]
  rfl

end

/-! ## The statement -/

/-- Settles O34: a beat by whether it transfers, what it finds open and what it carries; every other event of a quay by its own lemma
(that a QUAR-clear at QUAR 0 ends no window, and when the gauger's decision is taken, are the model's choice: log entries 10 and 25). -/
theorem ingress : Obligations.Ingress := by
  unfold Obligations.Ingress
  refine ⟨fun s q b f => ?_, fun s q f p marks who => ?_⟩
  · intro m en quar fr good a
    have hsof {n : Mach} (hn : m.beat q.val { b with sof := true } = n) : exec (.ingressSof q b) s = s.becomes n := hn ▸ rfl
    have hbeat {n : Mach} (hn : m.beat q.val { b with sof := false, eof := false } = n) : exec (.ingressBeat q b) s = s.becomes n :=
      hn ▸ rfl
    have heof {n : Mach} (hn : m.beat q.val { b with eof := true } = n) : exec (.ingressEof q b) s = s.becomes n := hn ▸ rfl
    refine ⟨rfl, fun h => ⟨hsof (beat_held h), hbeat (beat_held h), heof (beat_held h)⟩, fun ht => ⟨?_, ?_, ?_⟩⟩
    · intro hfr hen hquar hov
      exact ⟨hsof (beat_sof ht hfr hen hquar hov rfl), fun hs =>
        ⟨hbeat (beat_stray ht hfr hen hquar hov rfl), heof (beat_stray ht hfr hen hquar hov hs)⟩⟩
    · intro hfr hen
      exact ⟨hsof (beat_disabled ht hfr hen), hbeat (beat_disabled ht hfr hen), heof (beat_disabled ht hfr hen)⟩
    · intro hfr hov hpar
      exact ⟨fun hd ho => hbeat (beat_inner ht hfr hov rfl hpar rfl hd ho),
        fun hs hd ho hcnt => heof (beat_eof ht hfr hov hs hpar rfl hcnt hd ho),
        fun hd => ⟨_, rfl, beat_discarded ht hfr hov rfl hpar rfl hd⟩⟩
  · intro m fr routed tmo late window
    have hwin {n : Mach} (hn : (if m.windowPast q.val then m.updIq q.val fun i => { i with viols := 0 } else m) = n) :
        exec (.quarWindowExpire q) s = s.becomes n := hn ▸ rfl
    refine ⟨gaugerLeaf_of_parse, fun hfr hn hl => missingEof_of_late hfr (eofPast_iff.mpr ⟨hn, hl⟩), fun h => missingEof_of_early ?_,
      fun h => hwin (if_pos (windowPast_iff.mpr h)), fun h => hwin (if_neg (windowPast_iff.not.mpr h)), fun hfr hw he => ?_,
      ingressHoldResume_of_open, rfl, fun ht => ?_, fun ht => ?_, ?_, ?_⟩
    · rw [eofPast_iff]
      exact fun ⟨hn, hl⟩ => h.elim hn fun h => h hl
    · have hres : m.resume q.val = m := resume_of_idle hw he
      have haccept : exec (.manifestAccept q) s = s.becomes ((m.resume q.val).acceptWaiting (16 + q.val)) := rfl
      refine ⟨(ingressHoldResume_of_closed (by rw [hres]; exact hfr)).trans (congrArg s.becomes hres), ?_⟩
      rw [haccept, hres]
    · rw [quarClear_takes ht, qiViolWrite_quar]
      exact ⟨fun h => by simp only [m, h, if_true], fun h => by simp only [m, h, Bool.false_eq_true, if_false]⟩
    · rw [gauSwap_takes ht]
      exact ⟨fun h => congrArg s.becomes (if_pos h), fun h => congrArg s.becomes (if_neg (Bool.eq_false_iff.mp h))⟩
    · rw [startSwap_iq]
      simp only [Mach.swapped, swapsNow_iff, fr, m]
    · rw [startSwap_iq]
      simp only [Mach.swapped, ← swapsNow_iff, fr, m, decide_not, Bool.decide_eq_true]

end Sys2Proof.Machine

/-!
PROOFS. Gate and pair timers, and the egress quays (O35): each operation's outcome in each state of its timer, its choice and its frame.
-/
namespace Sys2Proof.Machine

section
variable {m : Mach} {d : Nat}

/-! ## The gap timer (R66) -/

/-- The numbers that a gate skips on its way to a held frame and that are already resolved. -/
def Mach.passed (m : Mach) (d : Nat) (f : Shipped) : List Cell :=
  (m.gate d).resolved.filter fun s => decide (m.ahead d s < m.ahead d f.seq)

/-- NEXT moves to the lowest held number, and the unresolved numbers that it skips are counted (log entry 39). -/
theorem gapTimeout_of_due {f : Shipped} (hdue : m.gapDue d = true) (hf : m.lowestHeld d = some f) :
    m.gapTimeout d = ((m.countN 0x7300 1 (m.ahead d f.seq - (m.passed d f).length)).updGate d fun g =>
      { g with resolved := g.resolved.filter fun s => !(m.passed d f).contains s }).moveNext d f.seq := by
  simp only [Mach.gapTimeout, hdue, Bool.not_true, Bool.false_eq_true, if_false, hf, Mach.passed]

theorem gapTimeout_of_running (hdue : m.gapDue d = false) : m.gapTimeout d = m := by
  rw [Mach.gapTimeout, hdue]
  rfl

/-! ## The wait for a paired copy (R141) -/

section
variable {seq : Cell} {h : HalfPair} (hfind : ((m.gate d).pairs.find? fun h => h.seq == seq) = some h)
include hfind

theorem pairTimeout_of_early (hlate : m.now < h.since + fld (m.r .blkFbctl) 9 0) : m.pairTimeout d seq = m := by
  have hpast : m.past h.since (fld (m.r .blkFbctl) 9 0) = false := decide_eq_false hlate.not_ge
  simp [Mach.pairTimeout, hfind, hpast]

/-- The copy that has not ended counts as scuttled (log entry 38). -/
theorem pairTimeout_of_late (hlate : h.since + fld (m.r .blkFbctl) 9 0 ≤ m.now) :
    m.pairTimeout d seq =
      let k := m.updGate d fun g => { g with pairs := g.pairs.erase h, settled := g.settled ++ [seq] }
      if h.second then k.settlePair d seq .scuttled h.ended true else k.settlePair d seq h.ended .scuttled true := by
  have hpast : m.past h.since (fld (m.r .blkFbctl) 9 0) = true := decide_eq_true hlate
  simp [Mach.pairTimeout, hfind, hpast]

end
end

section
variable {m : Mach} {q : Nat}

/-! ## Selection (R100, R102) -/

/-- A quay ready to choose: its credits are brought up to now, and head frames longer than any opening of their queue are dropped. -/
def Mach.readied (m : Mach) (q : Nat) : Mach :=
  (List.range 8).foldl (fun m j => m.dropLong q j ((m.shape q).depth j)) (m.accrue q)

theorem sluiceSelect_of_busy (h : bit (m.r .qeCtl q) 17 = false ∨ (m.eq q).cur.isSome = true) : m.sluiceSelect q = m :=
  if_pos (h.imp_left (by simp [·]))

section
variable (hon : bit (m.r .qeCtl q) 17 = true) (hcur : (m.eq q).cur = none)
include hon hcur

theorem sluiceSelect_of_choice {j : Nat} {f : Shipped} (hc : (m.readied q).chooseQueue q = some (j, f)) :
    m.sluiceSelect q = ((m.readied q).updShape q fun s => s.pop j).startFrame q f := by
  rw [Mach.readied] at hc
  rw [Mach.sluiceSelect, if_neg (by simp [hon, hcur])]
  simp only [hc, Mach.readied]

theorem sluiceSelect_of_none (hc : (m.readied q).chooseQueue q = none) : m.sluiceSelect q = m.readied q := by
  rw [Mach.readied] at hc
  rw [Mach.sluiceSelect, if_neg (by simp [hon, hcur])]
  simp only [hc, Mach.readied]

end

/-! ## The beats of a frame (R347) and its stall (R349) -/

section
variable {c : Sending} (hcur : (m.eq q).cur = some c)
include hcur

theorem egressBeat_of_eof (heof : c.beat.eof = true) : m.egressBeat q = (m.freeSlot c.f).endSending q := by
  simp only [Mach.egressBeat, hcur, heof, if_true]

theorem egressBeat_of_inner (heof : c.beat.eof = false) : m.egressBeat q =
    let n := m.setCur q (some { c with staged := c.staged.drop 16, beats := c.beats + 1, since := m.now })
    (n.stage q (n.stageFuel q)).present q := by
  simp only [Mach.egressBeat, hcur, heof, Bool.false_eq_true, if_false]

theorem egressStall_of_early (h : fld (m.r .qeCtl q) 3 0 = 0 ∨ m.now < c.since + 1000 * 2 ^ fld (m.r .qeCtl q) 3 0) :
    m.egressStall q = m := by
  simp only [Mach.egressStall, hcur]
  exact if_pos (h.imp_right fun h => by simpa [Mach.past] using h)

/-- A stalled frame's holds from the one that is read on go back to their pool. -/
def Mach.abandon (m : Mach) (c : Sending) : Mach :=
  match c.hold with
  | some i => (m.leave c i).1.returnRest c (m.leave c i).2
  | none => m

theorem egressStall_of_late (hn : fld (m.r .qeCtl q) 3 0 ≠ 0) (h : c.since + 1000 * 2 ^ fld (m.r .qeCtl q) 3 0 ≤ m.now) :
    m.egressStall q =
      let k := (((m.abandon c).freeSlot c.f).count 0x7300 7).wbit .qeCtl 14 true q
      (((k.accrue q).setCur q none).present q).egressOff q := by
  simp only [Mach.egressStall, hcur]
  rw [if_neg (by simp [hn, Mach.past, h])]
  rfl

end
end

/-! ## The statement -/

/-- Settles O35: each timer and each operation of a quay by its own lemma (which skipped numbers are counted, how the missing copy of a
pair ends, and that a stall frees the slot, are the model's choice: log entries 38, 39 and 45). -/
theorem gatesAndEgress : Obligations.GatesAndEgress := by
  unfold Obligations.GatesAndEgress
  refine ⟨fun s d f seq h => ?_, fun s q j f c => ?_⟩
  · have hgap {n : Mach} (hn : s.m.gapTimeout d.toNat = n) : exec (.gapTimeout d) s = s.becomes n := hn ▸ rfl
    have hpair {n : Mach} (hn : s.m.pairTimeout d.toNat seq = n) : exec (.pairTimeout d seq) s = s.becomes n := hn ▸ rfl
    exact ⟨fun hdue hf => hgap (gapTimeout_of_due hdue hf), fun hdue => hgap (gapTimeout_of_running hdue),
      fun hfind hearly => hpair (pairTimeout_of_early hfind hearly), fun hfind hlate => hpair (pairTimeout_of_late hfind hlate)⟩
  · have hselect {n : Mach} (hn : s.m.sluiceSelect q.val = n) : exec (.sluiceSelect q) s = s.becomes n := hn ▸ rfl
    have hbeat {n : Mach} (hn : s.m.egressBeat q.val = n) : exec (.egressBeat q) s = s.becomes n := hn ▸ rfl
    have hstall {n : Mach} (hn : s.m.egressStall q.val = n) : exec (.egressStall q) s = s.becomes n := hn ▸ rfl
    refine ⟨fun hon hcur hc => hselect (sluiceSelect_of_choice hon hcur hc),
      fun hon hcur hc => hselect (sluiceSelect_of_none hon hcur hc), fun h => hselect (sluiceSelect_of_busy h), fun hcur => ?_⟩
    exact ⟨fun heof => hbeat (egressBeat_of_eof hcur heof), fun heof => hbeat (egressBeat_of_inner hcur heof),
      fun h => hstall (egressStall_of_early hcur h), fun hn h => hstall (egressStall_of_late hcur hn h)⟩

end Sys2Proof.Machine

/-!
PROOFS. The commands of the helper units (O38): a command carried out in its turn, and what each of them answers.
-/
namespace Sys2Proof.Machine

/-! ## A command in its turn (R77 to R80) -/

/-- A slot holds a command of a unit and operation, and the unit takes it next (R80). -/
def Mach.isNext (m : Mach) (t : Tid) (slot : BitVec 2) (d : Dock) (unit op : Nat) : Prop :=
  (m.thr t).dock slot.toNat = d ∧ d.active = true ∧ d.unit = unit ∧ d.op = op ∧ m.firstCmd unit = some ⟨t, slot.toNat⟩

/-- The block when a unit's answer (the state that it leaves, a status and result cells) has reached its slot. -/
def answered (t : Tid) (slot : BitVec 2) (r : Mach × Cell × List Cell) : Mach := r.1.complete t slot.toNat r.2.1 r.2.2

section
variable {t : Tid} {slot : BitVec 2} {d : Dock} {unit op : Nat} {f : Mach → Dock → Mach × Cell × List Cell}

theorem helper_of_next {m : Mach} (hn : m.isNext t slot d unit op) : m.helper t slot unit op f =
    answered t slot (if d.owed = .timedOut ∨ d.epoch ≠ m.epochOf t then (m, 0, []) else f m d) := by
  obtain ⟨rfl, hact, hunit, hop, hfirst⟩ := hn
  exact if_pos ⟨hact, hunit, hop, by rw [Mach.turn, hfirst, beq_self_eq_true]⟩

variable {c : Instr} {s : State} {r : Mach × Cell × List Cell}

/-- A command in its turn delivers what its unit answers. -/
theorem helper_answers (hc : exec c s = onThread t s fun m => m.helper t slot unit op f) (hok : Tid.ok t = true)
    (hn : s.m.isNext t slot d unit op) (howed : d.owed ≠ .timedOut) (hep : d.epoch = s.m.epochOf t) (hr : f s.m d = r) :
    exec c s = s.becomes (answered t slot r) := by
  rw [hc, onThread_of_ok hok, helper_of_next hn, if_neg (not_or.mpr ⟨howed, not_not.mpr hep⟩), hr]
  rfl

/-- One that timed out, or whose reference is of an earlier epoch, changes no table and delivers nothing (R78, R79). -/
theorem helper_discards (hc : exec c s = onThread t s fun m => m.helper t slot unit op f) (hok : Tid.ok t = true)
    (hn : s.m.isNext t slot d unit op) (hv : d.owed = .timedOut ∨ d.epoch ≠ s.m.epochOf t) :
    exec c s = s.becomes (s.m.complete t slot.toNat 0 []) := by
  rw [hc, onThread_of_ok hok, helper_of_next hn, if_pos hv]
  rfl

end

/-! ## The statement -/

/-- Settles O38: a command in its turn answers what its unit makes of its operands, which stand past each check that the clause's
hypotheses meet; a void one answers nothing. -/
theorem helperCommands : Obligations.HelperCommands := by
  unfold Obligations.HelperCommands
  intro s t slot ns key code hok m d tb next holds ends badArg denied ins del four tern n
  have discards (c : Instr) {unit op : Nat} {f : Mach → Dock → Mach × Cell × List Cell}
      (hc : exec c s = onThread t s fun m => m.helper t slot unit op f) (hn : next unit op)
      (hv : d.owed = .timedOut ∨ d.epoch ≠ m.epochOf t) : exec c s = s.becomes (m.complete t slot.toNat 0 []) :=
    helper_discards hc hok ⟨rfl, hn⟩ hv
  have answers (c : Instr) {unit op : Nat} {f : Mach → Dock → Mach × Cell × List Cell} {r : Mach × Cell × List Cell}
      (hc : exec c s = onThread t s fun m => m.helper t slot unit op f) (h : holds unit op) (hr : f m d = r) :
      exec c s = ends r := by
    obtain ⟨hn, howed, hep⟩ := h
    exact helper_answers hc hok ⟨rfl, hn⟩ howed hep hr
  have fails (c : Instr) {unit op code : Nat} {f : Mach → Dock → Mach × Cell × List Cell}
      (hc : exec c s = onThread t s fun m => m.helper t slot unit op f) (h : holds unit op) (hr : f m d = (m, status code 0, [])) :
      exec c s = s.becomes (m.complete t slot.toNat (status code 0) []) :=
    answers c (r := (m, status code 0, [])) hc h hr
  have hmay (hl : d.helm = true ∨ tb.learn = true) : ¬ (!d.helm && !tb.learn) = true := by rcases hl with hl | hl <;> simp [hl]
  refine ⟨?em, ?emx, ?insert, discards (.insert t slot) rfl, discards (.delete t slot) rfl, ?delete, ?lpm4, ?lpm6, ?tern, ?ternUnread, ?now,
    ?csum, fun h => answers (.reparse t slot) rfl h rfl⟩
  case em =>
    intro h
    refine ⟨fun hen hn => ?_, fun hbad => ?_⟩
    · exact answers (.em t slot) rfl h (if_neg (by simp [tb, hen, hn]))
    · exact fails (.em t slot) rfl h (if_pos (by simpa [tb] using hbad))
  case emx =>
    intro h hen hn hread
    refine answers (.emx t slot) rfl h ((if_neg (by simp [tb, hen, hn])).trans ?_)
    simp only [tb, hread]
  case insert =>
    intro h hen hn
    refine ⟨fun hl => ?_, fun hh hl => ?_⟩
    · exact answers (.insert t slot) rfl h ((if_neg (by simp [tb, hen, hn])).trans (if_neg (hmay hl)))
    · exact fails (.insert t slot) rfl h ((if_neg (by simp [tb, hen, hn])).trans (if_pos (by simp [tb, hl, hh])))
  case delete =>
    intro h hen hn
    refine ⟨fun hl => ?_, fun hh hl => ?_⟩
    · exact answers (.delete t slot) rfl h ((if_neg (by simp [tb, hen, hn])).trans (if_neg (hmay hl)))
    · exact fails (.delete t slot) rfl h ((if_neg (by simp [tb, hen, hn])).trans (if_pos (by simp [tb, hl, hh])))
  case lpm4 =>
    intro h hn hl hhi hlo
    exact answers (.lpm4 t slot) rfl h (if_neg (by simpa [hn, hl] using ⟨hhi, hlo⟩))
  case lpm6 =>
    intro h hn hl hkey
    refine answers (.lpm6 t slot) rfl h ((if_neg (by simp [hl, hn])).trans ?_)
    simp only [hkey]
  case tern =>
    intro h hn ha he hkey
    refine answers (.tern t slot) rfl h ((if_neg (by simp [tern, hn, ha, he])).trans ?_)
    simp only [hkey]
    rfl
  case ternUnread =>
    intro h hn ha he hkey
    refine answers (.tern t slot) rfl h ((if_neg (by simp [tern, hn, ha, he])).trans ?_)
    simp only [hkey]
  case now =>
    intro h
    exact ⟨fun hn => answers (.now t slot) rfl h (if_neg (not_not.mpr hn)), fun hn => fails (.now t slot) rfl h (if_pos hn)⟩
  case csum =>
    intro h hn hlen hread
    refine answers (.csum t slot) rfl h ((if_neg (by simpa [hn] using hlen)).trans ?_)
    simp only [hread, d]

end Sys2Proof.Machine

/-!
PROOFS. The seal (O40): PROTECT and VALIDATE with good operands, CMAC and DERIVE by the slots that R98 bars, and the staging of keys.
-/
namespace Sys2Proof.Machine

/-! ## A bit set in a cell -/

section
variable {c : Cell} {i : Nat} {b : Bool}

theorem bit_setBit (hi : i < 18) (j : Nat) : bit (setBit c i b) j = if j = i then b else bit c j := by
  by_cases hj : j = i
  · subst hj
    rw [bit, setBit, setFld_getLsbD _ _ _ le_rfl hi, if_pos ⟨le_rfl, le_rfl⟩, if_pos rfl]
    cases b <;> simp
  · rw [if_neg hj, bit, bit]
    rcases lt_or_ge j 18 with h | h
    · rw [setBit, setFld_getLsbD _ _ _ le_rfl h, if_neg (by omega)]
    · rw [BitVec.getLsbD_of_ge _ _ h, BitVec.getLsbD_of_ge _ _ h]

/-- A field below the bit reads as before. -/
theorem fld_setBit_of_lt {hi : Nat} (hlt : hi < i) (hi' : i < 18) (lo : Nat) : fld (setBit c i b) hi lo = fld c hi lo := by
  refine Nat.eq_of_testBit_eq fun j => ?_
  rw [fld_testBit, fld_testBit]
  by_cases hj : j < hi + 1 - lo
  · have hbit := bit_setBit (c := c) (b := b) hi' (lo + j)
    rw [if_neg (by omega), bit, bit] at hbit
    rw [hbit]
  · simp [hj]

end

/-! ## PROTECT and VALIDATE (R94, R95) -/

/-- The holds of a frame, up to its length. -/
def Mach.frameChain (m : Mach) (l mf : Nat) : List Link1 := chainTo (m.chainOf l mf) (m.mLen mf)

/-- What PROTECT and VALIDATE both ask: a frame with its manifest and a whole chain, one operand that numbers a secure association, the
association enabled and with a key, and the seal on. -/
structure Mach.Sealable (m : Mach) (d : Dock) (l i sa : Nat) : Prop where
  manifest : m.manifest d.mf.toNat = some (l, i)
  narg : d.narg = 1
  operand : (d.ops.getD 0 0).toNat = sa
  number : sa < 2048
  on : bit (m.r .sealCtl) 17 = true
  en : (m.sa sa).en = true
  kvalid : (m.sa sa).kvalid = true
  chain : chainLen (m.frameChain l d.mf.toNat) = m.mLen d.mf.toNat

section
variable {m : Mach} {d : Dock} {l i sa : Nat}

theorem protect_of_sealable (h : m.Sealable d l i sa) (htx : (m.sa sa).tx = true) (hshort : 12 ≤ m.mLen d.mf.toNat)
    (hlong : m.mLen d.mf.toNat + (if bit (m.sa sa).ctl 9 then 16 else 8) + 16 ≤ 16368) :
    m.protect d = m.protectFrame sa l d.mf.toNat (m.frameChain l d.mf.toNat) := by
  obtain ⟨hman, hn, hop, hsa, hon, hen, hkv, hch⟩ := h
  rw [Mach.frameChain] at hch
  simp only [Mach.protect, hman, hop]
  exact if_neg (by simp [hn, hsa, hon, hen, hkv, htx, hch, hshort, hlong])

theorem validate_of_sealable (h : m.Sealable d l i sa) (hrx : (m.sa sa).tx = false) :
    m.validate d = m.validateFrame sa l d.mf.toNat (m.frameChain l d.mf.toNat) := by
  obtain ⟨hman, hn, hop, hsa, hon, hen, hkv, hch⟩ := h
  rw [Mach.frameChain] at hch
  simp only [Mach.validate, hman, hop]
  exact if_neg (by simp [hn, hsa, hon, hen, hkv, hrx, hch])

theorem protect_of_no_frame (h : m.manifest d.mf.toNat = none) : m.protect d = (m, status 9 0, []) := by
  simp only [Mach.protect, h]

theorem validate_of_no_frame (h : m.manifest d.mf.toNat = none) : m.validate d = (m, status 9 0, []) := by
  simp only [Mach.validate, h]

end

/-! ## CMAC and DERIVE (R98) -/

/-- What CMAC and DERIVE both ask: the number of operands, a length, the seal on, and a text that the thread may read. -/
structure Mach.Macable (m : Mach) (t : Tid) (d : Dock) (narg n : Nat) : Prop where
  narg : d.narg = narg
  operand : (d.ops.getD 2 0).toNat = n
  short : n ≤ 16368
  on : bit (m.r .sealCtl) 17 = true
  range : m.opRange t d.helm (d.addr 0) n = true

section
variable {m : Mach} {t : Tid} {d : Dock} {n goal : Nat} {ns : List Nonet}

theorem cmac_barred (h : m.Macable t d 3 n) (hbar : slotBarred (d.arg % 32) d.helm = true) :
    m.cmacOp t d false = (m, status 10 0, []) := by
  obtain ⟨hn, hop, hshort, hon, hr⟩ := h
  simp only [Mach.cmacOp, hop]
  exact (if_neg (by simp [hn, hshort, hon, hr])).trans (if_pos (by simp [hbar]))

theorem cmac_of_read (h : m.Macable t d 3 n) (hbar : slotBarred (d.arg % 32) d.helm = false)
    (hread : m.opRead t d.helm (d.addr 0) n = (m, .ok ns)) :
    m.cmacOp t d false = (m, status 0 0, tagCells (aesCmac (m.cmacKey (d.arg % 32)) (ns.map octet))) := by
  obtain ⟨hn, hop, hshort, hon, hr⟩ := h
  simp only [Mach.cmacOp, hop, hread]
  exact (if_neg (by simp [hn, hshort, hon, hr])).trans (if_neg (by simp [hbar]))

/-- DERIVE's fourth operand names a slot of 16 to 31. -/
def Dock.goalIs (d : Dock) (goal : Nat) : Prop := (d.ops.getD 3 0).toNat = goal ∧ 16 ≤ goal ∧ goal < 32

theorem derive_barred (h : m.Macable t d 4 n) (hg : d.goalIs goal)
    (hbar : slotBarred (d.arg % 32) d.helm = true ∨ slotBarred goal d.helm = true ∨ Tid.tk t = false) :
    m.cmacOp t d true = (m, status 10 0, []) := by
  obtain ⟨hn, hop, hshort, hon, hr⟩ := h
  obtain ⟨hgoal, hlo, hhi⟩ := hg
  simp only [Mach.cmacOp, hop, hgoal]
  exact (if_neg (by simp [hn, hshort, hon, hr, hlo, hhi])).trans (if_pos (by simpa using hbar))

theorem derive_of_read (h : m.Macable t d 4 n) (hg : d.goalIs goal) (hbar : slotBarred (d.arg % 32) d.helm = false)
    (hbar' : slotBarred goal d.helm = false) (htk : Tid.tk t = true) (hread : m.opRead t d.helm (d.addr 0) n = (m, .ok ns)) :
    m.cmacOp t d true = (m.setCmacKey goal (BitVec.ofNat 128 (beNat (aesCmac (m.cmacKey (d.arg % 32)) (ns.map octet)))), status 0 0,
      List.replicate 8 0) := by
  obtain ⟨hn, hop, hshort, hon, hr⟩ := h
  obtain ⟨hgoal, hlo, hhi⟩ := hg
  simp only [Mach.cmacOp, hop, hgoal, hread]
  exact (if_neg (by simp [hn, hshort, hon, hr, hlo, hhi])).trans (if_neg (by simp [hbar, hbar', htk]))

end

/-! ## Keys (R97) -/

section
variable {s : State} {who : Master} {v : Cell}

theorem keyStage_takes {w : BitVec 16} (h : Takes s who ⟨.sealKdata, 0, 0⟩) : exec (.keyStage who w) s = s.becomes (s.m.keyStage w) := by
  have hw : (w.setWidth 18).setWidth 16 = w := by simp
  exact (rowWrite_stores h (by decide) (by decide)).trans (congrArg (fun w => s.becomes (s.m.keyStage w)) hw)

/-- SEAL_KCMD takes the slot's number and the kind of key from the word written, whatever its two command bits. -/
theorem keyLoad_congr {m : Mach} {u : Cell} (hbit : bit u 15 = bit v 15) (hfld : fld u 4 0 = fld v 4 0) : m.keyLoad u = m.keyLoad v := by
  simp only [Mach.keyLoad, hbit, hfld]

theorem keyClear_congr {m : Mach} {u : Cell} (hbit : bit u 15 = bit v 15) (hfld : fld u 4 0 = fld v 4 0) : m.keyClear u = m.keyClear v := by
  simp only [Mach.keyClear, hbit, hfld]

/-- A word with its command bits given. -/
def withCommand (v : Cell) (load clear : Bool) : Cell := setBit (setBit v 17 load) 16 clear

theorem withCommand_bits (load clear : Bool) :
    bit (withCommand v load clear) 17 = load ∧ bit (withCommand v load clear) 16 = clear ∧ bit (withCommand v load clear) 15 = bit v 15 ∧
      fld (withCommand v load clear) 4 0 = fld v 4 0 := by
  simp [withCommand, bit_setBit, fld_setBit_of_lt]

theorem keyLoad_takes (h : Takes s who ⟨.sealKcmd, 0, 0⟩) : exec (.keyLoad who v) s = s.becomes (s.m.keyLoad v) := by
  obtain ⟨hload, hclear, hbit, hfld⟩ := withCommand_bits (v := v) true false
  have hrow : exec (.keyLoad who v) s = s.becomes (s.m.keyCommand (withCommand v true false)) := rowWrite_stores h (by decide) (by decide)
  rw [hrow, Mach.keyCommand, hload, hclear, if_pos rfl, if_neg Bool.false_ne_true, keyLoad_congr hbit hfld]

theorem keyClear_takes (h : Takes s who ⟨.sealKcmd, 0, 0⟩) : exec (.keyClear who v) s = s.becomes (s.m.keyClear v) := by
  obtain ⟨hload, hclear, hbit, hfld⟩ := withCommand_bits (v := v) false true
  have hrow : exec (.keyClear who v) s = s.becomes (s.m.keyCommand (withCommand v false true)) := rowWrite_stores h (by decide) (by decide)
  rw [hrow, Mach.keyCommand, hload, hclear, if_neg Bool.false_ne_true, if_pos rfl, keyClear_congr hbit hfld]

theorem sactlWrite_takes (h : Takes s who ⟨.sealSactl, 0, 0⟩) : exec (.sactlWrite who v) s = s.becomes (s.m.sactlWrite v) :=
  rowWrite_stores h (by decide) (by decide)

end

/-! ## The statement -/

/-- Settles O40: each command by the lemma on its operands, the key registers by the words staged (that a refused load clears the staging,
and that a key load starts the threshold warning anew, are the model's choice: log entries 55 and 97). -/
theorem sealCommandsAndKeys : Obligations.Seal := by
  unfold Obligations.Seal
  intro s who t slot v w l i ns m d sa a len hs n goal ends open_ ws x nk
  refine ⟨fun hok hact hunit hfirst howed hep => ?_, fun h hroom => ?_, fun h => ?_, sactlWrite_takes⟩
  · have answers (c : Instr) {op : Nat} {f : Mach → Dock → Mach × Cell × List Cell} {r : Mach × Cell × List Cell}
        (hc : exec c s = onThread t s fun m => m.helper t slot 1 op f) (hop : d.op = op) (hr : f m d = r) : exec c s = ends r :=
      helper_answers hc hok ⟨rfl, hact, hunit, hop, hfirst⟩ howed hep hr
    refine ⟨fun hman hn hsa hon hen hkv hch => ?_, fun hman => ?_, fun hop hn hlen hon hr => ?_, fun hop hn hlen hon hr hlo hhi => ?_⟩
    · have hgood : m.Sealable d l i sa := ⟨hman, hn, rfl, hsa, hon, hen, hkv, hch⟩
      exact ⟨fun hop htx hshort hlong => answers (.protect t slot) rfl hop (protect_of_sealable hgood htx hshort hlong),
        fun hop hrx => answers (.validate t slot) rfl hop (validate_of_sealable hgood hrx)⟩
    · exact ⟨fun hop => answers (.protect t slot) rfl hop (protect_of_no_frame hman),
        fun hop => answers (.validate t slot) rfl hop (validate_of_no_frame hman)⟩
    · have hgood : m.Macable t d 3 n := ⟨hn, rfl, hlen, hon, hr⟩
      exact ⟨fun hbar => answers (.cmac t slot) rfl hop (cmac_barred hgood hbar),
        fun hbar hread => answers (.cmac t slot) rfl hop (cmac_of_read hgood hbar hread)⟩
    · have hgood : m.Macable t d 4 n := ⟨hn, rfl, hlen, hon, hr⟩
      exact ⟨fun hbar => answers (.derive t slot) rfl hop (derive_barred hgood ⟨rfl, hlo, hhi⟩ hbar),
        fun hbar hbar' htk hread => answers (.derive t slot) rfl hop (derive_of_read hgood ⟨rfl, hlo, hhi⟩ hbar hbar' htk hread)⟩
  · rw [keyStage_takes h, Mach.keyStage, if_pos hroom]
  · rw [keyLoad_takes h, keyClear_takes h]
    refine ⟨fun hslot hws => ?_, fun hslot hws => ?_, fun hsa hws => ?_, fun hsa hws => ?_, fun hslot => ?_, fun hsa => ?_⟩
    · exact congrArg s.becomes ((if_pos hslot).trans (if_pos hws))
    · exact congrArg s.becomes ((if_pos hslot).trans (if_neg hws))
    · exact congrArg s.becomes ((if_neg (by simp [hsa])).trans (if_pos hws))
    · exact congrArg s.becomes ((if_neg (by simp [hsa])).trans (if_neg (not_not.mpr hws)))
    · exact congrArg s.becomes (if_pos hslot)
    · exact congrArg s.becomes (if_neg (by simp [hsa]))

end Sys2Proof.Machine

/-!
PROOFS. The sluice's lists (O36) and stream filters (O37): when a list changes, what FILTER answers, and what each window stores or refuses.
-/
namespace Sys2Proof.Machine

/-! ## List changes (R103) -/

section
variable {m : Mach} {q : Nat}

theorem gclChange_of_ready (hp : bit (m.r .sluGst q) 17 = false) (hc : m.adminCyc q ≠ 0) : m.gclChange q =
    (m.wbit .sluGst 17 true q).updShape q fun s =>
      { s with changeAt := nextStart (m.adminBase q) m.tb.ns (m.adminCyc q).toNat } :=
  if_neg (not_or.mpr ⟨by simp [hp], hc⟩)

theorem gclChange_refused (h : bit (m.r .sluGst q) 17 = true ∨ m.adminCyc q = 0) : m.gclChange q = m.wbit .sluErr 1 true := if_pos h

end

section
variable {s : State} {q : Quay}

theorem gclChangeTime_of_due (hp : bit (s.m.r .sluGst q.val) 17 = true) (ht : (s.m.shape q.val).changeAt ≤ s.m.tb.ns) :
    exec (.gclChangeTime q) s = s.becomes (s.m.gclSwitch q.val) :=
  congrArg s.becomes (if_pos ⟨hp, ht⟩)

theorem gclChangeTime_of_early (h : bit (s.m.r .sluGst q.val) 17 = false ∨ s.m.tb.ns < (s.m.shape q.val).changeAt) :
    exec (.gclChangeTime q) s = s.becomes s.m := by
  refine congrArg s.becomes (if_neg ?_)
  rintro ⟨hp, ht⟩
  rcases h with h | h
  · exact Bool.false_ne_true (h.symm.trans hp)
  · exact BitVec.not_le.mpr h ht

theorem gclChange_takes {who : Master} (h : Takes s who ⟨.sluGo, 0, q.val⟩) :
    exec (.gclChange who q) s = s.becomes (s.m.gclChange q.val) := by
  have hkey : ∀ q : Quay, 0x8040000 ≤ (⟨.sluGo, 0, q.val⟩ : RegRef).key ∧ (⟨.sluGo, 0, q.val⟩ : RegRef).key < 0x8050000 := by decide
  have hrow : exec (.gclChange who q) s = s.becomes (s.m.regStore ⟨.sluGo, 0, q.val⟩ 0x20000 who) :=
    rowWrite_stores h (by decide) (by decide)
  rw [hrow, regStore_slu rfl (hkey q).1 (hkey q).2]
  rfl

end

/-! ## The list window (R101, R103) -/

section
variable {m : Mach} {v : Cell}

/-- The entry that a write of SLU_GCLD1 commits with the staged interval. -/
def Mach.gclNew (m : Mach) (v : Cell) : Dbl :=
  BitVec.ofNat 36 (fld v 17 10 * 2 ^ 28 + max 32 (m.sluice.stagedIvl.toNat + fld v 9 0 * 0x40000))

theorem gclCommit_bank1 (ho : bit (m.r .sluGclsel) 13 = false) (hp : bit (m.r .sluGst m.gclEntry.1) 17 = false)
    (hb : m.gclEntry.2.1 = true) : m.gclCommit v =
    (m.updShape m.gclEntry.1 fun s => { s with bank1 := mset 0 s.bank1 m.gclEntry.2.2 (m.gclNew v) }).gclNext := by
  rw [Mach.gclCommit, if_neg (by simp [ho, hp])]
  simp only [hb, if_true]
  rfl

theorem gclCommit_bank0 (ho : bit (m.r .sluGclsel) 13 = false) (hp : bit (m.r .sluGst m.gclEntry.1) 17 = false)
    (hb : m.gclEntry.2.1 = false) : m.gclCommit v =
    (m.updShape m.gclEntry.1 fun s => { s with bank0 := mset 0 s.bank0 m.gclEntry.2.2 (m.gclNew v) }).gclNext := by
  rw [Mach.gclCommit, if_neg (by simp [ho, hp])]
  simp only [hb, Bool.false_eq_true, if_false]
  rfl

theorem gclCommit_refused (h : bit (m.r .sluGclsel) 13 = true ∨ bit (m.r .sluGst m.gclEntry.1) 17 = true) :
    m.gclCommit v = m.wbit .sluErr 1 true :=
  if_pos h

variable {s : State} {who : Master}

theorem gclEntryWrite_takes (h : Takes s who ⟨.sluGcld1, 0, 0⟩) : exec (.gclEntryWrite who v) s = s.becomes (s.m.gclCommit v) :=
  rowWrite_stores h (by decide) (by decide)

theorem gclEntryRead_answers (h : Answers s who ⟨.sluGcld1, 0, 0⟩) :
    exec (.gclEntryRead who) s = s.reads (s.m.gclRead1 (s.m.quiet who)).1 (s.m.gclRead1 (s.m.quiet who)).2 :=
  rowRead_fetches h (by decide)

end

/-- Settles O36: a change by whether it is pending and its time has come, an entry by the bank that it names. -/
theorem gateLists : Obligations.GateLists := by
  unfold Obligations.GateLists
  intro s who q g v m e x
  refine ⟨rfl, rfl, gclChangeTime_of_due, gclChangeTime_of_early, fun h => ?_, fun h => ?_, gclEntryRead_answers⟩
  · rw [gclChange_takes h]
    exact ⟨fun hp hc => congrArg s.becomes (gclChange_of_ready hp hc), fun hr => congrArg s.becomes (gclChange_refused hr)⟩
  · rw [gclEntryWrite_takes h]
    exact ⟨fun ho hp hb => congrArg s.becomes (gclCommit_bank1 ho hp hb), fun ho hp hb => congrArg s.becomes (gclCommit_bank0 ho hp hb),
      fun hr => congrArg s.becomes (gclCommit_refused hr)⟩

/-! ## FILTER (R105) -/

section
variable {m : Mach} {d : Dock} {i colour : Nat}

theorem filterOp_badArg (h : (d.narg ≠ 2 ∧ d.narg ≠ 3) ∨ 4096 ≤ (d.ops.getD 0 0).toNat ∨ 2 < (d.ops.getD 2 0).toNat) :
    m.filterOp d = (m, status 9 0, []) := if_pos h

/-- The state of the stream gate that a filter names, where the filter and its gate are enabled; open without one (R106). -/
def Mach.gateOf (m : Mach) (f : Filter) : Bool × Nat × Nat :=
  if bit f.ctl 17 && bit f.ctl 16 then (m.sgate (fld f.ctl 15 10)).now else (true, 0, 0)

theorem filterOp_meters (hn : d.narg = 2 ∨ d.narg = 3) (hi : (d.ops.getD 0 0).toNat = i) (hlt : i < 4096)
    (hc : (d.ops.getD 2 0).toNat = colour) (hle : colour ≤ 2) :
    m.filterOp d =
      let f := (m.flt i).refill m.tb.mono
      let g := m.gateOf f
      let r := f.apply g.1 (d.ops.getD 1 0).toNat colour
      (m.updFlt i fun _ => r.1, status (if r.2.1 then 0 else 1) (r.2.2.1 * 2048 + r.2.2.2 * 512 + g.2.1 * 256 + g.2.2 * 32), []) := by
  simp only [Mach.filterOp, hi, hc, Mach.gateOf, Bool.and_eq_true]
  exact if_neg (by omega)

end

/-! ## The windows of filters and stream gates (R106, R107) -/

/-- A plain write of a register in which no 1 clears a bit changes the writable bits alone. -/
theorem plainWrite_of_rw {m : Mach} {r : RegRef} {v : Cell} (h : r.reg.info.w1c = 0) :
    m.plainWrite r v = m.rset r (blend (m.rget r) r.reg.info.rw v) := by
  have hkeep : ~~~(v &&& 0) = BitVec.allOnes 18 := by rw [show v &&& 0 = 0 from BitVec.and_zero]; rfl
  rw [Mach.plainWrite, h, hkeep, BitVec.and_allOnes]

theorem blend_full (c v : Cell) : blend c 0x3FFFF v = v := by
  rw [blend, show (0x3FFFF : Cell) = BitVec.allOnes 18 from rfl, BitVec.not_allOnes, BitVec.and_zero, BitVec.zero_or, BitVec.and_allOnes]

section
variable {m : Mach} {v : Cell}

/-- The window's rates and bursts: CIR, PIR, CBS and PBS. -/
def Mach.windowRate (m : Mach) (k : Nat) : Dbl := mkDbl (m.r .sluFrate (2 * k + 1)) (m.r .sluFrate (2 * k))

/-- A filter whose peak rate lies below its committed rate, or whose meter has an empty bucket (R106). -/
def Mach.windowBad (m : Mach) : Prop :=
  (m.windowRate 1).toNat < (m.windowRate 0).toNat ∨ (bit (m.r .sluFctl) 9 = true ∧ (m.windowRate 2 = 0 ∨ m.windowRate 3 = 0))

theorem filterCommit_bad (h : m.windowBad) : m.filterCommit = m.wbit .sluErr 0 true := if_pos h

variable {s : State} {who : Master}

theorem filterCommit_takes (h : Takes s who ⟨.sluFrate, 0, 7⟩) :
    exec (.filterCommit who v) s = s.becomes (s.m.w .sluFrate v 7).filterCommit := by
  have hrow : exec (.filterCommit who v) s = s.becomes (s.m.plainWrite ⟨.sluFrate, 0, 7⟩ v).filterCommit :=
    rowWrite_stores h (by decide) (by decide)
  rw [hrow, plainWrite_of_rw rfl, show (Reg.info .sluFrate).rw = 0x3FFFF from rfl, blend_full]
  rfl

theorem fselWrite_takes (h : Takes s who ⟨.sluFsel, 0, 0⟩) :
    exec (.fselWrite who v) s = s.becomes (s.m.w .sluFsel (blend (s.m.r .sluFsel) 0xFFF v)).fselLoad := by
  have hrow : exec (.fselWrite who v) s = s.becomes (s.m.plainWrite ⟨.sluFsel, 0, 0⟩ v).fselLoad :=
    rowWrite_stores h (by decide) (by decide)
  rw [hrow, plainWrite_of_rw rfl]
  rfl

theorem sgEntryWrite_takes (h : Takes s who ⟨.sluSgd1, 0, 0⟩) : exec (.sgEntryWrite who v) s = s.becomes (s.m.sgCommit v) :=
  rowWrite_stores h (by decide) (by decide)

theorem sgcfgWrite_takes (h : Takes s who ⟨.sluSgcfg, 0, 0⟩) :
    exec (.sgcfgWrite who v) s = s.becomes (s.m.sgConfig (v &&& 0x2003F)) :=
  rowWrite_stores h (by decide) (by decide)

/-- SLU_SGCFG stores EN. -/
theorem sgcfg_en (v : Cell) : bit (v &&& 0x2003F) 17 = bit v 17 := by simp [bit]

end

/-- Settles O37: FILTER by its operands, each window by what it holds (that SLU_FSEL loads the window, and that EN with a cycle of 0 sets
its error bit, are the model's choice: log entries 41 and 42). -/
theorem streamFilters : Obligations.StreamFilters := by
  unfold Obligations.StreamFilters
  intro s who t slot v m d i colour f g r w rate bad sg x cyc base
  refine ⟨fun hok hact hunit hop hfirst howed hep => ?_, fun h => ?_, fselWrite_takes, fun h => ?_, fun h => ?_⟩
  · have answers {r : Mach × Cell × List Cell} (hr : m.filterOp d = r) : exec (.filter t slot) s = s.becomes (answered t slot r) :=
      helper_answers rfl hok ⟨rfl, hact, hunit, hop, hfirst⟩ howed hep hr
    exact ⟨fun hn hi hc => (answers (filterOp_meters hn rfl hi rfl hc) :),
      fun hbad => answers (r := (m, status 9 0, [])) (filterOp_badArg hbad)⟩
  · rw [filterCommit_takes h]
    exact ⟨fun hbad => congrArg s.becomes (filterCommit_bad hbad), fun _ => rfl⟩
  · rw [sgEntryWrite_takes h]
    rfl
  · rw [sgcfgWrite_takes h]
    refine ⟨fun hen hcyc => congrArg s.becomes (if_pos ⟨(sgcfg_en v).trans hen, hcyc⟩), fun hgo => congrArg s.becomes (if_neg ?_)⟩
    rw [sgcfg_en]
    rintro ⟨hen, hcyc⟩
    rcases hgo with h | h
    · exact Bool.false_ne_true (h.symm.trans hen)
    · exact h hcyc

end Sys2Proof.Machine

/-!
PROOFS. The waybill (O39): what a longest-match lookup and a ternary search find, and the commands of the window.
-/
namespace Sys2Proof.Machine

/-! ## Lookups (R91) -/

/-- The entries of a longest-match table that cover an address. -/
def Mach.lpmMatches (m : Mach) (t : Nat) (a : BitVec 128) : List LpmEntry :=
  m.waybill.lpm.filter fun e => e.table.toNat = t ∧ prefixOf a e.len = e.addr

section
variable {m : Mach} {t : Nat} {a : BitVec 128} {e : LpmEntry}

theorem mem_lpmMatches : e ∈ m.lpmMatches t a ↔ e ∈ m.waybill.lpm ∧ e.table.toNat = t ∧ prefixOf a e.len = e.addr := by
  rw [Mach.lpmMatches, List.mem_filter, decide_eq_true_eq]

/-- A lookup finds the first of the longest matches. -/
theorem lpmFind_eq_argmax : m.lpmFind t a = (m.lpmMatches t a).argmax LpmEntry.len := by
  rw [Mach.lpmMatches, List.argmax, List.foldl_filter, Mach.lpmFind]
  congr 1
  funext b e
  cases b with
  | none => simp [List.argAux]
  | some x => simp [List.argAux]

theorem lpmFind_eq_some (h : m.lpmFind t a = some e) : e ∈ m.lpmMatches t a ∧ ∀ x ∈ m.lpmMatches t a, x.len ≤ e.len := by
  rw [lpmFind_eq_argmax] at h
  exact ⟨List.argmax_mem h, fun x hx => List.le_of_mem_argmax hx h⟩

theorem lpmFind_eq_none (h : m.lpmFind t a = none) : m.lpmMatches t a = [] := by
  rw [lpmFind_eq_argmax] at h
  exact List.argmax_eq_none.mp h

end

/-- What a search of n ternary entries from i up finds matches, and no entry before it does. -/
theorem ternFind_eq_some {m : Mach} {k : BitVec 128} {n i j : Nat} (h : m.ternFind k n i = some j) :
    i ≤ j ∧ j < i + n ∧ (k ^^^ (m.ternEntry j).key) &&& (m.ternEntry j).mask = 0 ∧
      ∀ x, i ≤ x → x < j → (k ^^^ (m.ternEntry x).key) &&& (m.ternEntry x).mask ≠ 0 := by
  induction n generalizing i with
  | zero => cases h
  | succ n ih =>
    rw [Mach.ternFind] at h
    split at h
    case isTrue hm =>
      cases h
      exact ⟨le_rfl, by omega, hm, fun x hlo hhi => by omega⟩
    case isFalse hm =>
      obtain ⟨hlo, hhi, hj, hbefore⟩ := ih h
      refine ⟨by omega, by omega, hj, fun x hx hxj => ?_⟩
      rcases eq_or_lt_of_le hx with rfl | hlt
      · exact hm
      · exact hbefore x hlt hxj

/-! ## The window's commands (R482) -/

/-- The window busy with a command whose effect and code are given. -/
def wbOrdered (r : Mach × Nat) : Mach :=
  let g := r.1.w .wbStat (setBit (r.1.r .wbStat) 17 true)
  { g with waybill := { g.waybill with code := BitVec.ofNat 4 r.2 } }

section
variable {m : Mach} {v : Cell}

theorem wbCommand_busy (h : m.wbBusy = true) : m.wbCommand v = m := if_pos (.inl h)

variable (h : m.wbBusy = false)
include h

theorem wbCommand_of_op {op : Nat} (hop : fld v 17 15 = op) (h0 : op ≠ 0) : m.wbCommand v =
    if 6 ≤ op then m.wbDone 8 else wbOrdered (if op < 4 then m.wbRun op else m.wbTern (op == 4) (fld v 11 0)) := by
  rw [Mach.wbCommand, hop, if_neg (by simp [h, h0])]
  rfl

theorem wbCommand_key {op : Nat} (hop : fld v 17 15 = op) (h0 : op ≠ 0) (h4 : op < 4) : m.wbCommand v = wbOrdered (m.wbRun op) := by
  rw [wbCommand_of_op h hop h0, if_neg (by omega), if_pos h4]

theorem wbCommand_reserved {op : Nat} (hop : fld v 17 15 = op) (h6 : 6 ≤ op) : m.wbCommand v = m.w .wbStat 0x18000 := by
  rw [wbCommand_of_op h hop (by omega), if_pos h6]
  rfl

end

/-- WB_CMD of an operation on a ternary entry. -/
def ternCommand (op : Nat) (i : BitVec 12) : Cell := BitVec.ofNat 18 (op * 0x8000 + i.toNat)

theorem ternCommand_fields {op : Nat} (hop : op < 8) (i : BitVec 12) :
    fld (ternCommand op i) 17 15 = op ∧ fld (ternCommand op i) 11 0 = i.toNat := by
  have hi := i.isLt
  have hv : (ternCommand op i).toNat = op * 0x8000 + i.toNat := by
    rw [ternCommand, BitVec.toNat_ofNat]
    omega
  rw [fld, fld, hv]
  omega

theorem wbCommand_tern {m : Mach} (h : m.wbBusy = false) {op : Nat} (h4 : op = 4 ∨ op = 5) (i : BitVec 12) :
    m.wbCommand (ternCommand op i) = wbOrdered (m.wbTern (op == 4) i.toNat) := by
  obtain ⟨hop, hi⟩ := ternCommand_fields (by omega : op < 8) i
  rw [wbCommand_of_op h hop (by omega), if_neg (by omega), if_neg (by omega), hi]

/-- WB_CMD of a reserved operation. -/
theorem reserved_op {op : BitVec 3} : fld (BitVec.ofNat 18 (op.toNat * 0x8000)) 17 15 = op.toNat := by
  have hop := op.isLt
  rw [fld, BitVec.toNat_ofNat]
  omega

/-! ## The window's registers -/

section
variable {s : State} {who : Master} {v : Cell}

theorem wbCmd_takes (h : Takes s who ⟨.wbCmd, 0, 0⟩) : rowWrite s ⟨.wbCmd, 0, 0⟩ v who = s.becomes (s.m.wbCommand v) :=
  rowWrite_stores h (by decide) (by decide)

theorem wbTdescWrite_takes (h : Takes s who ⟨.wbTdesc, 0, 0⟩) :
    exec (.wbTdescWrite who v) s = s.becomes (if s.m.wbBusy then s.m else s.m.tdescWrite v) :=
  rowWrite_stores h (by decide) (by decide)

theorem tdescWrite_enabled {m : Mach} (hen : (m.wbTable m.wbSel).en = true) (hv : bit v 17 = true) : m.tdescWrite v = m :=
  if_pos (.inr ⟨hen, hv⟩)

theorem wbCmdDone_busy (h : s.m.wbBusy = true) :
    exec .wbCmdDone s = s.becomes (s.m.w .wbStat (BitVec.ofNat 18 (65536 + s.m.waybill.code.toNat * 4096))) :=
  congrArg s.becomes (if_pos h)

theorem wbCmdDone_idle (h : s.m.wbBusy = false) : exec .wbCmdDone s = s.becomes s.m := congrArg s.becomes (if_neg (Bool.eq_false_iff.mp h))

end

/-! ## The statement -/

/-- Settles O39: the entry found is the longest of the matches, the ternary search goes by induction on its range, the window by whether it
is busy (that a command acts at its write and is DONE later is the model's choice: log entries 49 and 51). -/
theorem waybillTables : Obligations.WaybillTables := by
  unfold Obligations.WaybillTables
  refine ⟨fun m t n i j a k e => ⟨fun h => ?_, fun h x hx ht hp => ?_, ternFind_eq_some⟩, ?_⟩
  · obtain ⟨hmem, hmax⟩ := lpmFind_eq_some h
    obtain ⟨hin, ht, hp⟩ := mem_lpmMatches.mp hmem
    exact ⟨hin, ht, hp, fun x hx hxt hxp => hmax x (mem_lpmMatches.mpr ⟨hx, hxt, hxp⟩)⟩
  · have hmem : x ∈ m.lpmMatches t a := mem_lpmMatches.mpr ⟨hx, ht, hp⟩
    rw [lpmFind_eq_none h] at hmem
    cases hmem
  · intro s who v i op m busy
    refine ⟨fun h => ⟨fun hidle => ?_, fun hbusy c hc => ?_⟩, fun h => ?_, wbCmdDone_busy, wbCmdDone_idle⟩
    · refine ⟨?_, ?_, ?_, ?_, ?_, fun h6 => ?_⟩
      · exact (wbCmd_takes h).trans (congrArg s.becomes (wbCommand_key hidle rfl (by decide) (by decide)))
      · exact (wbCmd_takes h).trans (congrArg s.becomes (wbCommand_key hidle rfl (by decide) (by decide)))
      · exact (wbCmd_takes h).trans (congrArg s.becomes (wbCommand_key hidle rfl (by decide) (by decide)))
      · exact (wbCmd_takes h).trans (congrArg s.becomes (wbCommand_tern hidle (.inl rfl) i))
      · exact (wbCmd_takes h).trans (congrArg s.becomes (wbCommand_tern hidle (.inr rfl) i))
      · refine (wbCmd_takes h).trans (congrArg s.becomes ?_)
        rw [if_pos h6]
        exact wbCommand_reserved hidle reserved_op h6
    · have hrow (v : Cell) : rowWrite s ⟨.wbCmd, 0, 0⟩ v who = s.becomes m := by rw [wbCmd_takes h, wbCommand_busy hbusy]
      simp only [List.mem_cons, List.not_mem_nil, or_false] at hc
      rcases hc with rfl | rfl | rfl | rfl | rfl | rfl <;> exact hrow _
    · rw [wbTdescWrite_takes h]
      refine ⟨fun hbusy => by rw [if_pos hbusy], fun hidle => by rw [if_neg (Bool.eq_false_iff.mp hidle)], fun hen hv => ?_⟩
      rw [tdescWrite_enabled hen hv, ite_self]

end Sys2Proof.Machine

/-!
PROOFS. The timebase (O30): the two clocks and what leaves them alone, the alarms of the window, and the egress timestamp queues.
-/
namespace Sys2Proof.Machine

/-! ## What leaves the timebase alone -/

section
variable (m : Mach)

@[simp] theorem edge_tb (u s : Nat) (old : Bool) : (m.edge u s old).tb = m.tb := by
  rw [Mach.edge, apply_ite Mach.tb]
  exact ite_self _

@[simp] theorem withLines_tb (us : List (Nat × Nat)) (f : Mach → Mach) : (m.withLines us f).tb = (f m).tb :=
  foldl_keeps Mach.tb _ _ _ fun n _ _ => edge_tb n ..

@[simp] theorem coreCount_tb (k n by_ : Nat) : (m.coreCount k n by_).tb = m.tb := by
  rw [Mach.coreCount, apply_ite Mach.tb]
  exact ite_self _

@[simp] theorem setThrH_tb (t : Tid) (x : Thread) : (m.setThrH t x).tb = m.tb := by
  rw [Mach.setThrH, apply_ite Mach.tb]
  exact ite_self _

@[simp] theorem endWait_tb (t : Tid) (st : Cell) : (m.endWait t st).tb = m.tb := by
  simp [Mach.endWait, Mach.finishBol, Mach.retire]

@[simp] theorem wakeEvent_tb (t : Tid) : (m.wakeEvent t).tb = m.tb := by
  unfold Mach.wakeEvent
  dsimp only
  split
  · split
    · split
      · rfl
      · exact endWait_tb ..
    · rfl
  · rfl

@[simp] theorem wakeAll_tb : m.wakeAll.tb = m.tb := by
  refine foldl_keeps Mach.tb _ _ _ fun n u _ => foldl_keeps Mach.tb _ _ _ fun n k _ => ?_
  split
  · exact wakeEvent_tb ..
  · rfl

@[simp] theorem syncGates_tb (q : Nat) : (m.syncGates q).tb = m.tb := rfl

@[simp] theorem syncSgate_tb (i : Nat) : (m.syncSgate i).tb = m.tb := by
  rw [Mach.syncSgate, apply_ite Mach.tb]
  exact ite_self _

end

/-! ## The clocks (R108, R109) -/

/-- The steered time with its fraction, and the monotonic count. -/
def Timebase.clocks (b : Timebase) : BitVec 96 × BitVec 64 := (b.steered, b.mono)

@[simp] theorem fireAlarm_clocks (m : Mach) (a : Nat) : (m.fireAlarm a).tb.clocks = m.tb.clocks := by
  unfold Mach.fireAlarm
  dsimp only
  split <;> rw [Mach.setAlarm, withLines_tb] <;> rfl

@[simp] theorem setSteered_steered (m : Mach) (v : BitVec 96) : (m.setSteered v).tb.steered = v := by
  refine BitVec.eq_of_toNat_eq ?_
  have hv := v.isLt
  show (v.extractLsb' 32 64 ++ v.setWidth 32).toNat = v.toNat
  rw [toNat_append_eq_add, BitVec.extractLsb'_toNat, BitVec.toNat_setWidth, Nat.shiftRight_eq_div_pow]
  omega

/-- A cycle of REFCLK adds 4 ns and the rate to the steered time. -/
theorem tick_steered (m : Mach) :
    m.tick.tb.steered = m.tb.steered + BitVec.ofNat 96 (4 * 2 ^ 32) + m.tb.rate.signExtend 96 := by
  rw [BitVec.add_assoc]
  exact setSteered_steered m _

/-- The ns and fractions that TB_STEP holds (R109). -/
def Mach.stepWidth (m : Mach) : BitVec 96 :=
  let c := fun (n : Nat) => m.r .tbStep n
  let d : BitVec 80 := (c 4).extractLsb' 0 10 ++ c 3 ++ c 2 ++ c 1 ++ (c 0).extractLsb' 0 16
  d.signExtend 96 <<< 16

/-- What a step does after the steered time has moved (alarms, gates, event waits) leaves both clocks. -/
theorem step80_clocks (m : Mach) : m.step80.tb.clocks = (m.setSteered (m.tb.steered + m.stepWidth)).tb.clocks := by
  unfold Mach.step80
  dsimp only
  rw [wakeAll_tb, foldl_keeps (fun n => n.tb.clocks) Mach.syncSgate _ _ fun n i _ => by rw [syncSgate_tb],
    foldl_keeps (fun n => n.tb.clocks) Mach.syncGates _ _ fun n q _ => by rw [syncGates_tb],
    foldl_keeps (fun n => n.tb.clocks) _ _ _ fun n a _ => ?_]
  · rfl
  · rw [apply_ite (fun n : Mach => n.tb.clocks), fireAlarm_clocks, ite_self]

theorem limitRate_bounds (v : Dbl) : -(2 ^ 28) ≤ (limitRate v).toInt ∧ (limitRate v).toInt ≤ 2 ^ 28 := by
  unfold limitRate
  split
  · decide
  · split
    · decide
    · omega

/-! ## Registers of the timebase -/

section
variable {s : State} {who : Master} {v : Cell}

/-- TB_CTL takes a snapshot where SNAP is written 1, then steps where STEPGO is. -/
theorem tbCtl_takes (h : Takes s who ⟨.tbCtl, 0, 0⟩) : rowWrite s ⟨.tbCtl, 0, 0⟩ v who =
    s.becomes (if bit v 16 then (if bit v 17 then s.m.snap else s.m).step80 else if bit v 17 then s.m.snap else s.m) :=
  rowWrite_stores h (by decide) (by decide)

theorem tbSnap_takes (h : Takes s who ⟨.tbCtl, 0, 0⟩) : exec (.tbSnap who) s = s.becomes s.m.snap := by
  show rowWrite s ⟨.tbCtl, 0, 0⟩ 0x20000 who = _
  rw [tbCtl_takes h, if_neg (by decide), if_pos (by decide)]

theorem tbStep_takes (h : Takes s who ⟨.tbCtl, 0, 0⟩) : exec (.tbStep who) s = s.becomes s.m.step80 := by
  show rowWrite s ⟨.tbCtl, 0, 0⟩ 0x10000 who = _
  rw [tbCtl_takes h, if_pos (by decide), if_neg (by decide)]

theorem tbRateWrite_takes (h : Takes s who ⟨.tbRate, 0, 1⟩) : exec (.tbRateWrite who v) s = s.becomes (s.m.rateWrite v) :=
  rowWrite_stores h (by decide) (by decide)

theorem alarmTime_takes {i : Fin 4} (h : Takes s who ⟨.tbAlmt, 0, i.val⟩) :
    exec (.alarmArmWrite who i.castSucc v) s = s.becomes (s.m.alarmWrite .tbAlmt i.val v) := by
  have hkey : ∀ i : Fin 4, 0x8010000 ≤ (⟨.tbAlmt, 0, i.val⟩ : RegRef).key ∧ (⟨.tbAlmt, 0, i.val⟩ : RegRef).key < 0x8040000 := by decide
  have hrow : exec (.alarmArmWrite who i.castSucc v) s = rowWrite s ⟨.tbAlmt, 0, i.val⟩ v who :=
    congrArg (rowWrite s · v who) (if_pos i.isLt)
  rw [hrow, rowWrite_stores h (by decide) (by decide), regStore_quay rfl (hkey i).1 (hkey i).2]
  rfl

theorem alarmControl_takes (h : Takes s who ⟨.tbAlmctl, 0, 0⟩) :
    exec (.alarmArmWrite who 4 v) s = s.becomes
      (s.m.withLines (everyCtl (s.m.r .tbAlmsel).toNat) fun m => m.alarmWrite .tbAlmctl 0 v).wakeAll :=
  rowWrite_stores h (by decide) (by decide)

theorem tsPop_answers (h : Answers s who ⟨.tbTspop, 0, 0⟩) :
    exec (.tsPop who) s = s.reads (s.m.tsPop (s.m.quiet who)).1 (s.m.tsPop (s.m.quiet who)).2 :=
  rowRead_fetches h (by decide)

end

/-! ## Alarms (R111) and egress timestamps (R112, R348) -/

section
variable {m : Mach} {i : Nat} {v : Cell}

/-- A compare time written to an alarm, which arms it (log entry 100). -/
def Mach.armAlarm (m : Mach) (k i : Nat) (v : Cell) : Mach :=
  m.setAlarm k { m.alarm k with time := put64 (m.alarm k).time i v, armed := true }

/-- An alarm that is due fires on its old time first. -/
theorem alarmWrite_time : m.alarmWrite .tbAlmt i v =
    (if m.alarmDue (m.r .tbAlmsel).toNat then (m.fireAlarm (m.r .tbAlmsel).toNat).wakeAll else m).armAlarm (m.r .tbAlmsel).toNat i v := rfl

theorem alarmWrite_time_of_early (h : m.alarmDue (m.r .tbAlmsel).toNat = false) :
    m.alarmWrite .tbAlmt i v = m.armAlarm (m.r .tbAlmsel).toNat i v := by
  rw [alarmWrite_time, if_neg (Bool.eq_false_iff.mp h)]

theorem alarmWrite_time_of_due (h : m.alarmDue (m.r .tbAlmsel).toNat = true) :
    m.alarmWrite .tbAlmt i v = (m.fireAlarm (m.r .tbAlmsel).toNat).wakeAll.armAlarm (m.r .tbAlmsel).toNat i v := by
  rw [alarmWrite_time, if_pos h]

end

section
variable {m : Mach} {q : Nat} {tag : BitVec 7}

theorem tsReturn_disabled {ts : BitVec 32} (hen : bit (m.r .qeCtl q) 17 = false) : m.tsReturn q tag ts = m.count 0x7440 2 :=
  if_pos (by simp [hen])

theorem tsReturn_full {ts : BitVec 32} (hen : bit (m.r .qeCtl q) 17 = true) (hfull : 64 ≤ (m.eq q).stamps.length) :
    m.tsReturn q tag ts = (m.updEq q fun e => { e with ovf := true }).count 0x7440 1 :=
  (if_neg (by simp [hen])).trans (if_pos hfull)

theorem tsReturn_room {ts : BitVec 32} (hen : bit (m.r .qeCtl q) 17 = true) (hroom : (m.eq q).stamps.length < 64) :
    m.tsReturn q tag ts = (m.withLines (everyCtl (16 + q)) fun m =>
      m.updEq q fun e => { e with stamps := e.stamps ++ [(tag, extend32 m.tb.ns ts)] }).wakeAll :=
  (if_neg (by simp [hen])).trans (if_neg (not_le.mpr hroom))

/-- The block with a queue's first timestamp popped into TB_TSV. -/
def Mach.stampPopped (m : Mach) (q : Nat) (ns : BitVec 64) (r : List (BitVec 7 × BitVec 64)) : Mach :=
  ((cells64 ns).zipIdx).foldl (fun m e => m.w .tbTsv e.1 e.2)
    (m.withLines (everyCtl (16 + q)) fun m => m.updEq q fun e => { e with stamps := r })

theorem tsPop_of_stamp {ns : BitVec 64} {r : List (BitVec 7 × BitVec 64)} (h : (m.eq (m.r .tbTssel).toNat).stamps = (tag, ns) :: r)
    (quiet : Bool) : m.tsPop quiet =
      (if quiet then m else m.stampPopped (m.r .tbTssel).toNat ns r,
        BitVec.ofNat 18 (131072 + 65536 * b2n (m.eq (m.r .tbTssel).toNat).ovf + tag.toNat)) := by
  rw [Mach.tsPop]
  simp only [h]
  cases quiet <;> rfl

end

theorem alarmFire_of_due {s : State} {a : BitVec 4} (h : s.m.alarmDue a.toNat = true) :
    exec (.alarmFire a) s = s.becomes (s.m.fireAlarm a.toNat).wakeAll :=
  congrArg s.becomes (if_pos h)

/-! ## The statement -/

/-- Settles O30: each register by the lemma on what takes the write, a step by what leaves the clocks alone (that each cell of the compare
time arms the alarm, that a step acts at the write, and that OVF is the selected queue's, are the model's choice: log entries 100, 36
and 37). -/
theorem timebaseAndAlarms : Obligations.TimebaseAndAlarms := by
  unfold Obligations.TimebaseAndAlarms
  refine ⟨?_, ?_⟩
  · intro s who v i a q tag ts ns r m k x sel popped noted
    refine ⟨fun h => ⟨tbSnap_takes h, tbStep_takes h⟩, fun h => ⟨tbRateWrite_takes h, rfl⟩, fun h => ?_,
      alarmControl_takes, alarmFire_of_due,
      fun hen hroom => congrArg s.becomes (tsReturn_room hen hroom), fun hen hfull => congrArg s.becomes (tsReturn_full hen hfull),
      fun hen => congrArg s.becomes (tsReturn_disabled hen), fun h hq => ?_⟩
    · rw [alarmTime_takes h]
      exact ⟨fun hdue => congrArg s.becomes (alarmWrite_time_of_early hdue), fun hdue => congrArg s.becomes (alarmWrite_time_of_due hdue)⟩
    · rw [tsPop_answers h, tsPop_of_stamp hq]
      rfl
  · intro m c d
    obtain ⟨hsteered, hmono⟩ := Prod.mk.inj (step80_clocks m)
    exact ⟨rfl, tick_steered m, hsteered.trans (setSteered_steered ..), hmono, limitRate_bounds⟩

end Sys2Proof.Machine

/-!
PROOFS. Tickets (O23): where `tow` leaves a command, what `moor` finds at its ticket, and the timeout of a helper.
-/
namespace Sys2Proof.Machine

/-! ## Fields of a cell as quotients -/

theorem fld_top (c : Cell) {lo : Nat} (h : lo ≤ 17) : fld c 17 lo = c.toNat / 2 ^ lo := by
  refine Nat.mod_eq_of_lt (Nat.div_lt_of_lt_mul ?_)
  rw [← pow_add, Nat.add_sub_cancel' (by omega)]
  exact c.isLt

theorem fld_bottom (c : Cell) (hi : Nat) : fld c hi 0 = c.toNat % 2 ^ (hi + 1) := by rw [fld, pow_zero, Nat.div_one, Nat.sub_zero]

/-! ## `tow` (R73, R74, R174) -/

/-- The dock slot of a command that a thread tows: `n` operands lie below the command cell, the first of them deepest. -/
def Mach.newDock (m : Mach) (t : Tid) (cmd : Cell) (n : Nat) : Dock :=
  let x := m.thr t
  ⟨.busy, .nothing, x.tows + 1, cmd, (List.range n).map fun j => x.bank.at_ (n - j), x.helm, m.epochOf t, BitVec.ofNat 3 (m.base t),
    m.priOf t, 0, x.mf, m.now⟩

/-- The end of a `tow` that slot i takes: its ticket stands in place of the command and its operands. -/
def Mach.towed (m : Mach) (t : Tid) (cmd : Cell) (n i : Nat) : Mach :=
  let x := m.thr t
  let ticket : Cell := BitVec.ofNat 18 (i * 65536 + (x.tows + 1).toNat)
  m.retire t ((Thread.setBank { x with tows := x.tows + 1 } { x.bank with ds := ticket :: x.bank.ds.drop (n + 1) }).setDock i
    (m.newDock t cmd n)) 1

section
variable {s : State} {t : Tid} {c : Cell} {r : List Cell} {i : Nat}

/-- Where a slot is free and fewer than four transactions are out, `tow` asks for an entry of its unit's queue (R74). -/
theorem tow_issues (hds : (s.m.thr t).bank.ds = c :: r) (h : Issues s t (dEff (fld c 14 11 + 1) 1))
    (hfree : (List.range 4).find? (fun i => ((s.m.thr t).dock i).isFree) = some i) (htx : (s.m.thr t).txns < 4) :
    exec (.tow t) s =
      let m := s.m.chosen t
      let unit := fld c 17 15
      let f := m.flushMem t
      let g := f.towed t c (fld c 14 11) i
      s.becomes (if !reservedCmd unit (fld c 10 6) && !s.m.entryFree unit (BitVec.ofNat 3 (s.m.base t)) then m.park t (.queue unit)
        else if reservedCmd unit (fld c 10 6) then g.complete t i 0x20000 []
        else (g.setHeldCmds unit (g.heldCmds unit ++ [⟨t, i⟩])).putFlit t (19 + unit) (f.priOf t) 0) := by
  show execTow t s = _
  rw [execTow, onThread_of_ok h.1.1]
  dsimp only
  rw [at_zero_of_cons hds, Mach.issue_of_issues h]
  simp only [Mach.chosen_thr, hfree]
  exact congrArg s.becomes (if_neg (not_le.mpr htx))

end

/-! ## `moor` (R76) -/

/-- The end of a `moor` is that of a polled status, without a carry. -/
theorem polled_moor (s : State) (m : Mach) (t : Tid) (st : Cell) : polled s m t 1 st true = s.becomes (m.finishMoor t st) := by
  have hcode : fld st 17 14 = st.toNat / 16384 := fld_top st (by decide)
  simp only [polled, Mach.finishMoor, moorFlags, hcode, Bool.not_true, Bool.false_and, Bool.or_false, if_true]
  rfl

section
variable {m : Mach} {t : Tid} {tkt : Cell}

theorem moorOp_complete (hser : ((m.thr t).dock (fld tkt 17 16)).serial.toNat = fld tkt 15 0)
    (hst : ((m.thr t).dock (fld tkt 17 16)).state = .complete) : m.moorOp t tkt =
    (m.updThr t fun x => x.setDock (fld tkt 17 16) { (m.thr t).dock (fld tkt 17 16) with state := .free }).finishMoor t
      (m.rdCell (some t) (dockAddr t (fld tkt 17 16))) :=
  if_pos ⟨hser, hst⟩

theorem moorOp_busy (hser : ((m.thr t).dock (fld tkt 17 16)).serial.toNat = fld tkt 15 0)
    (hst : ((m.thr t).dock (fld tkt 17 16)).state = .busy) : m.moorOp t tkt = m.park t (.moor tkt) :=
  (if_neg (by simp [hst])).trans (if_pos ⟨hser, hst⟩)

theorem moorOp_other (h : ((m.thr t).dock (fld tkt 17 16)).serial.toNat ≠ fld tkt 15 0 ∨
    ((m.thr t).dock (fld tkt 17 16)).state = .free) :
    m.moorOp t tkt = m.finishMoor t 0x3C000 := by
  have hnot {st : DockState} (hst : st ≠ .free) :
      ¬ (((m.thr t).dock (fld tkt 17 16)).serial.toNat = fld tkt 15 0 ∧ ((m.thr t).dock (fld tkt 17 16)).state = st) := by
    rintro ⟨hser, hst'⟩
    rcases h with h | h
    · exact h hser
    · exact hst (hst'.symm.trans h)
  exact (if_neg (hnot (by decide))).trans (if_neg (hnot (by decide)))

theorem moor_issues {s : State} {c : Cell} {r : List Cell} (hds : (s.m.thr t).bank.ds = c :: r) (h : Issues s t (dEff 1 1)) :
    exec (.moor t) s = s.becomes ((s.m.chosen t).moorOp t c) := by
  have hat : ((s.m.chosen t).thr t).bank.at_ 0 = c := at_zero_of_cons hds
  show execMoor t s = _
  rw [execMoor, issue_ends h, hat]
  rfl

end

/-! ## The timeout of a helper (R78) -/

theorem helperTimeout_of_due {s : State} {t : Tid} {j : BitVec 2} (hok : Tid.ok t = true) (hbusy : ((s.m.thr t).dock j.toNat).state = .busy)
    (hpast : s.m.past ((s.m.thr t).dock j.toNat).since (1000 * fld (s.m.r .blkHlptmo) 11 0) = true) :
    exec (.helperTimeout t j) s = s.becomes
      ((((s.m.wrCell (some t) (dockAddr t j.toNat) 0x2C000).updThr t fun z => z.setDock j.toNat
        { (s.m.thr t).dock j.toNat with
          state := .complete,
          owed := if ((s.m.thr t).dock j.toNat).owed = .abandoned then .nothing else .timedOut }).unpark t).wakeMoor t) := by
  show execHelperTimeout t j s = _
  rw [execHelperTimeout, onThread_of_ok hok]
  exact congrArg s.becomes (if_pos ⟨hbusy, hpast⟩)

/-! ## The statement -/

/-- Settles O23: `tow` by whether its unit has an entry and knows the operation, `moor` by what its ticket's slot holds. -/
theorem tickets : Obligations.Tickets := by
  unfold Obligations.Tickets
  intro s t c r i j x m n unit f tkt k
  have hunit : fld c 17 15 = unit := fld_top c (by decide)
  have hserial : fld c 15 0 = c.toNat % 65536 := fld_bottom c 15
  refine ⟨fun hds h hfree htx => ?_, fun hds h => ?_, fun hok => helperTimeout_of_due hok⟩
  · have htow := tow_issues hds h hfree htx
    rw [hunit] at htow
    refine ⟨fun (hknown : reservedCmd unit (fld c 10 6) = false) hfull => ?_,
      fun (hgo : reservedCmd unit (fld c 10 6) = true ∨ _) => htow.trans (congrArg s.becomes (if_neg ?_))⟩
    · exact htow.trans (congrArg s.becomes (if_pos (by rw [hknown, hfull]; rfl)))
    · rcases hgo with hgo | hgo <;> simp [hgo]
  · rw [moor_issues hds h]
    refine ⟨fun hser hst => ?_, fun hser hst => ?_, fun ho => ?_⟩
    · exact (congrArg s.becomes (moorOp_complete (m := m) (hser.trans hserial.symm) hst)).trans (polled_moor ..).symm
    · exact congrArg s.becomes (moorOp_busy (m := m) (hser.trans hserial.symm) hst)
    · exact (congrArg s.becomes (moorOp_other (m := m) (ho.imp_left fun hser => hserial ▸ hser))).trans (polled_moor ..).symm

end Sys2Proof.Machine

/-!
PROOFS. Bollards (O24): what stops an acquisition, the ends of `take`, `give` and `wait`, the timeout of a wait, and the inheritance link.
-/
namespace Sys2Proof.Machine

/-! ## Who may acquire a bollard (R120, R121) -/

/-- FBONLY does not bar a thread from a bollard: it is clear, or the thread has base priority 7 or helm. -/
def Mach.mayAcquire (m : Mach) (t : Tid) (b : Nat) : Prop := (m.bol b).fbonly = false ∨ m.base t = 7 ∨ (m.thr t).helm = true

section
variable {m : Mach} {t : Tid} {b : Nat}

theorem acquireErr_own (h : (m.bol b).owner = some (m.refOf t)) : m.acquireErr t b = some 0x24001 := if_pos (beq_iff_eq.mpr h)

theorem acquireErr_barred (h : (m.bol b).owner ≠ some (m.refOf t)) (hfb : (m.bol b).fbonly = true) (hbase : m.base t ≠ 7)
    (hhelm : (m.thr t).helm = false) : m.acquireErr t b = some 0x28003 :=
  (if_neg (mt beq_iff_eq.mp h)).trans (if_pos (by simp [hfb, hbase, hhelm]))

theorem acquireErr_none (h : (m.bol b).owner ≠ some (m.refOf t)) (hmay : m.mayAcquire t b) : m.acquireErr t b = none := by
  refine (if_neg (mt beq_iff_eq.mp h)).trans (if_neg ?_)
  rcases hmay with h | h | h <;> simp [h]

end

/-! ## The end of a bollard operation (R120) -/

theorem becomes_finishBol (s : State) (m : Mach) (t : Tid) (n : Nat) (st : Cell) : s.becomes (m.finishBol t n st) = polled s m t n st := by
  have hcode : fld st 17 14 = st.toNat / 16384 := fld_top st (by decide)
  simp only [polled, Mach.finishBol, bolFlags, hcode, Bool.not_false, Bool.true_and, Bool.false_eq_true, if_false]
  rfl

/-- The status of an acquisition: of a bollard that its owner lost, or of a free one (R126). -/
theorem becomes_takeFree (s : State) (m : Mach) (t : Tid) (b n : Nat) :
    s.becomes (m.takeFree t b n) = polled s (m.acquire b t) t n (if (m.bol b).orphan then 0x18000 else 0) := by
  rw [Mach.takeFree, becomes_finishBol]
  split <;> rfl

/-- A thread that issues and finds its context free runs the routine of its instruction in the block in which its core has chosen it. -/
theorem issued_routine {s : State} {t : Tid} {e : Effect} {n : Nat} {f : Mach → Mach} (h : Issues s t e) (hr : Runs s t n) :
    onThread t s (fun m => m.issue t e fun m => m.routine t n f) = s.becomes (f (s.m.chosen t)) := by
  rw [issue_ends h, Mach.routine_of_chosen hr]; rfl

/-! ## `take` (R121) -/

section
variable {s : State} {t : Tid} {c : Cell} {r : List Cell} (hds : (s.m.thr t).bank.ds = c :: r) (h : Issues s t (dEff 1 1))
  (hr : Runs s t 0x2C0)
include hds h hr

theorem take_outside (hc : 4095 < c.toNat) : exec (.take t) s = polled s (s.m.chosen t) t 1 0x24000 := by
  refine (issued_routine h hr).trans ?_
  simp only [Mach.chosen_thr, at_zero_of_cons hds, if_pos hc]
  exact becomes_finishBol ..

theorem take_stopped {st : Cell} (hc : c.toNat ≤ 4095) (herr : (s.m.chosen t).acquireErr t c.toNat = some st) : exec (.take t) s =
    polled s (if fld st 17 14 = 10 then (s.m.chosen t).bolError 4 2 else s.m.chosen t) t 1 st := by
  refine (issued_routine h hr).trans ?_
  simp only [Mach.chosen_thr, at_zero_of_cons hds, if_neg hc.not_gt, herr]
  exact becomes_finishBol ..

theorem take_allowed (hc : c.toNat ≤ 4095) (herr : (s.m.chosen t).acquireErr t c.toNat = none) : exec (.take t) s =
    s.becomes (if (s.m.bol c.toNat).owner.isNone then (s.m.chosen t).takeFree t c.toNat 1
      else (s.m.chosen t).finishBol t 1 (status 1 0)) := by
  refine (issued_routine h hr).trans ?_
  simp only [Mach.chosen_thr, at_zero_of_cons hds, if_neg hc.not_gt, herr]
  rfl

theorem take_free (hc : c.toNat ≤ 4095) (ho : (s.m.bol c.toNat).owner = none) (hmay : (s.m.chosen t).mayAcquire t c.toNat) :
    exec (.take t) s = polled s ((s.m.chosen t).acquire c.toNat t) t 1 (if (s.m.bol c.toNat).orphan then 0x18000 else 0) := by
  have herr := acquireErr_none (m := s.m.chosen t) (by simp [ho]) hmay
  rw [take_allowed hds h hr hc herr, if_pos (by rw [ho]; rfl)]
  exact becomes_takeFree ..

theorem take_owned {o : BitVec 20} (hc : c.toNat ≤ 4095) (ho : (s.m.bol c.toNat).owner = some o) (hne : o ≠ s.m.refOf t)
    (hmay : (s.m.chosen t).mayAcquire t c.toNat) : exec (.take t) s = polled s (s.m.chosen t) t 1 0x04000 := by
  have herr := acquireErr_none (m := s.m.chosen t) (by simp [ho, hne]) hmay
  rw [take_allowed hds h hr hc herr, if_neg (by simp [ho])]
  exact becomes_finishBol ..

end

/-! ## `give` (R122, R174) -/

theorem refTid_refOf (m : Mach) (t : Tid) : refTid (m.refOf t) = t := by
  refine BitVec.eq_of_toNat_eq ?_
  have ht := t.isLt
  rw [refTid, Mach.refOf, BitVec.toNat_setWidth, toNat_append_eq_add]
  omega

/-- The reference of a thread that exists is current (R399). -/
theorem current_refOf (m : Mach) {t : Tid} (hok : Tid.ok t = true) : m.current (m.refOf t) = true := by
  have hepoch : (m.refOf t).extractLsb' 12 8 = m.epochOf t := by
    refine BitVec.eq_of_toNat_eq ?_
    have ht := t.isLt
    have he := (m.epochOf t).isLt
    rw [Mach.refOf, BitVec.extractLsb'_toNat, toNat_append_eq_add, Nat.shiftRight_eq_div_pow]
    omega
  rw [Mach.current, refTid_refOf, hok, hepoch]
  simp

/-- `give` with its stores performed and none left: it answers by who owns the bollard. -/
theorem give_flushed {s : State} {t : Tid} {c : Cell} (h : Issues s t (dEff 1 1)) (hr : Runs s t 0x340) (hc : c.toNat ≤ 4095)
    (hsb : (((s.m.chosen t).flushMem t).thr t).sb = []) (hat : (((s.m.chosen t).flushMem t).thr t).bank.at_ 0 = c) :
    exec (.give t) s =
      let f := (s.m.chosen t).flushMem t
      s.becomes (if (f.bol c.toNat).owner == some (f.refOf t) then ((f.passOn c.toNat false).disinherit t).finishBol t 1 (status 0 0)
        else (f.bolError 3 0).finishBol t 1 (status 10 2)) := by
  refine (issued_routine h hr).trans ?_
  simp only [hsb, hat, ne_eq, not_true_eq_false, if_false, if_neg hc.not_gt, current_refOf _ h.1.1, Bool.not_true, Bool.false_eq_true]

/-! ## `wait` (R119, R121, R123) -/

/-- The `wait` at P is a new one: no wait of the thread is queued, and none has ended that it has not seen. -/
def Thread.waitsAnew (x : Thread) : Prop := x.wait = none ∧ x.ended = []

section
variable {m : Mach} {t : Tid} {c w : Cell} {r : List Cell}

theorem at_one_of_cons {b : Bank} (h : b.ds = w :: c :: r) : b.at_ 1 = c := by rw [Bank.at_, h]; rfl

theorem waitOp_event (hds : (m.thr t).bank.ds = w :: c :: r) (hnew : (m.thr t).waitsAnew) (hunit : w.toNat / 65536 ≠ 3)
    (hc : bit c 17 = true) : m.waitOp t = m.waitSource t (if bit c 16 then .anySource else .source (c.setWidth 9)) w := by
  obtain ⟨hwait, hended⟩ := hnew
  have hfld : fld w 17 16 ≠ 3 := by rwa [fld_top w (by decide)]
  simp [Mach.waitOp, hwait, hended, at_zero_of_cons hds, at_one_of_cons hds, hfld, hc]

theorem waitOp_bollard (hds : (m.thr t).bank.ds = w :: c :: r) (hnew : (m.thr t).waitsAnew) (hunit : w.toNat / 65536 ≠ 3)
    (hc : c.toNat ≤ 4095) : m.waitOp t = m.waitBollard t c.toNat w := by
  obtain ⟨hwait, hended⟩ := hnew
  have hfld : fld w 17 16 ≠ 3 := by rwa [fld_top w (by decide)]
  have hbit : bit c 17 = false := Nat.testBit_lt_two_pow (by omega)
  simp [Mach.waitOp, hwait, hended, at_zero_of_cons hds, at_one_of_cons hds, hfld, hbit, hc.not_gt]

theorem queueWait_anew (hnew : (m.thr t).waitsAnew) (q : QWait) : m.queueWait t q = m.updThr t fun x => { x with wait := some q } := by
  rw [Mach.queueWait, hnew.1]

theorem waitBollard_free {b : Nat} (herr : m.acquireErr t b = none) (ho : (m.bol b).owner = none) (tmo : Cell) :
    m.waitBollard t b tmo = m.takeFree t b 2 := by
  rw [Mach.waitBollard, herr]
  exact if_pos (by rw [ho]; rfl)

/-- The block in which a thread has joined a bollard's queue, before the bollard's owner inherits. -/
def Mach.joined (m : Mach) (t : Tid) (b : Nat) (tmo : Cell) : Mach :=
  let x := m.thr t
  let queued := m.updThr t fun x' => { x' with wait := some ⟨.bollard (BitVec.ofNat 12 b), m.waitUntil tmo, x.p, x.fdepth, none⟩ }
  (queued.updBol b fun k => { k with waiters := k.waiters ++ [m.refOf t] }).park t .wait

theorem waitBollard_owned {b : Nat} {o : BitVec 20} (hnew : (m.thr t).waitsAnew) (herr : m.acquireErr t b = none)
    (ho : (m.bol b).owner = some o) (tmo : Cell) : m.waitBollard t b tmo = (m.joined t b tmo).inherit b := by
  rw [Mach.waitBollard, herr]
  simp only [ho, Option.isNone_some, Bool.false_eq_true, if_false, queueWait_anew hnew]
  rfl

end

/-! ## Inheritance (R124, R125) -/

section
variable {m : Mach} {b : Nat} {o : BitVec 20}

theorem inherit_owned (ho : (m.bol b).owner = some o) : ∃ p, m.inherit b =
    (m.updBol b fun k => { k with inh := BitVec.ofNat 3 (m.waitPri b) }).updThr (refTid o) fun x => { x with inh := p } := by
  unfold Mach.inherit
  simp only [Mach.updBol_bol_self, ho]
  exact ⟨_, rfl⟩

/-- Passing a bollard's priority on changes its INHPRI and its owner's inherited priority alone. -/
theorem inherit_frame (ho : (m.bol b).owner = some o) :
    (m.inherit b).bol b = { m.bol b with inh := BitVec.ofNat 3 (m.waitPri b) } ∧
      (∃ p, (m.inherit b).threads = (m.setThr (refTid o) { m.thr (refTid o) with inh := p }).threads ∧
        (m.inherit b).thr (refTid o) = { m.thr (refTid o) with inh := p }) ∧
      (∀ u, u ≠ refTid o → (m.inherit b).thr u = m.thr u) ∧ (m.inherit b).mem = m.mem ∧ (m.inherit b).regs = m.regs := by
  obtain ⟨p, hp⟩ := inherit_owned ho
  rw [hp]
  exact ⟨by simp, ⟨p, rfl, Mach.updThr_thr_self ..⟩, fun u hu => Mach.updThr_thr_ne _ _ hu, rfl, rfl⟩

theorem inherit_thr (ho : (m.bol b).owner = some o) (u : Tid) : ∃ p, (m.inherit b).thr u = { m.thr u with inh := p } := by
  obtain ⟨-, ⟨p, -, hself⟩, hne, -, -⟩ := inherit_frame ho
  rcases eq_or_ne u (refTid o) with rfl | hu
  · exact ⟨p, hself⟩
  · exact ⟨(m.thr u).inh, hne u hu⟩

end

/-! ## The queue of an owned bollard (R121, R124) -/

theorem joined_bol (m : Mach) (t : Tid) (b : Nat) (tmo : Cell) :
    (m.joined t b tmo).bol b = { m.bol b with waiters := (m.bol b).waiters ++ [m.refOf t] } := by
  simp [Mach.joined, Mach.park, Mach.stall]

theorem joined_thr_self (m : Mach) (t : Tid) (b : Nat) (tmo : Cell) : (m.joined t b tmo).thr t = { m.thr t with
    wait := some ⟨.bollard (BitVec.ofNat 12 b), m.waitUntil tmo, (m.thr t).p, (m.thr t).fdepth, none⟩, waited := 0, park := .wait } := by
  simp [Mach.joined, Mach.park, Mach.stall, Thread.waits]

theorem joined_frame (m : Mach) (t : Tid) (b : Nat) (tmo : Cell) : (m.joined t b tmo).mem = m.mem ∧ (m.joined t b tmo).regs = m.regs ∧
    ∀ u, u ≠ t → (m.joined t b tmo).thr u = m.thr u := by
  simp only [Mach.joined, Mach.park, Mach.stall, Mach.coreCount_mem, Mach.coreCount_regs, Mach.coreCount_thr_of]
  exact ⟨rfl, rfl, fun u hu => by rw [Mach.updThr_thr_ne _ _ hu, Mach.updBol_thr_of, Mach.updThr_thr_ne _ _ hu]⟩

/-- A thread that has joined the queue of an owned bollard is its last waiter and parks at its `wait`; beside the inheritance of the
bollard's owner, nothing else of the threads, the memory and the registers changes. -/
theorem joined_inherit {m : Mach} {b : Nat} {o : BitVec 20} (ho : (m.bol b).owner = some o) (t : Tid) (tmo : Cell) :
    let n := (m.joined t b tmo).inherit b
    (n.bol b).waiters = (m.bol b).waiters ++ [m.refOf t] ∧ (n.thr t).park = .wait ∧ (n.thr t).p = (m.thr t).p ∧
      (n.thr t).wait = some ⟨.bollard (BitVec.ofNat 12 b), m.waitUntil tmo, (m.thr t).p, (m.thr t).fdepth, none⟩ ∧
      n.mem = m.mem ∧ n.regs = m.regs ∧ (∀ u, u ≠ t → u ≠ refTid o → n.thr u = m.thr u) := by
  have howner : ((m.joined t b tmo).bol b).owner = some o := by rw [joined_bol]; exact ho
  obtain ⟨hmem, hregs, hthr⟩ := joined_frame m t b tmo
  obtain ⟨hbol, -, hthr', hmem', hregs'⟩ := inherit_frame howner
  obtain ⟨p, hself⟩ := inherit_thr howner t
  rw [joined_thr_self] at hself
  rw [joined_bol] at hbol
  intro n
  rw [hself, hbol]
  exact ⟨rfl, rfl, rfl, rfl, hmem'.trans hmem, hregs'.trans hregs, fun u hu huo => (hthr' u huo).trans (hthr u hu)⟩

/-! ## The timeout of a wait (R119, R129) -/

theorem waitTimeout_of_due {s : State} {t : Tid} {b : Bol} {u : BitVec 64} {pc : BitVec 21} {d : BitVec 4} (hok : Tid.ok t = true)
    (hwait : (s.m.thr t).wait = some ⟨.bollard b, some u, pc, d, none⟩) (hdue : u.toNat ≤ s.m.now) :
    exec (.waitTimeout t) s = s.becomes
      ((((s.m.updBol b.toNat fun k => { k with waiters := k.waiters.erase (s.m.refOf t) }).inherit b.toNat).count 0x7600 1).waitOutcome t
        0x2C000) := by
  have hpast : s.m.past u.toNat 0 = true := decide_eq_true hdue
  show execWaitTimeout t s = _
  rw [execWaitTimeout, onThread_of_ok hok]
  simp only [hwait, hpast, Bool.not_true, Bool.false_eq_true, if_false]
  rfl

/-! ## The statement -/

/-- Settles O24: each of `take`, `give` and `wait` by who owns its bollard and whether FBONLY bars the thread, a `wait` that queues by
what joining the queue and the inheritance link leave alone. -/
theorem bollards : Obligations.Bollards := by
  unfold Obligations.Bollards
  intro s t c w r b u pc d o x m k f may
  refine ⟨fun hds h hr => ⟨take_outside hds h hr, take_free hds h hr, fun hc ho => ?_, fun hc ho hfb hbase hhelm => ?_,
    take_owned hds h hr⟩, fun _ h hr => ⟨fun hc hsb hat ho => ?_, fun hc hsb hat ho => ?_⟩,
    fun hds h hr hwait hended hunit hc hmay => ?_, waitTimeout_of_due, fun ho => ?_⟩
  · rw [take_stopped hds h hr hc (acquireErr_own (m := m) ho), if_neg (by decide)]
  · rw [take_stopped hds h hr hc (acquireErr_barred (m := m) ho hfb hbase hhelm), if_pos (by decide)]
  · rw [give_flushed h hr hc hsb hat]
    exact (congrArg s.becomes (if_pos (beq_iff_eq.mpr ho))).trans (becomes_finishBol ..)
  · rw [give_flushed h hr hc hsb hat]
    exact (congrArg s.becomes (if_neg (mt beq_iff_eq.mp ho))).trans (becomes_finishBol ..)
  · have hnew : (m.thr t).waitsAnew := ⟨hwait, hended⟩
    have hop : exec (.wait t) s = s.becomes (m.waitBollard t c.toNat w) :=
      (issued_routine h hr).trans (congrArg s.becomes (waitOp_bollard (m := m) hds hnew hunit hc))
    refine ⟨fun ho => ?_, fun ho hne => ?_⟩
    · have herr : m.acquireErr t c.toNat = none := acquireErr_none (by simp [m, k, ho]) hmay
      rw [hop, waitBollard_free herr ho]
      exact becomes_takeFree ..
    · have herr : m.acquireErr t c.toNat = none := acquireErr_none (by simpa [m, k, ho] using hne) hmay
      exact ⟨_, hop.trans (congrArg s.becomes (waitBollard_owned hnew herr ho w)), joined_inherit (m := m) ho t w⟩
  · obtain ⟨hbol, ⟨p, hthreads, hself⟩, -, hmem, hregs⟩ := inherit_frame ho
    refine ⟨_, rfl, by rw [hbol], by rw [hbol]; exact ho, ?_, hmem, hregs⟩
    rw [hself]; exact hthreads

end Sys2Proof.Machine

/-!
PROOFS. Event waits, `scan` and aging (O25): a wait that its source ends or that parks, its timeout, the mask of a scan, and a quantum more.
-/
namespace Sys2Proof.Machine

/-! ## The event wait (R254) -/

section
variable {m : Mach} {t : Tid} {what : WaitFor}

theorem waitSource_pending {i : Nat} (h : m.awaited t what = some i) (tmo : Cell) :
    m.waitSource t what tmo = m.finishBol t 2 (status 0 i) := by
  unfold Mach.waitSource
  rw [h]

/-- A wait that names no source, or one that is aimed at the thread. -/
def Mach.awaitable (m : Mach) (t : Tid) (what : WaitFor) : Prop := ∀ i, what = .source i → m.aimed t i.toNat = true

theorem waitSource_parks (hnew : (m.thr t).waitsAnew) (h : m.awaited t what = none) (haim : m.awaitable t what) (tmo : Cell) :
    m.waitSource t what tmo =
      (m.updThr t fun x => { x with wait := some ⟨what, m.waitUntil tmo, (m.thr t).p, (m.thr t).fdepth, none⟩ }).park t .wait := by
  unfold Mach.waitSource
  rw [h]
  dsimp only
  rw [queueWait_anew hnew]
  refine if_neg ?_
  cases what with
  | bollard b => exact Bool.false_ne_true
  | source i => simp [haim i rfl]
  | anySource => exact Bool.false_ne_true

end

/-- A thread that issues parks nowhere, so that EVENT_WAIT is its instruction (R254). -/
theorem eventWait_issues {s : State} {t : Tid} (h : Issues s t (dEff 2 1)) (hr : Runs s t 0x300) :
    exec (.eventWait t) s = s.becomes ((s.m.chosen t).waitOp t) := by
  have hpark : (s.m.thr t).park ≠ .wait := by obtain ⟨⟨-, -, -, -, -, hp⟩, -⟩ := h; simp [hp]
  show execEventWait t s = _
  rw [execEventWait, onThread_of_ok h.1.1, if_neg hpark, ← onThread_of_ok h.1.1 (f := fun m => m.issue t _ _)]
  exact issued_routine h hr

theorem eventWaitTimeout_of_due {s : State} {t : Tid} {u : BitVec 64} {pc : BitVec 21} {d : BitVec 4} (hok : Tid.ok t = true)
    (hwait : (s.m.thr t).wait = some ⟨.anySource, some u, pc, d, none⟩) (hdue : u.toNat ≤ s.m.now) (hbest : s.m.bestSource t = none) :
    exec (.eventWaitTimeout t) s = s.becomes (s.m.waitOutcome t 0x2C000) := by
  have hpast : s.m.past u.toNat 0 = true := decide_eq_true hdue
  show execEventWaitTimeout t s = _
  rw [execEventWaitTimeout, onThread_of_ok hok]
  simp only [hwait, hpast, Bool.not_true, Bool.false_eq_true, if_false, Mach.awaited, hbest]
  rfl

/-! ## `scan` (R201) -/

/-- A sum of distinct powers of two below 2 ^ n is below 2 ^ n. -/
theorem foldl_powers_lt (p : Nat → Bool) (n : Nat) : (List.range n).foldl (fun v i => v + if p i then 2 ^ i else 0) 0 < 2 ^ n := by
  induction n with
  | zero => exact Nat.one_pos
  | succ n ih =>
    rw [List.range_succ, List.foldl_append, List.foldl_cons, List.foldl_nil, pow_succ]
    split <;> omega

theorem scanMask_lt (m : Mach) (t : Tid) (c : Nat) : m.scanMask t c < 2 ^ 16 :=
  foldl_powers_lt (fun i => m.aimed t (16 * c + i) && m.pending (Tid.ctl t) (16 * c + i)) 16

/-- The first pending cell from a cell on in which a source aimed at the thread is pending. -/
def Mach.scanHit (m : Mach) (t : Tid) (first : Nat) : Option Nat := ((List.range 32).drop first).find? fun k => m.scanMask t k != 0

/-- The mask that `scan` pushes: that of the cell it finds, zero where it finds none. -/
def Mach.hitMask (m : Mach) (t : Tid) (hit : Option Nat) : Nat := if hit.isSome then m.scanMask t (hit.getD 32) else 0

theorem hitMask_beq_zero (m : Mach) (t : Tid) (hit : Option Nat) :
    (m.hitMask t hit == 0) = (BitVec.ofNat 18 (m.hitMask t hit) == 0) := by
  have hlt : m.hitMask t hit < 2 ^ 18 := by
    unfold Mach.hitMask
    split
    · exact (scanMask_lt ..).trans (by decide)
    · decide
  rw [Bool.eq_iff_iff, beq_iff_eq, beq_iff_eq, ← BitVec.toNat_inj, BitVec.toNat_ofNat, Nat.mod_eq_of_lt hlt]
  rfl

/-- A bank in which `scan` has replaced its cell by the number of the cell it found and its mask, Z where the mask is zero. -/
def Mach.scanned (m : Mach) (t : Tid) (b : Bank) : Bank :=
  let hit := m.scanHit t (fld (b.at_ 0) 4 0)
  let mask := m.hitMask t hit
  { b with
    ds := BitVec.ofNat 18 mask :: BitVec.ofNat 18 (hit.getD 32) :: b.ds.drop 1, flg := setBit b.flg 3 (mask == 0) }

theorem scan_issues {s : State} {t : Tid} (h : Issues s t (dEff 1 2)) :
    exec (.scan t) s = ends s t ((s.m.thr t).setBank (s.m.scanned t (s.m.thr t).bank)) 1 := by
  rw [← onBank_ends h, onThread_of_ok h.1.1]
  show execScan t s = _
  rw [execScan, onThread_of_ok h.1.1]
  rfl

/-! ## The statement -/

/-- Settles O25: the event wait by whether its source is pending now, its timeout, `scan` by the cell it finds, and the items that age. -/
theorem waitsAndAging : Obligations.WaitsAndAging := by
  unfold Obligations.WaitsAndAging
  intro s t c w r i p j u pc d x m what hit mask
  refine ⟨fun hds h hr hwait hended hunit hev => ?_, eventWaitTimeout_of_due, fun hds h => ?_, rfl,
    fun hok hage => ?_, fun hok hact => ?_⟩
  · have hnew : (m.thr t).waitsAnew := ⟨hwait, hended⟩
    have hwhat : (if bit c 16 then WaitFor.anySource else .source (c.setWidth 9)) = what := by rw [← BitVec.ofNat_toNat]
    have hop : m.waitOp t = m.waitSource t what w := by rw [waitOp_event (m := m) hds hnew hunit hev, hwhat]
    rw [eventWait_issues h hr]
    refine ⟨fun hnow => ?_, fun hnone haim => ?_⟩
    · refine (congrArg s.becomes (hop.trans (waitSource_pending (m := m) hnow w))).trans ((becomes_finishBol ..).trans ?_)
      rw [status, Nat.zero_mul, Nat.zero_add]
    · refine congrArg s.becomes (hop.trans (waitSource_parks hnew hnone ?_ w))
      intro k hk
      by_cases hany : bit c 16 = true
      · simp [what, hany] at hk
      · rw [← haim.resolve_left hany]
        simp only [what, if_neg hany, WaitFor.source.injEq] at hk
        rw [← hk, BitVec.toNat_ofNat]
        rfl
  · have hmask : s.m.hitMask t hit = mask := by cases hhit : hit <;> simp [Mach.hitMask, mask, hhit]
    have hfirst : fld c 4 0 = c.toNat % 32 := fld_bottom c 4
    rw [scan_issues h, Mach.scanned, at_zero_of_cons hds, hfirst, hds, hitMask_beq_zero, ← hmask]
    rfl
  · exact congrArg s.becomes (if_pos ((Bool.and_eq_true ..).mpr ⟨hok, hage⟩))
  · exact congrArg s.becomes (if_pos ((Bool.and_eq_true ..).mpr ⟨hok, hact⟩))

end Sys2Proof.Machine

/-!
PROOFS. The block right after PORST_N (O4, R144, R367, R401): what the empty maps of the reset state read as.
-/
namespace Sys2Proof.Machine

/-! ## What nothing listed reads as -/

/-- D0 is the one domain that the reset state lists (R367). -/
theorem reset_power {d : Nat} (h : d ≠ 0) : Mach.reset.power d = .off := if_neg h.symm

/-- The reset entry by the parts of the thread's ID (R401). -/
theorem resetEntry_of_tid (t : Tid) : resetEntry t.toNat = if Tid.tk t then BitVec.ofNat 21 (16 * Tid.num t) else 0 := by
  show (if Tid.lock t = 31 then BitVec.ofNat 21 (16 * Tid.num t) else 0) = _
  simp [Tid.tk]

/-! ## The statement -/

/-- Settles O4: no map of the reset state lists anything but D0's power, so each part reads as its own reset. -/
theorem resetState : Obligations.ResetState := by
  unfold Obligations.ResetState
  refine ⟨rfl, List.forall_mem_nil _, reset_wf, rfl, rfl, fun _ => reset_power, fun _ => rfl, fun _ => rfl, fun t => ?_,
    rfl, rfl, rfl, rfl, rfl⟩
  have hhelm : bit (0x20000 : Cell) 17 = true := by decide
  exact ⟨rfl, rfl, rfl, hhelm, rfl, rfl, resetEntry_of_tid t⟩

end Sys2Proof.Machine

/-!
PROOFS. The thread reset (O5, R144, R262): what is left of the thread, and the write of EVT_TFLT that makes it.
-/
namespace Sys2Proof.Machine

/-! ## Threads that an operation leaves alone -/

@[simp] theorem edge_threads (m : Mach) (u s : Nat) (old : Bool) : (m.edge u s old).threads = m.threads := by
  rw [Mach.edge, apply_ite Mach.threads]
  exact ite_self _

/-- The edges that an operation makes on lines change no thread. -/
@[simp] theorem withLines_thr (m : Mach) (us : List (Nat × Nat)) (f : Mach → Mach) (t : Tid) : (m.withLines us f).thr t = (f m).thr t :=
  foldl_keeps (Mach.thr · t) _ _ _ fun n _ _ => congrArg (mget _ · _) (edge_threads n ..)

theorem flushPred_thr_self (m : Mach) (t : Tid) : (m.flushPred t).thr t = { m.thr t with hist := 0 } := by
  rw [Mach.flushPred, Mach.updThr_thr_self, Mach.updCore_thr_of]

/-! ## The reset (R144, R262) -/

/-- A thread that `resetTo` has reset keeps that state but for its image slot. -/
theorem setThr_resetTo_thr_self (m : Mach) (t : Tid) (entry : BitVec 21) :
    ∃ b : Bool, (((m.setThr t ((m.thr t).resetTo entry)).flushPred t).takeSlot t).thr t = { (m.thr t).resetTo entry with slot := b } := by
  obtain ⟨b, hb⟩ := takeSlot_thr_self ((m.setThr t ((m.thr t).resetTo entry)).flushPred t) t
  rw [hb, flushPred_thr_self, Mach.setThr_thr_self]
  exact ⟨b, rfl⟩

theorem threadRst_thr_self (m : Mach) (t : Tid) :
    ∃ (x : Thread) (b : Bool), (m.threadRst t).thr t = { x.resetTo (resetEntry t.toNat) with slot := b } := by
  rw [Mach.threadRst, withLines_thr]
  exact ⟨_, setThr_resetTo_thr_self _ t _⟩

/-- RST written to EVT_TFLT resets the thread that the index names (R262, R270). -/
theorem threadReset_takes {s : State} {who : Master} {c : Ctl} {i : BitVec 7} (h : Takes s who ⟨.evtTflt, Ctl.unit c, evtIdx c i⟩) :
    exec (.threadReset who c i) s = s.becomes (s.m.threadRst (s.m.ctlTid (Ctl.unit c) (evtIdx c i))) := by
  refine (rowWrite_stores h (by decide) (by decide)).trans ?_
  have habs : Reg.evtTflt.info.space ≠ .abs := by decide
  have hrst : bit (0x10000 : Cell) 16 = true := by decide
  rw [regStore_lock habs]
  show s.becomes (s.m.tfltWrite (Ctl.unit c) (evtIdx c i) 0x10000) = _
  rw [Mach.tfltWrite, if_pos hrst]

/-! ## The statement -/

/-- Settles O5: every field that the statement names is one that `resetTo` sets. -/
theorem threadResetEitherWay : Obligations.ThreadReset := by
  unfold Obligations.ThreadReset
  intro s t who c i w a m x
  obtain ⟨y, b, hx⟩ := threadRst_thr_self m t
  have hx : x = { y.resetTo (resetEntry t.toNat) with slot := b } := hx
  rw [hx]
  exact ⟨rfl, rfl, rfl, rfl, rfl, rfl, rfl, rfl, rfl, rfl, rfl, rfl, rfl, rfl, rfl, rfl, rfl, rfl, rfl, threadReset_takes⟩

end Sys2Proof.Machine

/-!
PROOFS. The end of an instruction (O20, R162 to R168, R243, R458): the thread that ends it, and what of the block it touches.
-/
namespace Sys2Proof.Machine

/-! ## The top return entries that F reads (R232) -/

/-- A thread with the return entries of its last two instructions replaced. -/
def Thread.withTops (x : Thread) (ts : List CAddr) : Thread := { x with tops := ts }

theorem Thread.withTops_setBank (x : Thread) (ts : List CAddr) (b : Bank) : (x.withTops ts).setBank b = (x.setBank b).withTops ts := by
  unfold Thread.setBank Thread.withTops
  split <;> rfl

theorem Load.land_withTops (l : Load) (v : Dbl) (x : Thread) (ts : List CAddr) : l.land v (x.withTops ts) = (l.land v x).withTops ts := by
  unfold Load.land Thread.setBankOf Thread.bankOf Thread.withTops
  cases l.fast <;> rfl

theorem Thread.withTops_ageLoads (x : Thread) (ts : List CAddr) : (x.withTops ts).ageLoads = x.ageLoads.withTops ts := by
  refine List.foldl_hom (Thread.withTops · ts) (init := { x with loads := [] }) fun y l => ?_
  split
  · rfl
  · split
    · split
      · exact Load.land_withTops ..
      · rfl
    · rfl

theorem Thread.withTops_applyMode (x : Thread) (ts : List CAddr) (c : ModeChg) :
    (x.withTops ts).applyMode c = (x.applyMode c).withTops ts := by
  cases c with
  | flg mask v => exact Thread.withTops_setBank ..
  | bank v => exact Thread.withTops_setBank { x with fastOn := bit v 15 } ..
  | lvl v => rfl
  | u v => rfl
  | mf v => rfl

theorem Thread.withTops_ageModes (x : Thread) (ts : List CAddr) : (x.withTops ts).ageModes = x.ageModes.withTops ts := by
  refine List.foldl_hom (Thread.withTops · ts) (init := { x with modes := [] }) fun y c => ?_
  split
  · exact Thread.withTops_applyMode ..
  · rfl

theorem Thread.withTops_retire (x : Thread) (ts : List CAddr) (len : Nat) : (x.withTops ts).retire len = (x.retire len).withTops ts := by
  unfold Thread.retire
  rw [← Thread.withTops_ageModes, ← Thread.withTops_ageLoads]
  rfl

theorem Thread.withTops_stepEnd (x : Thread) (ts : List CAddr) : (x.withTops ts).stepEnd = x.stepEnd.withTops ts := by
  unfold Thread.stepEnd
  rw [apply_ite (Thread.withTops · ts)]
  rfl

/-! ## The thread at the end -/

/-- The thread as the end of an instruction leaves it, before its class is taken again and its history is flushed. -/
def Mach.endThread (m : Mach) (t : Tid) (x : Thread) (len : Nat) : Thread := ((x.topWas (m.thr t)).retire len).stepEnd.waits

theorem retire_eq (m : Mach) (t : Tid) (x : Thread) (len : Nat) :
    m.retire t x len = (m.setThrH t (m.endThread t x len)).coreCount (Tid.coreNo t) 0 1 := rfl

theorem endThread_eq (m : Mach) (t : Tid) (x : Thread) (len : Nat) :
    m.endThread t x len = ((x.retire len).stepEnd.withTops (((m.thr t).bank.rs.getD 0 0 :: (m.thr t).tops).take 2)).waits := by
  rw [← Thread.withTops_stepEnd, ← Thread.withTops_retire]
  rfl

theorem endThread_helm (m : Mach) (t : Tid) (x : Thread) (len : Nat) : (m.endThread t x len).helm = (x.retire len).stepEnd.helm := by
  rw [endThread_eq]
  rfl

theorem Thread.retire_of_settled {x : Thread} (hl : x.loads = []) (hm : x.modes = []) (len : Nat) :
    x.retire len = { x with p := x.p + BitVec.ofNat 21 len } :=
  Thread.age_of_settled (x := { x with p := x.p + BitVec.ofNat 21 len }) hl hm

theorem Thread.stepEnd_of_running {x : Thread} (h : x.stepping = false) : x.stepEnd = x := if_neg (by simp [h])

/-- With nothing outstanding and no single step P alone advances. -/
theorem endThread_of_settled (m : Mach) (t : Tid) {x : Thread} (len : Nat) (hl : x.loads = []) (hm : x.modes = [])
    (hs : x.stepping = false) :
    m.endThread t x len =
      { x with p := x.p + BitVec.ofNat 21 len, waited := 0, tops := ((m.thr t).bank.rs.getD 0 0 :: (m.thr t).tops).take 2 } := by
  have hret := Thread.retire_of_settled hl hm len
  have hstep : (x.retire len).stepping = false := by rw [hret]; exact hs
  rw [endThread_eq, Thread.stepEnd_of_running hstep, hret]
  rfl

/-! ## A thread replaced (R233) -/

theorem setThrH_of_helm {m : Mach} {t : Tid} {x : Thread} (h : x.helm = (m.thr t).helm) :
    m.setThrH t x = m.setThr t (m.newMf (m.thr t) x) := if_pos h.symm

theorem setThrH_of_change {m : Mach} {t : Tid} {x : Thread} (h : x.helm ≠ (m.thr t).helm) :
    m.setThrH t x = (m.setThr t (m.newMf (m.thr t) x)).flushPred t := if_neg h.symm

theorem newMf_of_same {m : Mach} {old x : Thread} (h : x.mf = old.mf) : m.newMf old x = x := if_pos h

/-- A thread replaced changes threads, and the cores where privilege changes. -/
theorem setThrH_changes (m : Mach) (t : Tid) (x : Thread) :
    m.setThrH t x = { m with threads := (m.setThrH t x).threads, cores := (m.setThrH t x).cores } := by
  by_cases h : x.helm = (m.thr t).helm
  · rw [setThrH_of_helm h]; rfl
  · rw [setThrH_of_change h]; rfl

theorem setThrH_core_ne (m : Mach) {t : Tid} (x : Thread) {k : Nat} (hk : k ≠ Tid.coreNo t) : (m.setThrH t x).core k = m.core k := by
  by_cases h : x.helm = (m.thr t).helm
  · rw [setThrH_of_helm h]; rfl
  · rw [setThrH_of_change h, Mach.flushPred, Mach.updThr_core_of, Mach.updCore_core_ne _ _ hk]; rfl

/-- A count of a core changes counters alone. -/
theorem coreCount_changes (m : Mach) (k n by_ : Nat) : m.coreCount k n by_ = { m with counts := (m.coreCount k n by_).counts } := by
  unfold Mach.coreCount
  split <;> rfl

/-! ## The statement -/

/-- Settles O20: the end of an instruction replaces its thread and counts it. -/
theorem retireFrame : Obligations.RetireFrame := by
  unfold Obligations.RetireFrame
  intro m t u x len n
  have hn : n = (m.setThrH t (m.endThread t x len)).coreCount (Tid.coreNo t) 0 1 := retire_eq ..
  refine ⟨?_, fun hu => ?_, fun k hk => ?_, fun hh => ?_, fun hmf hl hm hs hh => ?_⟩
  · rw [hn, coreCount_changes, setThrH_changes]
  · obtain ⟨-, -, -, hthr⟩ := setThrH_frame m t (m.endThread t x len)
    rw [hn, Mach.coreCount_thr_of]
    exact hthr u hu
  · rw [hn, Mach.coreCount_core_of]
    exact setThrH_core_ne _ _ hk
  · rw [hn, Mach.coreCount_cores, setThrH_of_helm (endThread_helm .. |>.trans hh)]
    rfl
  · have hend := endThread_of_settled m t len hl hm hs
    have hhelm : (m.endThread t x len).helm = (m.thr t).helm := by rw [hend]; exact hh
    have hsame : (m.endThread t x len).mf = (m.thr t).mf := by rw [hend]; exact hmf
    rw [hn, Mach.coreCount_thr_of, setThrH_of_helm hhelm, newMf_of_same hsame, Mach.setThr_thr_self, hend]

end Sys2Proof.Machine

/-!
PROOFS. The address registers (O12, R145, R191): a double's two cells, an address plus a signed cell, and the ten moves.
-/
namespace Sys2Proof.Machine

/-! ## Doubles and addresses -/

theorem mkDbl_hi_lo (d : Dbl) : mkDbl (Dbl.hi d) (Dbl.lo d) = d := by
  refine BitVec.eq_of_getLsbD_eq fun i hi => ?_
  rw [mkDbl, BitVec.getLsbD_append]
  by_cases h : i < 18
  · simp [h, Dbl.lo]
  · have hsub : i - 18 < 18 := by omega
    simp [h, hsub, Dbl.hi, Nat.add_sub_cancel' (Nat.le_of_not_lt h)]

/-- A double n cells down the stack is the value of its two cells (R183). -/
theorem dblAt_of_drop {b : Bank} {n : Nat} {d : Dbl} {r : List Cell} (h : b.ds.drop n = topD d r) : b.dblAt n = d := by
  have hcell (i : Nat) : b.at_ (n + i) = (topD d r).getD i 0 := by rw [← h, Bank.at_]; simp [List.getD]
  rw [Bank.dblAt, hcell 1, ← Nat.add_zero n, hcell 0]
  exact mkDbl_hi_lo d

/-- An address plus a sign-extended cell is their sum modulo 2^28 (R145). -/
theorem addrPlus_eq_ofInt (a : DAddr) (v : Cell) : addrPlus a v = BitVec.ofInt 28 (a.toNat + v.toInt) := by
  rw [BitVec.ofInt_add, BitVec.ofInt_natCast, BitVec.ofNat_toNat, BitVec.setWidth_eq]
  rfl

/-! ## The statement -/

/-- Settles O12: each instruction changes the active bank alone, as the double or the cell it finds says. -/
theorem addressRegisters : Obligations.AddressRegisters := by
  unfold Obligations.AddressRegisters
  intro s t v d r x b plus
  refine ⟨fun hds h => ?_, fun h => ?_, fun hds h => ?_, fun h => ?_⟩
  · have hd : b.dblAt 0 = d := dblAt_of_drop (n := 0) hds
    have hr : b.ds.drop 2 = r := congrArg (List.drop 2) hds
    rw [← hd, ← hr, BitVec.ofNat_toNat]
    exact ⟨onBank_ends h, onBank_ends h⟩
  · rw [BitVec.ofNat_toNat, BitVec.ofNat_toNat]
    exact ⟨onBank_ends h, onBank_ends h⟩
  · have hv : b.at_ 0 = v := at_zero_of_cons hds
    have hr : b.ds.drop 1 = r := congrArg (List.drop 1) hds
    have hplus (a : DAddr) : plus a = addrPlus a (b.at_ 0) := by rw [hv, addrPlus_eq_ofInt]
    rw [hplus, hplus, ← hr]
    exact ⟨onBank_ends h, onBank_ends h⟩
  · exact ⟨plain_ends h, plain_ends h, onBank_ends h, plain_ends h⟩

end Sys2Proof.Machine

/-!
PROOFS. The control registers (O19, R149, R166): the registers read, which writes deck may not make, and what a write of FLG leaves.
-/
namespace Sys2Proof.Machine

/-! ## A thread's data stack and flags replaced -/

theorem Thread.withDs_flg (x : Thread) (ds : List Cell) : (x.withDs ds).flg = x.flg := by
  rw [Thread.flg, Thread.withDs, Thread.setBank_bank]
  rfl

theorem Thread.withDs_modes (x : Thread) (ds : List Cell) : (x.withDs ds).modes = x.modes := by
  rw [Thread.withDs, Thread.setBank, apply_ite Thread.modes]
  exact ite_self _

theorem Thread.withDsFlg_modes (x : Thread) (ds : List Cell) (f : Cell) : (x.withDsFlg ds f).modes = x.modes := by
  rw [Thread.withDsFlg, Thread.setBank, apply_ite Thread.modes]
  exact ite_self _

theorem Thread.withDs_setFlg (x : Thread) (ds : List Cell) (f : Cell) : (x.withDs ds).setFlg f = x.withDsFlg ds f := by
  rw [Thread.setFlg, Thread.withDs, Thread.setBank_bank, Thread.setBank_setBank]
  rfl

/-! ## The bits of FLG that a write changes (R147, R166) -/

/-- The mode bits that differ between FLG and what is written to it. -/
def modeBits (v f : Cell) : Cell := (v ^^^ f) &&& 0x3C000

theorem modeBits_flgMask (v f : Cell) : modeBits (v &&& flgMask) f = modeBits v f := by
  have hmask : flgMask &&& 0x3C000 = 0x3C000 := by decide
  have hdist (a : Cell) : (a ^^^ f) &&& 0x3C000 = (a &&& 0x3C000) ^^^ (f &&& 0x3C000) := by
    refine BitVec.eq_of_getLsbD_eq fun i _ => ?_
    simp [Bool.and_xor_distrib_right]
  rw [modeBits, modeBits, hdist, hdist, BitVec.and_assoc, hmask]

/-- The condition flags lie within the bits that FLG has. -/
theorem blend_flgMask (f v : Cell) : blend f 0x1F (v &&& flgMask) = blend f 0x1F v := by
  have hmask : flgMask &&& 0x1F = 0x1F := by decide
  rw [blend, blend, BitVec.and_assoc, hmask]

theorem pendingModes_of_none {x : Thread} (h : x.modes = []) : x.pendingModes = 0 := by rw [Thread.pendingModes, h]; rfl

section
variable {x : Thread} {v : Cell} (h : x.modes = [])
include h

theorem writeFlg_of_settled : x.writeFlg v =
    if modeBits v x.flg = 0 then x.setFlg (blend x.flg 0x1F v)
    else if bit (modeBits v x.flg) 15 then (x.setFlg (blend x.flg 0x1F v)).addMode (.bank (v &&& flgMask))
    else (x.setFlg (blend x.flg 0x1F v)).addMode (.flg (modeBits v x.flg) (v &&& flgMask)) := by
  have hmask : (((v &&& flgMask) ^^^ x.flg) &&& modeMask) ||| x.pendingModes = modeBits v x.flg := by
    rw [pendingModes_of_none h]
    exact BitVec.or_zero.trans (modeBits_flgMask v x.flg)
  rw [Thread.writeFlg]
  simp only [hmask, blend_flgMask]

end

/-! ## Reads and refusals (R149) -/

/-- The readable control registers in the order of their numbers. -/
def Mach.ctlRegs (m : Mach) (t : Tid) : List Dbl :=
  let x := m.thr t
  [BitVec.ofNat 36 x.flg.toNat, BitVec.ofNat 36 x.lvl.toNat, BitVec.ofNat 36 x.u.toNat, BitVec.ofNat 36 x.mf.toNat,
    BitVec.ofNat 36 (x.bank.rs.length * 32 + x.bank.ds.length), BitVec.ofNat 36 (m.ltid t), BitVec.ofNat 36 (m.refOf t).toNat]

theorem readCtl_eq_getD (m : Mach) (t : Tid) (n : Nat) : m.readCtl t n = (m.ctlRegs t).getD n 0 := by
  simp only [Mach.readCtl, Mach.ctlRegs, BitVec.ofNat_toNat]
  match n with
  | 0 | 1 | 2 | 3 | 4 | 5 | 6 | _ + 7 => rfl

theorem ctlDenied_iff (x : Thread) (n : Nat) (v : Dbl) :
    x.ctlDenied n v = true ↔ x.helm = false ∧ (n = 1 ∨ n = 2 ∨ n = 3 ∨ (n = 0 ∧ modeBits (Dbl.lo v) x.flg ≠ 0)) := by
  simp [Thread.ctlDenied, modeBits, modeMask, or_assoc]

theorem writeCtl_without_register (x : Thread) {n : Nat} (h : 4 ≤ n) (v : Dbl) : x.writeCtl n v = x := by
  match n with
  | _ + 4 => rfl

/-! ## The two instructions -/

section
variable {s : State} {t : Tid} {c : Cell} {r : List Cell}

theorem ctlFrom_issues (hds : (s.m.thr t).bank.ds = c :: r) (h : Issues s t (dEff 1 2)) :
    exec (.ctlFrom t) s = ends s t ((s.m.thr t).withDs (topD (s.m.readCtl t (c.toNat % 16)) r)) 1 := by
  have hr : (s.m.thr t).bank.ds.drop 1 = r := congrArg (List.drop 1) hds
  have hn : c.toNat % 16 = fld c 3 0 := (fld_bottom c 3).symm
  rw [hn, ← hr, ← at_zero_of_cons hds]
  exact issue_ends h

variable {v : Dbl} (hds : (s.m.thr t).bank.ds = c :: topD v r) (h : Issues s t (dEff 3 0))
include hds h

theorem toCtl_issues : exec (.toCtl t) s = s.becomes
    (if (s.m.thr t).ctlDenied (c.toNat % 16) v then (s.m.chosen t).privTrap t 0x070
     else (s.m.chosen t).retire t (((s.m.thr t).withDs r).writeCtl (c.toNat % 16) v) 1) := by
  have hr : (s.m.thr t).bank.ds.drop 3 = r := congrArg (List.drop 3) hds
  have hv : (s.m.thr t).bank.dblAt 1 = v := dblAt_of_drop (r := r) (congrArg (List.drop 1) hds)
  have hn : c.toNat % 16 = fld c 3 0 := (fld_bottom c 3).symm
  rw [hn, ← hr, ← hv, ← at_zero_of_cons hds]
  exact issue_ends h

theorem toCtl_denied (hd : (s.m.thr t).ctlDenied (c.toNat % 16) v = true) :
    exec (.toCtl t) s = s.becomes ((s.m.chosen t).privTrap t 0x070) := by rw [toCtl_issues hds h, if_pos hd]

theorem toCtl_allowed (hd : ¬ (s.m.thr t).ctlDenied (c.toNat % 16) v = true) :
    exec (.toCtl t) s = ends s t (((s.m.thr t).withDs r).writeCtl (c.toNat % 16) v) 1 := by
  rw [toCtl_issues hds h, if_neg hd]
  rfl

end

/-! ## The statement -/

/-- Settles O19: a write is denied or it is `writeCtl`, and each number's case of that is one clause. -/
theorem controlRegisters : Obligations.ControlRegisters := by
  unfold Obligations.ControlRegisters
  intro s t c v r x n regs chg y mode
  refine ⟨fun hds h => ?_, fun hds h => ?_⟩
  · rw [ctlFrom_issues hds h, readCtl_eq_getD]
    rfl
  have hallow (hd : x.helm = true ∨ (n ≠ 1 ∧ n ≠ 2 ∧ n ≠ 3 ∧ (n = 0 → mode = 0))) :
      exec (.toCtl t) s = ends s t (y.writeCtl n v) 1 := by
    refine toCtl_allowed hds h fun hc => ?_
    obtain ⟨hdeck, hn⟩ := (ctlDenied_iff ..).mp hc
    obtain hhelm | ⟨h1, h2, h3, h0⟩ := hd
    · exact Bool.false_ne_true (hdeck.symm.trans hhelm)
    · obtain e | e | e | ⟨e, hmode⟩ := hn
      · exact h1 e
      · exact h2 e
      · exact h3 e
      · exact hmode (h0 e)
  have hflg (hm : x.modes = []) : y.writeCtl 0 v =
      if mode = 0 then x.withDsFlg r (blend x.flg 0x1F (Dbl.lo v))
      else if bit mode 15 then (x.withDsFlg r (blend x.flg 0x1F (Dbl.lo v))).addMode (.bank (Dbl.lo v &&& flgMask))
      else (x.withDsFlg r (blend x.flg 0x1F (Dbl.lo v))).addMode (.flg mode (Dbl.lo v &&& flgMask)) := by
    refine (writeFlg_of_settled ((x.withDs_modes r).trans hm)).trans ?_
    rw [Thread.withDs_setFlg, Thread.withDs_flg]
    rfl
  have hadd (z : Thread) (hz : z.modes = x.modes) (g : ModeChg) : ends s t (z.addMode g) 1 = chg z g := by
    rw [Thread.addMode, hz]
  refine ⟨fun hn hm hmode => ?_, fun hn hm hmode hbank hhelm => ?_, fun hn hm hbank hhelm => ?_,
    fun hhelm => ?_, fun hn => ?_, hallow, fun hdeck hn => ?_⟩
  · rw [hallow (.inr ⟨by omega, by omega, by omega, fun _ => hmode⟩), hn, hflg hm, if_pos hmode]
  · rw [hallow (.inl hhelm), hn, hflg hm, if_neg hmode, if_neg (by simp [hbank])]
    exact hadd _ (Thread.withDsFlg_modes ..) _
  · have hmode : mode ≠ 0 := fun e => by rw [e] at hbank; exact absurd hbank (by decide)
    rw [hallow (.inl hhelm), hn, hflg hm, if_neg hmode, if_pos hbank]
    exact hadd _ (Thread.withDsFlg_modes ..) _
  · refine ⟨fun hn => ?_, fun hn => ?_, fun hn => ?_⟩ <;>
      (rw [hallow (.inl hhelm), hn, BitVec.ofNat_toNat]; exact hadd y (Thread.withDs_modes ..) _)
  · rw [hallow (.inr ⟨by omega, by omega, by omega, by omega⟩), writeCtl_without_register y hn]
  · exact toCtl_denied hds h ((ctlDenied_iff ..).mpr ⟨hdeck, hn⟩)

end Sys2Proof.Machine

/-!
PROOFS. Traps and the return from them (O17, R161, R182, R197, R258, R259, R459): what a thread's stores leave of it, entry of a thread
that issues, the halt of `brk`, and `eret`.
-/
namespace Sys2Proof.Machine

/-! ## What a thread's stores leave of it (R170, R174, R177) -/

/-- The same thread but for its reservation. -/
def Thread.ButResv (x y : Thread) : Prop := ∃ r, y = { x with resv := r }

theorem Thread.ButResv.refl (x : Thread) : x.ButResv x := ⟨x.resv, rfl⟩

theorem Thread.ButResv.trans {x y z : Thread} (h : x.ButResv y) (h' : y.ButResv z) : x.ButResv z := by
  obtain ⟨r, rfl⟩ := h
  obtain ⟨r', rfl⟩ := h'
  exact ⟨r', rfl⟩

theorem Thread.ButResv.sb {x y : Thread} (h : x.ButResv y) : y.sb = x.sb := by
  obtain ⟨r, rfl⟩ := h
  rfl

theorem resvBroken_key {g k : Nat} {but : Option Tid} {x : Thread} {e : Nat × Thread} (h : resvBroken g but (k, x) = some e) :
    e.1 = k := by
  unfold resvBroken at h
  split at h
  · split at h
    · cases h
    · cases h; rfl
  · cases h; rfl

/-- A thread that buffers stores is not as its reset left it, and stays listed when its reservation is broken. -/
theorem breakResv_butResv (m : Mach) (g : Nat) (but : Option Tid) {t : Tid} (h : (m.thr t).sb ≠ []) :
    (m.thr t).ButResv ((m.breakResv g but).thr t) := by
  refine mget_filterMap (f := resvBroken g but) (Q := fun x => x.sb ≠ []) (R := Thread.ButResv)
    (fun k x e => resvBroken_key) (fun x hx => ?_) (.refl _) m.threads h
  have hne : { x with resv := none } ≠ threadReset t.toNat := fun e => hx (congrArg Thread.sb e)
  by_cases hr : x.resv = some g ∧ but.map BitVec.toNat ≠ some t.toNat
  · exact ⟨{ x with resv := none }, (if_pos hr).trans (if_neg hne), none, rfl⟩
  · exact ⟨x, if_neg hr, .refl x⟩

/-- A nonet stored changes of a thread that buffers stores its reservation at most (R177). -/
theorem wr1_butResv {m : Mach} {t : Tid} (h : (m.thr t).sb ≠ []) (p : Place) (v : Nonet) (whole : Bool) (but : Option Tid) :
    (m.thr t).ButResv ((m.wr1 p v whole but).thr t) := by
  have hput (n : Mach) (k : Nat) : (n.putKey k v whole).thr t = n.thr t := by rw [Mach.thr, putKey_threads, Mach.thr]
  have hbasin (n : Mach) (l off g : Nat) (hn : (n.thr t).sb ≠ []) :
      (n.thr t).ButResv (((n.putBasin l off v whole).breakResv g but).thr t) := by
    have hthr : (n.putBasin l off v whole).thr t = n.thr t := by rw [Mach.thr, putBasin_threads, Mach.thr]
    rw [← hthr] at hn ⊢
    exact breakResv_butResv _ g but hn
  unfold Mach.wr1
  split
  · dsimp only
    split
    · rw [hput, hput]; exact .refl _
    · rw [hput]; exact .refl _
  · dsimp only
    rename_i l off
    have h1 := hbasin m l off (granule l off) h
    split
    · exact h1.trans (hbasin _ _ _ _ (by rw [h1.sb]; exact h))
    · exact h1
  · split
    · rw [hput]; exact .refl _
    · exact .refl _
  · exact .refl _

theorem foldl_butResv {α : Type} {f : Mach → α → Mach} {t : Tid} (l : List α) (m : Mach) (h : (m.thr t).sb ≠ [])
    (hf : ∀ (n : Mach) (e : α), (n.thr t).sb ≠ [] → (n.thr t).ButResv ((f n e).thr t)) :
    (m.thr t).ButResv ((l.foldl f m).thr t) := by
  induction l generalizing m with
  | nil => exact .refl _
  | cons e r ih =>
    have he := hf m e h
    exact he.trans (ih (f m e) (by rw [he.sb]; exact h))

theorem notePart_thr (m : Mach) (o : Option Tid) (a n : Nat) (t : Tid) : (m.notePart o a n).thr t = m.thr t := by
  have h : (m.notePart o a n).threads = m.threads := foldl_keeps Mach.threads _ _ m fun k i _ => by
    split
    · exact note1_threads ..
    · rfl
  rw [Mach.thr, h, Mach.thr]

/-- Stores of a thread change of it its reservation, and the values of loads that they would overtake (R170). -/
theorem storeMem_thr_self (m : Mach) {t : Tid} (e : SbEntry) (h : (m.thr t).sb ≠ []) :
    ∃ r ls, (m.storeMem t e).thr t = { m.thr t with resv := r, loads := ls } := by
  unfold Mach.storeMem
  split
  · exact ⟨_, _, rfl⟩
  · have hflit : (m.flitAs t e.addr.toNat e.pri e.waited).thr t = m.thr t := by
      unfold Mach.flitAs
      split <;> rfl
    rw [Mach.wrThr, Mach.loadsBefore]
    generalize hn : Mach.updThr _ t _ = n
    have hthr : ∃ ls, n.thr t = { m.thr t with loads := ls } := by
      rw [← hn, Mach.updThr_thr_self, hflit]
      exact ⟨_, rfl⟩
    obtain ⟨ls, hthr⟩ := hthr
    have hsb : ((n.notePart (some t) e.addr.toNat e.nonets.length).thr t).sb ≠ [] := by rw [notePart_thr, hthr]; exact h
    obtain ⟨r, hr⟩ := foldl_butResv e.nonets.zipIdx _ hsb (f := fun m x =>
      m.wr1 (m.place (some t) (e.addr.toNat + x.2)) x.1 (wholeWord e.addr.toNat e.nonets.length (e.addr.toNat + x.2)) none)
      fun k x hk => wr1_butResv hk ..
    rw [notePart_thr, hthr] at hr
    exact ⟨r, ls, hr⟩

theorem foldl_storeMem_thr_self (l : List SbEntry) (m : Mach) {t : Tid} (h : l = [] ∨ (m.thr t).sb ≠ []) :
    ∃ r ls, (l.foldl (fun m e => m.storeMem t e) m).thr t = { m.thr t with resv := r, loads := ls } := by
  induction l generalizing m with
  | nil => exact ⟨_, _, rfl⟩
  | cons e es ih =>
    have hsb := h.resolve_left (List.cons_ne_nil e es)
    obtain ⟨r, ls, he⟩ := storeMem_thr_self m e hsb
    obtain ⟨r', ls', hes⟩ := ih (m.storeMem t e) (.inr (by rw [he]; exact hsb))
    rw [he] at hes
    exact ⟨r', ls', hes⟩

/-- A thread whose stores are performed keeps all else but its reservation and the values of its loads. -/
theorem flushMem_thr_self (m : Mach) (t : Tid) :
    ∃ r ls sb, (m.flushMem t).thr t = { m.thr t with resv := r, loads := ls, sb := sb } := by
  have h : (m.thr t).sb.filter SbEntry.toMem = [] ∨ (m.thr t).sb ≠ [] := by
    by_cases hsb : (m.thr t).sb = []
    · exact .inl (by rw [hsb]; rfl)
    · exact .inr hsb
  obtain ⟨r, ls, hf⟩ := foldl_storeMem_thr_self _ m h
  rw [Mach.flushMem, Mach.updThr_thr_self, hf]
  exact ⟨r, ls, _, rfl⟩

/-! ## Entry of a thread that issues (R256, R259) -/

section
variable {s : State} {t : Tid}

/-- Where the context that entry takes is free, entry follows the landing of the loads (R165, R224). -/
theorem entering_of_enters (h : Enters s t) (f : Mach → Mach) : (s.m.chosen t).entering t f = (s.m.chosen t).settled t f := by
  obtain ⟨hctx, hbad⟩ := h
  rw [Mach.entering, Mach.chosen_ctxHeld, if_neg (by simp [hctx]), Mach.chosen_fetchBad, if_neg (by simp [hbad])]

/-- The block in which a chosen thread takes an entry of the kind trap, with P past `later` syllables. -/
def Mach.trapped (m : Mach) (t : Tid) (later type code addr info : Nat) : Mach :=
  m.settled t fun n => n.enter t .trap ((n.thr t).p + BitVec.ofNat 21 later) type code addr info

theorem trap_of_enters (h : Enters s t) (code info addr : Nat) :
    (s.m.chosen t).trap t code info addr = (s.m.chosen t).trapped t 0 1 code addr info := by
  rw [Mach.trap, entering_of_enters h, Mach.trapped]
  simp only [BitVec.add_zero]

theorem sysTrap_of_enters (h : Enters s t) (n : Nat) : (s.m.chosen t).sysTrap t n = (s.m.chosen t).trapped t 2 2 n 0 0 :=
  entering_of_enters h _

theorem brkTrap_of_enters (h : Enters s t) : (s.m.chosen t).brkTrap t = (s.m.chosen t).trapped t 0 3 0 0 0 := by
  rw [Mach.brkTrap, entering_of_enters h, Mach.trapped]
  simp only [BitVec.add_zero]

theorem fetchCheck_of_selects (h : Selects s t) {len a : Nat} (ha : s.m.beyond t len = some a) :
    s.m.fetchCheck t len = (s.m.chosen t).fetchFault t (a % 0x200000) := by
  have hpark : (s.m.thr t).park = .none := by obtain ⟨-, -, -, -, -, hp⟩ := h; exact hp
  have hchosen : (s.m.chosen t).beyond t len = some a := ha
  rw [Mach.fetchCheck, if_neg (by rw [hpark]; exact Bool.false_ne_true), Mach.select_of_selects h, hchosen]

end

/-! ## `brk` that halts (R457, R459) -/

theorem applyMode_p (x : Thread) (c : ModeChg) : (x.applyMode c).p = x.p := by
  have hbank (y : Thread) (b : Bank) : (y.setBank b).p = y.p := by
    unfold Thread.setBank
    split <;> rfl
  cases c with
  | flg mask v => exact hbank ..
  | bank v => exact hbank ..
  | lvl v => rfl
  | u v => rfl
  | mf v => rfl

theorem applyModes_p (x : Thread) : x.applyModes.p = x.p := by
  have hfold (l : List PendMode) (y : Thread) : (l.foldl (fun y c => y.applyMode c.chg) y).p = y.p := by
    induction l generalizing y with
    | nil => rfl
    | cons c r ih => exact (ih _).trans (applyMode_p ..)
  exact hfold ..

theorem landAll_of_no_loads {x : Thread} (h : x.loads = []) : x.landAll = x := by
  have hself : { x with loads := [] } = x := by rw [← h]
  rw [Thread.landAll, h, hself]
  rfl

/-- Without loads outstanding there is nothing to land. -/
theorem settled_of_no_loads {m : Mach} {t : Tid} (h : (m.thr t).loads = []) (f : Mach → Mach) :
    m.settled t f = f (m.updThr t fun x => { x with loads := [] }) := by
  rw [Mach.settled, h]
  rfl

/-- A thread that halts at its instruction, its mode changes applied. -/
def Mach.haltsAt (m : Mach) (t : Tid) : Mach := (m.setThrH t (m.thr t).landAll.applyModes).haltThread t 3 false

theorem haltsAt_thr_self {m : Mach} {t : Tid} (h : (m.thr t).loads = []) :
    ((m.haltsAt t).thr t).halted = true ∧ ((m.haltsAt t).thr t).cause = 3 ∧ ((m.haltsAt t).thr t).p = (m.thr t).p := by
  obtain ⟨c, w, i, hx⟩ := setThrH_thr_self m t (m.thr t).landAll.applyModes
  rw [Mach.haltsAt, Mach.haltThread, Mach.updThr_thr_self, hx]
  refine ⟨rfl, rfl, ?_⟩
  exact (applyModes_p _).trans (congrArg Thread.p (landAll_of_no_loads h))

theorem haltsAt_frame (m : Mach) (t : Tid) :
    (m.haltsAt t).mem = m.mem ∧ (m.haltsAt t).regs = m.regs ∧ ∀ u, u ≠ t → (m.haltsAt t).thr u = m.thr u := by
  obtain ⟨hmem, hregs, -, hthr⟩ := setThrH_frame m t (m.thr t).landAll.applyModes
  exact ⟨hmem, hregs, fun u hu => (Mach.updThr_thr_ne _ _ hu).trans (hthr u hu)⟩

section
variable {s : State} {t : Tid}

theorem brk_traps (h : Issues s t (dEff 0 0)) (he : Enters s t) (hb : s.m.brkHalts = false) :
    exec (.brk t) s = s.becomes ((s.m.chosen t).trapped t 0 3 0 0 0) := by
  have hchosen : (s.m.chosen t).brkHalts = false := hb
  refine (issue_ends h).trans ?_
  rw [if_neg (by simp [hchosen]), brkTrap_of_enters he]
  rfl

theorem brk_halts (h : Issues s t (dEff 0 0)) (hb : s.m.brkHalts = true) (hl : (s.m.thr t).loads = []) :
    exec (.brk t) s = s.becomes (((s.m.chosen t).updThr t fun x => { x with loads := [] }).haltsAt t) := by
  have hchosen : (s.m.chosen t).brkHalts = true := hb
  refine (issue_ends h).trans ?_
  rw [if_pos hchosen, settled_of_no_loads (m := s.m.chosen t) hl]
  rfl

/-! ## `eret` (R258) -/

theorem eret_deck (h : Issues s t (dEff 0 0)) (hh : (s.m.thr t).helm = false) :
    exec (.eret t) s = s.becomes ((s.m.chosen t).privTrap t 0x1AD) := by
  refine (issue_ends h).trans ?_
  rw [Mach.chosen_thr, if_neg (by simp [hh])]
  rfl

theorem eret_helm (h : Issues s t (dEff 0 0)) (hh : (s.m.thr t).helm = true) (hr : Runs s t 0x040) :
    exec (.eret t) s = s.becomes ((s.m.chosen t).eretOp t) := by
  refine (issue_ends h).trans ?_
  rw [Mach.chosen_thr, if_pos hh, Mach.routine_of_chosen hr]
  rfl

end

/-- The cells of a thread's top frame, its own stores performed. -/
def Mach.topFrame (m : Mach) (t : Tid) : List Cell :=
  (m.flushMem t).rdCells t (frameAddr t ((m.thr t).fdepth.toNat - 1)) 48

/-- The thread that `eret` gives back from a frame without a suspended routine and without Tally state. -/
def Mach.returned (m : Mach) (t : Tid) : Thread :=
  { ((m.flushMem t).thr t).restore (m.topFrame t) with
    fdepth := (m.thr t).fdepth - 1, resv := none, shadow := none, shWords := [], tops := [] }

theorem eretOp_of_plain_frame {m : Mach} {t : Tid} (hf : (m.thr t).fdepth ≠ 0) (hy : bit ((m.topFrame t).getD 3 0) 17 = false)
    (hm : bit ((m.topFrame t).getD 3 0) 16 = false) :
    m.eretOp t = ((m.flushMem t).setThrH t (m.returned t).ageLoads.stepEnd.waits).coreCount (Tid.coreNo t) 0 1 := by
  have hdepth : ((m.flushMem t).thr t).fdepth = (m.thr t).fdepth := by
    obtain ⟨r, ls, sb, h⟩ := flushMem_thr_self m t
    rw [h]
  have hy' : ¬ bit ((m.topFrame t).getD 3 0) 17 = true := Bool.eq_false_iff.mp hy
  have hm' : ¬ bit ((m.topFrame t).getD 3 0) 16 = true := Bool.eq_false_iff.mp hm
  rw [Mach.topFrame] at hy' hm'
  unfold Mach.eretOp
  simp only [hf, hy', hm', Bool.false_and, Bool.false_eq_true, if_false, hdepth]
  rfl

/-! ## The statement -/

/-- Settles O17: each instruction comes to a trap or to a helper that the lemmas above speak of. -/
theorem trapsAndReturn : Obligations.TrapsAndReturn := by
  unfold Obligations.TrapsAndReturn
  intro s t code syl len a x m f d cs back traps
  refine ⟨fun h he => ⟨?_, brk_traps h he, fun hb hl => ?_, fun hh => ?_, fun hh hr hf hy hm => ?_⟩, fun h he ha => ?_,
    fun h he ha => ?_⟩
  · exact (issue_ends h).trans (congrArg s.becomes (sysTrap_of_enters he _))
  · refine ⟨_, brk_halts h hb hl, ?_⟩
    obtain ⟨hhalt, hcause, hp⟩ := haltsAt_thr_self (m := m.updThr t fun x => { x with loads := [] }) (t := t)
      (by rw [Mach.updThr_thr_self])
    obtain ⟨hmem, hregs, hthr⟩ := haltsAt_frame (m.updThr t fun x => { x with loads := [] }) t
    refine ⟨hhalt, hcause, hp.trans ?_, hmem, hregs, fun u hu => (hthr u hu).trans (Mach.updThr_thr_ne _ _ hu)⟩
    rw [Mach.updThr_thr_self]
    rfl
  · exact (eret_deck h hh).trans (congrArg s.becomes (trap_of_enters he ..))
  · exact (eret_helm h hh hr).trans (congrArg s.becomes (eretOp_of_plain_frame hf hy hm))
  · refine (select_ends h).trans (congrArg s.becomes ?_)
    rw [if_neg (by simp [ha])]
    exact trap_of_enters he ..
  · show onThread t s (fun m => m.fetchCheck t len.val) = s.becomes (m.trapped t 0 1 6 (a % 0x200000) 0)
    rw [onThread_of_ok h.1]
    refine congrArg s.becomes ?_
    rw [fetchCheck_of_selects h ha]
    exact trap_of_enters he ..

end Sys2Proof.Machine

/-!
PROOFS. Loads and stores (O13, R162 to R164, R192, R193, R238, R239): one lemma for each way that a load or a store may go, for every width
and either address register.
-/
namespace Sys2Proof.Machine

/-! ## How a load goes (R162, R239) -/

section
variable {s : State} {t : Tid} {op : Instr} {useB : Bool} {w : Width} {a : DAddr}

/-- A chosen thread's load where the access is allowed and fewer than four transactions are outstanding, by what the store buffer says. -/
def Mach.loadBegins (m : Mach) (t : Tid) (w : Width) (a : DAddr) : Mach :=
  match m.forward t a.toNat w.nonets with
  | .wait => (m.coreCount (Tid.coreNo t) 6 1).park t (.drain a w.nonets)
  | .value v => m.loadIssue t w a (some v) false
  | .memory => m.loadMem t w a

section
variable (hop : exec op s = onThread t s fun m => m.loadOp t useB w) (h : Issues s t (dEff 1 (if w = .double then 2 else 1)))
  (ha : (s.m.thr t).effAddr useB = a)
include hop h ha

theorem load_refused {r : Nat} (hf : s.m.accessFault t false w a.toNat = some r) :
    exec op s = s.becomes ((s.m.chosen t).dataFault t r false w a.toNat) := by
  subst ha
  have hf' : (s.m.chosen t).accessFault t false w ((s.m.thr t).effAddr useB).toNat = some r := hf
  refine (hop.trans (issue_ends h)).trans ?_
  simp only [Mach.chosen_thr, hf']
  rfl

theorem load_allowed (hf : s.m.accessFault t false w a.toNat = none) : exec op s = s.becomes
    (if 4 ≤ (s.m.thr t).txns then (s.m.chosen t).park t .retry else (s.m.chosen t).loadBegins t w a) := by
  subst ha
  have hf' : (s.m.chosen t).accessFault t false w ((s.m.thr t).effAddr useB).toNat = none := hf
  refine (hop.trans (issue_ends h)).trans ?_
  simp only [Mach.chosen_thr, hf']
  rfl

end

theorem park_thr_self (m : Mach) (t : Tid) (p : Park) : (m.park t p).thr t = { m.thr t with waited := 0, park := p } := by
  rw [Mach.park, Mach.coreCount_thr_of, Mach.stall, Mach.updThr_thr_self]
  rfl

theorem park_frame (m : Mach) (t : Tid) (p : Park) :
    (m.park t p).mem = m.mem ∧ (m.park t p).regs = m.regs ∧ ∀ u, u ≠ t → (m.park t p).thr u = m.thr u := by
  rw [Mach.park, Mach.coreCount_mem, Mach.coreCount_regs]
  exact ⟨rfl, rfl, fun u hu => by rw [Mach.coreCount_thr_of, Mach.stall, Mach.updThr_thr_ne _ _ hu]⟩

/-- A load that waits for stores parks where it stands (R239). -/
theorem parks_drain (m : Mach) (t : Tid) (a : DAddr) (n : Nat) :
    let m' := (m.coreCount (Tid.coreNo t) 6 1).park t (.drain a n)
    (m'.thr t).park = .drain a n ∧ (m'.thr t).p = (m.thr t).p ∧ (m'.thr t).bank = (m.thr t).bank ∧
    m'.mem = m.mem ∧ m'.regs = m.regs ∧
      ∀ u, u ≠ t → m'.thr u = m.thr u := by
  obtain ⟨hmem, hregs, hthr⟩ := park_frame (m.coreCount (Tid.coreNo t) 6 1) t (.drain a n)
  dsimp only
  rw [park_thr_self, hmem, hregs]
  simp only [Mach.coreCount_thr_of, Mach.coreCount_mem, Mach.coreCount_regs] at hthr ⊢
  exact ⟨trivial, trivial, rfl, trivial, trivial, hthr⟩

/-! ## A load that no buffered store serves (R157, R223, R359) -/

theorem loadMem_register {m : Mach} (hr : inRegs a.toNat = true) : m.loadMem t w a =
    ((m.flitTo t a.toNat).addrRead a.toNat (.thread t)).1.loadIssue t w a
      (some (((m.flitTo t a.toNat).addrRead a.toNat (.thread t)).2.setWidth 36)) false := if_pos hr

/-- The host window lies past the registers. -/
theorem inRegs_of_host {n : Nat} (h : 0xC000000 ≤ n) : inRegs n = false := by
  simp only [inRegs, Bool.and_eq_false_iff, decide_eq_false_iff_not]
  omega

theorem loadMem_host {m m' : Mach} (ha : 0xC000000 ≤ a.toNat)
    (hi : (m.flitTo t a.toNat).initiate (m.hostAddr a.toNat) (.load t) = (m', .sent)) :
    m.loadMem t w a = m'.loadIssue t w a none false := by
  unfold Mach.loadMem
  simp only [inRegs_of_host ha, Bool.false_eq_true, if_false, if_pos ha, hi]

section
variable {m : Mach} (hr : inRegs a.toNat = false) (hh : a.toNat < 0xC000000)
include hr hh

theorem loadMem_of_bad (hb : m.badN (some t) a.toNat w.nonets = true) : m.loadMem t w a = m.wordCheck t a.toNat w.nonets := by
  have hh' : ¬ 0xC000000 ≤ a.toNat := by omega
  unfold Mach.loadMem
  simp only [hr, hh', hb, Bool.false_eq_true, if_false, if_true]

theorem loadMem_of_good (hb : m.badN (some t) a.toNat w.nonets = false) : m.loadMem t w a =
    if (m.places t a.toNat w.nonets).all (ownStow t) then
      (m.noteN (some t) a.toNat w.nonets).loadIssue t w a (some (BitVec.ofNat 36 (pack (m.rdN (some t) a.toNat w.nonets)))) false
    else (m.flitTo t a.toNat).loadIssue t w a none false := by
  have hh' : ¬ 0xC000000 ≤ a.toNat := by omega
  unfold Mach.loadMem
  simp only [hr, hh', hb, Bool.false_eq_true, if_false]

end

end

/-! ## How a store goes (R172, R238) -/

/-- What a store takes of the stack: the address and its value. -/
def storeCells (w : Width) : Nat := if w = .double then 3 else 2

/-- The entry that a thread's store makes (R192, R238). -/
def Mach.storeEntry (m : Mach) (t : Tid) (w : Width) (a : DAddr) : SbEntry :=
  let x := m.thr t
  ⟨a, w, if w = .double then x.bank.dblAt 1 else BitVec.ofNat 36 (x.bank.at_ 1).toNat, x.helm, m.priOf t, 0⟩

/-- Buffered stores are transactions (R36). -/
theorem sb_length_le_txns (x : Thread) : x.sb.length ≤ x.txns := by
  unfold Thread.txns
  omega

section
variable {s : State} {t : Tid} {op : Instr} {useB : Bool} {w : Width} {a : DAddr}
  (hop : exec op s = onThread t s fun m => m.storeOp t useB w) (h : Issues s t (dEff (storeCells w) 0))
  (ha : (s.m.thr t).effAddr useB = a)
include hop h ha

theorem store_refused {r : Nat} (hf : s.m.accessFault t true w a.toNat = some r) :
    exec op s = s.becomes ((s.m.chosen t).dataFault t r true w a.toNat) := by
  subst ha
  have hf' : (s.m.chosen t).accessFault t true w ((s.m.thr t).effAddr useB).toNat = some r := hf
  refine (hop.trans (issue_ends h)).trans ?_
  simp only [Mach.chosen_thr, hf']
  rfl

section
variable (hf : s.m.accessFault t true w a.toNat = none)
include hf

theorem store_quiet (hh : 0xC000000 ≤ a.toNat) (hq : s.m.hostQuiet = true) :
    exec op s = s.becomes ((s.m.chosen t).dataFault t 5 true w a.toNat) := by
  subst ha
  have hf' : (s.m.chosen t).accessFault t true w ((s.m.thr t).effAddr useB).toNat = none := hf
  have hq' : (s.m.chosen t).hostQuiet = true := hq
  refine (hop.trans (issue_ends h)).trans ?_
  simp only [Mach.chosen_thr, hf', hq', hh, and_self, if_true]
  rfl

theorem store_open (ho : a.toNat < 0xC000000 ∨ s.m.hostQuiet = false) : exec op s =
    if 4 ≤ (s.m.thr t).txns then s.becomes ((s.m.chosen t).park t .retry)
    else ends s t (((s.m.thr t).withStore (s.m.storeEntry t w a)).setBank
      { (s.m.thr t).bank with ds := (s.m.thr t).bank.ds.drop (storeCells w) }) 1 := by
  subst ha
  have hf' : (s.m.chosen t).accessFault t true w ((s.m.thr t).effAddr useB).toNat = none := hf
  have ho' : ¬ (0xC000000 ≤ ((s.m.thr t).effAddr useB).toNat ∧ (s.m.chosen t).hostQuiet = true) := by
    rintro ⟨hge, hq⟩
    rcases ho with ho | ho
    · omega
    · exact Bool.false_ne_true (ho.symm.trans hq)
  have hfull : (4 ≤ (s.m.thr t).sb.length ∨ 4 ≤ (s.m.thr t).txns) ↔ 4 ≤ (s.m.thr t).txns :=
    or_iff_right_of_imp fun hsb => hsb.trans (sb_length_le_txns _)
  refine (hop.trans (issue_ends h)).trans ?_
  simp only [Mach.chosen_thr, hf', ho', hfull, if_false]
  split
  · rfl
  · rw [Mach.storeEntry, BitVec.ofNat_toNat]
    rfl

end

end

/-! ## The statement -/

/-- Settles O13: the six loads are one operation, and so are the six stores. The order of the checks, what is read at issue and what a
quiet host window refuses are the model's choice (log entry 82). -/
theorem loadsAndStores : Obligations.LoadsAndStores := by
  unfold Obligations.LoadsAndStores
  refine ⟨fun s t => ?_, fun s t => ?_⟩
  · intro x m load
    have hload (op : Instr) (useB : Bool) (w : Width) (hop : exec op s = onThread t s fun m => m.loadOp t useB w) : load op useB w := by
      intro h
      let a := x.effAddr useB
      refine ⟨fun r hf => load_refused hop h rfl hf, fun hf => ⟨fun hfull => ?_, fun hroom => ?_⟩⟩
      · rw [load_allowed hop h rfl hf, if_pos hfull]
      rw [load_allowed hop h rfl hf, if_neg (Nat.not_le.mpr hroom), Mach.loadBegins]
      refine ⟨fun v hv => ?_, fun hv => ?_, fun hv => ⟨fun hr => ?_, fun hh m' hi => ?_,
        fun hr hh => ⟨fun hb => ?_, fun hb => ?_⟩⟩⟩
      all_goals rw [show m.forward t a.toNat w.nonets = _ from hv]
      · rfl
      · exact ⟨_, rfl, parks_drain m t a w.nonets⟩
      · exact congrArg s.becomes (loadMem_register hr)
      · exact congrArg s.becomes (loadMem_host hh hi)
      · exact congrArg s.becomes (loadMem_of_bad (m := m) hr hh hb)
      · refine (congrArg s.becomes (loadMem_of_good (m := m) hr hh hb)).trans ?_
        rw [apply_ite s.becomes]
        rfl
    exact ⟨hload _ _ _ rfl, hload _ _ _ rfl, hload _ _ _ rfl, hload _ _ _ rfl, hload _ _ _ rfl, hload _ _ _ rfl⟩
  · intro x m store
    have hstore (op : Instr) (useB : Bool) (w : Width) (hop : exec op s = onThread t s fun m => m.storeOp t useB w) : store op useB w := by
      intro h
      refine ⟨fun r hf => store_refused hop h rfl hf, fun hf => ⟨store_quiet hop h rfl hf,
        fun ho => ⟨fun hroom => ?_, fun hfull => ?_⟩⟩⟩
      · rw [store_open hop h rfl hf ho, if_neg (Nat.not_le.mpr hroom)]
        rfl
      · rw [store_open hop h rfl hf ho, if_pos hfull]
    exact ⟨hstore _ _ _ rfl, hstore _ _ _ rfl, hstore _ _ _ rfl, hstore _ _ _ rfl, hstore _ _ _ rfl, hstore _ _ _ rfl⟩

end Sys2Proof.Machine

/-!
PROOFS. The order of memory (O14, R163, R170, R173, R176, R177, R195, R238): a value that lands, a store that drains, the fence, and the
atomics on a cell of a basin.
-/
namespace Sys2Proof.Machine

/-! ## Values, stores and the fence -/

section
variable {s : State} {t : Tid}

theorem loadValue_lands {m : Mach} {l : Load} {v : Dbl} (hl : (m.thr t).loads.find? (fun l => l.value.isNone && !l.fromHost) = some l)
    (hv : (m.readLoad l).2 = some v) : m.loadValue t = (m.readLoad l).1.loadArrives t l v := by
  have hread : m.readLoad l = ((m.readLoad l).1, some v) := Prod.ext rfl hv
  unfold Mach.loadValue
  rw [hl]
  dsimp only
  rw [hread]

/-- The oldest entry has none before it that holds it back (R238). -/
theorem storeDrain_oldest (hok : Tid.ok t = true) {e : SbEntry} (he : (s.m.thr t).sb.head? = some e) :
    exec (.storeDrain t 0) s = s.becomes (((s.m.updThr t fun x => { x with sb := x.sb.drop 1 }).drainEntry t e).wakeMem t) := by
  have hget : (s.m.thr t).sb[0]? = some e := by rw [← he, List.head?_eq_getElem?]
  show execStoreDrain t 0 s = _
  rw [execStoreDrain, onThread_of_ok hok]
  simp only [hget, Fin.val_zero, List.take_zero, List.any_nil, Bool.false_eq_true, if_false, List.eraseIdx_zero, List.drop_one]
  rfl

theorem drainEntry_of_mem (m : Mach) (t : Tid) {e : SbEntry} (h : e.toMem = true) : m.drainEntry t e = m.storeMem t e := if_pos h

theorem fence_quiet (h : Selects s t) (hq : (s.m.thr t).quietMem = true) : exec (.fence t) s = ends s t (s.m.thr t) 1 :=
  (select_ends h).trans (congrArg s.becomes (if_pos hq))

theorem fence_waits (h : Selects s t) (hq : (s.m.thr t).quietMem = false) :
    exec (.fence t) s = s.becomes ((s.m.chosen t).park t .fence) :=
  (select_ends h).trans (congrArg s.becomes (if_neg (by simp [hq])))

end

/-- A load of a cell ends its instruction with its operand still in its slot (R162). -/
theorem loadIssue_cell (s : State) (n : Mach) (t : Tid) (a : DAddr) (v : Option Dbl) (isTas : Bool) :
    s.becomes (n.loadIssue t .cell a v isTas) = endsAs s n t (((n.thr t).withLoad
      ⟨(n.thr t).bank.ds.length - 1, .cell, a, n.places t a.toNat 2, n.priOf t, 0, (n.thr t).p, (n.thr t).fastOn, 0, v, isTas⟩).setBank
      (n.thr t).bank) 1 := by
  rw [Mach.loadIssue, if_neg Width.noConfusion]
  rfl

/-! ## Atomics (R176, R177, R195) -/

/-- The block in which a chosen thread's request to the address of its atomic is under way. -/
def Mach.atomicAt (m : Mach) (t : Tid) : Mach := (m.chosen t).flitTo t ((m.thr t).effAddr false).toNat

section
variable (m : Mach) (t : Tid) (a : DAddr)

/-- The value that an atomic finds, as a load's. -/
def Mach.oldCell : Dbl := BitVec.ofNat 36 (m.rdCell (some t) a.toNat).toNat

/-- What a load-reserve leaves before its load is issued (R177). -/
def Mach.reserves : Mach := (m.noteN (some t) a.toNat 2).updThr t fun z => { z with resv := some (m.granuleAt t a.toNat) }

/-- What a test-and-set leaves before its load is issued (R195). -/
def Mach.setsCell : Mach := (m.noteN (some t) a.toNat 2).wrCell (some t) a.toNat 0x3FFFF

/-- The end of a store-conditional in a block in which its store, if it made one, has been performed. -/
def Mach.scEnds (bank : Bank) (ok : Bool) : Mach :=
  m.retire t ({ m.thr t with resv := none }.setBank { bank with ds := bank.ds.drop 2, flg := setBit bank.flg 3 ok }) 1

end

section
variable {s : State} {t : Tid} {b : Bool} (hf : s.m.atomicFault t b ((s.m.thr t).effAddr false).toNat = none)
  (hq : (s.m.thr t).quietMem = true) (htx : (s.m.thr t).txns < 4)
include hf hq htx

/-- An atomic whose address is allowed acts once every earlier access has been performed. -/
theorem atomic_acts {e : Effect} (h : Issues s t e) (f : Mach → DAddr → Mach) :
    onThread t s (fun m => m.atomicOp t e b f) = s.becomes (f (s.m.atomicAt t) ((s.m.thr t).effAddr false)) := by
  have hf' : (s.m.chosen t).atomicFault t b ((s.m.thr t).effAddr false).toNat = none := hf
  have hbusy : ¬ ((!(s.m.thr t).quietMem) = true ∨ 4 ≤ (s.m.thr t).txns) := by simp [hq, htx]
  refine (issue_ends h).trans ?_
  simp only [Mach.chosen_thr, hf', hbusy, if_false]
  rfl

theorem lrC_reserves (hb : b = false) (h : Issues s t (dEff 1 1))
    (hgood : (s.m.atomicAt t).badN (some t) ((s.m.thr t).effAddr false).toNat 2 = false) : exec (.lrC t) s = s.becomes
      (((s.m.atomicAt t).reserves t ((s.m.thr t).effAddr false)).loadIssue t .cell ((s.m.thr t).effAddr false)
        (some ((s.m.atomicAt t).oldCell t ((s.m.thr t).effAddr false))) false) := by
  subst hb
  refine (atomic_acts hf hq htx h _).trans (congrArg s.becomes ?_)
  rw [if_neg (by simp [hgood]), Mach.oldCell, BitVec.ofNat_toNat]
  rfl

theorem tas_sets (hb : b = true) (h : Issues s t (dEff 1 1))
    (hgood : (s.m.atomicAt t).badN (some t) ((s.m.thr t).effAddr false).toNat 2 = false) : exec (.tas t) s = s.becomes
      (((s.m.atomicAt t).setsCell t ((s.m.thr t).effAddr false)).loadIssue t .cell ((s.m.thr t).effAddr false)
        (some ((s.m.atomicAt t).oldCell t ((s.m.thr t).effAddr false))) true) := by
  subst hb
  refine (atomic_acts hf hq htx h _).trans (congrArg s.becomes ?_)
  rw [if_neg (by simp [hgood]), Mach.oldCell, BitVec.ofNat_toNat]
  rfl

theorem scC_stores (hb : b = true) (h : Issues s t (dEff 2 0))
    (hr : ((s.m.atomicAt t).thr t).resv = some ((s.m.atomicAt t).granuleAt t ((s.m.thr t).effAddr false).toNat)) :
    exec (.scC t) s = s.becomes (((s.m.atomicAt t).wrN (some t) ((s.m.thr t).effAddr false).toNat
      (unpack (((s.m.atomicAt t).thr t).bank.at_ 1).toNat 2) (some t)).scEnds t ((s.m.atomicAt t).thr t).bank true) := by
  subst hb
  refine (atomic_acts hf hq htx h _).trans (congrArg s.becomes ?_)
  simp only [hr, beq_self_eq_true, if_true]
  rfl

theorem scC_fails (hb : b = true) (h : Issues s t (dEff 2 0))
    (hr : ((s.m.atomicAt t).thr t).resv ≠ some ((s.m.atomicAt t).granuleAt t ((s.m.thr t).effAddr false).toNat)) :
    exec (.scC t) s = s.becomes ((s.m.atomicAt t).scEnds t ((s.m.atomicAt t).thr t).bank false) := by
  subst hb
  refine (atomic_acts hf hq htx h _).trans (congrArg s.becomes ?_)
  simp only [beq_eq_false_iff_ne.mpr hr, Bool.false_eq_true, if_false]
  rfl

end

/-! ## The statement -/

/-- Settles O14: each clause is what its instruction comes to. -/
theorem memoryOrder : Obligations.MemoryOrder := by
  unfold Obligations.MemoryOrder
  intro s t l v e b x a m y g old ld
  refine ⟨fun hok hl hv => ?_, fun hok he => ⟨storeDrain_oldest hok he, drainEntry_of_mem _ t⟩, fence_quiet, fence_waits,
    fun hf hq htx => ⟨fun hb h hgood => ?_, fun hb h hr => ?_, fun hb h hr => ?_, fun hb h hgood => ?_⟩⟩
  · show onThread t s (fun m => m.loadValue t) = s.becomes ((s.m.readLoad l).1.loadArrives t l v)
    rw [onThread_of_ok hok, loadValue_lands hl hv]
    rfl
  · exact (lrC_reserves hf hq htx hb h hgood).trans (loadIssue_cell ..)
  · exact scC_stores hf hq htx hb h hr
  · exact scC_fails hf hq htx hb h hr
  · exact (tas_sets hf hq htx hb h hgood).trans (loadIssue_cell ..)

end Sys2Proof.Machine

/-!
PROOFS. The memory engines of a lock (O45, R177, R320 to R326): a write of PL_BANK by what it asks and what holds the bank, the end of a
mirror copy, a write of PL_MARCH with GO, what a test ends in, and a scrub step.
-/
namespace Sys2Proof.Machine

/-! ## A write of PL_BANK (R322) -/

theorem bankValue_fields (o : BitVec 2) (copy : Bool) : fld (bankValue o copy) 17 16 = o.toNat ∧ bit (bankValue o copy) 15 = copy := by
  revert o copy
  decide

section
variable {s : State} {who : Master} {p : PLock} {b : Fin 17}

theorem plBank_takes (h : Takes s who ⟨.plBank, p.val, b.val⟩) (v : Cell) :
    rowWrite s ⟨.plBank, p.val, b.val⟩ v who = s.becomes (s.m.bankWrite p.val b.val v) := by
  have habs : Reg.plBank.info.space ≠ .abs := by decide
  rw [rowWrite_stores h (by decide) (by decide), regStore_lock habs]
  rfl

end

/-- The refusal of a hand-over: PL_SPARE.ERR. -/
def Mach.refusesBank (m : Mach) (p : Nat) : Mach := m.wubit .plSpare p 17 true

/-- A bank given another owner at once (R322). -/
def Mach.handsOver (m : Mach) (p b o : Nat) : Mach := ((m.setOwner p b o).reServe p).breakBank p b

/-- Neither a copy nor a march run is under way in a lock. -/
def Lock.unengaged (k : Lock) : Prop := k.copy = none ∧ k.march = none

section
variable {m : Mach} {p b : Nat} {o : BitVec 2} {copy : Bool}

theorem bankWrite_same (h : o.toNat = m.owner p b) : m.bankWrite p b (bankValue o copy) = m :=
  if_pos ((bankValue_fields o copy).1.trans h)

section
variable (hne : o.toNat ≠ m.owner p b)
include hne

theorem bankWrite_evac (he : m.evacOn p = true) : m.bankWrite p b (bankValue o copy) = m.refusesBank p := by
  obtain ⟨howner, -⟩ := bankValue_fields o copy
  unfold Mach.bankWrite
  simp only [howner, hne, he, if_false, if_true]
  rfl

/-- A bank that the pool owns and that another takes: by a copy to the spare, or at once. -/
theorem bankWrite_out (he : m.evacOn p = false) (hold : m.owner p b = 0) : m.bankWrite p b (bankValue o copy) =
    if copy then (if m.mirrorOk p b then m.startCopy p b ⟨b, o, true, false⟩ else m.refusesBank p)
    else if m.quietLock p && !((m.lock p).copy.isSome || (m.lock p).march.isSome) && !(m.lock p).spareRetired then m.handsOver p b o.toNat
    else m.refusesBank p := by
  obtain ⟨howner, hcopy⟩ := bankValue_fields o copy
  unfold Mach.bankWrite
  simp only [howner, hcopy, hne, he, Bool.false_eq_true, if_false, BitVec.ofNat_toNat, BitVec.setWidth_eq]
  exact if_pos hold

/-- A bank that comes back to the pool, from the spare that serves it or at once. -/
theorem bankWrite_back (he : m.evacOn p = false) (hold : m.owner p b ≠ 0) (ho : o = 0) : m.bankWrite p b (bankValue o copy) =
    if copy then (if m.serves p = b ∧ !((m.lock p).copy.isSome || (m.lock p).march.isSome) ∧ !m.retired p b then
      m.startCopy p b ⟨b, 0, false, false⟩ else m.refusesBank p)
    else if m.quietLock p && !((m.lock p).copy.isSome || (m.lock p).march.isSome) then m.handsOver p b 0
    else m.refusesBank p := by
  obtain ⟨howner, hcopy⟩ := bankValue_fields o copy
  have hzero : ¬ o.toNat ≠ 0 := by rw [ho]; decide
  unfold Mach.bankWrite
  simp only [howner, hcopy, hne, he, hold, hzero, Bool.false_eq_true, if_false]
  rfl

end

end

/-! ## A write of PL_MARCH (R324) -/

section
variable {s : State} {who : Master} {p : PLock} {v : Cell}

theorem marchGo_takes (h : Takes s who ⟨.plMarch, p.val, 0⟩) :
    exec (.marchGo who p v) s = s.becomes (s.m.marchWrite p.val (setBit v 17 true)) := by
  have habs : Reg.plMarch.info.space ≠ .abs := by decide
  refine (rowWrite_stores h (by decide) (by decide)).trans ?_
  rw [regStore_lock habs]
  rfl

end

/-- The block in which PL_MARCH holds a value written to it. -/
def Mach.marchBase (m : Mach) (p : Nat) (w : Cell) : Mach := m.wu .plMarch p (w &&& 0x1F81F)

/-- A run of a mode on a bank begun in a phase (R324). -/
def Mach.marchStart (m : Mach) (p mode b ph : Nat) : Mach :=
  (((m.updLock p fun k => { k with march := some (mode, b) }).wu .plMstat p (setFld (m.ru .plMstat p) 4 0 0x1F)).setPhase p ph).count
    (0x7A00 + p) 4

/-- The refusal of a run: PL_MSTAT.ERR. -/
def Mach.refusesMarch (m : Mach) (p : Nat) : Mach := m.wubit .plMstat p 14 true

section
variable {m : Mach} {p : Nat} {w : Cell} (hgo : bit w 17 = true)
include hgo

theorem marchWrite_evac (he : m.evacOn p = true) : m.marchWrite p w = (m.marchBase p w).refusesMarch p := by
  have he' : (m.marchBase p w).evacOn p = true := he
  rw [Mach.marchBase] at he'
  unfold Mach.marchWrite
  simp only [hgo, he', Bool.not_true, Bool.false_eq_true, if_false, if_true]
  rfl

section
variable (he : m.evacOn p = false)
include he

/-- What may run in a lock that no evacuation pairs, by the mode. -/
theorem marchWrite_runs {mode x : Nat} (hmode : fld w 16 15 = mode) (hx : fld w 4 0 = x) : m.marchWrite p w =
    let n := m.marchBase p w
    let k := m.lock p
    if mode = 0 ∧ n.mirrorOk p x then (n.marchStart p mode x 1).startCopy p x ⟨x, 2, true, true⟩
    else if mode = 1 ∧ (k.copy.isNone && k.march.isNone && decide (x ≤ 16) && !(decide (x < 16) && n.retired p x) &&
        !(x == 16 && k.spareRetired)) ∧ n.serves p = 0x1F ∧ (x = 16 ∨ m.quietLock p) then
      (n.marchStart p mode x 2).handsOver p x 2
    else if mode = 2 ∧ k.copy.isNone ∧ k.march.isNone ∧ m.quietLock p then (n.marchStart p mode x 4).breakBanks p
    else n.refusesMarch p := by
  have he' : (m.marchBase p w).evacOn p = false := he
  rw [Mach.marchBase] at he'
  subst hmode hx
  unfold Mach.marchWrite
  simp only [hgo, he', Bool.not_true, Bool.false_eq_true, if_false]
  rfl

section
variable {mode x : Nat} (hmode : fld w 16 15 = mode) (hx : fld w 4 0 = x)
include hmode hx

theorem marchWrite_mirrored (h0 : mode = 0) (hok : (m.marchBase p w).mirrorOk p x = true) :
    m.marchWrite p w = ((m.marchBase p w).marchStart p mode x 1).startCopy p x ⟨x, 2, true, true⟩ := by
  rw [marchWrite_runs hgo he hmode hx]
  exact if_pos ⟨h0, hok⟩

theorem marchWrite_bank (h1 : mode = 1) (hfree : (m.lock p).unengaged) (hle : x ≤ 16)
    (hret : x < 16 → (m.marchBase p w).retired p x = false) (hspare : x = 16 → (m.lock p).spareRetired = false)
    (hserves : (m.marchBase p w).serves p = 0x1F) (hquiet : x = 16 ∨ m.quietLock p = true) :
    m.marchWrite p w = ((m.marchBase p w).marchStart p mode x 2).handsOver p x 2 := by
  obtain ⟨hcopy, hmarch⟩ := hfree
  have hr : (decide (x < 16) && (m.marchBase p w).retired p x) = false := by
    by_cases h : x < 16
    · simp [hret h]
    · simp [h]
  have hs : (x == 16 && (m.lock p).spareRetired) = false := by
    by_cases h : x = 16
    · simp [hspare h]
    · simp [h]
  rw [marchWrite_runs hgo he hmode hx]
  exact (if_neg (by omega)).trans (if_pos ⟨h1, by simp [hcopy, hmarch, hle, hr, hs], hserves, hquiet⟩)

theorem marchWrite_lock (h2 : mode = 2) (hfree : (m.lock p).unengaged) (hquiet : m.quietLock p = true) :
    m.marchWrite p w = ((m.marchBase p w).marchStart p mode x 4).breakBanks p := by
  obtain ⟨hcopy, hmarch⟩ := hfree
  rw [marchWrite_runs hgo he hmode hx]
  refine (if_neg (by omega)).trans ((if_neg (by omega)).trans (if_pos ⟨h2, ?_, ?_, hquiet⟩))
  · rw [hcopy]; rfl
  · rw [hmarch]; rfl

theorem marchWrite_reserved (h3 : mode = 3) : m.marchWrite p w = (m.marchBase p w).refusesMarch p := by
  rw [marchWrite_runs hgo he hmode hx]
  exact (if_neg (by omega)).trans ((if_neg (by omega)).trans (if_neg (by omega)))

end

end

end

/-! ## Ends: a mirror copy (R322), a test (R324, R325) and a scrub step (R320) -/

theorem mirrorDone_of_copy {m : Mach} {p : Nat} {c : HandOver} (hc : (m.lock p).copy = some c) : m.mirrorDone p =
    let g := if c.out then m.copyBank p c.bank 16 else m.copyBank p 16 c.bank
    let n := (((g.updLock p fun k => { k with copy := none }).wubit .plBank p 13 false c.bank).breakBank p c.bank).setOwner p c.bank
      c.owner.toNat
    let r := if c.out then n.setServes p c.bank else n.reServe p
    if c.march then (if c.out then r.setPhase p 2 else r.marchEnd p) else r := by
  unfold Mach.mirrorDone
  rw [hc]
  dsimp only
  by_cases hm : c.march = true
  · rw [if_neg (by simp [hm]), if_pos hm]
  · rw [if_pos (by simp [hm]), if_neg hm]

section
variable {m : Mach} {p x : Nat}

theorem marchTest_bank (hm : (m.lock p).march = some (1, x)) (hph : fld (m.ru .plMstat p) 13 11 = 2) :
    m.marchTest p [] = ((((m.zeroWhere (inBank p x)).setOwner p x 0).reServe p).marchEnd p).breakBank p x ∧
      ∀ f fails, m.marchTest p (f :: fails) = ((m.bankFails p x f).marchEnd p).breakBank p x := by
  simp only [Mach.marchTest, hm, hph]
  exact ⟨trivial, fun _ _ => trivial⟩

theorem marchTest_lock (hm : (m.lock p).march = some (2, x)) (hph : fld (m.ru .plMstat p) 13 11 = 4) :
    m.marchTest p [] = ((m.zeroWhere (inLock p)).marchEnd p).breakBanks p := by
  simp only [Mach.marchTest, hm, hph]
  rfl

end

theorem scrubStep_of_on {s : State} {p : PLock} (hon : s.m.isOn (7 + p.val) = true) (hen : bit (s.m.ru .plScrub p.val) 17 = true) :
    exec (.scrubStep p) s = s.becomes (((List.range 17).foldl (fun m b => m.scrubWord p.val b (s.m.lock p.val).scrubRow.toNat) s.m).updLock
      p.val fun k => { k with scrubRow := k.scrubRow + 1 }) :=
  congrArg s.becomes (if_neg (by simp [hon, hen]))

/-! ## The statement -/

/-- Settles O45: a write of PL_BANK or PL_MARCH is one branch of its operation, and the ends are one equation each. The march result and the
bank of mode 1 are the model's choice (log entries 59 and 60). -/
theorem memoryEngines : Obligations.MemoryEngines := by
  unfold Obligations.MemoryEngines
  intro s who p b o v fails f c x m k i refuse
  refine ⟨fun h => ?_, fun hc => congrArg s.becomes (mirrorDone_of_copy hc), fun h => ?_, rfl, fun hm hph => ?_, marchTest_lock,
    scrubStep_of_on⟩
  · have hcopy : exec (.bankHandoverCopy who p b o) s = s.becomes (m.bankWrite i b.val (bankValue o true)) := plBank_takes h _
    have hnow : exec (.bankHandoverNow who p b o) s = s.becomes (m.bankWrite i b.val (bankValue o false)) := plBank_takes h _
    rw [hcopy, hnow]
    refine ⟨fun heq => ?_, fun hne he => ?_, fun ho he hold => ?_, fun ho he hold hc hm => ?_⟩
    · rw [bankWrite_same heq, bankWrite_same heq]
      exact ⟨rfl, rfl⟩
    · rw [bankWrite_evac hne he, bankWrite_evac hne he]
      exact ⟨rfl, rfl⟩
    · have hne : o.toNat ≠ m.owner i b.val := fun e => ho (BitVec.eq_of_toNat_eq (e.trans hold))
      rw [bankWrite_out hne he hold, bankWrite_out hne he hold, if_pos rfl, if_neg Bool.false_ne_true]
      refine ⟨fun hok => by rw [if_pos hok], fun hok => by rw [if_neg (by simp [hok])]; rfl, fun hq hc hm hsp => ?_, fun hq => ?_⟩
      · have hidle : (m.quietLock i && !((m.lock i).copy.isSome || (m.lock i).march.isSome) && !(m.lock i).spareRetired) = true := by
          rw [hq, show (m.lock i).copy = none from hc, show (m.lock i).march = none from hm,
            show (m.lock i).spareRetired = false from hsp]
          rfl
        rw [if_pos hidle]
        rfl
      · rw [if_neg (by simp [hq])]
        rfl
    · have hne : o.toNat ≠ m.owner i b.val := fun e => hold (e.symm.trans (by rw [ho]; rfl))
      have hbusy : ((m.lock i).copy.isSome || (m.lock i).march.isSome) = false := by rw [hc, hm]; rfl
      rw [bankWrite_back hne he hold ho, bankWrite_back hne he hold ho, if_pos rfl, if_neg Bool.false_ne_true, hbusy]
      refine ⟨fun hs hr => by rw [if_pos ⟨hs, rfl, by simp [hr]⟩], fun hq => by rw [if_pos (by simp [hq])]; rfl⟩
  · intro w mode x base start free
    have hgo : bit w 17 = true := bit_setBit (by decide) 17 |>.trans (if_pos rfl)
    rw [marchGo_takes h]
    exact ⟨fun he => congrArg s.becomes (marchWrite_evac hgo he),
      fun he h0 hok => congrArg s.becomes (marchWrite_mirrored hgo he rfl rfl h0 hok),
      fun he h1 hfree hle hret hsp hserves hq => congrArg s.becomes (marchWrite_bank hgo he rfl rfl h1 hfree hle hret hsp hserves hq),
      fun he h2 hfree hq => congrArg s.becomes (marchWrite_lock hgo he rfl rfl h2 hfree hq),
      fun he h3 => congrArg s.becomes (marchWrite_reserved hgo he rfl rfl h3)⟩
  · obtain ⟨hgood, hbad⟩ := marchTest_bank hm hph
    exact ⟨hgood, hbad f fails⟩

end Sys2Proof.Machine

/-!
PROOFS. The stack, literals and the return stack (O7, O8, R180, R181, R186): instructions by the cells that they find and leave.
-/
namespace Sys2Proof.Machine

/-! ## Operations on the top cells -/

/-- An instruction that replaces its top cells, by the stack that it finds and the one that it leaves. -/
theorem cells_leave {s : State} {t : Tid} {i o : Nat} {f : Bank → List Cell} {ds l : List Cell} (hds : (s.m.thr t).bank.ds = ds)
    (h : Issues s t (dEff i o)) (hl : f { (s.m.thr t).bank with ds := ds } ++ ds.drop i = l) :
    onThread t s (fun m => m.cells t i o f) = ends s t ((s.m.thr t).withDs l) 1 := by
  subst hds hl
  exact cells_ends h

/-- `pick` reads n from bits 3:0 of its top cell. -/
theorem pick_ends {s : State} {t : Tid} {a : Cell} {r : List Cell} (hds : (s.m.thr t).bank.ds = a :: r)
    (h : Issues s t (dEff (a.toNat % 16 + 2) (a.toNat % 16 + 2))) :
    exec (.pick t) s = ends s t ((s.m.thr t).withDs (r.getD (a.toNat % 16) 0 :: r)) 1 := by
  have hn : (if (s.m.thr t).bank.ds.isEmpty then 0 else fld ((s.m.thr t).bank.at_ 0) 3 0) = a.toNat % 16 := by
    rw [hds, at_zero_of_cons hds, fld_bottom]; rfl
  have hleft : ((s.m.thr t).bank.pop 1).push ((s.m.thr t).bank.at_ (a.toNat % 16 + 1)) =
      { (s.m.thr t).bank with ds := r.getD (a.toNat % 16) 0 :: r } := by simp [Bank.push, Bank.pop, Bank.at_, hds]
  show execPick t s = _
  rw [execPick, onThread_of_ok h.1.1]
  simp only [hn]
  rw [Mach.issue_of_issues h, Mach.chosen_thr, hleft]
  rfl

/-! ## The statements -/

/-- Settles O7: each stack operation, on the top cells that it finds. -/
theorem stackMoves : Obligations.StackMoves := by
  unfold Obligations.StackMoves
  intro s t a b c d r x ds
  refine ⟨plain_ends, fun hds h => ?_, fun hds h => ?_, fun hds h => ?_, fun hds h => ?_, fun hds h => ?_,
    fun hds h => ?_, fun hds h => ?_, fun hds h => ?_, pick_ends, fun hds h => ?_, fun hds h => ?_, fun hds h => ?_, fun hds h => ?_⟩
  all_goals exact cells_leave hds h (by rfl)

/-- Settles O8: each instruction, on the entry or the cell that it finds. -/
theorem literalsAndReturnStack : Obligations.LiteralsAndReturnStack := by
  unfold Obligations.LiteralsAndReturnStack
  intro s t a e r q n d x b
  have hcell (hds : b.ds = a :: r) : b.at_ 0 = a ∧ b.ds.drop 1 = r := ⟨at_zero_of_cons hds, congrArg (List.drop 1) hds⟩
  have hentry (hrs : b.rs = e :: q) : b.rs.getD 0 0 = e ∧ b.rs.drop 1 = q := by simp [hrs]
  refine ⟨plain_ends, plain_ends, fun h => ?_, fun hds h => ?_, fun hrs h => ?_, fun hrs h => ?_, fun hrs h => ?_, fun hds h => ?_,
    plain_ends⟩
  · rw [BitVec.ofNat_toNat]
    exact cells_ends h
  · obtain ⟨ha, hr⟩ := hcell hds
    rw [BitVec.ofNat_toNat, ← ha, ← hr]
    exact onBank_ends h
  · obtain ⟨he, hq⟩ := hentry hrs
    rw [BitVec.ofNat_toNat, ← he, ← hq]
    exact onBank_ends h
  · obtain ⟨he, -⟩ := hentry hrs
    rw [BitVec.ofNat_toNat, ← he]
    exact onBank_ends h
  · obtain ⟨-, hq⟩ := hentry hrs
    rw [← hq]
    exact onBank_ends h
  · obtain ⟨ha, hr⟩ := hcell hds
    rw [← ha, ← hr]
    exact plain_ends h

end Sys2Proof.Machine

/-!
PROOFS. Sums, differences and comparisons (O9, R187, R188, R190): results and flags of the adder by the exact values, at any width.
-/
namespace Sys2Proof.Machine

/-! ## A value out of the signed range (R188) -/

/-- A value fits w bits signed where it is that of its w low bits. -/
theorem toInt_ofInt_ne_iff {w : Nat} (hw : 0 < w) (i : Int) :
    (BitVec.ofInt w i).toInt ≠ i ↔ i < -(2 ^ (w - 1)) ∨ 2 ^ (w - 1) ≤ i := by
  obtain ⟨n, rfl⟩ := Nat.exists_eq_add_of_le' hw
  have hpow : ((2 ^ (n + 1) : Nat) : Int) = 2 * 2 ^ n := by push_cast; ring
  have hself : i.bmod (2 ^ (n + 1)) = i ↔ -(2 ^ n) ≤ i ∧ i < 2 ^ n := by
    rw [Int.bmod_eq_iff (by positivity), hpow]
    simp only [sub_self, dvd_zero, and_true]
    omega
  rw [BitVec.toInt_ofInt, Ne, hself, Nat.add_sub_cancel]
  omega

/-! ## The adder's results -/

/-- An output of the adder whose exact value is u on unsigned operands and i on signed ones. -/
def AluOut.IsExact {w : Nat} (o : AluOut w) (u i : Int) : Prop :=
  o.r = BitVec.ofInt w i ∧ o.c = some (decide (u < 0 ∨ 2 ^ w ≤ u)) ∧ o.v = some (decide (i < -(2 ^ (w - 1)) ∨ 2 ^ (w - 1) ≤ i))

theorem AluOut.IsExact.flags {w : Nat} {o : AluOut w} {u i : Int} (h : o.IsExact u i) (f : Cell) : setNzcv f o = exactFlags w f u i := by
  obtain ⟨r, c, v⟩ := o
  obtain ⟨rfl, rfl, rfl⟩ := h
  rfl

theorem aluAdd_isExact {w : Nat} (hw : 0 < w) (a b : BitVec w) (c : Bool) :
    (aluAdd a b c).IsExact (a.toNat + b.toNat + b2n c) (a.toInt + b.toInt + b2n c) := by
  have hr : (aluAdd a b c).r = BitVec.ofInt w (a.toInt + b.toInt + b2n c) := by
    simp [aluAdd, BitVec.ofInt_add, BitVec.ofNat_add]
  refine ⟨hr, congrArg some (decide_eq_decide.mpr ?_), congrArg some (decide_eq_decide.mpr ?_)⟩
  · have hpow : ((2 ^ w : Nat) : Int) = 2 ^ w := by push_cast; rfl
    omega
  · rw [← toInt_ofInt_ne_iff hw, ← hr]
    exact Iff.rfl

theorem aluSub_isExact {w : Nat} (hw : 0 < w) (a b : BitVec w) (c : Bool) :
    (aluSub a b c).IsExact (a.toNat - b.toNat - b2n c) (a.toInt - b.toInt - b2n c) := by
  have hr : (aluSub a b c).r = BitVec.ofInt w (a.toInt - b.toInt - b2n c) := by
    simp [aluSub, sub_eq_add_neg, BitVec.ofInt_add, BitVec.ofInt_neg]
  refine ⟨hr, congrArg some (decide_eq_decide.mpr ?_), congrArg some (decide_eq_decide.mpr ?_)⟩
  · have hpow : ((2 ^ w : Nat) : Int) = 2 ^ w := by push_cast; rfl
    omega
  · rw [← toInt_ofInt_ne_iff hw, ← hr]
    exact Iff.rfl

theorem aluAdd_without_carry {w : Nat} (hw : 0 < w) (a b : BitVec w) :
    (aluAdd a b false).IsExact (a.toNat + b.toNat) (a.toInt + b.toInt) := by simpa [b2n] using aluAdd_isExact hw a b false

theorem aluSub_without_borrow {w : Nat} (hw : 0 < w) (a b : BitVec w) :
    (aluSub a b false).IsExact (a.toNat - b.toNat) (a.toInt - b.toInt) := by simpa [b2n] using aluSub_isExact hw a b false

theorem aluSub_zero_isExact {w : Nat} (hw : 0 < w) (a : BitVec w) : (aluSub 0 a false).IsExact (-a.toNat) (-a.toInt) := by
  simpa using aluSub_without_borrow hw 0 a

/-! ## Instructions that use it -/

section
variable {s : State} {t : Tid} {n : Nat} {ds : List Cell} {u i : Int} (hds : (s.m.thr t).bank.ds = ds)
include hds

/-- An operation with one exact result cell, by the stack that it finds. -/
theorem alu_exact {f : Bank → AluOut 18} (h : Issues s t (dEff n 1)) (ho : (f { (s.m.thr t).bank with ds := ds }).IsExact u i) :
    onThread t s (fun m => m.alu t n f) =
      ends s t ((s.m.thr t).withDsFlg (BitVec.ofInt 18 i :: ds.drop n) (exactFlags 18 (s.m.thr t).bank.flg u i)) 1 := by
  subst hds
  rw [alu_ends h, ho.flags, ho.1]

/-- An operation with one exact result double. -/
theorem aluD_exact {f : Bank → AluOut 36} (h : Issues s t (dEff n 2)) (ho : (f { (s.m.thr t).bank with ds := ds }).IsExact u i) :
    onThread t s (fun m => m.aluD t n f) =
      ends s t ((s.m.thr t).withDsFlg (topD (BitVec.ofInt 36 i) (ds.drop n)) (exactFlags 36 (s.m.thr t).bank.flg u i)) 1 := by
  subst hds
  rw [aluD_ends h, ho.flags, ho.1]
  rfl

/-- A comparison, which keeps the flags alone. -/
theorem compare_exact {w : Nat} {f : Bank → AluOut w} (h : Issues s t (dEff n 0))
    (ho : (f { (s.m.thr t).bank with ds := ds }).IsExact u i) :
    onThread t s (fun m => m.onBank t (dEff n 0) fun b => { b.pop n with flg := setNzcv b.flg (f b) }) =
      ends s t ((s.m.thr t).withDsFlg (ds.drop n) (exactFlags w (s.m.thr t).bank.flg u i)) 1 := by
  subst hds
  rw [onBank_ends h, ho.flags]
  rfl

end

/-! ## The statement -/

/-- Settles O9: each instruction is the adder on the operands that it finds. -/
theorem sums : Obligations.Sums := by
  unfold Obligations.Sums
  have hw : 0 < 18 := by decide
  have hd : 0 < 36 := by decide
  constructor
  · intro s t a b r x f ca out
    have hca : ca = b2n (bit f 2) := (apply_ite Nat.cast (bit f 2 = true) 1 0).symm
    rw [hca]
    refine ⟨fun hds h => ⟨?_, ?_, ?_, ?_⟩, fun hds h => ?_, fun hds h => ⟨?_, ?_, ?_⟩⟩
    · exact alu_exact hds h (aluAdd_without_carry hw a b)
    · exact alu_exact hds h (aluSub_without_borrow hw a b)
    · exact alu_exact hds h (aluAdd_isExact hw a b (bit f 2))
    · exact alu_exact hds h (aluSub_isExact hw a b (bit f 2))
    · exact compare_exact hds h (aluSub_without_borrow hw a b)
    · exact alu_exact hds h (aluSub_zero_isExact hw a)
    · exact alu_exact hds h (aluAdd_without_carry hw a 1)
    · exact alu_exact hds h (aluSub_without_borrow hw a 1)
  · intro s t a b r x f out
    have htop (l : List Cell) : ({ x.bank with ds := topD b l } : Bank).dblAt 0 = b := dblAt_of_drop rfl
    have hnext : ({ x.bank with ds := topD b (topD a r) } : Bank).dblAt 2 = a := dblAt_of_drop rfl
    refine ⟨fun hds h => ⟨?_, ?_⟩, fun hds h => ?_, fun hds h => ?_⟩
    · exact aluD_exact hds h (by rw [htop, hnext]; exact aluAdd_without_carry hd a b)
    · exact aluD_exact hds h (by rw [htop, hnext]; exact aluSub_without_borrow hd a b)
    · exact compare_exact hds h (by rw [htop, hnext]; exact aluSub_without_borrow hd a b)
    · exact aluD_exact hds h (by rw [dblAt_of_drop rfl]; exact aluSub_zero_isExact hd a)

end Sys2Proof.Machine

/-!
PROOFS. Logic, rearrangement, products and a step of division (O10, R187 to R189): each result by the values of its operands.
-/
namespace Sys2Proof.Machine

/-! ## Signed results (R187, R188) -/

theorem aluMin_eq_ofInt {w : Nat} (a b : BitVec w) : aluMin a b = BitVec.ofInt w (min a.toInt b.toInt) := by
  rw [aluMin]
  by_cases h : a.toInt < b.toInt
  · rw [if_pos (BitVec.slt_iff_toInt_lt.mpr h), min_eq_left h.le, BitVec.ofInt_toInt]
  · rw [if_neg (by rwa [BitVec.slt_iff_toInt_lt]), min_eq_right (not_lt.mp h), BitVec.ofInt_toInt]

theorem aluMax_eq_ofInt {w : Nat} (a b : BitVec w) : aluMax a b = BitVec.ofInt w (max a.toInt b.toInt) := by
  rw [aluMax]
  by_cases h : a.toInt < b.toInt
  · rw [if_pos (BitVec.slt_iff_toInt_lt.mpr h), max_eq_right h.le, BitVec.ofInt_toInt]
  · rw [if_neg (by rwa [BitVec.slt_iff_toInt_lt]), max_eq_left (not_lt.mp h), BitVec.ofInt_toInt]

/-- The absolute value, and the one value that has none in its width (R188). -/
theorem aluAbs_eq (a : Cell) : aluAbs a = ⟨BitVec.ofInt 18 a.toInt.natAbs, none, some (a.toInt == -131072)⟩ := by
  have hr : (if a.msb then -a else a) = BitVec.ofInt 18 a.toInt.natAbs := by
    rw [BitVec.msb_eq_toInt]
    by_cases h : a.toInt < 0
    · rw [if_pos (decide_eq_true h), Int.ofNat_natAbs_of_nonpos h.le, BitVec.ofInt_neg, BitVec.ofInt_toInt]
    · rw [if_neg (by simpa using h), Int.natAbs_of_nonneg (not_lt.mp h), BitVec.ofInt_toInt]
  have hmsb : (BitVec.ofInt 18 a.toInt.natAbs).msb = (a.toInt == -131072) := by
    have hlo := BitVec.le_toInt a
    have hhi := BitVec.toInt_lt (x := a)
    rw [BitVec.msb_eq_toInt, BitVec.toInt_ofInt, Int.bmod_def, Bool.eq_iff_iff]
    simp only [decide_eq_true_eq, beq_iff_eq]
    omega
  rw [aluAbs, hr, hmsb]

/-! ## Cells rearranged (R187) -/

theorem shiftLeft_eq_ofNat {w : Nat} (x : BitVec w) (k : Nat) : x <<< k = BitVec.ofNat w (x.toNat * 2 ^ k) :=
  BitVec.eq_of_toNat_eq (by rw [BitVec.toNat_shiftLeft, BitVec.toNat_ofNat, Nat.shiftLeft_eq])

theorem ushiftRight_eq_ofNat {w : Nat} (x : BitVec w) (k : Nat) : x >>> k = BitVec.ofNat w (x.toNat / 2 ^ k) := by
  have hlt : x.toNat / 2 ^ k < 2 ^ w := (Nat.div_le_self ..).trans_lt x.isLt
  exact BitVec.eq_of_toNat_eq (by rw [BitVec.toNat_ushiftRight, BitVec.toNat_ofNat, Nat.shiftRight_eq_div_pow, Nat.mod_eq_of_lt hlt])

/-- A rotation is the sum of its two parts, which share no bit. -/
theorem rotateLeft_eq_ofNat {w : Nat} (x : BitVec w) {k : Nat} (hk : k < w) :
    x.rotateLeft k = BitVec.ofNat w (x.toNat * 2 ^ k + x.toNat / 2 ^ (w - k)) := by
  have hdisj : x <<< k &&& x >>> (w - k) = 0#w := by
    refine BitVec.eq_of_getLsbD_eq fun i _ => ?_
    rw [BitVec.getLsbD_and, BitVec.getLsbD_shiftLeft, BitVec.getLsbD_ushiftRight, BitVec.getLsbD_zero]
    by_cases h : i < k
    · simp [h]
    · simp [BitVec.getLsbD_of_ge x (w - k + i) (by omega)]
  rw [BitVec.rotateLeft_def, Nat.mod_eq_of_lt hk, ← BitVec.add_eq_or_of_and_eq_zero _ _ hdisj, shiftLeft_eq_ofNat, ushiftRight_eq_ofNat,
    BitVec.ofNat_add]

theorem nswapOf_eq_ofNat (a : Cell) : nswapOf a = BitVec.ofNat 18 (a.toNat % 512 * 512 + a.toNat / 512) := by
  rw [nswapOf, rotateLeft_eq_ofNat a (by decide)]
  apply BitVec.eq_of_toNat_eq
  simp only [BitVec.toNat_ofNat]
  omega

theorem be16FromOf_eq_ofNat (a : Cell) : be16FromOf a = BitVec.ofNat 18 (a.toNat % 256 * 256 + a.toNat / 512 % 256) := by
  simp [be16FromOf, fld]

theorem toBe16Of_eq_ofNat (a : Cell) : toBe16Of a = BitVec.ofNat 18 (a.toNat / 256 % 256 + a.toNat % 256 * 512) := by
  simp [toBe16Of, fld]

/-! ## Bits counted (R187) -/

theorem popFrom_eq_countP {w : Nat} (x : BitVec w) (n : Nat) : popFrom x n = (List.range n).countP fun i => x.getLsbD i := by
  induction n with
  | zero => rfl
  | succ n ih =>
    rw [popFrom, ih, List.range_succ, List.countP_append, List.countP_singleton, Nat.add_comm]
    rfl

/-- The zeros counted from bit n - 1 down: all of them zero, and the bit below them one. -/
theorem clzFrom_spec {w : Nat} (x : BitVec w) (n : Nat) :
    clzFrom x n ≤ n ∧ (∀ i < n, n - clzFrom x n ≤ i → x.getLsbD i = false) ∧
      (clzFrom x n < n → x.getLsbD (n - 1 - clzFrom x n) = true) := by
  induction n with
  | zero => simp [clzFrom]
  | succ n ih =>
    obtain ⟨hle, hzero, hone⟩ := ih
    by_cases hb : bit x n = true
    · rw [clzFrom, if_pos hb]
      exact ⟨Nat.zero_le _, fun i hi hge => by omega, fun _ => hb⟩
    · rw [clzFrom, if_neg hb]
      refine ⟨by omega, fun i hi hge => ?_, fun hlt => ?_⟩
      · rcases Nat.lt_succ_iff_lt_or_eq.mp hi with hi | rfl
        · exact hzero i hi (by omega)
        · exact eq_false_of_ne_true hb
      · rw [show n + 1 - 1 - (clzFrom x n + 1) = n - 1 - clzFrom x n by omega]
        exact hone (by omega)

/-- A count of a cell's bits is zero where its cell is. -/
theorem ofNat_beq_zero {n : Nat} (h : n ≤ 18) : (BitVec.ofNat 18 n == 0) = (n == 0) := by
  rw [Bool.eq_iff_iff, beq_iff_eq, beq_iff_eq, ← BitVec.toNat_inj, BitVec.toNat_ofNat, Nat.mod_eq_of_lt (by omega)]
  rfl

/-! ## Products and division (R189) -/

theorem setWidth_mul_setWidth (a b : Cell) : a.setWidth 36 * b.setWidth 36 = BitVec.ofNat 36 (a.toNat * b.toNat) := by
  rw [BitVec.ofNat_mul, BitVec.ofNat_toNat, BitVec.ofNat_toNat]

theorem signExtend_mul_signExtend (a b : Cell) : a.signExtend 36 * b.signExtend 36 = BitVec.ofInt 36 (a.toInt * b.toInt) := by
  rw [BitVec.ofInt_mul]
  rfl

theorem dstepOf_eq (h l v : Cell) :
    dstepOf h l v =
      let w := 2 * h.toNat + (if l.getLsbD 17 then 1 else 0)
      let vf := decide (v.toNat = 0 ∨ v.toNat ≤ h.toNat)
      if v.toNat ≤ w then (BitVec.ofNat 18 (w - v.toNat), BitVec.ofNat 18 (2 * l.toNat + 1), true, vf)
      else (BitVec.ofNat 18 w, BitVec.ofNat 18 (2 * l.toNat), false, vf) := by
  have hvf : (decide (v = 0) || decide (v.toNat ≤ h.toNat)) = decide (v.toNat = 0 ∨ v.toNat ≤ h.toNat) := by
    rw [Bool.decide_or, decide_eq_decide.mpr (BitVec.toNat_eq (x := v) (y := 0))]
    rfl
  rw [dstepOf, hvf, BitVec.msb_eq_getLsbD_last]
  rfl

/-! ## Instructions that write N and Z -/

section
variable {s : State} {t : Tid} {n : Nat} {ds : List Cell} (hds : (s.m.thr t).bank.ds = ds)
include hds

/-- An operation that leaves a cell with its N and Z, by the stack that it finds. -/
theorem alu_nz {f : Bank → AluOut 18} {c : Cell} (h : Issues s t (dEff n 1)) (ho : f { (s.m.thr t).bank with ds := ds } = aluNz c) :
    onThread t s (fun m => m.alu t n f) =
      ends s t ((s.m.thr t).withDsFlg (c :: ds.drop n) (resultNz (s.m.thr t).bank.flg c)) 1 := by
  subst hds
  rw [alu_ends h, ho]
  rfl

/-- An operation that leaves a double with its N and Z. -/
theorem aluD_nz {f : Bank → AluOut 36} {d : Dbl} (h : Issues s t (dEff n 2)) (ho : f { (s.m.thr t).bank with ds := ds } = aluNz d) :
    onThread t s (fun m => m.aluD t n f) =
      ends s t ((s.m.thr t).withDsFlg (topD d (ds.drop n)) (resultNz (s.m.thr t).bank.flg d)) 1 := by
  subst hds
  rw [aluD_ends h, ho]
  rfl

end

/-- A count, which writes Z alone. -/
theorem countOp_ends {s : State} {t : Tid} {a : Cell} {r : List Cell} {f : Cell → Nat} (hds : (s.m.thr t).bank.ds = a :: r)
    (h : Issues s t (dEff 1 1)) (hf : f a ≤ 18) : onThread t s (fun m => m.countOp t f) =
      ends s t ((s.m.thr t).withDsFlg (BitVec.ofNat 18 (f a) :: r) (setBit (s.m.thr t).bank.flg 3 (f a == 0))) 1 := by
  have hr : (s.m.thr t).bank.ds.drop 1 = r := congrArg (List.drop 1) hds
  rw [← ofNat_beq_zero hf, ← hr, ← at_zero_of_cons hds]
  exact onBank_ends h

theorem absOp_ends {s : State} {t : Tid} {a : Cell} {r : List Cell} (hds : (s.m.thr t).bank.ds = a :: r) (h : Issues s t (dEff 1 1)) :
    exec (.absOp t) s = ends s t ((s.m.thr t).withDsFlg (BitVec.ofInt 18 a.toInt.natAbs :: r)
      (setBit (resultNz (s.m.thr t).bank.flg (BitVec.ofInt 18 a.toInt.natAbs)) 1 (a.toInt == -131072))) 1 := by
  have hr : (s.m.thr t).bank.ds.drop 1 = r := congrArg (List.drop 1) hds
  refine (alu_ends h).trans ?_
  rw [at_zero_of_cons hds, aluAbs_eq, hr]
  rfl

theorem dstep_ends {s : State} {t : Tid} {h l v : Cell} {r : List Cell} (hds : (s.m.thr t).bank.ds = v :: h :: l :: r)
    (hi : Issues s t (dEff 3 3)) : exec (.dstep t) s =
      let (hi, lo, c, vf) := dstepOf h l v
      ends s t ((s.m.thr t).withDsFlg (v :: hi :: lo :: r) (setBit (setBit (s.m.thr t).bank.flg 2 c) 1 vf)) 1 := by
  have hcells : (s.m.thr t).bank.at_ 0 = v ∧ (s.m.thr t).bank.at_ 1 = h ∧ (s.m.thr t).bank.at_ 2 = l := by simp [Bank.at_, hds]
  have hr : (s.m.thr t).bank.ds.drop 3 = r := congrArg (List.drop 3) hds
  obtain ⟨hv, hh, hl⟩ := hcells
  rw [← hr, ← hv, ← hh, ← hl]
  exact onBank_ends hi

/-! ## The statement -/

/-- Settles O10: each instruction's result, by the values of the cells that it finds. -/
theorem logicProductsDivision : Obligations.LogicProductsDivision := by
  unfold Obligations.LogicProductsDivision
  constructor
  · intro s t a b r x f out count
    refine ⟨fun hds h => ⟨?_, ?_, ?_, ?_, ?_⟩, fun hds h => ⟨?_, ?_, absOp_ends hds h, ?_, ?_, ?_, ?_, clzOf a, ?_⟩⟩
    · exact alu_nz hds h (by rfl)
    · exact alu_nz hds h (by rfl)
    · exact alu_nz hds h (by rfl)
    · exact alu_nz hds h (congrArg aluNz (aluMin_eq_ofInt a b))
    · exact alu_nz hds h (congrArg aluNz (aluMax_eq_ofInt a b))
    · exact alu_nz hds h (by rfl)
    · exact alu_nz hds h (by rfl)
    · exact alu_nz hds h (congrArg aluNz (nswapOf_eq_ofNat a))
    · exact alu_nz hds h (congrArg aluNz (be16FromOf_eq_ofNat a))
    · exact alu_nz hds h (congrArg aluNz (toBe16Of_eq_ofNat a))
    · have hle : popOf a ≤ 18 := by
        rw [popOf, popFrom_eq_countP]
        exact List.countP_le_length.trans_eq List.length_range
      rw [← popFrom_eq_countP]
      exact countOp_ends hds h hle
    · obtain ⟨hle, hzero, hone⟩ := clzFrom_spec a 18
      exact ⟨hle, hzero, hone, countOp_ends hds h hle⟩
  · intro s t a b h l v r x f out w vf
    refine ⟨fun hds hi => ⟨?_, ?_⟩, fun hds hi => ?_⟩
    · exact aluD_nz hds hi (congrArg aluNz (setWidth_mul_setWidth a b))
    · exact aluD_nz hds hi (congrArg aluNz (signExtend_mul_signExtend a b))
    · rw [dstep_ends hds hi, dstepOf_eq]
      by_cases hv : v.toNat ≤ w
      · rw [if_pos hv, if_pos hv]
      · rw [if_neg hv, if_neg hv]

end Sys2Proof.Machine

/-!
PROOFS. Shifts and widenings (O11, R188, R190): each shift's result and flags by the value of its count, at any width.
-/
namespace Sys2Proof.Machine

/-! ## What a shift leaves -/

/-- An output of a shift that leaves the cell r, and with it C as `resultNzc` has it. -/
def AluOut.IsShift {w : Nat} (o : AluOut w) (r : BitVec w) (keep c : Bool) : Prop :=
  o.r = r ∧ o.c = (if keep then none else some c) ∧ o.v = none

theorem AluOut.IsShift.flags {w : Nat} {o : AluOut w} {r : BitVec w} {keep c : Bool} (h : o.IsShift r keep c) (f : Cell) :
    setNzcv f o = resultNzc f r keep c := by
  obtain ⟨r, c', v⟩ := o
  obtain ⟨rfl, rfl, rfl⟩ := h
  cases keep <;> rfl

section
variable {w : Nat} (x : BitVec w) (n : Nat)

theorem aluShl_isShift : (aluShl x n).IsShift (BitVec.ofNat w (x.toNat * 2 ^ n)) (n == 0) (decide (n < w) && x.getLsbD (w - n)) := by
  rw [aluShl, ← shiftLeft_eq_ofNat]
  by_cases h0 : n = 0
  · subst h0
    exact ⟨(BitVec.shiftLeft_zero x).symm, rfl, rfl⟩
  · rw [if_neg h0, beq_false_of_ne h0]
    by_cases hw : w ≤ n
    · rw [if_pos hw, decide_eq_false hw.not_gt]
      exact ⟨(BitVec.shiftLeft_eq_zero hw).symm, rfl, rfl⟩
    · rw [if_neg hw, decide_eq_true (not_le.mp hw)]
      exact ⟨rfl, rfl, rfl⟩

theorem aluShr_isShift : (aluShr x n).IsShift (BitVec.ofNat w (x.toNat / 2 ^ n)) (n == 0) (decide (n < w) && x.getLsbD (n - 1)) := by
  rw [aluShr, ← ushiftRight_eq_ofNat]
  by_cases h0 : n = 0
  · subst h0
    exact ⟨(BitVec.ushiftRight_zero x).symm, rfl, rfl⟩
  · rw [if_neg h0, beq_false_of_ne h0]
    by_cases hw : w ≤ n
    · rw [if_pos hw, decide_eq_false hw.not_gt]
      exact ⟨(BitVec.ushiftRight_eq_zero hw).symm, rfl, rfl⟩
    · rw [if_neg hw, decide_eq_true (not_le.mp hw)]
      exact ⟨rfl, rfl, rfl⟩

theorem sshiftRight_eq_ofInt : x.sshiftRight n = BitVec.ofInt w (x.toInt / 2 ^ n) := by
  rw [BitVec.sshiftRight_eq, Int.shiftRight_eq_div_pow]
  push_cast
  rfl

/-- From the width up only copies of the top bit are left. -/
theorem sshiftRight_of_width_le {n : Nat} (h : w ≤ n) : x.sshiftRight n = if x.msb then BitVec.allOnes w else 0 := by
  refine BitVec.eq_of_getLsbD_eq fun i hi => ?_
  rw [BitVec.getLsbD_sshiftRight, if_neg (by omega), decide_eq_false (by omega)]
  cases x.msb
  · simp
  · simp [hi]

theorem aluSar_isShift : (aluSar x n).IsShift (BitVec.ofInt w (x.toInt / 2 ^ n)) (n == 0) (x.getLsbD (min (w - 1) (n - 1))) := by
  rw [aluSar, ← sshiftRight_eq_ofInt]
  by_cases h0 : n = 0
  · subst h0
    exact ⟨(BitVec.sshiftRight_zero).symm, rfl, rfl⟩
  · rw [if_neg h0, beq_false_of_ne h0]
    by_cases hw : w ≤ n
    · rw [if_pos hw, min_eq_left (by omega), ← BitVec.msb_eq_getLsbD_last]
      exact ⟨(sshiftRight_of_width_le x hw).symm, rfl, rfl⟩
    · rw [if_neg hw, min_eq_right (by omega)]
      exact ⟨rfl, rfl, rfl⟩

end

theorem aluRol_isShift {w : Nat} (hw : 0 < w) (x : BitVec w) (n : Nat) :
    (aluRol x n).IsShift (BitVec.ofNat w (x.toNat * 2 ^ (n % w) + x.toNat / 2 ^ (w - n % w))) (n % w == 0) (x.getLsbD (w - n % w)) := by
  have hlt : n % w < w := Nat.mod_lt n hw
  rw [aluRol, ← rotateLeft_eq_ofNat x hlt]
  by_cases h0 : n % w = 0
  · rw [h0, if_pos rfl]
    exact ⟨by simp [BitVec.rotateLeft_def, BitVec.ushiftRight_eq_zero], rfl, rfl⟩
  · have hbit : bit (x.rotateLeft (n % w)) 0 = x.getLsbD (w - n % w) := by
      rw [bit, BitVec.getLsbD_rotateLeft, Nat.mod_mod, decide_eq_true (Nat.pos_of_ne_zero h0), cond_true, Nat.add_zero]
    rw [if_neg h0, beq_false_of_ne h0]
    exact ⟨rfl, congrArg some hbit, rfl⟩

/-! ## The instructions -/

section
variable {s : State} {t : Tid} {n : Nat} {ds : List Cell} {keep c : Bool} (hds : (s.m.thr t).bank.ds = ds)
include hds

/-- A shift of a cell, by the stack that it finds. -/
theorem alu_shifts {f : Bank → AluOut 18} {v : Cell} (h : Issues s t (dEff n 1))
    (ho : (f { (s.m.thr t).bank with ds := ds }).IsShift v keep c) : onThread t s (fun m => m.alu t n f) =
      ends s t ((s.m.thr t).withDsFlg (v :: ds.drop n) (resultNzc (s.m.thr t).bank.flg v keep c)) 1 := by
  subst hds
  rw [alu_ends h, ho.flags, ho.1]

/-- A shift of a double. -/
theorem aluD_shifts {f : Bank → AluOut 36} {v : Dbl} (h : Issues s t (dEff n 2))
    (ho : (f { (s.m.thr t).bank with ds := ds }).IsShift v keep c) : onThread t s (fun m => m.aluD t n f) =
      ends s t ((s.m.thr t).withDsFlg (topD v (ds.drop n)) (resultNzc (s.m.thr t).bank.flg v keep c)) 1 := by
  subst hds
  rw [aluD_ends h, ho.flags, ho.1]
  rfl

end

/-! ## The statement -/

/-- Settles O11: each instruction is a shift by the count that it finds in bits 4:0 or 5:0 of its top cell. -/
theorem shifts : Obligations.Shifts := by
  unfold Obligations.Shifts
  constructor
  · intro s t v n r x k out hds h
    have hk : fld n 4 0 = k := fld_bottom n 4
    refine ⟨?_, ?_, ?_, ?_⟩
    · exact alu_shifts hds h (hk ▸ aluShl_isShift v _)
    · exact alu_shifts hds h (hk ▸ aluShr_isShift v _)
    · exact alu_shifts hds h (hk ▸ aluSar_isShift v _)
    · exact alu_shifts hds h (hk ▸ aluRol_isShift (by decide) v _)
  · intro s t v n r x k out
    have hk : fld n 5 0 = k := fld_bottom n 5
    have hv : ({ x.bank with ds := n :: topD v r } : Bank).dblAt 1 = v := dblAt_of_drop rfl
    refine ⟨fun hds h => ⟨?_, ?_, ?_⟩, fun hds h => ?_⟩
    · exact aluD_shifts hds h (by rw [hv]; exact hk ▸ aluShl_isShift v _)
    · exact aluD_shifts hds h (by rw [hv]; exact hk ▸ aluShr_isShift v _)
    · exact aluD_shifts hds h (by rw [hv]; exact hk ▸ aluSar_isShift v _)
    · have hr : x.bank.ds.drop 1 = r := congrArg (List.drop 1) hds
      rw [← hr, ← at_zero_of_cons hds, BitVec.ofNat_toNat]
      exact ⟨onBank_ends h, onBank_ends h⟩

end Sys2Proof.Machine

/-!
PROOFS. Control transfer (O15, O16, R196 to R199): the tests of a branch and where it leaves P; calls, jumps and `ret`.
-/
namespace Sys2Proof.Machine

/-! ## Branches (R196 to R199) -/

/-- The tests of a branch in the order of their codes. -/
def condTests (f : Cell) : List Bool :=
  let n := bit f 4
  let z := bit f 3
  let c := bit f 2
  let v := bit f 1
  [z, !z, c, !c, n, !n, v, !v, !c && !z, c || z, n == v, n != v, !z && n == v, z || n != v, true, bit f 0]

theorem condHolds_eq_getD (f : Cell) (cc : BitVec 4) : condHolds f cc = (condTests f).getD cc.toNat false := by
  have hlt : cc.toNat < 16 := cc.isLt
  rw [condHolds]
  generalize cc.toNat = k at hlt
  interval_cases k <;> rfl

theorem branchOff_eq (long : Bool) (off : Cell) :
    branchOff long off = if long then off.toInt else (BitVec.ofNat 9 off.toNat).toInt := by
  rw [branchOff, BitVec.ofNat_toNat]

/-- P after a branch that is or is not taken (R198). -/
def branchDest (p : BitVec 21) (long : Bool) (off : Cell) (taken : Bool) : BitVec 21 :=
  p + BitVec.ofNat 21 (branchLen long) + (if taken then BitVec.ofInt 21 (branchOff long off) else 0)

theorem branch_eq (m : Mach) (t : Tid) (x : Thread) (long : Bool) (off : Cell) (learn taken : Bool) :
    m.branch t x long off learn taken =
      let n := m.retire t { x with p := branchDest (m.thr t).p long off taken } 0
      if learn then n.branchDone m t ((m.thr t).p.toNat % 0x100000) (decide (branchOff long off < 0)) taken else n := by
  cases taken
  · have hnext : branchDest (m.thr t).p long off false = (m.thr t).p + BitVec.ofNat 21 (branchLen long) := add_zero _
    rw [hnext]
    rfl
  · rfl

/-! ## The return stack's predictor (R232, R243) -/

/-- A return address predicted wrong changes counts, and uses up a free value. -/
theorem retMissed_changes (m : Mach) (k n : Nat) :
    ∃ counts, ((m.coreCount k 2 1).coreCount k 3 n).take = { m with counts := counts, free := m.free + 1 } := by
  have hcount (m : Mach) (j n : Nat) : ∃ counts, m.coreCount k j n = { m with counts := counts } := ⟨_, coreCount_changes ..⟩
  obtain ⟨_, hmiss⟩ := hcount m 2 1
  obtain ⟨counts, hwrong⟩ := hcount (m.coreCount k 2 1) 3 n
  exact ⟨counts, by rw [hwrong, hmiss]; rfl⟩

/-- What the predictor makes of a `ret` that found the entry e. -/
def Mach.retLearn (m : Mach) (t : Tid) (tops : List CAddr) (e : CAddr) : Mach :=
  if !(tops.any fun o => o != e) then m
  else if Config.retMissed m.free then
    ((m.coreCount (Tid.coreNo t) 2 1).coreCount (Tid.coreNo t) 3 (min 2 (Config.wrongPath m.free).toNat)).take
  else m.take

theorem retLearn_changes (m : Mach) (t : Tid) (tops : List CAddr) (e : CAddr) :
    ∃ counts free, m.retLearn t tops e = { m with counts := counts, free := free } := by
  unfold Mach.retLearn
  split
  · exact ⟨m.counts, m.free, rfl⟩
  · split
    · obtain ⟨counts, hc⟩ := retMissed_changes m (Tid.coreNo t) (min 2 (Config.wrongPath m.free).toNat)
      exact ⟨counts, m.free + 1, hc⟩
    · exact ⟨m.counts, m.free + 1, rfl⟩

theorem ret_pops {s : State} {t : Tid} {e : CAddr} {q : List CAddr} (hrs : (s.m.thr t).bank.rs = e :: q)
    (h : Issues s t ⟨0, 0, 1, 0⟩) : exec (.ret t) s = s.becomes (((s.m.chosen t).retireAt t
      { (s.m.thr t).setBank { (s.m.thr t).bank with rs := q } with p := e.setWidth 21 }).retLearn t (s.m.thr t).tops e) := by
  have hq : (s.m.thr t).bank.rs.drop 1 = q := congrArg (List.drop 1) hrs
  have he : (s.m.thr t).bank.rs.getD 0 0 = e := by rw [hrs]; rfl
  refine (issue_ends h).trans ?_
  simp only [Mach.chosen_thr, he, hq]
  rfl

/-! ## A thread's bank put back -/

theorem Thread.setBank_self (x : Thread) : x.setBank x.bank = x := by
  unfold Thread.setBank Thread.bank
  split <;> rfl

/-! ## The statements -/

/-- Settles O15: both branches end in `Mach.branch`. -/
theorem branchesAndLoop : Obligations.Branches := by
  unfold Obligations.Branches
  intro s t cc long off x n z c v tests len d dest goes h
  have hd : d = branchOff long off := (branchOff_eq long off).symm
  have hgoes (y : Thread) (taken learn : Bool) : goes y taken learn = s.becomes ((s.m.chosen t).branch t y long off learn taken) := by
    rw [branch_eq, Mach.chosen_thr, branchDest, ← hd]
    rfl
  have htest : tests.getD cc.toNat false = condHolds x.flg cc := (condHolds_eq_getD x.flg cc).symm
  have hloop : (x.i != 1) = (x.i - 1 != 0) := by
    have hbeq : (x.i == 1) = (x.i - 1 == 0) := by
      rw [Bool.eq_iff_iff, beq_iff_eq, beq_iff_eq]
      exact sub_eq_zero.symm
    exact congrArg not hbeq
  rw [hgoes, hgoes, htest, hloop]
  exact ⟨issue_ends h, issue_ends h⟩

/-- Settles O16: each instruction replaces the active bank and P. -/
theorem callsAndReturns : Obligations.CallsAndReturns := by
  unfold Obligations.CallsAndReturns
  intro s t a d r e q x b lands
  have hnext (n : Nat) : BitVec.ofNat 20 (x.p.toNat + n) = (x.p + BitVec.ofNat 21 n).setWidth 20 := by
    refine BitVec.eq_of_toNat_eq ?_
    simp only [BitVec.toNat_ofNat, BitVec.toNat_setWidth, BitVec.toNat_add]
    omega
  have hlands (bank : Bank) (p : CAddr) :
      lands bank p = s.becomes ((s.m.chosen t).retireAt t { x.setBank bank with p := p.setWidth 21 }) := by
    rw [← BitVec.ofNat_toNat]
    rfl
  have hdbl (hds : b.ds = topD d r) : (b.dblAt 0).setWidth 20 = BitVec.ofNat 20 d.toNat ∧ b.ds.drop 2 = r := by
    rw [dblAt_of_drop (n := 0) hds, BitVec.ofNat_toNat]
    exact ⟨rfl, congrArg (List.drop 2) hds⟩
  refine ⟨fun h => ?_, fun h => ?_, fun hds h => ?_, fun hds h => ?_, fun hrs h => ?_⟩
  · rw [hnext, hlands]
    exact issue_ends h
  · rw [hlands, Thread.setBank_self]
    exact issue_ends h
  · obtain ⟨hp, hr⟩ := hdbl hds
    rw [hnext, hlands, ← hp, ← hr]
    exact issue_ends h
  · obtain ⟨hp, hr⟩ := hdbl hds
    rw [hlands, ← hp, ← hr]
    exact issue_ends h
  · obtain ⟨counts, free, hlearn⟩ := retLearn_changes ((s.m.chosen t).retireAt t
      { x.setBank { b with rs := q } with p := e.setWidth 21 }) t x.tops e
    refine ⟨counts, free, (ret_pops hrs h).trans ?_⟩
    rw [hlearn, BitVec.ofNat_toNat]
    rfl

end Sys2Proof.Machine

/-!
PROOFS. The Tally (O29, R212, R263, R272 to R289): the end of every Tally syllable that issues with no lazy save to make, and how the
oldest operation completes.
-/
namespace Sys2Proof.Machine

/-! ## Syllables that issue (R212, R263) -/

section
variable {s : State} {t : Tid} {e : Effect} (h : Issues s t e) (free : s.m.saveDue t = false)
include h free

/-- Where no lazy save is due a Tally syllable that issues acts at once. -/
theorem withSave_ends (f : Mach → Mach) :
    onThread t s (fun m => m.issue t e fun m => m.withSave t f) = s.becomes (f (s.m.chosen t)) := by
  refine (issue_ends h).trans (congrArg s.becomes ?_)
  exact Mach.withSave_of_done ((Mach.chosen_saveDue ..).trans free)

end

/-! ## Operations that are issued (R275, R277, R288) -/

/-- The block once the operations that write one of the registers have completed. -/
def Mach.drainedFor (m : Mach) (t : Tid) (regs : List Nat) : Mach :=
  if regs.any (m.thr t).tally.writes then m.drainTally t else m

/-- The operation that a syllable adds to its thread's queue. -/
def Thread.tallyOp (x : Thread) (syl fd fa : Nat) (v : TallyOut) : TallyOp :=
  ⟨BitVec.ofNat 9 syl, x.p, BitVec.ofNat 3 fd, v.fd, v.fa.map fun d => (BitVec.ofNat 3 fa, d), v.exc, x.tallyNow.enables, true,
    bit x.flg 14 && x.tallyNow.enables != 0⟩

/-- A thread with one more operation in its queue. -/
def Thread.withTallyOp (x : Thread) (q : TallyOp) : Thread := { x with tally := { x.tally with queue := x.tally.queue ++ [q] } }

/-- An operation issued once those that it depends on have completed. -/
def Mach.placesOp (n : Mach) (t : Tid) (fresh : Bool) (q : TallyOp) (pop : Nat) : Mach :=
  (if fresh then n.take else n).retireTally t (((n.thr t).withTallyOp q).setBank ((n.thr t).bank.pop pop)) q.precise

theorem tallyIssue_ends {s : State} {t : Tid} {e : Effect} (h : Issues s t e) (free : s.m.saveDue t = false) (syl : Nat) (regs : List Nat)
    (fd fa : Nat) (f : Mach → Tally → Bank → TallyOut) (pop : Nat) (fresh : Bool) :
    onThread t s (fun m => m.tallyIssue t e syl regs fd fa f pop fresh) =
      let n := (s.m.chosen t).drainedFor t regs
      let x := n.thr t
      s.becomes (n.placesOp t fresh (x.tallyOp syl fd fa (f n x.tallyNow x.bank)) pop) :=
  withSave_ends h free _

section
variable {s : State} {t : Tid} (h : Issues s t (dEff 0 0)) (free : s.m.saveDue t = false) (half : Bool) (k : Nat) (o : Nonet)
include h free

/-- An operation on two values of a format. -/
theorem tallyBin_ends (f : Fmt → Nat → Nat → Nat → Nat × Exc) :
    onThread t s (fun m => m.tallyBin t half k o f) =
      let w := if half then 2 ^ 16 else 2 ^ 32
      let n := (s.m.chosen t).drainedFor t [opFd o, opFa o, opFb o]
      let y := (n.thr t).tallyNow
      s.becomes (n.placesOp t false ((n.thr t).tallyOp ((if half then 0x174 else 0x168) + k) (opFd o) 0
        (outNat (f (fmtOf half) y.rm ((y.reg (opFa o)).toNat % w) ((y.reg (opFb o)).toNat % w)))) 0) := by
  simp only [Mach.tallyBin]
  exact tallyIssue_ends h free ..

/-- An operation on the 36 bits of a register. -/
theorem tallyUn_ends (f : Fmt → Nat → Dbl → TallyOut) :
    onThread t s (fun m => m.tallyUn t half k o f) =
      let n := (s.m.chosen t).drainedFor t [opFd o, opFa o]
      let y := (n.thr t).tallyNow
      s.becomes (n.placesOp t false ((n.thr t).tallyOp ((if half then 0x174 else 0x168) + k) (opFd o) 0
        (f (fmtOf half) y.rm (y.reg (opFa o)))) 0) := by
  simp only [Mach.tallyUn]
  exact tallyIssue_ends h free ..

end

/-! ## Completion (R277, R289) -/

section
variable {m : Mach} {t : Tid} {p : TallyOp} {r : List TallyOp} (hq : (m.thr t).tally.queue = p :: r)
include hq

/-- The precise trap of an enabled exception stands for the operation's completion. -/
theorem tallyComplete_traps (hp : p.precise = true) (he : p.exc &&& p.enabled ≠ 0) (hf : (m.thr t).faulted = false) :
    m.tallyComplete t = (m.setThr t { m.thr t with p := p.pc, tally := { (m.thr t).tally with queue := r } }).trap t 9
      (p.syl.toNat * 512 + p.exc.toNat) 0 := by
  have htrap : (p.precise && p.exc &&& p.enabled != 0 && !(m.thr t).faulted) = true := by
    rw [hp, hf, bne_iff_ne.mpr he]
    rfl
  rw [Mach.tallyComplete]
  simp only [hq]
  exact if_pos htrap

/-- Any other operation writes its registers and accrues its exceptions, and a thread that it held may end a single step. -/
theorem tallyComplete_completes (h : p.precise = false ∨ p.exc &&& p.enabled = 0) :
    m.tallyComplete t = (m.setThr t (if p.precise then Thread.stepEnd { m.thr t with tally := (m.thr t).tally.completeOne }
      else { m.thr t with tally := (m.thr t).tally.completeOne })).coreCount (Tid.coreNo t) 8 1 := by
  have htrap : ¬ (p.precise && p.exc &&& p.enabled != 0 && !(m.thr t).faulted) = true := by
    rcases h with h | h <;> simp [h]
  rw [Mach.tallyComplete]
  simp only [hq]
  exact if_neg htrap

end

theorem tallyComplete_ends {s : State} {t : Tid} (hok : Tid.ok t = true) : exec (.tallyComplete t) s = s.becomes (s.m.tallyComplete t) :=
  onThread_of_ok (f := fun m => m.tallyComplete t) hok

/-! ## The statement -/

/-- Settles O29: each syllable is `tallyIssue_ends` or `withSave_ends`, and the oldest operation traps or completes. -/
theorem tallyOperations : Obligations.TallyOperations := by
  unfold Obligations.TallyOperations
  constructor
  · intro s t o p r m free n n2 x x2 d y z x0 op join
    have hdrain : m.drainedFor t [opFd o] = n := by
      rw [Mach.drainedFor, List.any_cons, List.any_nil, Bool.or_false]
    refine ⟨fun hs h => ?_, fun hs h => ?_, fun hs h => ?_, fun hs h => ?_, fun hs h => ?_,
      fun hok hq => ⟨fun hp he hf => ?_, fun hp => ?_, fun hp he => ?_⟩⟩
    · refine (tallyIssue_ends h hs ..).trans ?_
      rw [hdrain]
      rfl
    · exact (tallyIssue_ends h hs ..).trans rfl
    · exact withSave_ends h hs _
    · exact withSave_ends h hs _
    · exact withSave_ends h hs _
    · rw [tallyComplete_ends hok, tallyComplete_traps hq hp he hf]
    · rw [tallyComplete_ends hok, tallyComplete_completes hq (.inl hp), if_neg (by simp [hp])]
    · rw [tallyComplete_ends hok, tallyComplete_completes hq (.inr he), if_pos hp]
  · intro s t o half h hs m base f g placed two one
    refine ⟨?_, ?_, ?_, ?_, ?_, ?_, ?_, ?_, ?_, ?_, ?_, ?_, ?_⟩
    · exact tallyBin_ends h hs half 0 o Fmt.add
    · exact tallyBin_ends h hs half 1 o Fmt.sub
    · exact tallyBin_ends h hs half 2 o Fmt.mul
    · exact tallyIssue_ends h hs ..
    · exact tallyBin_ends h hs half 4 o fun f _ => f.minMax false
    · exact tallyBin_ends h hs half 5 o fun f _ => f.minMax true
    · exact tallyBin_ends h hs half 6 o fun f _ => f.cmp
    · exact tallyUn_ends h hs half 8 o _
    · exact tallyUn_ends h hs half 9 o _
    · exact tallyUn_ends h hs half 10 o _
    · exact tallyUn_ends h hs half 11 o _
    · exact tallyIssue_ends h hs ..
    · exact tallyIssue_ends h hs ..

end Sys2Proof.Machine

/-!
PROOFS. Customer routines (O28, R214, R224, R225, R295, R308, R309, R311): what a customer syllable starts, the microword that ends a
routine, the resumption of a paused one and the yield watchdog.
-/
namespace Sys2Proof.Machine

/-! ## A thread written back as it stands -/

/-- A block that reads as another, whose threads it may list otherwise. -/
def Mach.ReadsAs (n m : Mach) : Prop := n = { m with threads := n.threads } ∧ ∀ u, n.thr u = m.thr u

theorem Mach.ReadsAs.refl (m : Mach) : m.ReadsAs m := ⟨rfl, fun _ => rfl⟩

theorem Mach.ReadsAs.setThr {n m : Mach} (h : n.ReadsAs m) (t : Tid) {x : Thread} (hx : x = m.thr t) : (n.setThr t x).ReadsAs m := by
  obtain ⟨hn, hthr⟩ := h
  refine ⟨congrArg (fun k : Mach => { k with threads := (n.setThr t x).threads }) hn, fun u => ?_⟩
  by_cases hu : u = t
  · rw [hu, Mach.setThr_thr_self, hx]
  · rw [Mach.setThr_thr_ne _ _ hu, hthr]

/-! ## The microword END without a nano-word (R299, R304) -/

theorem nanoField_zero (k : Nat) : nanoField 0 k = 0 := by simp [nanoField, fld]

/-- A microword at pc that ends its routine, names the empty nano-word and reads with good parity. -/
def Core.EndsAt (c : Core) (pc : Nat) : Prop :=
  fld (c.micro1 pc) 8 4 = 10 ∧ bit (c.micro1 pc) 0 = false ∧ c.nano1 (fld (c.micro1 pc) 17 9) = 0 ∧ c.fetchBad pc = false

/-- A thread with no response, load or mode change outstanding that is not single-stepped. -/
def Thread.Unhurried (x : Thread) : Prop := x.responses = [] ∧ x.loads = [] ∧ x.modes = [] ∧ x.stepping = false

/-! ### What fields of zero do (R302) -/

theorem microDest_zero (x : Thread) (r : Dbl) (wide : Bool) : x.microDest 0 r wide = x := rfl

theorem guardedDest_zero (x : Thread) (r : Dbl) : x.guardedDest 0 r = false := rfl

theorem microStack_zero (x : Thread) (floor : Nat) (r : Dbl) : x.microStack floor 0 0 r = none := rfl

theorem microStacks_zero (x : Thread) (r : Dbl) : x.microStacks 0 0 r = x := by
  show (x.setBank x.bank).setBank (x.setBank x.bank).bank = x
  rw [Thread.setBank_self, Thread.setBank_self]

theorem microShadow_zero (x : Thread) : x.microShadow 0 = x := rfl

theorem microExt_zero (m : Mach) (t : Tid) (c : Ctx) : m.microExt t c 0 = (m, c) := rfl

theorem microTally_zero (m : Mach) (t : Tid) (cust : Bool) (r : Dbl) : m.microTally t cust 0 r = m := rfl

theorem microMult_zero (m : Mach) (t : Tid) (a b : Dbl) : m.microMult t 0 a b = m := rfl

theorem microState_zero (m : Mach) (t : Tid) : m.microState t 0 = m.setThr t (m.thr t) := rfl

section
variable {m : Mach} {t : Tid} {c : Ctx} (he : (m.core (Tid.coreNo t)).EndsAt c.sh.mpc.toNat)
include he

/-- With nothing outstanding a microword of good parity acts at once. -/
theorem microStep_end (hw : c.waits = false) (hr : (m.thr t).responses = []) : m.microStep t c = m.microAct t c := by
  obtain ⟨hseq, -, -, hbad⟩ := he
  have hdeliver : m.microDeliver t c = (m, c) := by rw [Mach.microDeliver, hr]; rfl
  have hrsp : (m.thr t).awaitsRsp = false := by rw [Thread.awaitsRsp, hr]; rfl
  have hbranch : branches 10 = false := by decide
  simp [Mach.microStep, hw, hbad, hseq, hbranch, hdeliver, hrsp]

/-- The empty nano-word changes nothing: what follows is the sequencing operation's. -/
theorem microAct_of_empty_nano : ∃ (n : Mach) (r : Dbl) (target : Nat), n.ReadsAs m ∧
    m.microAct t c = n.microAfter t c c.sh target (fld ((m.core (Tid.coreNo t)).micro1 c.sh.mpc.toNat) 8 4)
      (fld ((m.core (Tid.coreNo t)).micro1 c.sh.mpc.toNat) 3 0) r id := by
  obtain ⟨-, -, hnano, -⟩ := he
  have hsel : selOf 0 ≠ 3 := by decide
  have hread : (((m.setThr t (m.thr t)).setThr t (m.thr t)).setThr t (m.thr t)).ReadsAs m :=
    (((Mach.ReadsAs.refl m).setThr t rfl).setThr t rfl).setThr t rfl
  refine ⟨_, ?r, ?target, hread, ?acts⟩
  case acts =>
  unfold Mach.microAct
  simp only [hnano, nanoField_zero, Nat.zero_div, Nat.zero_mod, zero_ne_one, if_false, false_and, false_or, and_false, ne_eq, not_true,
    or_self, microDest_zero, guardedDest_zero, Bool.false_eq_true, microStack_zero, microStacks_zero, microShadow_zero, true_or, if_true,
    microExt_zero, microTally_zero, microMult_zero, microState_zero, Mach.setThr_thr_self, hsel, newMf_of_same]
  rfl

/-- END without IMM bit 0 ends the routine at the syllable after its own. -/
theorem microAct_end : ∃ n : Mach, n.ReadsAs m ∧ m.microAct t c = (n.microEnd t c.sh false id, .gone) := by
  obtain ⟨n, r, target, hn, hact⟩ := microAct_of_empty_nano he
  obtain ⟨hseq, hbit, -, -⟩ := he
  have himm : (fld ((m.core (Tid.coreNo t)).micro1 c.sh.mpc.toNat) 3 0 % 2 == 1) = false := by
    rw [bit, BitVec.getLsbD, Nat.testBit_zero, decide_eq_false_iff_not] at hbit
    rw [fld_bottom, beq_eq_false_iff_ne]
    omega
  refine ⟨n, hn, hact.trans ?_⟩
  rw [hseq]
  show ((n.microEnd t c.sh (_ % 2 == 1) id, Micro.gone) : Mach × Micro) = _
  rw [himm]

theorem microRun_end (hw : c.waits = false) (hr : (m.thr t).responses = []) (hran : c.ran < 32) (fuel : Nat) :
    ∃ n : Mach, n.ReadsAs m ∧ m.microRun (fuel + 1) t c = n.microEnd t c.sh false id := by
  obtain ⟨n, hn, hact⟩ := microAct_end he
  refine ⟨n, hn, ?_⟩
  rw [Mach.microRun, if_neg (by omega), microStep_end he hw hr, hact]

end

/-! ## The end of a customer routine (R299, R311) -/

/-- The context of a core that holds a thread's routine. -/
theorem ctxOf_eq_none {m : Mach} {t : Tid} (hmain : ∀ k, (m.core (Tid.coreNo t)).main = some k → k.tid ≠ t)
    (hres : ∀ k, (m.core (Tid.coreNo t)).reserved = some k → k.tid ≠ t) : m.ctxOf t = none := by
  have hfilter : (m.core (Tid.coreNo t)).reserved.filter (fun k => k.tid == t) = none :=
    Option.filter_eq_none_iff.mpr fun k hk => by simp [hres k hk]
  unfold Mach.ctxOf
  dsimp only
  split
  case h_1 k hk => exact (if_neg (hmain k hk)).trans hfilter
  case h_2 => exact hfilter

theorem freeCtx_ctxOf (m : Mach) (t : Tid) : (m.freeCtx t).ctxOf t = none := by
  unfold Mach.freeCtx
  by_cases hin : m.inWindlass t = true
  · rw [if_neg (by simp [hin])]
    apply ctxOf_eq_none
    all_goals
      intro k hk
      rw [Mach.updCore_core_self] at hk
      dsimp only at hk
      split at hk
      · split_ifs at hk with hne
        exact Option.some.inj hk ▸ hne
      · cases hk
  · rw [if_pos (by simp [hin])]
    refine ctxOf_eq_none (fun k hk he => hin ?_) fun k hk he => hin ?_ <;> simp [Mach.inWindlass, hk, he]

/-- A block in which a customer routine of a thread has ended, as it found the block m: its context is free, and the thread has passed its
syllable with a stack of some depth. -/
def Mach.EndsRoutine (n m : Mach) (t : Tid) (depth : Nat) : Prop :=
  (n.thr t).p = (m.thr t).p + 1 ∧ (n.thr t).bank.ds = toDepth 0 (m.thr t).bank.ds depth ∧ (n.thr t).bank.rs = (m.thr t).bank.rs ∧
    (n.thr t).flg = (m.thr t).flg ∧ n.ctxOf t = none ∧ n.mem = m.mem ∧ n.regs = m.regs ∧ ∀ u, u ≠ t → n.thr u = m.thr u

theorem freeCtx_frame (m : Mach) (t : Tid) : (m.freeCtx t).mem = m.mem ∧ (m.freeCtx t).regs = m.regs := by
  unfold Mach.freeCtx
  split <;> exact ⟨rfl, rfl⟩

/-- A thread at the end of its customer routine. -/
def Thread.routineEnd (x : Thread) (h : Shadow) : Thread :=
  { x.setBank { x.bank with ds := toDepth 0 x.bank.ds (h.floor.toNat + h.out.toNat) } with np := none }

theorem Thread.setBank_keeps (x : Thread) (b : Bank) : (x.setBank b).p = x.p ∧ (x.setBank b).loads = x.loads ∧
    (x.setBank b).modes = x.modes ∧ (x.setBank b).stepping = x.stepping ∧ (x.setBank b).mf = x.mf := by
  unfold Thread.setBank
  split <;> exact ⟨rfl, rfl, rfl, rfl, rfl⟩

/-- The end of an instruction that leaves mode and privilege alone, in a thread with nothing outstanding. -/
theorem retire_of_settled {m : Mach} {t : Tid} {x : Thread} (hmf : x.mf = (m.thr t).mf) (hl : x.loads = []) (hm : x.modes = [])
    (hs : x.stepping = false) (hh : x.helm = (m.thr t).helm) (len : Nat) :
    let n := m.retire t x len
    n.thr t = { x with p := x.p + BitVec.ofNat 21 len, waited := 0, tops := ((m.thr t).bank.rs.getD 0 0 :: (m.thr t).tops).take 2 } ∧
      n.cores = m.cores ∧ n.mem = m.mem ∧ n.regs = m.regs ∧ ∀ u, u ≠ t → n.thr u = m.thr u := by
  intro n
  obtain ⟨hsame, -, -, hcores, hthr⟩ := retireFrame m t t x len
  have hret := Thread.retire_of_settled hl hm len
  have hstep : (x.retire len).stepping = false := by rw [hret]; exact hs
  have hhelm : (x.retire len).stepEnd.helm = (m.thr t).helm := by rw [Thread.stepEnd_of_running hstep, hret]; exact hh
  exact ⟨hthr hmf hl hm hs hh, hcores hhelm, (congrArg Mach.mem hsame :), (congrArg Mach.regs hsame :),
    fun u => (retireFrame m t u x len).2.1⟩

theorem Thread.routineEnd_bank (x : Thread) (h : Shadow) :
    (x.routineEnd h).bank = { x.bank with ds := toDepth 0 x.bank.ds (h.floor.toNat + h.out.toNat) } := Thread.setBank_bank ..

theorem microEnd_endsRoutine {m : Mach} {t : Tid} {h : Shadow} (hc : h.cust = true) (hx : (m.thr t).Unhurried) :
    (m.microEnd t h false id).EndsRoutine m t (h.floor.toNat + h.out.toNat) := by
  obtain ⟨-, hloads, hmodes, hstep⟩ := hx
  obtain ⟨hp, hl, hm, hs, hmf⟩ := (m.thr t).setBank_keeps
    { (m.thr t).bank with ds := toDepth 0 (m.thr t).bank.ds (h.floor.toNat + h.out.toNat) }
  have hend : m.microEnd t h false id = (m.freeCtx t).retire t ((m.thr t).routineEnd h) 1 := by
    rw [Mach.microEnd, if_neg Bool.false_ne_true, if_pos hc, freeCtx_thr]
    rfl
  have hhelm : ((m.thr t).routineEnd h).helm = (m.thr t).helm := by rw [Thread.helm, Thread.flg, Thread.routineEnd_bank]; rfl
  obtain ⟨hmem, hregs⟩ := freeCtx_frame m t
  obtain ⟨hthr, hcores, hmem', hregs', hother⟩ := retire_of_settled (m := m.freeCtx t) (t := t) (x := (m.thr t).routineEnd h)
    (by rw [freeCtx_thr]; exact hmf) (hl.trans hloads) (hm.trans hmodes) (hs.trans hstep) (by rw [freeCtx_thr]; exact hhelm) 1
  have hbank : (((m.freeCtx t).retire t ((m.thr t).routineEnd h) 1).thr t).bank = ((m.thr t).routineEnd h).bank := by rw [hthr]; rfl
  have hctx : ((m.freeCtx t).retire t ((m.thr t).routineEnd h) 1).ctxOf t = none := by
    rw [Mach.ctxOf, Mach.core, hcores]
    exact freeCtx_ctxOf m t
  rw [hend, Mach.EndsRoutine, Thread.flg, hbank, Thread.routineEnd_bank]
  refine ⟨?_, rfl, rfl, rfl, hctx, hmem'.trans hmem, hregs'.trans hregs, fun u hu => (hother u hu).trans (freeCtx_thr ..)⟩
  rw [hthr]
  exact congrArg (· + 1) hp

/-- A routine's end as another block sees it that has the same memory, registers and other threads. -/
theorem Mach.EndsRoutine.congr {n a b : Mach} {t : Tid} {depth : Nat} (h : n.EndsRoutine a t depth) (hp : (a.thr t).p = (b.thr t).p)
    (hbank : (a.thr t).bank = (b.thr t).bank) (hflg : (a.thr t).flg = (b.thr t).flg) (hmem : a.mem = b.mem) (hregs : a.regs = b.regs)
    (hother : ∀ u, u ≠ t → a.thr u = b.thr u) : n.EndsRoutine b t depth := by
  obtain ⟨hp', hds, hrs, hflg', hctx, hmem', hregs', hother'⟩ := h
  rw [hbank] at hds hrs
  exact ⟨hp ▸ hp', hds, hrs, hflg'.trans hflg, hctx, hmem'.trans hmem, hregs'.trans hregs,
    fun u hu => (hother' u hu).trans (hother u hu)⟩

/-- A customer routine at a microword END without a nano-word ends with it. -/
theorem microRun_endsRoutine {m : Mach} {t : Tid} {c : Ctx} (he : (m.core (Tid.coreNo t)).EndsAt c.sh.mpc.toNat) (hc : c.sh.cust = true)
    (hw : c.waits = false) (hran : c.ran < 32) (hx : (m.thr t).Unhurried) :
    (m.microRun microFuel t c).EndsRoutine m t (c.sh.floor.toNat + c.sh.out.toNat) := by
  obtain ⟨n, ⟨hn, hthr⟩, hrun⟩ := microRun_end he hw hx.1 hran 255
  have hend : (n.microEnd t c.sh false id).EndsRoutine n t (c.sh.floor.toNat + c.sh.out.toNat) :=
    microEnd_endsRoutine hc (by rw [hthr]; exact hx)
  rw [microFuel, hrun]
  exact hend.congr (by rw [hthr]) (by rw [hthr]) (by rw [hthr]) (congrArg Mach.mem hn :) (congrArg Mach.regs hn :) fun u _ => hthr u

/-! ## A routine takes its context (R224, R225, R214) -/

section
variable {m : Mach} {t : Tid} {syl : Nonet} {h : Shadow}

theorem startCtx_of_busy (hb : m.ctxBusy t = true) : m.startCtx t syl h = m.stall t .context := if_pos hb

theorem startCtx_main (hb : m.ctxBusy t = false) (hu : m.usesReserved t = false) : m.startCtx t syl h =
    (m.updCore (Tid.coreNo t) fun k => { k with main := some ⟨t, syl, h, 0, false, 0, false⟩ }).microRun microFuel t
      ⟨t, syl, h, 0, false, 0, false⟩ := by
  rw [Mach.startCtx]
  simp only [hb, hu, Bool.false_eq_true, if_false]

theorem startCtx_reserved (hb : m.ctxBusy t = false) (hu : m.usesReserved t = true) : m.startCtx t syl h =
    (m.updCore (Tid.coreNo t) fun k => { k with reserved := some ⟨t, syl, h, 0, false, 0, false⟩ }).microRun microFuel t
      ⟨t, syl, h, 0, false, 0, false⟩ := by
  rw [Mach.startCtx]
  simp only [hb, hu, Bool.false_eq_true, if_false, if_true]

/-- A customer routine whose first microword is its END ends in whichever context it takes. -/
theorem startCtx_endsRoutine (hb : m.ctxBusy t = false) (he : (m.core (Tid.coreNo t)).EndsAt h.mpc.toNat) (hc : h.cust = true)
    (hx : (m.thr t).Unhurried) : (m.startCtx t syl h).EndsRoutine m t (h.floor.toNat + h.out.toNat) := by
  have hrun (f : Core → Core) (hf : (f (m.core (Tid.coreNo t))).EndsAt h.mpc.toNat) :
      ((m.updCore (Tid.coreNo t) f).microRun microFuel t ⟨t, syl, h, 0, false, 0, false⟩).EndsRoutine m t
        (h.floor.toNat + h.out.toNat) := by
    have hends := microRun_endsRoutine (m := m.updCore (Tid.coreNo t) f) (c := ⟨t, syl, h, 0, false, 0, false⟩)
      (by rw [Mach.updCore_core_self]; exact hf) hc rfl Nat.ofNat_pos hx
    exact hends.congr rfl rfl rfl rfl rfl fun _ _ => rfl
  by_cases hu : m.usesReserved t = true
  · rw [startCtx_reserved hb hu]; exact hrun _ he
  · rw [startCtx_main hb (Bool.eq_false_iff.mpr hu)]; exact hrun _ he

end

/-! ## The customer syllable (R214, R311) -/

/-- The routine of a customer syllable as its slot's two cells and the stack depth give it. -/
def customShadow (d0 d1 : Cell) (depth : Nat) : Shadow :=
  ⟨0, 0, 0, 0, false, false, false, [], BitVec.ofNat 11 (0x700 + fld d0 7 0), BitVec.ofNat 3 (fld d1 2 0), true,
    BitVec.ofNat 5 (depth - fld d1 5 3)⟩

theorem customShadow_mpc (d0 d1 : Cell) (depth : Nat) : (customShadow d0 d1 depth).mpc.toNat = 0x700 + fld d0 7 0 := by
  have := fld_lt d0 7 0
  exact Nat.mod_eq_of_lt (by omega)

theorem customShadow_depth (d0 d1 : Cell) {depth : Nat} (hd : depth < 32) :
    (customShadow d0 d1 depth).floor.toNat + (customShadow d0 d1 depth).out.toNat = depth - fld d1 5 3 + fld d1 2 0 := by
  have := fld_lt d1 2 0
  exact congrArg₂ (· + ·) (Nat.mod_eq_of_lt (by omega)) (Nat.mod_eq_of_lt (by omega))

/-- A thread chosen by its core, its next-packet state cleared (entry 92). -/
def Mach.chosenClean (m : Mach) (t : Tid) : Mach := (m.chosen t).updThr t fun x => { x with np := none }

/-- The microwords, the empty nano-word and the parity of a core do not depend on the thread it has chosen last. -/
theorem chosen_endsAt {m : Mach} {t : Tid} {k pc : Nat} (h : (m.core k).EndsAt pc) : ((m.chosen t).core k).EndsAt pc := by
  rw [Mach.chosen_core]; exact h

theorem chosenClean_thr (m : Mach) (t : Tid) : (m.chosenClean t).thr t = { m.thr t with np := none } := Mach.updThr_thr_self ..

section
variable {s : State} {t : Tid} {j : BitVec 5} (hsel : Selects s t) (hfresh : ((s.m.thr t).shadow.filter fun h => h.cust) = none)
include hsel hfresh

theorem customerSlot_undefined (hdef : bit (s.m.ru .wlDt (Tid.coreNo t) (2 * j.toNat)) 17 = false) :
    exec (.customerSlot t j) s = s.becomes ((s.m.chosen t).illegal t (0x140 + j.toNat)) := by
  refine (select_ends hsel).trans (congrArg s.becomes ?_)
  simp only [Mach.chosen_thr, Mach.chosen_ru, hfresh, hdef, Bool.not_false, if_true]

theorem customerSlot_privileged (hdef : bit (s.m.ru .wlDt (Tid.coreNo t) (2 * j.toNat)) 17 = true)
    (hpriv : bit (s.m.ru .wlDt (Tid.coreNo t) (2 * j.toNat)) 16 = true) (hh : (s.m.thr t).helm = false) :
    exec (.customerSlot t j) s = s.becomes ((s.m.chosen t).privTrap t (0x140 + j.toNat)) := by
  refine (select_ends hsel).trans (congrArg s.becomes ?_)
  simp only [Mach.chosen_thr, Mach.chosen_ru, hfresh, hdef, hpriv, hh, Bool.not_false, Bool.not_true, Bool.false_eq_true, if_false,
    Bool.and_self, if_true]

theorem customerSlot_starts (hdef : bit (s.m.ru .wlDt (Tid.coreNo t) (2 * j.toNat)) 17 = true)
    (hpriv : bit (s.m.ru .wlDt (Tid.coreNo t) (2 * j.toNat)) 16 = false ∨ (s.m.thr t).helm = true)
    (hstack : (s.m.thr t).stackErr (dEff (fld (s.m.ru .wlDt (Tid.coreNo t) (2 * j.toNat + 1)) 5 3)
      (fld (s.m.ru .wlDt (Tid.coreNo t) (2 * j.toNat + 1)) 2 0)) = none) :
    exec (.customerSlot t j) s = s.becomes ((s.m.chosenClean t).startCtx t (BitVec.ofNat 9 (0x140 + j.toNat))
      (customShadow (s.m.ru .wlDt (Tid.coreNo t) (2 * j.toNat)) (s.m.ru .wlDt (Tid.coreNo t) (2 * j.toNat + 1))
        (s.m.thr t).bank.ds.length)) := by
  have hallowed : (bit (s.m.ru .wlDt (Tid.coreNo t) (2 * j.toNat)) 16 && !(s.m.thr t).helm) = false := by
    rcases hpriv with hp | hp <;> simp [hp]
  refine (select_ends hsel).trans (congrArg s.becomes ?_)
  simp only [Mach.chosen_thr, Mach.chosen_ru, hfresh, hdef, hallowed, hstack, Bool.not_true, Bool.false_eq_true, if_false]
  rfl

end

/-! ## A routine that paused (R224, R308) and the yield watchdog (R309) -/

section
variable {s : State} {t : Tid} {c : Ctx} {h : Shadow} (hok : Tid.ok t = true)
include hok

theorem microResume_context (hctx : s.m.ctxOf t = some c) (hruns : s.m.coreRuns t = true) (hhalt : (s.m.thr t).halted = false)
    (hfault : (s.m.thr t).faulted = false) (hout : s.m.outranked t = false) :
    exec (.microResume t) s = s.becomes (s.m.resumeCtx t c) := by
  show execMicroResume t s = _
  rw [execMicroResume, onThread_of_ok hok]
  simp only [hctx, hruns, hhalt, hfault, hout, Bool.not_false, Bool.and_self, if_true]
  rfl

theorem microResume_shadow (hctx : s.m.ctxOf t = none) (hsh : (s.m.thr t).shadow = some h) :
    exec (.microResume t) s = s.becomes (s.m.resumeShadow t h) := by
  show execMicroResume t s = _
  rw [execMicroResume, onThread_of_ok hok]
  simp only [hctx, hsh]
  rfl

theorem yieldWatchdog_fires (hctx : s.m.ctxOf t = some c) (hran : 32 ≤ c.ran) :
    exec (.yieldWatchdog t) s = s.becomes (((s.m.freeCtx t).wubit .wlStat (Tid.coreNo t) 16 true).mcheck t 2 0) := by
  show execYieldWatchdog t s = _
  rw [execYieldWatchdog, onThread_of_ok hok]
  simp only [hctx, hran, if_true]
  rfl

end

theorem resumeCtx_customer {m : Mach} {t : Tid} {c : Ctx} (hc : c.sh.cust = true) :
    m.resumeCtx t c = (m.chosen t).microRun microFuel t c := if_neg (by simp [hc])

theorem resumeCtx_tallyLoad {m : Mach} {t : Tid} {c : Ctx} (hc : c.sh.cust = false) (hmpc : c.sh.mpc = tallyEntry true) :
    m.resumeCtx t c = (m.chosen t).tallyRun t false true c.sh := if_pos (by simp [hc, hmpc])

/-- A shadow's customer routine takes the context again. -/
theorem resumeShadow_customer {s : State} {t : Tid} {h : Shadow} (hc : h.cust = true) (hsel : Selects s t) (hr : Runs s t 0x0C0) :
    s.m.resumeShadow t h = ((s.m.chosen t).endProgress t).startCtx t ((s.m.chosen t).syllable t) h := by
  obtain ⟨hfree, hgood⟩ := hr
  rw [Mach.resumeShadow]
  simp only [hgood, hc, Bool.false_eq_true, if_false, if_true, Mach.select_of_selects hsel, Mach.chosen_ctxBusy, hfree]

/-- Settles O28: a customer syllable starts its routine in the context that its thread takes, a routine at its END gives the stack depth
of its slot and frees its context, a paused one goes on, and one that has run 32 microwords is stopped. -/
theorem customerRoutines : Obligations.CustomerRoutines := by
  unfold Obligations.CustomerRoutines
  intro s t j c h
  refine ⟨fun hsel hfresh => ⟨customerSlot_undefined hsel hfresh, customerSlot_privileged hsel hfresh,
      fun hdef hpriv hstack => ?starts⟩,
    fun hok => ⟨fun hctx hruns hhalt hfault hout => ?context, microResume_shadow hok, fun hctx hsh hc hsel hr => ?shadow,
      yieldWatchdog_fires hok⟩⟩
  case starts =>
    have hstart := customerSlot_starts hsel hfresh hdef hpriv hstack
    refine ⟨fun hb => hstart.trans (congrArg s.becomes (startCtx_of_busy hb)),
      fun hb hu => hstart.trans (congrArg s.becomes (startCtx_main hb hu)),
      fun hb hu => hstart.trans (congrArg s.becomes (startCtx_reserved hb hu)),
      fun hb hlen ⟨hseq, hbit, hnano, hgood, hunhurried⟩ => ⟨_, hstart, ?_⟩⟩
    have hends := startCtx_endsRoutine (m := s.m.chosenClean t) (syl := BitVec.ofNat 9 (0x140 + j.toNat)) hb
      (h := customShadow (s.m.ru .wlDt (Tid.coreNo t) (2 * j.toNat)) (s.m.ru .wlDt (Tid.coreNo t) (2 * j.toNat + 1))
        (s.m.thr t).bank.ds.length)
      (by rw [customShadow_mpc]; exact chosen_endsAt ⟨hseq, hbit, hnano, hgood⟩) rfl
      (by rw [chosenClean_thr]; exact hunhurried)
    rw [customShadow_depth _ _ hlen] at hends
    exact hends.congr (by rw [chosenClean_thr]) (by rw [chosenClean_thr]; rfl) (by rw [chosenClean_thr]; rfl) rfl rfl
      fun u hu => Mach.updThr_thr_ne _ _ hu
  case context =>
    have hresume := microResume_context hok hctx hruns hhalt hfault hout
    refine ⟨fun hc => hresume.trans (congrArg s.becomes (resumeCtx_customer hc)),
      fun hc _ hw hran ⟨hseq, hbit, hnano, hgood, hunhurried⟩ =>
        ⟨_, hresume.trans (congrArg s.becomes (resumeCtx_customer hc)), ?_⟩,
      fun hc hmpc => hresume.trans (congrArg s.becomes (resumeCtx_tallyLoad hc hmpc))⟩
    have hends := microRun_endsRoutine (m := s.m.chosen t) (chosen_endsAt ⟨hseq, hbit, hnano, hgood⟩) hc hw hran hunhurried
    exact hends.congr rfl rfl rfl rfl rfl fun _ _ => rfl
  case shadow =>
    exact (microResume_shadow hok hctx hsh).trans (congrArg s.becomes (resumeShadow_customer hc hsel hr))

end Sys2Proof.Machine

/-!
PROOFS. What is taken at a boundary (O26, R240, R241, R256, R266, R290, R291): the guards of each row, and the thread that a debug halt
leaves.
-/
namespace Sys2Proof.Machine

section
variable {s : State} {t : Tid}

/-! ## An event (R240, R256) -/

theorem loads_of_boundary {m : Mach} (hb : m.boundary t = true) : (m.thr t).loads = [] := by
  simp only [Mach.boundary, Thread.atBoundary, Bool.and_eq_true, List.isEmpty_iff] at hb
  obtain ⟨⟨⟨⟨⟨-, hloads, -⟩, -⟩, -⟩, -⟩, -⟩ := hb
  exact hloads

/-- Without loads outstanding an entry sees the block as it stands (R165). -/
theorem entering_congr {m : Mach} {f g : Mach → Mach} (hl : (m.thr t).loads = [])
    (hfg : f (m.updThr t fun x => { x with loads := [] }) = g (m.updThr t fun x => { x with loads := [] })) :
    m.entering t f = m.entering t g := by
  rw [Mach.entering, Mach.entering, settled_of_no_loads hl, settled_of_no_loads hl, hfg]

/-- Nothing that precedes an event is due, and its context is free: the source presented is entered. -/
theorem eventEntry_taken {i : Nat} (ht : Tid.ok t = true) (hb : s.m.boundary t = true) (hhalt : (s.m.thr t).haltReq = none)
    (hdue : (s.m.thr t).tally.due = none) (hctx : s.m.ctxBusy t = false) (hi : s.m.presented t = some i) :
    exec (.eventEntry t) s = s.becomes (s.m.entering t fun m =>
      m.enter t (.event (fld (s.m.src (Tid.ctl t) i) 13 10)) (s.m.thr t).p 0 i 0 0) := by
  show execEventEntry t s = _
  rw [execEventEntry, onThread_of_ok ht]
  simp only [hb, hhalt, hdue, hctx, hi, Option.isNone_none, Bool.not_false, Bool.and_self, if_pos]
  exact congrArg s.becomes (entering_congr (loads_of_boundary hb) rfl)

/-! ## A halt (R241) -/

/-- A halt request other than that of a move is honoured at every boundary (R415). -/
theorem mayHalt_of_boundary {h : BitVec 3} (hb : s.m.boundary t = true) (hmove : h ≠ 6) : s.m.mayHalt t h = true := by
  have hne : (h != 6) = true := bne_iff_ne.mpr hmove
  rw [Mach.mayHalt, hb, hne]
  rfl

theorem haltTaken_taken {h : BitVec 3} (ht : Tid.ok t = true) (hb : s.m.boundary t = true) (hreq : (s.m.thr t).haltReq = some h)
    (hmove : h ≠ 6) :
    exec (.haltTaken t) s = s.becomes (s.m.haltThread t h.toNat (s.m.thr t).bySession) := by
  show execHaltTaken t s = _
  rw [execHaltTaken, onThread_of_ok ht]
  simp only [hreq, mayHalt_of_boundary hb hmove, if_pos]
  rfl

theorem haltThread_thr_self (m : Mach) (t : Tid) (cause : Nat) (b : Bool) :
    (m.haltThread t cause b).thr t = { (m.haltWd (m.thr t)).haltNow (BitVec.ofNat 3 cause) with bySession := b } :=
  Mach.updThr_thr_self ..

/-! ## A deferred Tally trap (R290, R291) -/

theorem tallyDeferredTrap_taken {info : Cell} (ht : Tid.ok t = true) (hb : s.m.boundary t = true) (hhalt : (s.m.thr t).haltReq = none)
    (hdue : (s.m.thr t).tally.due = some info) (hctx : s.m.ctxBusy t = false) :
    exec (.tallyDeferredTrap t) s = s.becomes
      ((s.m.updThr t fun x => { x with tally := { x.tally with due := none } }).trap t 9 info.toNat 0) := by
  show execTallyDeferredTrap t s = _
  rw [execTallyDeferredTrap, onThread_of_ok ht]
  simp only [hb, hhalt, hdue, hctx, Option.isNone_none, Bool.not_false, Bool.and_self, if_pos]
  rfl

/-! ## A deadline (R266) -/

theorem deadlineExpire_taken (ht : Tid.ok t = true) (hruns : s.m.wdRuns t = true) (hend : (s.m.thr t).wdEnd ≤ s.m.now) :
    exec (.deadlineExpire t) s = s.becomes ((s.m.threadFault t 4).countEvt (Tid.ctl t) 5) := by
  have hpast : s.m.past (s.m.thr t).wdEnd 0 = true := decide_eq_true hend
  show execDeadlineExpire t s = _
  rw [execDeadlineExpire, onThread_of_ok ht]
  rw [hruns, hpast]
  rfl

end

/-! ## The statement -/

/-- Settles O26: each row where its guard holds. -/
theorem boundaries : Obligations.Boundaries := by
  unfold Obligations.Boundaries
  intro s t i h info x
  refine ⟨fun ht hb => ⟨?event, ?halt, ?trap⟩, deadlineExpire_taken⟩
  case event =>
    rintro hhalt hdue ⟨hctx, -⟩ hi
    exact eventEntry_taken ht hb hhalt hdue hctx hi
  case halt =>
    intro hreq hmove
    refine ⟨_, haltTaken_taken ht hb hreq hmove, ?_⟩
    rw [haltThread_thr_self]
    exact ⟨rfl, BitVec.ofNat_toNat 3 h |>.trans (BitVec.setWidth_eq h), rfl, rfl, rfl, rfl, rfl, fun u => Mach.updThr_thr_ne s.m _⟩
  case trap => exact fun hhalt hdue hctx => tallyDeferredTrap_taken ht hb hhalt hdue hctx

end Sys2Proof.Machine

/-!
PROOFS. The registers of a core (O44, R233, R243, R294, R312, R313): a write or read of the core's space goes to its unit, and the
counters latch where the read is not quiet.
-/
namespace Sys2Proof.Machine

/-! ## Registers of the cores' space -/

section
variable {s : State} {who : Master} {a : Reg} {c i : Nat}

theorem ne_of_space {a b : Reg} (ha : a.info.space = .core) (hb : b.info.space ≠ .core) : a ≠ b := fun e => hb (e ▸ ha)

/-- A core's register that takes the write hands it to its unit; a tollkeeper core has its windlass registers alone. -/
theorem rowWrite_core {v : Cell} (h : Takes s who ⟨a, c, i⟩) (ha : a.info.space = .core) (hc : c < 272 ∨ a.isWl = true) :
    rowWrite s ⟨a, c, i⟩ v who = s.becomes (s.m.lockWrite ⟨a, c, i⟩ v who) := by
  have hcmd : a ≠ .odCmd := ne_of_space ha (by decide)
  have habs : a.info.space ≠ .abs := by rw [ha]; decide
  have hthere : ¬(a.info.space = .core ∧ 272 ≤ c ∧ a.isWl = false) := fun ⟨_, hle, hwl⟩ =>
    hc.elim (fun hlt => absurd hle (by omega)) fun hwl' => absurd (hwl'.symm.trans hwl) (by decide)
  rw [rowWrite_takes h hcmd hthere, regStore_lock habs]

theorem rowRead_core (h : Answers s who ⟨a, c, i⟩) (ha : a.info.space = .core) (hc : c < 272) :
    rowRead s ⟨a, c, i⟩ who =
      s.reads (s.m.lockRead ⟨a, c, i⟩ who (s.m.quiet who)).1 (s.m.lockRead ⟨a, c, i⟩ who (s.m.quiet who)).2 := by
  have habs : a.info.space ≠ .abs := by rw [ha]; decide
  have hthere : ¬(a.info.space = .core ∧ 272 ≤ c ∧ a.isWl = false) := fun ⟨_, hle, _⟩ => absurd hle (by omega)
  rw [rowRead_on h hthere, Mach.regFetch, if_pos habs]

/-- The registers of one core answer a master together: they share the domain, and none is among those that R447 singles out. -/
theorem Answers.sameCore {b : Reg} {j : Nat} (h : Answers s who ⟨a, c, i⟩) (ha : a.info.space = .core) (hb : b.info.space = .core) :
    Answers s who ⟨b, c, j⟩ := by
  have hdomain : RegRef.domain ⟨b, c, j⟩ = RegRef.domain ⟨a, c, i⟩ := by unfold RegRef.domain; rw [ha, hb]
  have hplain {r : Reg} (hr : r.info.space = .core) : (r == .dbgStat || r == .lcStat) = false := by
    simp [ne_of_space hr (b := .dbgStat) (by decide), ne_of_space hr (b := .lcStat) (by decide)]
  have hnarrowed : s.m.narrowed ⟨b, c, j⟩ who false = s.m.narrowed ⟨a, c, i⟩ who false := by
    simp only [Mach.narrowed, hplain ha, hplain hb, Bool.and_false, Bool.false_and]
  exact ⟨by rw [hdomain]; exact h.1, by rw [hnarrowed]; exact h.2⟩

/-! ## Counters (R243, R294) -/

/-- CR_CNT holds the low halves of its counters at the even indices. -/
theorem lockRead_crCnt (m : Mach) (n : Nat) (quiet : Bool) :
    m.lockRead ⟨.crCnt, c, 2 * n⟩ who quiet = m.cntRead c n .crCnt (2 * n) quiet := by
  show (if 2 * n % 2 = 0 then m.cntRead c (2 * n / 2) .crCnt (2 * n) quiet else _) = _
  rw [if_pos (Nat.mul_mod_right 2 n), Nat.mul_div_cancel_left n (by decide)]

/-! ## Windlass windows (R312, R313) -/

/-- A window open to the master stores its word in every core that the write reaches; a closed one sets WL_STAT bit 15. -/
theorem rowWrite_window {v : Cell} (h : Takes s who ⟨a, c, i⟩) (ha : a.info.space = .core) (hwl : a.isWl = true)
    (hunit : s.m.lockWrite ⟨a, c, i⟩ v who = s.m.wlWrite c a i v who) :
    rowWrite s ⟨a, c, i⟩ v who = if s.m.wlOpen c who then s.becomes ((s.m.wlCores a c).foldl (fun m k => m.wlWrite1 a i v k) s.m)
      else s.becomes (s.m.wubit .wlStat c 15 true) := by
  rw [rowWrite_core h ha (.inr hwl), hunit, Mach.wlWrite]
  exact apply_ite s.becomes ..

end

/-! ## The statement -/

/-- Settles O44: each register by the equation of its unit. -/
theorem coreRegisters : Obligations.CoreRegisters := by
  unfold Obligations.CoreRegisters
  intro s who k mask n v i j second
  refine ⟨fun hc => ⟨fun h => ⟨?cntclr, ?pflush⟩, fun h => ⟨?cnt, ?tlops, ?tlkill⟩⟩, fun h => ?mdata, fun h => ?stage, fun h => ?store,
    fun h => ?dt⟩
  case cntclr => exact rowWrite_core h rfl (.inl hc)
  case pflush => exact rowWrite_core h rfl (.inl hc)
  case cnt =>
    refine (rowRead_core h rfl hc).trans ?_
    rw [lockRead_crCnt]
    rfl
  case tlops => exact rowRead_core (h.sameCore rfl rfl) rfl hc
  case tlkill => exact rowRead_core (h.sameCore rfl rfl) rfl hc
  case mdata => exact rowWrite_window h rfl rfl rfl
  case stage => exact rowWrite_window h rfl rfl rfl
  case store => exact rowWrite_window h rfl rfl rfl
  case dt => exact rowWrite_window h rfl rfl rfl

end Sys2Proof.Machine

/-!
PROOFS. The code caches (O33, R223, R226 to R228, R235, R327 to R329): where a line of good parity comes from, the thread that a miss
parks, and the registers that invalidate.
-/
namespace Sys2Proof.Machine

/-! ## Lines of good parity (R226, R327) -/

/-- A line of good parity, or one that is not cached, leaves the instruction cache as it is. -/
theorem icParity_of_good {m : Mach} {k line : Nat} (h : ∀ e, cacheFind (m.core k).icache line = some e → e.2.par = false) :
    m.icParity k line = m := by
  unfold Mach.icParity
  split
  next i l hl =>
    have hpar : l.par = false := h _ hl
    rw [hpar]
    rfl
  next => rfl

theorem lccParity_of_good {m : Mach} {p line : Nat} (h : ∀ e, cacheFind (m.lock p).lcc line = some e → e.2.par = false) :
    m.lccParity p line = m := by
  unfold Mach.lccParity
  split
  next i l hl =>
    have hpar : l.par = false := h _ hl
    rw [hpar]
    rfl
  next => rfl

/-! ## The fill of a line (R223, R226, R227) -/

/-- The number of a line of a thread's image, with the image slot in bit 15. -/
def Mach.lineNo (m : Mach) (t : Tid) (line : Nat) : Nat := m.slotOf t * 0x8000 + line % 0x8000

/-- The line at P. -/
def Mach.lineAtP (m : Mach) (t : Tid) : Nat := m.lineNo t ((m.thr t).p.toNat / 32)

/-- Whether a line is that of P or the next, and so not of a predicted path (R235). -/
def Mach.ownLine (m : Mach) (t : Tid) (n : Nat) : Bool := n == m.lineAtP t || n == m.lineAtP t + 1

/-- What a miss of the instruction cache leaves: it counts, and parks the thread that needs the line (R223, R243). -/
def Mach.missed (m : Mach) (t : Tid) (own : Bool) : Mach :=
  let b := m.coreCount (Tid.coreNo t) 4 1
  if own && !b.fetched t && (b.thr t).park == .none then b.park t .fetch else b

/-- A line of the lock code cache used by a thread that needs it (R235). -/
def Mach.lccUsed (m : Mach) (t : Tid) (own : Bool) (i : Nat) (l : CodeLine) : Mach :=
  if own then m.updLock (Tid.lock t) fun q => { q with lcc := cacheTouch q.lcc i l } else m

/-- A line that enters the instruction cache of a thread's core (R226). -/
def Mach.icEntered (m : Mach) (t : Tid) (n : Nat) (ss : List Nonet) : Mach :=
  m.updCore (Tid.coreNo t) fun c => { c with icache := cacheFill c.icache ((List.range 4).map (n % 64 * 4 + ·)) n ss }

/-- A line of a packet program that the instruction cache lacks: it comes from the lock code cache, if that holds it (R227). -/
def Mach.lccToIc (m : Mach) (t : Tid) (own : Bool) (n : Nat) : Mach :=
  let b := m.lccParity (Tid.lock t) n
  (cacheFind (b.lock (Tid.lock t)).lcc n).elim b fun e => ((b.lccUsed t own e.1 e.2).icEntered t n e.2.syls).buffered t n e.2.syls

section
variable {m : Mach} {t : Tid} {line n i : Nat} {l : CodeLine}

theorem lccToIc_of_some {own : Bool} (h : cacheFind ((m.lccParity (Tid.lock t) n).lock (Tid.lock t)).lcc n = some (i, l)) :
    m.lccToIc t own n = (((m.lccParity (Tid.lock t) n).lccUsed t own i l).icEntered t n l.syls).buffered t n l.syls := by
  rw [Mach.lccToIc, h]
  rfl

theorem lccToIc_of_none {own : Bool} (h : cacheFind ((m.lccParity (Tid.lock t) n).lock (Tid.lock t)).lcc n = none) :
    m.lccToIc t own n = m.lccParity (Tid.lock t) n := by
  rw [Mach.lccToIc, h]
  rfl

/-- A line of good parity in the instruction cache enters the line buffer (R226). -/
theorem lineFill_of_hit (hruns : m.coreRuns t = true) (hit : cacheFind (m.core (Tid.coreNo t)).icache (m.lineNo t line) = some (i, l))
    (hpar : l.par = false) :
    m.lineFill t line =
      (m.updCore (Tid.coreNo t) fun c => { c with icache := cacheTouch c.icache i l }).buffered t (m.lineNo t line) l.syls := by
  have hgood : m.icParity (Tid.coreNo t) (m.lineNo t line) = m := icParity_of_good fun e he => by
    cases hit.symm.trans he
    exact hpar
  unfold Mach.lineNo at hgood hit
  unfold Mach.lineFill
  rw [if_neg (by simp [hruns])]
  dsimp only
  rw [hgood, hit]
  rfl

/-- A line that the instruction cache lacks is a miss, and comes from the lock code cache if that holds it (R223, R227). -/
theorem lineFill_of_miss (hruns : m.coreRuns t = true) (htk : Tid.tk t = false)
    (hmiss : cacheFind (m.core (Tid.coreNo t)).icache (m.lineNo t line) = none) :
    m.lineFill t line = (m.missed t (m.ownLine t (m.lineNo t line))).lccToIc t (m.ownLine t (m.lineNo t line)) (m.lineNo t line) := by
  have hgood : m.icParity (Tid.coreNo t) (m.lineNo t line) = m := icParity_of_good fun e he => by cases hmiss.symm.trans he
  unfold Mach.lineNo at hgood hmiss
  unfold Mach.lineFill
  rw [if_neg (by simp [hruns])]
  dsimp only
  rw [hgood, hmiss]
  dsimp only
  rw [if_neg (by simp [htk])]
  split
  next hlcc => exact Eq.symm (lccToIc_of_some hlcc)
  next hlcc => exact Eq.symm (lccToIc_of_none hlcc)

theorem missed_lock (m : Mach) (t : Tid) (own : Bool) (p : Nat) : (m.missed t own).lock p = m.lock p := by
  unfold Mach.missed
  dsimp only
  split <;> simp [Mach.park, Mach.stall]

/-- A line of good parity in the lock code cache enters the instruction cache and the line buffer (R226, R227). -/
theorem lccToIc_of_hit {own : Bool} (hit : cacheFind (m.lock (Tid.lock t)).lcc n = some (i, l)) (hpar : l.par = false) :
    m.lccToIc t own n = ((m.lccUsed t own i l).icEntered t n l.syls).buffered t n l.syls := by
  have hgood : m.lccParity (Tid.lock t) n = m := lccParity_of_good fun e he => by
    cases hit.symm.trans he
    exact hpar
  rw [lccToIc_of_some (by rw [hgood]; exact hit), hgood]

theorem lccToIc_of_miss {own : Bool} (hmiss : cacheFind (m.lock (Tid.lock t)).lcc n = none) : m.lccToIc t own n = m := by
  have hgood : m.lccParity (Tid.lock t) n = m := lccParity_of_good fun e he => by cases hmiss.symm.trans he
  rw [lccToIc_of_none (by rw [hgood]; exact hmiss), hgood]

/-! ## The line buffer (R226) -/

/-- A line put in a thread's line buffer beside the line at `atP`. -/
def Mach.bufferedBy (m : Mach) (t : Tid) (atP n : Nat) (ss : List Nonet) : Mach :=
  let b := m.updCore (Tid.coreNo t) fun c => { c with lines := mput c.lines (bufferHalf c t atP n) ⟨BitVec.ofNat 16 n, ss, 0, false⟩ }
  if (b.thr t).park = .fetch ∧ b.fetched t = true then b.updThr t Thread.unparked else b

/-- The half of the buffer goes by the line at P, which a block with the same P and slot gives. -/
theorem buffered_of_lineAtP {b : Mach} {ss : List Nonet} (h : b.lineAtP t = m.lineAtP t) :
    b.buffered t n ss = b.bufferedBy t (m.lineAtP t) n ss := h ▸ rfl

/-- A miss moves no thread. -/
theorem missed_lineAtP (m : Mach) (t : Tid) (own : Bool) : (m.missed t own).lineAtP t = m.lineAtP t := by
  have hcount : (m.coreCount (Tid.coreNo t) 4 1).lineAtP t = m.lineAtP t := by
    simp [Mach.lineAtP, Mach.lineNo, Mach.slotOf, Mach.actSlot]
  have hpark (b : Mach) : (b.park t .fetch).lineAtP t = b.lineAtP t := by
    simp [Mach.lineAtP, Mach.lineNo, Mach.slotOf, Mach.actSlot, Mach.park, Mach.stall, Thread.waits]
  unfold Mach.missed
  dsimp only
  split
  · rw [hpark, hcount]
  · exact hcount

theorem icEntered_lccUsed_lineAtP (m : Mach) (t : Tid) (own : Bool) (i : Nat) (l : CodeLine) (n : Nat) (ss : List Nonet) :
    ((m.lccUsed t own i l).icEntered t n ss).lineAtP t = m.lineAtP t := by
  cases own <;> rfl

end

/-! ## Rows of a thread -/

section
variable {s : State} {t : Tid} {line : BitVec 15} {i : Nat} {l : CodeLine}

theorem lineNo_toNat (m : Mach) (t : Tid) (line : BitVec 15) : m.lineNo t line.toNat = m.slotOf t * 0x8000 + line.toNat := by
  rw [Mach.lineNo, Nat.mod_eq_of_lt line.isLt]

theorem lineFill_row (ht : Tid.ok t = true) : exec (.lineFill t line) s = s.becomes (s.m.lineFill t line.toNat) :=
  onThread_of_ok (f := fun m => m.lineFill t line.toNat) ht

theorem lccFill_row (ht : Tid.ok t = true) : exec (.lccFill t line) s = s.becomes (s.m.lccFill t line.toNat) :=
  onThread_of_ok (f := fun m => m.lccFill t line.toNat) ht

/-- A line that the lock code cache lacks enters it from the patch or the image (R327, R328). -/
theorem lccFill_of_miss {m : Mach} {line n : Nat} {ss : List Nonet} (hruns : m.coreRuns t = true) (htk : Tid.tk t = false)
    (hn : m.lineNo t line = n) (hline : m.codeLine 1 n = some ss) :
    m.lccFill t line = (m.noteLine 1 n).updLock (Tid.lock t) fun q =>
      if (cacheFind q.lcc n).isSome then q else { q with lcc := cacheFill q.lcc (m.lccWays t n) n ss } := by
  subst hn
  unfold Mach.lineNo at hline
  unfold Mach.lccFill
  rw [if_neg (by simp [hruns, htk])]
  dsimp only
  rw [hline]
  rfl

end

/-! ## Registers that invalidate (R228, R327 to R329) -/

section
variable {s : State} {who : Master}

theorem lccInvalidate_takes {p : PLock} (h : Takes s who ⟨.lkLccctl, p.val, 0⟩) :
    exec (.lccInvalidate who p) s = s.becomes ((s.m.wu .lkLccctl p.val
      (BitVec.ofNat 18 (min 4 (fld (s.m.ru .lkLccctl p.val ||| 0x20000) 2 0)))).lccDrop p.val fun _ => true) := by
  have hbit : bit (s.m.ru .lkLccctl p.val ||| 0x20000) 17 = true := by simp [bit]
  have habs : Reg.lkLccctl.info.space ≠ .abs := by decide
  refine (rowWrite_stores h (by decide) (by decide)).trans ?_
  rw [regStore_lock habs]
  exact congrArg s.becomes (if_pos hbit)

theorem patchWrite_takes {u : BitVec 6} {v : Cell} (h : Takes s who ⟨.dbgPatch, 0, u.toNat⟩) :
    exec (.patchWrite who u v) s = s.becomes (s.m.patchWrite u.toNat v) := by
  have hkey : 0x8080000 ≤ (⟨.dbgPatch, 0, u.toNat⟩ : RegRef).key := by
    show 0x8080000 ≤ 0 + 0x80A0800 + u.toNat * 2
    omega
  refine (rowWrite_stores h (by decide) (by decide)).trans ?_
  rw [regStore_ctl rfl hkey]
  rfl

theorem pramWrite_takes {j : BitVec 11} {v : Cell} (h : Takes s who ⟨.dbgPram, 0, j.toNat⟩) :
    exec (.pramWrite who j v) s = s.becomes (s.m.pramWrite j.toNat v) := by
  have hkey : 0x8080000 ≤ (⟨.dbgPram, 0, j.toNat⟩ : RegRef).key := by
    show 0x8080000 ≤ 0 + 0x80A1000 + j.toNat * 2
    omega
  refine (rowWrite_stores h (by decide) (by decide)).trans ?_
  rw [regStore_ctl rfl hkey]
  rfl

end

/-! ## The statement -/

/-- Settles O33: the fill of a line by where it is found, and each register by the equation of its unit. -/
theorem codeCaches : Obligations.CodeCaches := by
  unfold Obligations.CodeCaches
  intro s t line i l ss who k p u j v m x c base n at_ own put missed
  have hn : m.lineNo t line.toNat = n := lineNo_toNat m t line
  have hmissed : missed = m.missed t own := by
    show _ = Mach.missed m t own
    unfold Mach.missed
    dsimp only
    rw [Mach.coreCount_thr_of]
  refine ⟨fun ht hruns => ⟨fun hit hpar => ?hit, fun hmiss htk hit hpar => ?lcc, fun hmiss htk hlcc => ?miss,
    fun htk hline _ => ?fill⟩, fun hk => ?done, fun hk h => rowWrite_core h rfl (.inl hk), lccInvalidate_takes, rfl,
    fun h => ⟨fun heq => ?same, fun hne => ?patch⟩, fun h => ⟨fun harm => ?pram, fun harm => ?armed⟩, rfl⟩
  case hit =>
    rw [lineFill_row ht, lineFill_of_hit hruns (hn ▸ hit) hpar, hn]
    rfl
  case lcc =>
    rw [lineFill_row ht, lineFill_of_miss hruns htk (hn ▸ hmiss), hn, lccToIc_of_hit (by rw [missed_lock]; exact hit) hpar,
      buffered_of_lineAtP ((icEntered_lccUsed_lineAtP ..).trans (missed_lineAtP ..)), hmissed]
    rfl
  case miss =>
    rw [lineFill_row ht, lineFill_of_miss hruns htk (hn ▸ hmiss), hn, lccToIc_of_miss (by rw [missed_lock]; exact hlcc), hmissed]
    rfl
  case fill => rw [lccFill_row ht, lccFill_of_miss hruns htk hn hline]
  case done => exact congrArg s.becomes (if_pos hk)
  case same => exact (patchWrite_takes h).trans (congrArg s.becomes (if_pos heq.symm))
  case patch => exact (patchWrite_takes h).trans (congrArg s.becomes (if_neg (Ne.symm hne)))
  case pram => exact (pramWrite_takes h).trans (congrArg s.becomes (if_neg (by rw [harm]; decide)))
  case armed => exact (pramWrite_takes h).trans (congrArg s.becomes (if_pos harm))

end Sys2Proof.Machine

/-!
PROOFS. Entry (O18, R255 to R257): the mode changes that entry applies, the bank that each kind takes, and the thread that it leaves.
-/
namespace Sys2Proof.Machine

/-! ## The bank of a kind (R257) -/

theorem Thread.setBank_eq_with (x : Thread) (b : Bank) : ∃ f n, x.setBank b = { x with fast := f, norm := n } := by
  unfold Thread.setBank
  split
  · exact ⟨b, x.norm, rfl⟩
  · exact ⟨x.fast, b, rfl⟩

theorem Thread.setFlg_flg (x : Thread) (f : Cell) : (x.setFlg f).flg = f := by rw [Thread.flg, Thread.setFlg, Thread.setBank_bank]

theorem Thread.setFlg_ds (x : Thread) (f : Cell) : (x.setFlg f).bank.ds = x.bank.ds := by rw [Thread.setFlg, Thread.setBank_bank]

theorem Thread.setFlg_lvl (x : Thread) (f : Cell) : (x.setFlg f).lvl = x.lvl := by
  unfold Thread.setFlg Thread.setBank
  split <;> rfl

/-- The fast bank that a stack fault, a machine check or an event of level 15 takes: its stacks empty, its B as it stood. -/
def Thread.emptyFast (x : Thread) : Bank := { x.fast with ds := [], rs := [], flg := 0x28000 ||| (x.norm.flg &&& 0x4000) }

theorem enterBank_fast (x : Thread) : x.enterBank .fast = { x with fastOn := true, fast := x.emptyFast } := rfl

theorem enterBank_event15 (x : Thread) : x.enterBank (.event 15) = { x with fastOn := true, fast := x.emptyFast, lvl := 15 } := rfl

theorem enterBank_trap (x : Thread) : x.enterBank .trap = x.setFlg (x.flg ||| 0x20000) := rfl

theorem enterBank_event (x : Thread) {l : Nat} (h : l ≠ 15) :
    x.enterBank (.event l) = { x.setFlg ((x.flg ||| 0x30000) &&& ~~~0x8000) with lvl := BitVec.ofNat 4 l } := by
  unfold Thread.enterBank
  split
  · rename_i heq
    cases heq
    exact absurd rfl h
  · rename_i heq
    cases heq
    rfl
  all_goals rename_i heq; cases heq

/-- The bank of any kind leaves all but the banks, their choice and LVL as they stand. -/
theorem enterBank_eq_with (x : Thread) (k : EntryKind) :
    ∃ on f n l, x.enterBank k = { x with fastOn := on, fast := f, norm := n, lvl := l } := by
  cases k with
  | fast => exact ⟨_, _, _, _, enterBank_fast x⟩
  | trap =>
    obtain ⟨f, n, h⟩ := x.setBank_eq_with { x.bank with flg := x.flg ||| 0x20000 }
    exact ⟨_, f, n, _, (enterBank_trap x).trans h⟩
  | event l =>
    by_cases hl : l = 15
    · subst hl
      exact ⟨_, _, _, _, enterBank_event15 x⟩
    · obtain ⟨f, n, h⟩ := x.setBank_eq_with { x.bank with flg := (x.flg ||| 0x30000) &&& ~~~0x8000 }
      exact ⟨_, f, n, _, (enterBank_event x hl).trans (congrArg (fun y : Thread => { y with lvl := BitVec.ofNat 4 l }) h)⟩

/-! ## The thread that entry leaves (R255, R256) -/

/-- The thread that entry at a vector `v` gives back: B at frame FDEPTH, P at the vector's address, and no progress kept. -/
def Thread.entered (x : Thread) (t : Tid) (k : EntryKind) (v : Cell) : Thread :=
  let y := x.enterBank k
  let y := y.setBank { y.bank with b := BitVec.ofNat 28 (frameAddr t x.fdepth.toNat) }
  { y with
    p := BitVec.ofNat 21 (fld v 15 0 * 16), fdepth := x.fdepth + 1, shadow := none, resv := none, park := .none, waited := 0, tops := [],
    berthed := false, halted := y.halted || y.stepping, cause := if y.stepping then 2 else y.cause, stepping := false }

section
variable (x : Thread) (t : Tid) (k : EntryKind) (v : Cell)

theorem entered_bank :
    (x.entered t k v).bank = { (x.enterBank k).bank with b := BitVec.ofNat 28 (frameAddr t x.fdepth.toNat) } := Thread.setBank_bank ..

/-- Beside the banks, their choice and LVL, entry leaves I, U and MF, and keeps neither reservation, progress nor wait. -/
theorem entered_fields : let y := x.entered t k v
    y.p = BitVec.ofNat 21 (v.toNat % 65536 * 16) ∧ y.fdepth = x.fdepth + 1 ∧ y.shadow = none ∧ y.resv = none ∧ y.berthed = false ∧
      y.park = .none ∧ y.i = x.i ∧ y.u = x.u ∧ y.mf = x.mf ∧ y.fastOn = (x.enterBank k).fastOn ∧ y.lvl = (x.enterBank k).lvl := by
  have hp : fld v 15 0 = v.toNat % 65536 := by simp [fld]
  obtain ⟨on, f, n, l, hbank⟩ := enterBank_eq_with x k
  obtain ⟨f', n', hb⟩ := (x.enterBank k).setBank_eq_with
    { (x.enterBank k).bank with b := BitVec.ofNat 28 (frameAddr t x.fdepth.toNat) }
  unfold Thread.entered
  dsimp only
  rw [hb, hbank, hp]
  exact ⟨rfl, rfl, rfl, rfl, rfl, rfl, rfl, rfl, rfl, rfl, rfl⟩

end

/-! ## How entry gets there -/

theorem applyModes_of_no_modes {x : Thread} (h : x.modes = []) : x.applyModes = x := by
  have hself : { x with modes := [] } = x := by rw [← h]
  rw [Thread.applyModes, h, hself]
  rfl

/-- With nothing to land and no mode change to apply, entry begins with the thread as it stands (R165, R167). -/
theorem setThrH_landed {m : Mach} {t : Tid} (hl : (m.thr t).loads = []) (hm : (m.thr t).modes = []) :
    m.setThrH t (m.thr t).landAll.applyModes = m.setThr t (m.thr t) := by
  rw [landAll_of_no_loads hl, applyModes_of_no_modes hm, setThrH_of_helm rfl, newMf_of_same rfl]

theorem setThr_self_vecOf (m : Mach) (t : Tid) (l : Nat) : (m.setThr t (m.thr t)).vecOf t l = m.vecOf t l := by
  have hslot : (m.setThr t (m.thr t)).slotOf t = m.slotOf t := by
    rw [Mach.slotOf, Mach.setThr_thr_self]
    rfl
  rw [Mach.vecOf, hslot]
  rfl

/-- Entry with a frame free and its vector enabled leaves the thread as `entered` says, its own stores performed before it (R170),
but for what a new MF and a flush of history set. -/
theorem enter_thr_self {m : Mach} {t : Tid} {k : EntryKind} (p : BitVec 21) (type code addr info : Nat)
    (hl : (m.thr t).loads = []) (hm : (m.thr t).modes = []) (hf : (m.thr t).fdepth ≠ 8) (hv : bit (m.vecOf t k.vec) 17 = true) :
    ∃ r ls sb c w h, (m.enter t k p type code addr info).thr t =
      { ({ m.thr t with resv := r, loads := ls, sb := sb } : Thread).entered t k (m.vecOf t k.vec) with
        cls := c, wdArmed := w, hist := h } := by
  obtain ⟨r, ls, sb, hx⟩ := flushMem_thr_self (m.setThr t (m.thr t)) t
  rw [Mach.setThr_thr_self] at hx
  unfold Mach.enter
  dsimp only
  rw [setThrH_landed hl hm, Mach.setThr_thr_self, setThr_self_vecOf, if_neg hf, if_neg (by rw [hv]; decide), hx]
  obtain ⟨c, w, h, hend⟩ := setThrH_thr_self _ t
    (({ m.thr t with resv := r, loads := ls, sb := sb } : Thread).entered t k (m.vecOf t k.vec))
  exact ⟨r, ls, sb, c, w, h, hend⟩

/-! ## The statement -/

/-- Settles O18: the fields that every kind sets alike, then the bank, FLG and LVL of each kind. -/
theorem entryState : Obligations.EntryState := by
  unfold Obligations.EntryState
  intro m t k p ty code addr info x v y g hl hm hf hv _
  have hdepth : x.fdepth ≠ 8 := fun e => absurd hf (by rw [e]; decide)
  obtain ⟨r, ls, sb, c, w, h, hthr⟩ := enter_thr_self p ty code addr info hl hm hdepth hv
  let z : Thread := { x with resv := r, loads := ls, sb := sb }
  have hy : y = { z.entered t k v with cls := c, wdArmed := w, hist := h } := hthr
  obtain ⟨hp, hfdepth, hshadow, hresv, hberthed, hpark, hi, hu, hmf, hfastOn, hlvl⟩ := entered_fields z t k v
  have hbank : y.bank = { (z.enterBank k).bank with b := BitVec.ofNat 28 (frameAddr t x.fdepth.toNat) } := hy ▸ entered_bank z t k v
  have hon : y.fastOn = (z.enterBank k).fastOn := hy ▸ hfastOn
  have hlevel : y.lvl = (z.enterBank k).lvl := hy ▸ hlvl
  have hflg : y.flg = (z.enterBank k).flg := (congrArg Bank.flg hbank :)
  have hds : y.bank.ds = (z.enterBank k).bank.ds := (congrArg Bank.ds hbank :)
  have hrs : y.bank.rs = (z.enterBank k).bank.rs := (congrArg Bank.rs hbank :)
  refine ⟨hy ▸ hp, hy ▸ hfdepth, congrArg Bank.b hbank, hy ▸ hshadow, hy ▸ hresv, hy ▸ hberthed, hy ▸ hpark, hy ▸ hi, hy ▸ hu,
    hy ▸ hmf, ?_⟩
  rw [hon, hlevel, hflg, hds, hrs]
  cases k with
  | fast => exact ⟨rfl, rfl, rfl, rfl⟩
  | trap =>
    rw [enterBank_trap]
    exact ⟨Thread.setBank_fastOn .., Thread.setFlg_lvl .., Thread.setFlg_flg .., Thread.setFlg_ds ..⟩
  | event l =>
    by_cases h15 : l = 15
    · subst h15
      exact ⟨rfl, rfl, rfl, rfl⟩
    · rw [enterBank_event z h15]
      split
      case h_1 heq => cases heq
      case h_2 heq => exact absurd (EntryKind.event.inj heq) h15
      case h_3 heq =>
        cases heq
        exact ⟨Thread.setBank_fastOn .., rfl, Thread.setFlg_flg ..⟩
      case h_4 heq => cases heq

end Sys2Proof.Machine

/-!
PROOFS. The event controllers' registers, the view of a thread and the forced release (O42, R126, R130, R179, R206, R211, R233, R244 to
R252, R262, R265, R477): each row by the operation of its unit.
-/
namespace Sys2Proof.Machine

/-! ## Registers of an event controller -/

section
variable {s : State} {who : Master} {a : Reg} {u i : Nat}

/-- A controller's register that takes the write hands it to its unit. -/
theorem rowWrite_ctl {v : Cell} (h : Takes s who ⟨a, u, i⟩) (ha : a.info.space = .ctl) :
    rowWrite s ⟨a, u, i⟩ v who = s.becomes (s.m.lockWrite ⟨a, u, i⟩ v who) := by
  have hcmd : a ≠ .odCmd := fun e => absurd ha (by rw [e]; decide)
  have habs : a.info.space ≠ .abs := by rw [ha]; decide
  rw [rowWrite_stores h hcmd (by rw [ha]; decide), regStore_lock habs]

/-- A register that the life-cycle state bars from the host reads zero (R447). -/
theorem rowRead_narrowed {r : RegRef} (h : s.m.narrowed r who false = true) : rowRead s r who = s.reads s.m 0 := by
  rw [rowRead, if_pos (by rw [h, Bool.or_true])]
  rfl

end

/-! ## EVT_CLAIM (R251) -/

section
variable {s : State} {m : Mach} {c : Ctl} {t : Tid} {u : Nat}

theorem evtClaim_answers {who : Master} (h : Answers s who ⟨.evtClaim, Ctl.unit c, 0⟩) :
    exec (.evtClaim who c) s =
      s.reads (s.m.claim (Ctl.unit c) who (s.m.quiet who)).1 (s.m.claim (Ctl.unit c) who (s.m.quiet who)).2 := by
  have hspace : Reg.evtClaim.info.space ≠ .core := by decide
  have habs : Reg.evtClaim.info.space ≠ .abs := by decide
  show rowRead s ⟨.evtClaim, Ctl.unit c, 0⟩ who = _
  rw [rowRead_fetches h hspace, Mach.regFetch, if_pos habs, Mach.lockRead]

theorem evtClaim_thread (hon : s.m.isOn (RegRef.domain ⟨.evtClaim, Ctl.unit c, 0⟩) = true) :
    exec (.evtClaim (.thread t) c) s =
      s.reads (s.m.claim (Ctl.unit c) (.thread t) false).1 (s.m.claim (Ctl.unit c) (.thread t) false).2 :=
  evtClaim_answers ⟨hon, rfl⟩

/-- A claim by the host finds no thread to claim for, whether the life-cycle state lets it read or not (R447). -/
theorem evtClaim_host (hon : s.m.isOn (RegRef.domain ⟨.evtClaim, Ctl.unit c, 0⟩) = true) :
    exec (.evtClaim .host c) s = s.reads s.m 0 := by
  cases hn : s.m.narrowed ⟨.evtClaim, Ctl.unit c, 0⟩ .host false with
  | true => exact rowRead_narrowed hn
  | false => exact evtClaim_answers ⟨hon, hn⟩

theorem evtClaim_debug (hon : s.m.isOn (RegRef.domain ⟨.evtClaim, Ctl.unit c, 0⟩) = true) :
    exec (.evtClaim .debug c) s = s.reads s.m 0 := evtClaim_answers ⟨hon, rfl⟩

/-- A thread claims of its own controller alone. -/
theorem claim_of_other {quiet : Bool} (h : Tid.ctl t ≠ u) : m.claim u (.thread t) quiet = (m, 0) := by
  rw [Mach.claim]
  exact if_pos (.inl h)

/-- The tollkeepers' controller answers the active one alone. -/
theorem not_claimBarred (h : Tid.ctl t = u) (htk : u ≠ 31 ∨ Tid.core t = m.activeTk) :
    ¬ (Tid.ctl t ≠ u ∨ u = 31 ∧ Tid.core t ≠ m.activeTk) := by
  rintro (hne | ⟨hu, hcore⟩)
  · exact hne h
  · exact htk.elim (· hu) hcore

theorem claim_of_none {quiet : Bool} (h : Tid.ctl t = u) (htk : u ≠ 31 ∨ Tid.core t = m.activeTk) (hk : m.bestSource t = none) :
    m.claim u (.thread t) quiet = (m, 0) := by
  rw [Mach.claim]
  dsimp only
  rw [if_neg (not_claimBarred h htk), hk]

theorem claim_of_best {k : Nat} (h : Tid.ctl t = u) (htk : u ≠ 31 ∨ Tid.core t = m.activeTk) (hk : m.bestSource t = some k) :
    m.claim u (.thread t) false = (if 2 ≤ m.sense u k then (m.setAct u k true).setPend u k false else m.setAct u k true,
      BitVec.ofNat 18 (0x20000 + k)) := by
  rw [Mach.claim]
  dsimp only
  rw [if_neg (not_claimBarred h htk), hk]
  dsimp only
  rw [if_neg Bool.false_ne_true]

end

/-! ## EVT_DONE and EVT_RING (R247, R252) -/

section
variable {m : Mach} {u : Nat} {v : Cell}

theorem evtDoneWrite_of_active (h : m.actBit u (fld v 8 0) = true) :
    m.evtDoneWrite u v = (m.setAct u (fld v 8 0) false).wakeEvents u := if_pos h

theorem evtDoneWrite_of_inactive (h : m.actBit u (fld v 8 0) = false) : m.evtDoneWrite u v = m.evtError u 0 3 :=
  if_neg (by rw [h]; decide)

/-- Sources below 64 are not software's. -/
theorem ringWrite_of_line (h : fld v 8 0 < 64) : m.ringWrite u v = m.evtError u 1 2 := if_pos h

theorem ringWrite_of_stale (h : 64 ≤ fld v 8 0) (hv : bit v 17 = true) (he : fld v 16 9 ≠ m.ringEpoch u) :
    m.ringWrite u v = m.evtError u 2 1 := by
  rw [Mach.ringWrite, if_neg (by omega), if_pos ⟨hv, he⟩]

theorem ringWrite_of_current (h : 64 ≤ fld v 8 0) (he : bit v 17 = false ∨ fld v 16 9 = m.ringEpoch u) :
    m.ringWrite u v = (m.ring u (fld v 8 0)).wakeEvents u := by
  have hfresh : ¬ (bit v 17 = true ∧ fld v 16 9 ≠ m.ringEpoch u) := fun ⟨hv, hne⟩ =>
    he.elim (fun hv' => absurd (hv.symm.trans hv') (by decide)) hne
  rw [Mach.ringWrite, if_neg (by omega), if_neg hfresh]

end

/-! ## The view of a thread (R179, R206, R211, R233) -/

section
variable {s : State} {who : Master} {t : Tid} {r : BitVec 5} {v : Cell}

/-- The cells of a core's view name its threads. -/
theorem viewOf_coreNo (ht : Tid.ok t = true) (htk : Tid.tk t = false) (r : BitVec 5) :
    viewOf (Tid.coreNo t) (32 * Tid.num t + r.toNat) = (t, r.toNat) := by
  have hlt := coreNo_lt ht htk
  have hr := r.isLt
  have hno : Tid.coreNo t = Tid.lock t * 16 + Tid.core t := by rw [Tid.coreNo, htk]; rfl
  have hcore : Tid.core t < 16 := Nat.mod_lt _ (by decide)
  have hlock : Tid.coreNo t / 16 = Tid.lock t := by omega
  have hmod : Tid.coreNo t % 16 = Tid.core t := by omega
  have hnum : (32 * Tid.num t + r.toNat) / 32 = Tid.num t := by omega
  have hreg : (32 * Tid.num t + r.toNat) % 32 = r.toNat := by omega
  have hparts : mkTid (Tid.lock t) (Tid.core t) (Tid.num t) = t := by
    refine BitVec.eq_of_toNat_eq ?_
    have ht := t.isLt
    simp only [mkTid, Tid.lock, Tid.core, Tid.num, BitVec.toNat_ofNat]
    omega
  rw [viewOf, if_neg (by omega), if_neg (by omega), hlock, hmod, hnum, hreg, hparts]

theorem threadViewWrite_takes (ht : Tid.ok t = true) (htk : Tid.tk t = false)
    (h : Takes s who ⟨.thView, Tid.coreNo t, 32 * Tid.num t + r.toNat⟩) :
    exec (.threadViewWrite who t r v) s = s.becomes (s.m.viewWrite (Tid.coreNo t) (32 * Tid.num t + r.toNat) v) :=
  rowWrite_core h rfl (.inl (coreNo_lt ht htk))

end

section
variable {m : Mach} {t : Tid} {r : BitVec 5} {v : Cell}

/-- A view write of a thread that an `unshov` restores joins those that wait for its end (R211). -/
theorem viewWrite_of_restored {h : ShovHold} (ht : Tid.ok t = true) (htk : Tid.tk t = false)
    (hh : (m.shovOn t).filter (fun h => h.load) = some h) :
    m.viewWrite (Tid.coreNo t) (32 * Tid.num t + r.toNat) v = { m with
      shovs := mset none m.shovs t.toNat (some { h with views := h.views ++ [(Tid.coreNo t, 32 * Tid.num t + r.toNat, v)] }) } := by
  rw [Mach.viewWrite, viewOf_coreNo ht htk]
  dsimp only
  rw [hh]

/-- A view write of another thread is ignored unless the thread is halted; TH_SSEL is the window's own, and a write of P flushes the predictor. -/
theorem viewWrite_of_free (ht : Tid.ok t = true) (htk : Tid.tk t = false) (hh : (m.shovOn t).filter (fun h => h.load) = none) :
    m.viewWrite (Tid.coreNo t) (32 * Tid.num t + r.toNat) v =
      let sel := 32 * Tid.num t + 14
      let n := m.setThrH t ((m.thr t).viewSet (m.ru .thView (Tid.coreNo t) sel) r.toNat v)
      if (m.thr t).halted = false then m
      else if r = 14 then m.wu .thView (Tid.coreNo t) (v &&& 0x7F) sel
      else if r = 1 ∨ r = 2 then (n.flushPred t).dropShovs t else n := by
  have h14 : r.toNat = 14 ↔ r = 14 := BitVec.toNat_inj (x := r) (y := 14)
  have h1 : r.toNat = 1 ↔ r = 1 := BitVec.toNat_inj (x := r) (y := 1)
  have h2 : r.toNat = 2 ↔ r = 2 := BitVec.toNat_inj (x := r) (y := 2)
  have hsel : (32 * Tid.num t + r.toNat) / 32 * 32 + 14 = 32 * Tid.num t + 14 := by
    have hr := r.isLt
    omega
  rw [Mach.viewWrite, viewOf_coreNo ht htk]
  dsimp only
  rw [hh, Mach.viewPut, viewOf_coreNo ht htk]
  dsimp only
  rw [hsel]
  simp only [Bool.not_eq_true', h14, h1, h2]

end

/-! ## BOL_FORCE (R126, R130) -/

section
variable {s : State} {who : Master}

theorem bolForce_takes (h : Takes s who ⟨.bolForce, 0, 0⟩) : exec (.bolForce who) s = s.becomes s.m.bolForceWrite := by
  refine (rowWrite_stores h (by decide) (by decide)).trans ?_
  rw [regStore_helper rfl (by decide) (by decide)]
  rfl

end

section
variable {m : Mach}

theorem bolForceWrite_of_free (h : (m.bol (fld (m.r .bolSel) 11 0)).owner = none) : m.bolForceWrite = m := by
  rw [Mach.bolForceWrite, h]

/-- A bollard that has an owner passes on as an orphan, and what its owner inherits is computed again (R125, R126). -/
theorem bolForceWrite_of_held {o : BitVec 20} (h : (m.bol (fld (m.r .bolSel) 11 0)).owner = some o) :
    m.bolForceWrite = ((m.passOn (fld (m.r .bolSel) 11 0) true).count 0x7600 2).disinherit (refTid o) := by
  rw [Mach.bolForceWrite, h]

end

/-! ## The statement -/

/-- Settles O42: each register by the equation of its unit. -/
theorem eventAndThreadRegisters : Obligations.EventAndThreadRegisters := by
  unfold Obligations.EventAndThreadRegisters
  refine ⟨?controllers, ?views⟩
  case controllers =>
    intro s who c src v t k i m u n acted
    refine ⟨fun hon => ⟨fun hu htk => ⟨fun hk => ?best, fun hk => ?idle⟩, fun hu => ?other, evtClaim_host hon, evtClaim_debug hon⟩,
      fun h => ⟨fun ha => ?done, fun ha => ?inactive⟩, fun h => ⟨fun hn => ?line, fun hn hv he => ?stale, fun hn he => ?rung⟩,
      fun h => rowWrite_ctl h rfl, fun h => rowWrite_ctl h rfl, threadReset_takes⟩
    case best => rw [evtClaim_thread hon, claim_of_best hu htk hk]
    case idle => rw [evtClaim_thread hon, claim_of_none hu htk hk]
    case other => rw [evtClaim_thread hon, claim_of_other hu]
    case done => exact (rowWrite_ctl h rfl).trans (congrArg s.becomes (evtDoneWrite_of_active ha))
    case inactive => exact (rowWrite_ctl h rfl).trans (congrArg s.becomes (evtDoneWrite_of_inactive ha))
    case line => exact (rowWrite_ctl h rfl).trans (congrArg s.becomes (ringWrite_of_line hn))
    case stale => exact (rowWrite_ctl h rfl).trans (congrArg s.becomes (ringWrite_of_stale hn hv he))
    case rung => exact (rowWrite_ctl h rfl).trans (congrArg s.becomes (ringWrite_of_current hn he))
  case views =>
    intro s who t r v o h ht htk m x k j b
    refine ⟨fun hv => ?view, fun hb => ⟨fun ho => ?held, fun ho => ?free⟩⟩
    case view =>
      have hrow := threadViewWrite_takes (v := v) ht htk hv
      refine ⟨fun hh => ?restored, fun hh hx => ?runs, fun hh hx hr => ?select, fun hh hx hr => ?halted⟩
      case restored => exact hrow.trans (congrArg s.becomes (viewWrite_of_restored ht htk hh))
      case runs => rw [hrow, viewWrite_of_free ht htk hh, if_pos hx]
      case select => rw [hrow, viewWrite_of_free ht htk hh, if_neg (by rw [hx]; decide), if_pos hr]
      case halted => rw [hrow, viewWrite_of_free ht htk hh, if_neg (by rw [hx]; decide), if_neg hr]
    case held => exact (bolForce_takes hb).trans (congrArg s.becomes (bolForceWrite_of_held ho))
    case free => exact (bolForce_takes hb).trans (congrArg s.becomes (bolForceWrite_of_free ho))

end Sys2Proof.Machine

/-!
PROOFS. Tally at the edges of its formats (O60, R279 to R285, R293): operands that are no finite number or are zero, magnitudes that
overflow or vanish under every rounding mode, and the rows.
-/
namespace Sys2Proof.Machine

/-! ## A row of R293 -/

/-- An operation has outcome x under each rounding mode but those listed, under which it has the outcome listed. -/
abbrev EdgeRow {α : Type} (op : Nat → α) (x : α) (other : List (Nat × α)) : Prop :=
  ∀ rm < 5, op rm = ((other.find? fun e => e.1 == rm).map Prod.snd).getD x

theorem edgeRow_of_const {α : Type} {op : Nat → α} {x : α} (h : ∀ rm, op rm = x) : EdgeRow op x [] := fun rm _ => h rm

theorem edgeRow_congr {α : Type} {op op' : Nat → α} {x : α} {other : List (Nat × α)} (h : ∀ rm, op rm = op' rm)
    (hr : EdgeRow op' x other) : EdgeRow op x other := fun rm hrm => (h rm).trans (hr rm hrm)

/-! ## NaN operands (R282 to R284) -/

section
variable {f : Fmt} {rm a b c : Nat}

theorem nanOf_quiet (f : Fmt) {y : Num} (h : y ≠ .nan true) : f.nanOf [.nan false, y] = some (f.dnan, 0) := by
  simp [Fmt.nanOf, h]

theorem nanOf_signalling (f : Fmt) (y : Num) : f.nanOf [.nan true, y] = some (f.dnan, excNV) := by
  simp [Fmt.nanOf]

theorem add_of_nan {z : Bool} {r : Nat × Exc} (ha : f.num a = .nan z) (h : f.nanOf [.nan z, f.num b] = some r) :
    f.add rm a b = r := by
  simp [Fmt.add, ha, h]

/-- A NaN is unordered. -/
theorem cmp_of_nan {z : Bool} {r : Nat × Exc} (ha : f.num a = .nan z) (h : f.nanOf [.nan z, f.num b] = some r) :
    f.cmp a b = (8, r.2) := by
  simp [Fmt.cmp, Num.cmp, ha, h]

/-- One NaN gives way to the other operand. -/
theorem minMax_of_nan {z mx : Bool} {r : Nat × Exc} (ha : f.num a = .nan z) (hb : ∀ y, f.num b ≠ .nan y)
    (h : f.nanOf [.nan z, f.num b] = some r) : f.minMax mx a b = (b, r.2) := by
  cases hn : f.num b with
  | nan y => exact absurd hn (hb y)
  | fin _ _ _ => rw [hn] at h; simp [Fmt.minMax, ha, hn, h]
  | inf _ => rw [hn] at h; simp [Fmt.minMax, ha, hn, h]

/-- The rows of a quiet NaN: it raises nothing by itself. -/
theorem quiet_rows (f : Fmt) (ha : f.num a = .nan false) :
    (f.num b ≠ .nan true → EdgeRow (f.add · a b) (f.dnan, 0) [] ∧ f.cmp a b = (8, 0)) ∧
      ((∀ y, f.num b ≠ .nan y) → f.minMax false a b = (b, 0)) :=
  ⟨fun hb => ⟨edgeRow_of_const fun _ => add_of_nan ha (nanOf_quiet f hb), cmp_of_nan ha (nanOf_quiet f hb)⟩,
    fun hb => minMax_of_nan ha hb (nanOf_quiet f (hb true))⟩

/-- The rows of a signalling NaN: it raises NV whatever the other operand is. -/
theorem signalling_rows (f : Fmt) (ha : f.num a = .nan true) :
    EdgeRow (f.add · a b) (f.dnan, excNV) [] ∧ f.cmp a b = (8, excNV) ∧
      ((∀ y, f.num b ≠ .nan y) → f.minMax false a b = (b, excNV)) :=
  ⟨edgeRow_of_const fun _ => add_of_nan ha (nanOf_signalling f _), cmp_of_nan ha (nanOf_signalling f _),
    fun hb => minMax_of_nan ha hb (nanOf_signalling f _)⟩

theorem convert_of_nan {g : Fmt} {z : Bool} (h : g.num a = .nan z) : f.convert g rm a = (f.dnan, if z then excNV else 0) := by
  simp [Fmt.convert, h]

theorem toInt_of_nan {z : Bool} (h : f.num a = .nan z) : f.toInt rm a = (BitVec.ofNat 36 34359738367, excNV) := by
  simp [Fmt.toInt, h]

/-! ## Infinities and zeros (R281, R284) -/

theorem nanOf_fin_fin (f : Fmt) (s r : Bool) (m n : Nat) (e g : Int) : f.nanOf [.fin s m e, .fin r n g] = none := rfl
theorem nanOf_inf_fin (f : Fmt) (s r : Bool) (n : Nat) (g : Int) : f.nanOf [.inf s, .fin r n g] = none := rfl
theorem nanOf_fin_inf (f : Fmt) (s r : Bool) (m : Nat) (e : Int) : f.nanOf [.fin s m e, .inf r] = none := rfl
theorem nanOf_inf_inf (f : Fmt) (s r : Bool) : f.nanOf [.inf s, .inf r] = none := rfl

theorem addExact_opposite (s : Bool) (m : Nat) (e : Int) : (addExact s m e (!s) m e).1 = 0 := by
  cases s <;> simp [addExact]

/-- A number and its opposite add to +0, and to -0 under RDN. -/
theorem add_opposite {s : Bool} {m : Nat} {e : Int} (ha : f.num a = .fin s m e) (hb : f.num b = .fin (!s) m e) :
    f.add rm a b = (f.zero (rm == 2), 0) := by
  simp [Fmt.add, Fmt.addNum, Fmt.ofInt, zeroSign, ha, hb, nanOf_fin_fin, addExact_opposite]

theorem edgeRow_add_opposite {s : Bool} {m : Nat} {e : Int} (ha : f.num a = .fin s m e) (hb : f.num b = .fin (!s) m e) :
    EdgeRow (f.add · a b) (f.zero false, 0) [(2, (f.zero true, 0))] := by
  refine edgeRow_congr (fun rm => add_opposite ha hb) fun rm hrm => ?_
  interval_cases rm <;> rfl

theorem add_inf_fin {s r : Bool} {n : Nat} {g : Int} (ha : f.num a = .inf s) (hb : f.num b = .fin r n g) :
    f.add rm a b = (f.infBits s, 0) := by
  simp [Fmt.add, Fmt.addNum, ha, hb, nanOf_inf_fin]

theorem add_inf_opposite {s : Bool} (ha : f.num a = .inf s) (hb : f.num b = .inf (!s)) : f.add rm a b = (f.dnan, excNV) := by
  simp [Fmt.add, Fmt.addNum, ha, hb, nanOf_inf_inf]

theorem mul_zero_fin {s r : Bool} {n : Nat} {e g : Int} (ha : f.num a = .fin s 0 e) (hb : f.num b = .fin r n g) :
    f.mul rm a b = (f.zero (s != r), 0) := by
  simp [Fmt.mul, mulExact, Fmt.ofInt, ha, hb, nanOf_fin_fin]

theorem mul_zero_inf {s r : Bool} {e : Int} (ha : f.num a = .fin s 0 e) (hb : f.num b = .inf r) :
    f.mul rm a b = (f.dnan, excNV) := by
  simp [Fmt.mul, mulExact, ha, hb, nanOf_fin_inf]

theorem mul_inf_fin {s r : Bool} {n : Nat} {g : Int} (ha : f.num a = .inf s) (hb : f.num b = .fin r n g) (hn : n ≠ 0) :
    f.mul rm a b = (f.infBits (s != r), 0) := by
  simp [Fmt.mul, mulExact, ha, hb, hn, nanOf_inf_fin]

/-- 0 × ∞ is invalid whatever is added to it, a quiet NaN too (R284). -/
theorem fma_zero_inf {s r : Bool} {e : Int} (ha : f.num a = .fin s 0 e) (hb : f.num b = .inf r) :
    f.fma rm a b c = (f.dnan, excNV) := by
  simp [Fmt.fma, mulExact, ha, hb, nanOf_fin_inf]

theorem num_zero (he : 0 < f.expo) : f.num 0 = .fin false 0 f.qmin := by
  have htop : f.top ≠ 0 := Nat.sub_ne_zero_of_lt (Nat.one_lt_two_pow he.ne')
  simp [Fmt.num, htop.symm]

/-- A finite number that is not zero over +0 is an infinity of its sign (R281). -/
theorem div_fin_zero {s : Bool} {m : Nat} {e g : Int} (ha : f.num a = .fin s m e) (hb : f.num b = .fin false 0 g) (hm : m ≠ 0) :
    f.div rm a b = (f.infBits s, excDZ) := by
  simp [Fmt.div, ha, hb, hm, nanOf_fin_fin]

theorem div_zero_zero {s r : Bool} {e g : Int} (ha : f.num a = .fin s 0 e) (hb : f.num b = .fin r 0 g) :
    f.div rm a b = (f.dnan, excNV) := by
  simp [Fmt.div, ha, hb, nanOf_fin_fin]

theorem div_inf_fin {s r : Bool} {n : Nat} {g : Int} (ha : f.num a = .inf s) (hb : f.num b = .fin r n g) :
    f.div rm a b = (f.infBits (s != r), 0) := by
  simp [Fmt.div, ha, hb, nanOf_inf_fin]

theorem div_fin_inf {s r : Bool} {m : Nat} {e : Int} (ha : f.num a = .fin s m e) (hb : f.num b = .inf r) :
    f.div rm a b = (f.zero (s != r), 0) := by
  simp [Fmt.div, ha, hb, nanOf_fin_inf]

theorem div_inf_inf {s r : Bool} (ha : f.num a = .inf s) (hb : f.num b = .inf r) : f.div rm a b = (f.dnan, excNV) := by
  simp [Fmt.div, ha, hb, nanOf_inf_inf]

theorem sqrt_zero {s : Bool} {e : Int} (h : f.num a = .fin s 0 e) : f.sqrt rm a = (f.zero s, 0) := by simp [Fmt.sqrt, h]

theorem sqrt_inf (h : f.num a = .inf false) : f.sqrt rm a = (f.infBits false, 0) := by simp [Fmt.sqrt, h]

theorem sqrt_neg {m : Nat} {e : Int} (h : f.num a = .fin true m e) (hm : m ≠ 0) : f.sqrt rm a = (f.dnan, excNV) := by
  simp [Fmt.sqrt, h, hm]

theorem sqrt_neg_inf (h : f.num a = .inf true) : f.sqrt rm a = (f.dnan, excNV) := by simp [Fmt.sqrt, h]

theorem toInt_inf (h : f.num a = .inf false) : f.toInt rm a = (BitVec.ofNat 36 34359738367, excNV) := by simp [Fmt.toInt, h]

theorem rnd_inf {s : Bool} (h : f.num a = .inf s) : f.rnd rm a = (f.infBits s, 0) := by simp [Fmt.rnd, h]

end

/-! ## Magnitudes past either end of a format (R280, R281) -/

section
variable {f : Fmt} {rm m : Nat} {e : Int} {neg sticky : Bool} {op : Nat → Nat × Exc}

/-- A magnitude rounded `p` bits below its leading bit keeps at least `p + 1` bits. -/
theorem two_pow_le_roundAt (hm : m ≠ 0) (p : Nat) : 2 ^ p ≤ (roundAt rm neg m e sticky (Nat.log2 m + e - p)).1 := by
  have hlead : 2 ^ Nat.log2 m ≤ m := Nat.log2_self_le hm
  unfold roundAt
  split
  · have hk : 2 ^ p ≤ m * 2 ^ (e - (Nat.log2 m + e - p)).toNat := calc
      2 ^ p ≤ 2 ^ (Nat.log2 m + (e - (Nat.log2 m + e - p)).toNat) := Nat.pow_le_pow_right (by decide) (by omega)
      _ ≤ _ := by rw [pow_add]; exact Nat.mul_le_mul_right _ hlead
    split
    · exact hk.trans (Nat.le_add_right ..)
    · exact hk
  · refine le_trans ?_ (Nat.le_add_right ..)
    rw [Nat.le_div_iff_mul_le (by positivity), ← pow_add]
    exact (Nat.pow_le_pow_right (by decide) (by omega)).trans hlead

/-- A magnitude whose leading bit lies above those of the finite numbers overflows. -/
theorem round_of_large (hm : m ≠ 0) (htop : f.top ≠ 0) (h : f.qmin + f.frac + f.top ≤ Nat.log2 m + e + 1) :
    f.round rm neg m e sticky = (f.overflow rm neg, excOF ||| excNX) := by
  have hq : max f.qmin (Nat.log2 m + e - f.frac) = Nat.log2 m + e - f.frac := by omega
  have hk := two_pow_le_roundAt (rm := rm) (e := e) (neg := neg) (sticky := sticky) hm f.frac
  simp only [Fmt.round, hq]
  rw [if_pos]
  generalize (roundAt rm neg m e sticky (Nat.log2 m + e - f.frac)).1 = k at hk
  split <;> rw [if_neg] <;> omega

/-- A magnitude below half of the smallest subnormal, rounded at that subnormal's unit, keeps no bit and is inexact. -/
theorem roundAt_of_small (hm : m ≠ 0) {q : Int} (h : Nat.log2 m + e + 2 ≤ q) :
    roundAt rm neg m e sticky q = (b2n (roundUp rm neg false .lt false), false) := by
  have hlt : 2 * m < 2 ^ (q - e).toNat := calc
    2 * m < 2 ^ (Nat.log2 m + 1 + 1) := by have := Nat.lt_log2_self (n := m); omega
    _ ≤ _ := Nat.pow_le_pow_right (by decide) (by omega)
  have hmod : m % 2 ^ (q - e).toNat = m := Nat.mod_eq_of_lt (by omega)
  have hdiv : m / 2 ^ (q - e).toNat = 0 := Nat.div_eq_of_lt (by omega)
  simp [roundAt, show ¬ q ≤ e by omega, hmod, hdiv, hlt, hm]

/-- A magnitude below half of the smallest subnormal is 0 or that subnormal, with UF and NX. -/
theorem round_of_small (hm : m ≠ 0) (htop : f.top ≠ 0) (hfrac : f.frac ≠ 0) (h : Nat.log2 m + e + 2 ≤ f.qmin) :
    f.round rm neg m e sticky = (f.sign neg + b2n (roundUp rm neg false .lt false), excUF ||| excNX) := by
  have hq : max f.qmin (Nat.log2 m + e - f.frac) = f.qmin := by omega
  have hone : 1 < 2 ^ f.frac := Nat.one_lt_two_pow hfrac
  have hk : b2n (roundUp rm neg false .lt false) ≤ 1 := by unfold b2n; split <;> decide
  simp only [Fmt.round, hq, roundAt_of_small hm h]
  generalize b2n (roundUp rm neg false .lt false) = k at hk
  have hbig : ¬ 2 ^ (f.frac + 1) ≤ k := by omega
  have htiny : Nat.log2 m + e < f.qmin + f.frac ∧ Nat.log2 m + e + 1 ≠ f.qmin + f.frac := by omega
  simp [hbig, htop, htiny, hk.trans_lt hone, Nat.mod_eq_of_lt (hk.trans_lt hone)]

/-- An overflow goes to +∞, and to the largest finite number under RTZ and RDN. -/
theorem edgeRow_of_large (hop : ∀ rm, op rm = f.round rm false m e sticky)
    (h : m ≠ 0 ∧ f.top ≠ 0 ∧ f.qmin + f.frac + f.top ≤ Nat.log2 m + e + 1) :
    EdgeRow op (f.infBits false, excOF ||| excNX)
      [(1, (f.infBits false - 1, excOF ||| excNX)), (2, (f.infBits false - 1, excOF ||| excNX))] := by
  obtain ⟨hm, htop, hlarge⟩ := h
  refine edgeRow_congr (fun rm => (hop rm).trans (round_of_large hm htop hlarge)) fun rm hrm => ?_
  interval_cases rm <;> rfl

/-- A magnitude that vanishes goes to +0, and to the smallest subnormal under RUP. -/
theorem edgeRow_of_small (hop : ∀ rm, op rm = f.round rm false m e sticky)
    (h : m ≠ 0 ∧ f.top ≠ 0 ∧ f.frac ≠ 0 ∧ Nat.log2 m + e + 2 ≤ f.qmin) :
    EdgeRow op (0, excUF ||| excNX) [(3, (1, excUF ||| excNX))] := by
  obtain ⟨hm, htop, hfrac, hsmall⟩ := h
  refine edgeRow_congr (fun rm => (hop rm).trans (round_of_small hm htop hfrac hsmall)) fun rm hrm => ?_
  have hsign : f.sign false = 0 := Nat.zero_mul _
  rw [hsign]
  interval_cases rm <;> rfl

end

/-! ## Positive finite operands: the magnitude that is rounded (R280) -/

section
variable {f : Fmt} {rm a b m n : Nat} {e g : Int}

theorem ofInt_pos (f : Fmt) (rm : Nat) (e : Int) (z : Bool) (hm : m ≠ 0) : f.ofInt rm m e z = f.round rm false m e false := by
  simp [Fmt.ofInt, hm, Int.not_lt.mpr (Int.natCast_nonneg m)]

theorem add_same_exponent (ha : f.num a = .fin false m e) (hb : f.num b = .fin false n e) (hm : m + n ≠ 0) :
    f.add rm a b = f.round rm false (m + n) e false := by
  have hsum : addExact false m e false n e = (((m + n : Nat) : Int), e) := by simp [addExact]
  simp only [Fmt.add, Fmt.addNum, ha, hb, nanOf_fin_fin, hsum]
  exact ofInt_pos f rm e _ hm

theorem mul_pos_fin (ha : f.num a = .fin false m e) (hb : f.num b = .fin false n g) (hm : m * n ≠ 0) :
    f.mul rm a b = f.round rm false (m * n) (e + g) false := by
  simp only [Fmt.mul, mulExact, ha, hb, nanOf_fin_fin, Option.getD_none, bne_self_eq_false, Bool.false_eq_true, if_false, one_mul]
  exact ofInt_pos f rm (e + g) _ hm

theorem div_pos_fin (ha : f.num a = .fin false m e) (hb : f.num b = .fin false n g) (hm : m ≠ 0) (hn : n ≠ 0) :
    f.div rm a b = f.round rm false (m * 2 ^ 80 / n) (e - g - 80) (m * 2 ^ 80 % n ≠ 0) := by
  simp only [Fmt.div, ha, hb, nanOf_fin_fin, Option.getD_none, hm, hn, bne_self_eq_false, if_false]

theorem convert_pos_fin {f' : Fmt} (ha : f'.num a = .fin false m e) (hm : m ≠ 0) :
    f.convert f' rm a = f.round rm false m e false := by
  simp only [Fmt.convert, ha, Bool.false_eq_true, if_false, one_mul]
  exact ofInt_pos f rm e _ hm

end

/-! ## The operands of the rows -/

theorem fmtS_num_zero : fmtS.num 0 = .fin false 0 (-149) := rfl
theorem fmtS_num_neg_zero : fmtS.num 0x80000000 = .fin true 0 (-149) := rfl
theorem fmtS_num_min : fmtS.num 1 = .fin false 1 (-149) := rfl
theorem fmtS_num_neg_min : fmtS.num 0x80000001 = .fin true 1 (-149) := rfl
theorem fmtS_num_max : fmtS.num 0x7F7FFFFF = .fin false 0xFFFFFF 104 := rfl
theorem fmtS_num_neg_max : fmtS.num 0xFF7FFFFF = .fin true 0xFFFFFF 104 := rfl
theorem fmtS_num_inf : fmtS.num 0x7F800000 = .inf false := rfl
theorem fmtS_num_neg_inf : fmtS.num 0xFF800000 = .inf true := rfl
theorem fmtH_num_min : fmtH.num 1 = .fin false 1 (-24) := rfl
theorem fmtH_num_max : fmtH.num 0x7BFF = .fin false 0x7FF 5 := rfl

/-! ## The statement -/

/-- Settles O60: the rows of NaNs, infinities and zeros by the laws above, those that overflow or vanish by the magnitude of their exact
result, the other rows by rounding that result under each mode (that s × s + (-0) rounds to -0 is entry 23 of the log). -/
theorem edgeResults : Obligations.EdgeResults := by
  unfold Obligations.EdgeResults
  dsimp only
  have expo_pos {f : Fmt} (hf : f ∈ [fmtS, fmtH]) : 0 < f.expo := by rcases List.mem_pair.mp hf with rfl | rfl <;> decide
  -- Sums, and any operation on a NaN
  refine ⟨edgeRow_add_opposite fmtS_num_zero fmtS_num_neg_zero, by decide, edgeRow_add_opposite fmtS_num_min fmtS_num_neg_min, by decide,
    edgeRow_of_large (fun _ => add_same_exponent fmtS_num_max fmtS_num_max (by decide)) (by decide),
    edgeRow_add_opposite fmtS_num_max fmtS_num_neg_max,
    edgeRow_of_const fun _ => add_inf_fin fmtS_num_inf fmtS_num_max,
    edgeRow_of_const fun _ => add_inf_opposite fmtS_num_inf fmtS_num_neg_inf, fun f _ _ _ => quiet_rows f,
    fun f _ _ _ => signalling_rows f, ?_⟩
  -- Products and fused products
  refine ⟨edgeRow_of_const fun _ => mul_zero_fin fmtS_num_zero fmtS_num_max,
    edgeRow_of_const fun _ => mul_zero_inf fmtS_num_zero fmtS_num_inf,
    edgeRow_of_small (fun _ => mul_pos_fin fmtS_num_min fmtS_num_min (by decide)) (by decide), by decide,
    edgeRow_of_large (fun _ => mul_pos_fin fmtS_num_max fmtS_num_max (by decide)) (by decide),
    edgeRow_of_const fun _ => mul_inf_fin fmtS_num_inf fmtS_num_min (by decide),
    edgeRow_of_const fun _ => fma_zero_inf fmtS_num_zero fmtS_num_inf, by decide, by decide, ?_⟩
  -- Quotients
  refine ⟨edgeRow_of_const fun _ => div_zero_zero fmtS_num_zero fmtS_num_zero,
    fun f hf x n m e hx hm => edgeRow_of_const fun _ => div_fin_zero hx (num_zero (expo_pos hf)) hm,
    edgeRow_of_const fun _ => div_inf_fin fmtS_num_inf fmtS_num_zero,
    edgeRow_of_const fun _ => div_fin_inf fmtS_num_zero fmtS_num_inf,
    edgeRow_of_const fun _ => div_inf_inf fmtS_num_inf fmtS_num_inf, by decide, by decide,
    edgeRow_of_small (fun _ => div_pos_fin fmtS_num_min fmtS_num_max (by decide) (by decide)) (by decide),
    edgeRow_of_large (fun _ => div_pos_fin fmtS_num_max fmtS_num_min (by decide) (by decide)) (by decide), ?_⟩
  -- Square roots
  refine ⟨edgeRow_of_const fun _ => sqrt_zero fmtS_num_zero, edgeRow_of_const fun _ => sqrt_zero fmtS_num_neg_zero,
    by decide +kernel, by decide +kernel, edgeRow_of_const fun _ => sqrt_inf fmtS_num_inf,
    edgeRow_of_const fun _ => sqrt_neg fmtS_num_neg_min (by decide), edgeRow_of_const fun _ => sqrt_neg_inf fmtS_num_neg_inf, ?_⟩
  -- Order
  refine ⟨by decide, by decide, by decide, by decide, ?_⟩
  -- Conversions and rounding to an integer
  refine ⟨edgeRow_of_large (fun _ => convert_pos_fin fmtS_num_max (by decide)) (by decide),
    edgeRow_of_small (fun _ => convert_pos_fin fmtS_num_min (by decide)) (by decide),
    fun s hs => edgeRow_of_const fun _ => convert_of_nan hs, by decide, by decide, by decide,
    edgeRow_of_const fun _ => toInt_inf fmtS_num_inf, fun q hq => edgeRow_of_const fun _ => toInt_of_nan hq,
    by decide, by decide, edgeRow_of_const fun _ => rnd_inf fmtS_num_inf, ?_⟩
  -- binary16
  exact ⟨by decide, by decide, by decide, edgeRow_of_small (fun _ => mul_pos_fin fmtH_num_min fmtH_num_min (by decide)) (by decide),
    edgeRow_of_small (fun _ => div_pos_fin fmtH_num_min fmtH_num_max (by decide) (by decide)) (by decide),
    edgeRow_of_large (fun _ => mul_pos_fin fmtH_num_max fmtH_num_max (by decide)) (by decide),
    edgeRow_of_large (fun _ => div_pos_fin fmtH_num_max fmtH_num_min (by decide) (by decide)) (by decide),
    by decide +kernel, by decide +kernel, by decide, by decide, by decide⟩

end Sys2Proof.Machine

/-!
PROOFS. The keep controller (O46, R333 to R337, R469): a write of KEEP_CMD by what it finds and asks, the end of a command, and a scrub
step. The command takes effect at the write, and BUSY holds until its end (log entry 61, the model's choice).
-/
namespace Sys2Proof.Machine

/-! ## A write of KEEP_CMD (R336) -/

/-- KEEP_CMD with an OP and a COUNT. -/
def keepValue (op : Nat) (n : BitVec 12) : Cell := BitVec.ofNat 18 (0x8000 * op + n.toNat)

theorem keepValue_fields {op : Nat} (hop : op < 8) (n : BitVec 12) :
    fld (keepValue op n) 17 15 = op ∧ fld (keepValue op n) 11 0 = n.toNat := by
  have hn : n.toNat < 4096 := n.isLt
  rw [fld_top _ (by decide), fld_bottom, keepValue, BitVec.toNat_ofNat, Nat.mod_eq_of_lt (by omega)]
  omega

theorem keepCommand_of_busy {m : Mach} (h : m.keepBusy = true) (v : Cell) : m.keepCommand v = m.wbit .keepErr 13 true := if_pos h

theorem keepCommand_of_idle {m : Mach} (h : m.keepBusy = false) {op : Nat} (h1 : 1 ≤ op) (h5 : op ≤ 5) (n : BitVec 12) :
    m.keepCommand (keepValue op n) = m.keepStart op (n.toNat + 1) := by
  obtain ⟨hop, hcount⟩ := keepValue_fields (show op < 8 by omega) n
  unfold Mach.keepCommand
  simp only [hop, hcount, h, Bool.false_eq_true, if_false]
  rw [if_neg (by omega), if_neg (by omega)]

section
variable {s : State} {who : Master} (h : Takes s who ⟨.keepCmd, 0, 0⟩)
include h

theorem keepCmd_takes (v : Cell) : rowWrite s ⟨.keepCmd, 0, 0⟩ v who = s.becomes (s.m.keepCommand v) := by
  rw [rowWrite_stores h (by decide) (by decide), regStore_ctl rfl (by decide)]
  rfl

/-- The five commands write KEEP_CMD; `retire` has COUNT 0. -/
theorem keepCommands_take (n : BitVec 12) :
    exec (.keepWrite who n) s = s.becomes (s.m.keepCommand (keepValue 1 n)) ∧
    exec (.keepCopy who n) s = s.becomes (s.m.keepCommand (keepValue 2 n)) ∧
    exec (.keepFill who n) s = s.becomes (s.m.keepCommand (keepValue 3 n)) ∧
    exec (.keepVerify who n) s = s.becomes (s.m.keepCommand (keepValue 4 n)) ∧
    exec (.keepRetire who) s = s.becomes (s.m.keepCommand (keepValue 5 0)) :=
  ⟨keepCmd_takes h _, keepCmd_takes h _, keepCmd_takes h _, keepCmd_takes h _, keepCmd_takes h _⟩

end

/-! ## A command that starts (R336, R337, R469) -/

/-- The command that starts with an OP, on n words from KEEP_SRC to KEEP_DST. -/
def Mach.keepCmdOf (m : Mach) (op n : Nat) : KeepCmd := ⟨BitVec.ofNat 3 op, none, m.keepSrc, m.keepDst, n, m.keepDst, n⟩

section
variable {m : Mach} {op n : Nat}

theorem keepStart_of_refused {why : Nat} (h : m.keepRefusal m.keepDst n = some why) :
    m.keepStart op n = m.keepCode (m.keepCmdOf op n) why := by
  unfold Mach.keepStart
  simp only [h]
  rfl

section
variable (h : m.keepRefusal m.keepDst n = none)
include h

/-- After a power-fail trip a command that writes never ends. -/
theorem keepStart_of_tripped (hp : m.d0.powerFail = true) (hop : op ≠ 4) :
    m.keepStart op n = m.setKeep { m.keepCmdOf op n with left := 0 } := by
  unfold Mach.keepStart
  simp only [h]
  exact if_pos ⟨hp, hop⟩

/-- With no trip, WRITE, FILL and RETIRE find their code at once. -/
theorem keepStart_writes (hp : m.d0.powerFail = false) :
    m.keepStart 1 n = (m.keepPut m.keepDst m.keepData).keepCode (m.keepCmdOf 1 n) 0 ∧
    m.keepStart 3 n =
      ((List.range n).foldl (fun g i => g.keepPut (m.keepDst + 8 * i) g.keepData) m).keepCode (m.keepCmdOf 3 n) 0 ∧
    m.keepStart 5 n =
      (m.retirePage (m.keepDst / 0x1000)).1.keepCode (m.keepCmdOf 5 n) (m.retirePage (m.keepDst / 0x1000)).2 := by
  unfold Mach.keepStart
  simp only [h, hp, Bool.false_eq_true, false_and, if_false]
  exact ⟨rfl, rfl, rfl⟩

/-- A copy, or a compare even after a trip: word by word from the host window, at once from a source that is present. -/
theorem keepStart_words (hop : op = 2 ∧ m.d0.powerFail = false ∨ op = 4) : m.keepStart op n =
    if 0xC000000 ≤ m.keepSrc ∧ m.keepSrc + 8 * n ≤ 0x10000000 then m.keepNext (m.keepCmdOf op n)
    else if m.keepSrcOk m.keepSrc (8 * n) then
      (m.keepWords op m.keepSrc m.keepDst n).1.keepCode (m.keepCmdOf op n) (m.keepWords op m.keepSrc m.keepDst n).2
    else m.keepCode (m.keepCmdOf op n) 9 := by
  have hstart : ¬(m.d0.powerFail = true ∧ op ≠ 4) := by
    obtain ⟨-, hp⟩ | hverify := hop
    · simp [hp]
    · simp [hverify]
  unfold Mach.keepStart
  simp only [h]
  rw [if_neg hstart]
  have hsrc {a b : Mach} : (if (!m.keepSrcOk m.keepSrc (8 * n)) = true then a else b) =
      if m.keepSrcOk m.keepSrc (8 * n) = true then b else a := by
    cases m.keepSrcOk m.keepSrc (8 * n) <;> rfl
  obtain rfl | rfl : op = 2 ∨ op = 4 := hop.imp And.left id <;> simp only [hsrc] <;> rfl

end

end

/-! ## The end of a command (R335, R336) and a scrub step (R334) -/

section
variable {s : State} {k : KeepCmd} {c : BitVec 4} {bad : List (BitVec 12)}

theorem keepCmdDone_of_unwritten (hk : s.m.keep = some k) (hc : k.code = some c)
    (h : c ≠ 0 ∨ (k.op ≠ 1 ∧ k.op ≠ 2 ∧ k.op ≠ 3)) : exec (.keepCmdDone bad) s =
      s.becomes (Mach.w { s.m with keep := none } .keepStat (BitVec.ofNat 18 (0x10000 + c.toNat * 0x1000))) := by
  have hwrote : (c == 0 && (k.op == 1 || k.op == 2 || k.op == 3)) = false := by
    obtain hne | ⟨h1, h2, h3⟩ := h
    · rw [beq_false_of_ne hne, Bool.false_and]
    · rw [beq_false_of_ne h1, beq_false_of_ne h2, beq_false_of_ne h3, Bool.or_self, Bool.or_self, Bool.and_false]
  show execKeepCmdDone bad s = _
  unfold execKeepCmdDone
  simp only [hk, hc, hwrote]
  rfl

theorem keepCmdDone_of_written (hk : s.m.keep = some k) (hc : k.code = some 0) (h : k.op = 1 ∨ k.op = 2 ∨ k.op = 3) :
    exec (.keepCmdDone bad) s = s.becomes (Mach.w { (s.m.retirePages (k.badPages bad)).1 with keep := none } .keepStat
      (BitVec.ofNat 18 (0x10000 + (s.m.retirePages (k.badPages bad)).2 * 0x1000))) := by
  have hwrote : (k.op == 1 || k.op == 2 || k.op == 3) = true := by simpa [or_assoc] using h
  show execKeepCmdDone bad s = _
  unfold execKeepCmdDone
  simp only [hk, hc, hwrote]
  rfl

/-- Where every word read back, no page is retired. -/
theorem keepCmdDone_of_readBack (hk : s.m.keep = some k) (hc : k.code = some 0) (h : k.op = 1 ∨ k.op = 2 ∨ k.op = 3) :
    exec (.keepCmdDone []) s = s.becomes (Mach.w { s.m with keep := none } .keepStat 0x10000) := by
  have hnone : s.m.retirePages (k.badPages []) = (s.m, 0) := rfl
  rw [keepCmdDone_of_written hk hc h, hnone, Nat.zero_mul, Nat.add_zero]
  rfl

theorem keepScrubStep_of_on (hon : s.m.isOn 6 = true) (hen : bit (s.m.r .keepCtl) 17 = true)
    (hlast : s.m.keepScrub.toNat ≠ 2 ^ 18 - 1) :
    let l := s.m.keepScrub.toNat
    let g := (List.range 4).foldl (fun m i => m.keepScrubWord ((keepKey 0 0 + 32 * l) / 8 + i) (32 * l + 8 * i)) s.m
    exec .keepScrubStep s = s.becomes { g with keepScrub := g.keepScrub + 1 } :=
  congrArg s.becomes ((if_neg (by simp [hon, hen])).trans (if_neg hlast))

end

/-! ## The statement -/

/-- Settles O46: a command is one branch of the operation of KEEP_CMD, and its end and a scrub step are one equation each. That the
command takes effect at the write, and what becomes of bad pages, is the model's choice (log entry 61). -/
theorem keepStore : Obligations.KeepStore := by
  unfold Obligations.KeepStore
  intro s who n k c why bad m len dst cmd words fill page
  refine ⟨fun h => ?_, keepCmdDone_of_unwritten, fun hk hc hop => ⟨keepCmdDone_of_readBack hk hc hop, keepCmdDone_of_written hk hc hop⟩,
    keepScrubStep_of_on, rfl⟩
  obtain ⟨hwrite, hcopy, hfill, hverify, hretire⟩ := keepCommands_take h n
  rw [hwrite, hcopy, hfill, hverify, hretire]
  refine ⟨fun hbusy i hi => ?_, fun hidle hr => ?_, fun hidle hr hp => ?_, fun hidle hr => ?_, fun hidle hr hp => ?_,
    fun hidle hr hp => ?_⟩
  · have hset (v : Cell) : s.becomes (m.keepCommand v) = s.becomes (m.wbit .keepErr 13 true) :=
      congrArg s.becomes (keepCommand_of_busy hbusy v)
    simp only [List.mem_cons, List.not_mem_nil, or_false] at hi
    obtain rfl | rfl | rfl | rfl | rfl := hi
    · exact hwrite.trans (hset _)
    · exact hcopy.trans (hset _)
    · exact hfill.trans (hset _)
    · exact hverify.trans (hset _)
    · exact hretire.trans (hset _)
  · rw [keepCommand_of_idle hidle (by decide) (by decide), keepCommand_of_idle hidle (by decide) (by decide)]
    exact ⟨congrArg s.becomes (keepStart_of_refused hr), congrArg s.becomes (keepStart_of_refused hr)⟩
  · rw [keepCommand_of_idle hidle (by decide) (by decide), keepCommand_of_idle hidle (by decide) (by decide),
      keepCommand_of_idle hidle (by decide) (by decide)]
    obtain ⟨hput, hfilled, -⟩ := keepStart_writes hr hp
    exact ⟨congrArg s.becomes hput, congrArg s.becomes hfilled, congrArg s.becomes (keepStart_words hr (.inl ⟨rfl, hp⟩))⟩
  · rw [keepCommand_of_idle hidle (by decide) (by decide)]
    exact congrArg s.becomes (keepStart_words hr (.inr rfl))
  · rw [keepCommand_of_idle hidle (by decide) (by decide)]
    exact congrArg s.becomes (keepStart_writes hr hp).2.2
  · rw [keepCommand_of_idle hidle (by decide) (by decide)]
    exact congrArg s.becomes (keepStart_of_tripped hr hp (by decide))

end Sys2Proof.Machine

/-!
PROOFS. The host's target port (O47, R351 to R356, R360, R447): whether a request is taken, what it is answered, and the writes of
BLK_HPCTL. The order of the checks of a request is the model's choice (log entry 80).
-/
namespace Sys2Proof.Machine

/-! ## A request that is taken (R356) -/

/-- The three commands of a request each leave the block as `g` where the request's OP is theirs. -/
def ServesAs (s : State) (bs : List HostBeat) (g : Mach) : Prop :=
  ((HostReq.ofBeats bs).op ≠ 1 → (HostReq.ofBeats bs).op ≠ 2 → exec (.hostRead bs) s = s.becomes g) ∧
  ((HostReq.ofBeats bs).op = 1 → exec (.hostWriteAnswered bs) s = s.becomes g) ∧
  ((HostReq.ofBeats bs).op = 2 → exec (.hostWritePosted bs) s = s.becomes g)

section
variable {s : State} {bs : List HostBeat}

theorem hostTake_of_full (h : 32 ≤ s.m.host.rsps.length) (ops : BitVec 4 → Bool) : s.m.hostTake ops bs = s.m :=
  if_neg (by simp [Mach.hostReady, h])

theorem hostTake_of_ready (h : s.m.host.rsps.length < 32) {ops : BitVec 4 → Bool} (hop : ops (HostReq.ofBeats bs).op = true) :
    s.m.hostTake ops bs = s.m.hostServe (HostReq.ofBeats bs) :=
  if_pos (by simp [Mach.hostReady, h, hop])

theorem servesAs_of_full (h : 32 ≤ s.m.host.rsps.length) : ServesAs s bs s.m :=
  ⟨fun _ _ => congrArg s.becomes (hostTake_of_full h _), fun _ => congrArg s.becomes (hostTake_of_full h _),
    fun _ => congrArg s.becomes (hostTake_of_full h _)⟩

theorem servesAs_of_ready (h : s.m.host.rsps.length < 32) : ServesAs s bs (s.m.hostServe (HostReq.ofBeats bs)) :=
  ⟨fun h1 h2 => congrArg s.becomes (hostTake_of_ready h (by simpa using ⟨h1, h2⟩)),
    fun h1 => congrArg s.becomes (hostTake_of_ready h (by simp [h1])), fun h2 => congrArg s.becomes (hostTake_of_ready h (by simp [h2]))⟩

end

/-! ## Its answer (R351, R355) -/

section
variable {m : Mach} {r : HostReq}

/-- The answer of a request with a code and data; a posted write has none. -/
def Mach.hostAnswer (m : Mach) (r : HostReq) (c : Nat) (d : List (BitVec 72)) : Mach :=
  if r.op = 2 then m else { m with host := { m.host with rsps := m.host.rsps ++ [⟨BitVec.ofNat 4 c, r.tag, d⟩] } }

theorem hostServe_malformed (h : HostReq.malformed r = true) : m.hostServe r = (m.wbit .blkHperr 2 true).hostAnswer r 5 [] := if_pos h

/-- A well-formed request is performed or refused with its code; a read of an uncorrectable word leaves the errors noted (R320). -/
theorem hostServe_wellFormed (h : HostReq.malformed r = false) : m.hostServe r =
    if m.hostCode r = 0 then ((m.hostFlit r).hostPerform r).1.hostAnswer r 0 ((m.hostFlit r).hostPerform r).2
    else if m.hostCode r = 3 ∧ r.op = 0 then
      ((List.range (r.len.toNat + 1)).foldl (fun m i => m.extNote (r.addr.toNat + 8 * i) 8) m).hostAnswer r 3 []
    else m.hostAnswer r (m.hostCode r) [] :=
  if_neg (by simp [h])

/-! ## The first code that applies (R355, R447) -/

theorem hostCode_of_unmapped (h : HostReq.inMap r = false) (hvoid : m.d0.lcState ≠ 5) : m.hostCode r = 1 := by
  have hst : m.d0.lcState.toNat ≠ 5 := fun e => hvoid (BitVec.eq_of_toNat_eq e)
  unfold Mach.hostCode
  simp [h, hst]

theorem hostCode_of_barred (h : HostReq.inMap r = true) (hbar : m.lcHost r = true) : m.hostCode r = 4 := by
  unfold Mach.hostCode
  simp [h, hbar]

theorem hostCode_of_off (h : HostReq.inMap r = true) (hbar : m.lcHost r = false) (hoff : m.hostOff r = true) : m.hostCode r = 6 := by
  unfold Mach.hostCode
  simp [h, hbar, hoff]

end

/-! ## BLK_HPCTL (R360) -/

section
variable {s : State} {who : Master} (h : Takes s who ⟨.blkHpctl, 0, 0⟩)
include h

theorem hpctl_takes (v : Cell) : rowWrite s ⟨.blkHpctl, 0, 0⟩ v who = s.becomes (s.m.limWrite ⟨.blkHpctl, 0, 0⟩ v 11 0 1 0xFFF) := by
  rw [rowWrite_stores h (by decide) (by decide), regStore_blk rfl (by decide)]
  rfl

end

/-! ## The statement -/

/-- Settles O47: a request by whether the port is ready, by its form and by its code (the order of the checks is the model's choice: log
entry 80), and the two writes of BLK_HPCTL. -/
theorem hostTarget : Obligations.HostTarget := by
  unfold Obligations.HostTarget
  intro s bs who m r answer served n
  refine ⟨servesAs_of_full, fun hready hbad => ?_, fun hready hgood => ⟨fun hc => ?_, fun hc hne => ?_, fun hc hop => ?_,
    hostCode_of_unmapped, hostCode_of_barred, hostCode_of_off⟩, fun h => ⟨hpctl_takes h _, hpctl_takes h _⟩⟩
  all_goals have hserves : served (m.hostServe r) := servesAs_of_ready hready
  · rw [hostServe_malformed hbad] at hserves
    exact hserves
  · rw [hostServe_wellFormed hgood, if_pos hc] at hserves
    exact hserves
  · rw [hostServe_wellFormed hgood, if_neg hc, if_neg (not_and_or.mpr hne)] at hserves
    exact hserves
  · rw [hostServe_wellFormed hgood, if_neg (by simp [hc]), if_pos ⟨hc, hop⟩] at hserves
    exact hserves

end Sys2Proof.Machine

/-!
PROOFS. Answers to the block's own requests (R342, R357 to R359) and the rings of the host channel (O48, R361 to R364).
-/
namespace Sys2Proof.Machine

/-! ## Answers (R342, R359) -/

/-- Whether every beat of a response has its parity right (R342). -/
def rspGood (tag : BitVec 8) (rsp : BitVec 4) (bs : List HostBeat) (par : BitVec 8) : Prop :=
  par = lanePar (rspHeader tag rsp) ∧ ∀ b ∈ bs, b.par = lanePar b.data

section
variable {m : Mach} {tag par : BitVec 8} {rsp : BitVec 4} {bs : List HostBeat} {q : InitReq}

theorem rspGood_iff : rspGood tag rsp bs par ↔ (par == lanePar (rspHeader tag rsp) && bs.all fun b => b.par == lanePar b.data) = true := by
  simp [rspGood]

/-- A response of good parity is an answer of its request, one of bad parity an error response, and flagged as such. -/
theorem initRsp_of_request (hq : m.host.reqs.find? (fun q => q.tag == tag) = some q) :
    (rspGood tag rsp bs par →
      m.initRsp tag rsp bs par = m.initAnswer q (if rsp = 0 then some ((bs.map HostBeat.data).headD 0) else none)) ∧
    (¬rspGood tag rsp bs par → m.initRsp tag rsp bs par = (m.wbit .blkHperr 0 true).initAnswer q none) := by
  unfold Mach.initRsp
  refine ⟨fun h => ?_, fun h => ?_⟩
  · simp only [rspGood_iff.mp h, if_true, true_and, hq]
  · simp only [mt rspGood_iff.mpr h, if_false, Bool.false_eq_true, false_and, Mach.wbit_host, hq]

/-- A response without a request is discarded, flagged and counted. -/
theorem initRsp_of_none (hq : m.host.reqs.find? (fun q => q.tag == tag) = none) :
    (rspGood tag rsp bs par → m.initRsp tag rsp bs par = (m.wbit .blkHperr 1 true).count 0x7450 3) ∧
    (¬rspGood tag rsp bs par →
      m.initRsp tag rsp bs par = ((m.wbit .blkHperr 0 true).wbit .blkHperr 1 true).count 0x7450 3) := by
  unfold Mach.initRsp
  refine ⟨fun h => ?_, fun h => ?_⟩
  · simp only [rspGood_iff.mp h, if_true, hq]
  · simp only [mt rspGood_iff.mpr h, if_false, Bool.false_eq_true, Mach.wbit_host, hq]

end

section
variable {s : State} {tag : BitVec 8} {q : InitReq}

theorem initTimeout_of_request (h : s.m.host.reqs.find? (fun q => q.tag == tag) = some q) : exec (.initTimeout tag) s =
    s.becomes (if s.m.past q.since (1000 * fld (s.m.r .blkHpctl) 11 0) then s.m.initAnswer q none else s.m) := by
  show execInitTimeout tag s = _
  unfold execInitTimeout
  rw [h]
  rfl

theorem initTimeout_of_none (h : s.m.host.reqs.find? (fun q => q.tag == tag) = none) : exec (.initTimeout tag) s = s.becomes s.m := by
  show execInitTimeout tag s = _
  unfold execInitTimeout
  rw [h]
  rfl

end

/-! ## Receive rings (R363) -/

section
variable {m : Mach} {r : Nat} {d : Desc} {f : Shipped} {fs : List Shipped}

theorem rxRing_of_ready (hw : m.rxWaiting r = f :: fs) (hr : m.ringReady r = true) :
    m.rxRing r d false = (m.ringFetch r).rxCopy r f d ∧ m.rxRing r d true = (m.ringFetch r).ringError r := by
  unfold Mach.rxRing
  simp [hw, hr]

theorem rxRing_of_idle (h : m.rxWaiting r = [] ∨ m.ringReady r = false) (err : Bool) : m.rxRing r d err = m := by
  unfold Mach.rxRing
  split
  · rfl
  next f fs hw =>
    have hr : m.ringReady r = false := h.resolve_left (by simp [hw])
    exact if_pos (by simp [hr])

end

/-! ## Transmit rings (R364) -/

section
variable {m : Mach} {t : Nat} {d : Desc} {ns : List Nonet}

/-- Whether a transmit descriptor is refused: its length is out of range, or no program parses the frame. -/
def Mach.txRefused (m : Mach) (d : Desc) : Prop := d.len.toNat < 14 ∨ 16368 < d.len.toNat ∨ (!bit (m.r .blkKentry 3) 17) = true

/-- The block with the buffer of a transmit descriptor read. -/
def Mach.txFetched (m : Mach) (t : Nat) (d : Desc) : Mach := m.hostFetch (bit (m.r .blkRctl (8 + t)) 16) d.buf d.len.toNat

/-- The frame of a transmit descriptor: its octets, or its nonets where the ring carries them. -/
def Mach.txFrame (m : Mach) (t : Nat) (d : Desc) (ns : List Nonet) : List Nonet :=
  (ns.take d.len.toNat ++ List.replicate (d.len.toNat - ns.length) 0).map fun n =>
    if bit (m.r .blkRctl (8 + t)) 16 then n else n &&& 0xFF#9

section
variable (hr : (m.acceptWaiting (16 + t)).ringReady (8 + t) = true) (hw : ((m.acceptWaiting (16 + t)).iq (16 + t)).waiting = [])
include hr hw

theorem txRing_of_error : m.txRing t d ns true = ((m.acceptWaiting (16 + t)).ringFetch (8 + t)).ringError (8 + t) :=
  (if_neg (by simp [hr, hw])).trans (if_pos rfl)

theorem txRing_of_refused (h : ((m.acceptWaiting (16 + t)).ringFetch (8 + t)).txRefused d) : m.txRing t d ns false =
    ((m.acceptWaiting (16 + t)).ringFetch (8 + t)).ringDone (8 + t) (descOctets d d.len.toNat 0xC0 0 0) :=
  (if_neg (by simp [hr, hw])).trans ((if_neg Bool.false_ne_true).trans (if_pos h))

/-- A frame that finds its holds and its slot is injected, and its descriptor done. -/
theorem txRing_of_room (h : ¬((m.acceptWaiting (16 + t)).ringFetch (8 + t)).txRefused d) {n : Mach}
    (hn : (((m.acceptWaiting (16 + t)).ringFetch (8 + t)).txFetched t d).inject t
      ((((m.acceptWaiting (16 + t)).ringFetch (8 + t)).txFetched t d).txFrame t d ns) = some n) :
    m.txRing t d ns false = n.ringDone (8 + t) (descOctets d d.len.toNat 0x80 0 0) := by
  unfold Mach.txFetched Mach.txFrame at hn
  refine (if_neg (by simp [hr, hw])).trans ((if_neg Bool.false_ne_true).trans ((if_neg h).trans ?_))
  simp only [hn]

/-- Another leaves the descriptor at HEAD. -/
theorem txRing_of_noRoom (h : ¬((m.acceptWaiting (16 + t)).ringFetch (8 + t)).txRefused d)
    (hn : (((m.acceptWaiting (16 + t)).ringFetch (8 + t)).txFetched t d).inject t
      ((((m.acceptWaiting (16 + t)).ringFetch (8 + t)).txFetched t d).txFrame t d ns) = none) :
    m.txRing t d ns false = ((m.acceptWaiting (16 + t)).ringFetch (8 + t)).txFetched t d := by
  unfold Mach.txFetched Mach.txFrame at hn
  refine (if_neg (by simp [hr, hw])).trans ((if_neg Bool.false_ne_true).trans ((if_neg h).trans ?_))
  simp only [hn, Mach.txFetched]

end
end

/-! ## The statement -/

/-- Settles O48: an answer by its parity and whether its request is open, a ring by whether it is ready, and a transmit descriptor by its
length and by whether its frame finds room. -/
theorem hostInitiator : Obligations.HostInitiator := by
  unfold Obligations.HostInitiator
  intro s tag par rsp bs q r t d ns f fs n m good bad req late ring g a b frame
  have hlate : m.past q.since (1000 * fld (m.r .blkHpctl) 11 0) = true ↔ late := decide_eq_true_iff
  refine ⟨fun hq => ?_, fun hq => ?_, fun hw hr => ?_, fun h => ?_, fun hr hw => ?_⟩
  · obtain ⟨hgood, hbad⟩ := initRsp_of_request (m := m) (rsp := rsp) (bs := bs) (par := par) hq
    rw [initTimeout_of_request hq]
    refine ⟨fun hg hrsp => ?_, fun hg hrsp => ?_, fun hg => congrArg s.becomes (hbad hg), fun hl => ?_, fun hl => ?_⟩
    · exact congrArg s.becomes ((hgood hg).trans (by rw [if_pos hrsp]))
    · exact congrArg s.becomes ((hgood hg).trans (by rw [if_neg hrsp]))
    · rw [if_pos (hlate.mpr hl)]
    · rw [if_neg (mt hlate.mp hl)]
  · obtain ⟨hgood, hbad⟩ := initRsp_of_none (m := m) (rsp := rsp) (bs := bs) (par := par) hq
    exact ⟨fun hg => congrArg s.becomes (hgood hg), fun hg => congrArg s.becomes (hbad hg), initTimeout_of_none hq⟩
  · obtain ⟨hcopy, herr⟩ := rxRing_of_ready (d := d) hw hr
    exact ⟨congrArg s.becomes hcopy, congrArg s.becomes herr⟩
  · exact ⟨congrArg s.becomes (rxRing_of_idle h false), congrArg s.becomes (rxRing_of_idle h true)⟩
  · refine ⟨congrArg s.becomes (txRing_of_error hr hw), fun hlen => ?_,
      fun hmin hmax hprog => ?_⟩
    · exact congrArg s.becomes (txRing_of_refused hr hw (by rwa [Mach.txRefused, Bool.not_eq_true']))
    have hframe : ¬a.txRefused d := by
      rintro (h | h | h)
      · omega
      · omega
      · exact absurd hprog (by simpa using h)
    exact ⟨fun hn => congrArg s.becomes (txRing_of_room hr hw hframe hn), fun hn => congrArg s.becomes (txRing_of_noRoom hr hw hframe hn)⟩

end Sys2Proof.Machine

/-!
PROOFS. PORST_N, its release and the end of a block reset (O49, R367, R401 to R403, R438, R439).
-/
namespace Sys2Proof.Machine

/-! ## PORST_N low (R367) -/

/-- A map whose entries are chosen by key reads as before at every key that is kept. -/
theorem mget_filter_of_key {α : Type} (d : α) (m : Map α) {p : Nat → Bool} {k : Nat} (h : p k = true) :
    mget d (m.filter fun e => p e.1) k = mget d m k := by
  induction m with
  | nil => rfl
  | cons e r ih =>
    obtain ⟨i, v⟩ := e
    by_cases hi : i = k
    · subst hi
      simp [h, mget]
    · cases hp : p i <;> simp [hp, mget, hi, ih]

theorem porstLow_mem_of_keep (m : Mach) {k : Nat} (h : 0x40000000 ≤ k) : mget 0 m.porstLow.mem k = mget 0 m.mem k :=
  mget_filter_of_key (p := fun k => decide (0x40000000 ≤ k)) 0 m.mem (decide_eq_true h)

theorem porstLow_mem_keep (m : Mach) : ∀ e ∈ m.porstLow.mem, 0x40000000 ≤ e.1 := by
  intro e he
  exact of_decide_eq_true (List.mem_filter.mp he).2

/-! ## The releases (R402, R439) -/

section
variable {s : State}

theorem porstRelease_of_low (h : s.m.d0.porst = true) : exec .porstRelease s =
    s.becomes ((({ s.m with d0 := { s.m.d0 with porst := false } }.fltCause 1).setBoot 2).bootGo) :=
  congrArg s.becomes (if_neg (by simp [h]))

theorem porstRelease_of_high (h : s.m.d0.porst = false) : exec .porstRelease s = s.becomes s.m :=
  congrArg s.becomes (if_pos (by simp [h]))

theorem blockResetRelease_of_reset (hl : s.m.d0.lineLow = true) (hp : s.m.d0.porst = false) : exec .blockResetRelease s =
    s.becomes ((({ s.m with d0 := { s.m.d0 with lineLow := false } }.w .pwrBoot 0).setBoot 2).bootGo) :=
  congrArg s.becomes (if_neg (by simp [hl, hp]))

theorem blockResetRelease_of_none (h : s.m.d0.lineLow = false ∨ s.m.d0.porst = true) : exec .blockResetRelease s = s.becomes s.m :=
  congrArg s.becomes (if_pos (by simpa using h))

end

/-! ## The statement -/

/-- Settles O49: PORST_N low by the entries that it keeps, each release by whether its line is low. -/
theorem resetsAndStartUp : Obligations.ResetsAndStartUp := by
  unfold Obligations.ResetsAndStartUp
  intro s m up line low
  exact ⟨rfl, rfl, rfl, rfl, rfl, rfl, fun k => porstLow_mem_of_keep m, porstLow_mem_keep m, porstRelease_of_low, porstRelease_of_high,
    blockResetRelease_of_reset, blockResetRelease_of_none⟩

end Sys2Proof.Machine

/-!
PROOFS. Power commands (O50, R397, R398), the power handshake (R368), isolation (R430), the end of a fault hold (R366) and a quay's
clock (R371). What ON of a domain that is on or changing does, and which registers a domain that goes off loses, are the model's choice
(log entry 63).
-/
namespace Sys2Proof.Machine

/-! ## What D1 loses (R397) -/

section
variable (m : Mach)

/-- Registers outside the range that a domain loses keep their values. -/
theorem dropRegs_rget {lo hi : Nat} {keep : Nat → Bool} {r : RegRef} (h : r.key < lo ∨ hi ≤ r.key) :
    (m.dropRegs lo hi keep).rget r = m.rget r := by
  refine mget_filter_of_key (p := fun k => !(decide (lo ≤ k) && decide (k < hi) && !keep k)) _ _ ?_
  obtain h | h := h <;> simp [Nat.not_le.mpr, Nat.not_lt.mpr, h]

theorem loseThreads_regs (u : Nat) : (m.loseThreads u).regs = m.regs := foldl_keeps Mach.regs _ _ _ fun _ _ _ => rfl

/-- PWR_ISO is a register of D0: switching D1 off leaves it. -/
theorem powerOff_one_pwrIso : (m.powerOff 1).r .pwrIso = m.r .pwrIso := by
  let a := ((m.setPower 1 .off).dropRegs 0x80B0000 0x80C0000).dropRegs 0x8000200 0x8000400
  have hpower : (m.powerOff 1).r .pwrIso = (a.loseThreads 31).r .pwrIso :=
    (Mach.rset_rget_ne _ _ (by decide)).trans (Mach.rset_rget_ne _ _ (by decide))
  have hthreads : (a.loseThreads 31).r .pwrIso = a.r .pwrIso := congrArg (fun g => mget _ g _) (loseThreads_regs a 31)
  rw [hpower, hthreads]
  exact (dropRegs_rget _ (.inr (by decide))).trans (dropRegs_rget _ (.inl (by decide)))

end

/-! ## PWR_DOMd (R397, R398) -/

section
variable {s : State} {who : Master} {d : Fin 24} (h : Takes s who ⟨.pwrDom, 0, d.val⟩)
include h

theorem pwrDom_takes (v : Cell) : rowWrite s ⟨.pwrDom, 0, d.val⟩ v who = s.becomes (s.m.pwrWrite d.val v) := by
  have hkey : ∀ d : Fin 24, 0x8080000 ≤ (⟨.pwrDom, 0, d.val⟩ : RegRef).key := by decide
  rw [rowWrite_stores h Reg.noConfusion (by decide), regStore_ctl rfl (hkey d)]
  rfl

theorem pwrOn_takes : exec (.pwrOn who d) s = s.becomes (s.m.pwrRequest d.val) := pwrDom_takes h _

theorem pwrOff_takes : exec (.pwrOff who d) s = s.becomes (s.m.pwrWrite d.val 0x8000) := pwrDom_takes h _

theorem pwrRetain_takes : exec (.pwrRetain who d) s = s.becomes (s.m.pwrWrite d.val 0xC000) := pwrDom_takes h _

end

section
variable {m : Mach} {d : Nat}

theorem pwrRequest_of_off (h : m.power d = .off ∨ m.power d = .retention) :
    let g := m.setPower d .changing
    m.pwrRequest d = Mach.pwrNext { g with d0 := { g.d0 with wantDoms := g.d0.wantDoms ++ [d] } } := if_pos h

theorem pwrRequest_of_on (h : m.power d = .on ∨ m.power d = .changing) : m.pwrRequest d = m := by
  refine if_neg ?_
  obtain h | h := h <;> simp [h]

theorem pwrWrite_off : m.pwrWrite d 0x8000 =
    if (!m.offOk d) = true then m.wbit .pwrDom 13 true d
    else if d = 1 then (m.powerOff 1).w .pwrIso (setFld (m.r .pwrIso) 15 14 2) else m.powerOff d := rfl

theorem pwrWrite_retain : m.pwrWrite d 0xC000 =
    if 7 ≤ d ∧ (m.lock (d - 7)).parked = true then (m.setPower d .retention).loseLock (d - 7) .retained true
    else m.wbit .pwrDom 13 true d := rfl

end

/-! ## The handshake (R368) -/

section
variable {s : State} {d : Nat}

theorem handshake_of_requested (h : s.m.d0.hs = .requested d) :
    exec .pwrupGnt s = s.becomes { s.m with d0 := { s.m.d0 with hs := .powering d } } ∧ exec .powerGood s = s.becomes s.m := by
  refine ⟨congrArg s.becomes ?_, congrArg s.becomes ?_⟩ <;> simp only [h]

theorem handshake_of_powering (h : s.m.d0.hs = .powering d) :
    exec .powerGood s = s.becomes { s.m.powerOn d with d0 := { (s.m.powerOn d).d0 with hs := .falling d } } ∧
    exec .pwrupGnt s = s.becomes s.m := by
  refine ⟨congrArg s.becomes ?_, congrArg s.becomes ?_⟩ <;> simp only [h]

theorem pwrupGntFall_of_falling (h : s.m.d0.hs = .falling d) :
    exec .pwrupGntFall s = s.becomes (Mach.pwrNext { s.m with d0 := { s.m.d0 with hs := .idle } }).bootGo := by
  refine congrArg (fun m : Mach => s.becomes m.bootGo) ?_
  simp only [Mach.gntFall, h]

theorem pwrupGnt_of_idle (h : s.m.d0.hs = .idle) : exec .pwrupGnt s = s.becomes (s.m.count 0x7450 4) := by
  refine congrArg s.becomes ?_
  simp only [h]

end

/-! ## Isolation (R430) -/

section
variable {s : State} {who : Master} (h : Takes s who ⟨.pwrIso, 0, 0⟩)
include h

theorem pwrIso_takes (v : Cell) : rowWrite s ⟨.pwrIso, 0, 0⟩ v who = s.becomes (s.m.isoWrite v) := by
  rw [rowWrite_stores h (by decide) (by decide), regStore_ctl rfl (by decide)]
  rfl

end

section
variable {m : Mach}

/-- A quay detached by isolation: both EN cleared. -/
def Mach.quayCut (m : Mach) (q : Nat) : Mach :=
  (m.qiCtlWrite q (setBit (m.r .qiCtl q) 17 false)).qeCtlWrite q (setFld (m.r .qeCtl q) 17 17 0 &&& ~~~(0x4000#18))

/-- The block QUIESCING: every quay detached and the initiator port quiesced. -/
def Mach.quiesced (m : Mach) : Mach :=
  ((List.range 16).foldl Mach.quayCut (m.w .pwrIso (setFld (m.r .pwrIso) 15 14 1))).wbit .blkHpctl 17 true

theorem isoWrite_iso (h : m.isoState = 0) :
    m.isoWrite 0x20000 = if m.quiesced.evacState = 1 ∨ m.quiesced.evacState = 2 then m.quiesced.evacEnd else m.quiesced :=
  if_pos ⟨by decide, h⟩

theorem isoWrite_iso_ignored (h : m.isoState ≠ 0) : m.isoWrite 0x20000 = m :=
  (if_neg fun e => h e.2).trans (if_neg (by simp [bit]))

/-- RESUME begins start-up at step 3 with the request of D6. -/
theorem isoWrite_resume (h : m.isoState = 2) :
    let g := m.w .pwrIso (setFld (m.r .pwrIso) 15 14 3)
    m.isoWrite 0x10000 = (Mach.w { g with d0 := { g.d0 with resuming := true } } .pwrBoot
      (setFld (setFld (g.r .pwrBoot) 13 11 0) 17 14 3)).pwrRequest 6 :=
  if_pos (c := bit (0x10000 : Cell) 16 = true ∧ _) ⟨by decide, h⟩

theorem isoWrite_resume_ignored (h : m.isoState ≠ 2) : m.isoWrite 0x10000 = m :=
  if_neg (c := bit (0x10000 : Cell) 16 = true ∧ _) fun e => h e.2

end

/-! ## The statement -/

/-- Settles O50: each command of PWR_DOMd and of PWR_ISO by whether it is accepted, each edge of the handshake by where it stands (what ON
of a domain that is on or changing does, and which registers are lost, is the model's choice: log entry 63). -/
theorem power : Obligations.Power := by
  unfold Obligations.Power
  refine ⟨?_, ?_⟩
  · intro s who d m i refuse h
    rw [pwrOn_takes h, pwrOff_takes h, pwrRetain_takes h, pwrWrite_off, pwrWrite_retain]
    refine ⟨fun ho => ?_, fun ho => ?_, fun ho => ?_, fun ho h1 => ?_, fun ho h1 => ?_, fun hd hp => ?_, fun hd => ?_⟩
    · rw [pwrRequest_of_off ho]
    · rw [pwrRequest_of_on ho]
    · exact congrArg s.becomes (if_pos (by simpa using ho))
    · rw [if_neg (by simpa using ho), if_neg h1]
    · rw [if_neg (by simpa using ho), if_pos h1]
      exact congrArg (fun v => s.becomes ((m.powerOff 1).w .pwrIso (setFld v 15 14 2))) (powerOff_one_pwrIso m).symm
    · rw [if_pos ⟨hd, hp⟩]
    · refine congrArg s.becomes (if_neg fun ⟨h7, hp⟩ => ?_)
      obtain hd | hd := hd
      · omega
      · exact absurd hp (ne_true_of_eq_false hd)
  · intro s who d q ok m hs iso cut quiet back
    refine ⟨handshake_of_requested, handshake_of_powering, pwrupGntFall_of_falling, pwrupGnt_of_idle,
      fun h => ⟨fun hi => (pwrIso_takes h _).trans (congrArg s.becomes (isoWrite_iso hi)),
        fun hi => (pwrIso_takes h _).trans (congrArg s.becomes (isoWrite_iso_ignored hi)),
        fun hi => (pwrIso_takes h _).trans (congrArg s.becomes (isoWrite_resume hi)),
        fun hi => (pwrIso_takes h _).trans (congrArg s.becomes (isoWrite_resume_ignored hi))⟩,
      fun hp => congrArg s.becomes (if_pos hp), fun hp => congrArg s.becomes (if_neg (ne_true_of_eq_false hp)), rfl, rfl⟩

end Sys2Proof.Machine

/-!
PROOFS. Evacuation (O51, R410 to R417): the writes of BLK_EVAC and BLK_MOVE, the ends of the copy and of the drain, and the firmware's
periodic test, which orders its GO alone (log entries 66 and 85, the model's choice).
-/
namespace Sys2Proof.Machine

/-! ## BLK_EVAC (R410, R417) -/

section
variable {s : State} {who : Master} (h : Takes s who ⟨.blkEvac, 0, 0⟩)
include h

theorem blkEvac_takes (v : Cell) : rowWrite s ⟨.blkEvac, 0, 0⟩ v who = s.becomes (s.m.evacWrite v) := by
  rw [rowWrite_stores h (by decide) (by decide), regStore_blk rfl (by decide)]
  rfl

end

section
variable {m : Mach} {v : Cell}

/-- The stored fields of BLK_EVAC after a write: REFUSED cleared where the value says so, LATEPOL and the logical lock of the value. -/
def Mach.evacNoted (m : Mach) (v : Cell) : Mach :=
  m.w .blkEvac (setFld (setBit (if bit v 11 then setBit (m.r .blkEvac) 11 false else m.r .blkEvac) 12 (bit v 12)) 3 0 (fld v 3 0))

/-- The value that EVAC_GO writes: GO without ABORT, the other fields of `v`. -/
def evacGoValue (v : Cell) : Cell := setBit (setBit v 17 true) 16 false

theorem evacGoValue_commands (v : Cell) : bit (evacGoValue v) 17 = true ∧ bit (evacGoValue v) 16 = false := by
  simp [evacGoValue, bit_setBit]

theorem evacNoted_goValue (m : Mach) (v : Cell) : m.evacNoted (evacGoValue v) = m.evacNoted v := by
  simp [Mach.evacNoted, evacGoValue, bit_setBit, fld_setBit_of_lt]

theorem evacWrite_of_go (hgo : bit v 17 = true) (habort : bit v 16 = false) : m.evacWrite v =
    if (m.evacNoted v).evacGoOk (fld v 3 0) = true then (m.evacNoted v).evacStart (fld v 3 0) else (m.evacNoted v).wbit .blkEvac 11 true := by
  unfold Mach.evacWrite
  simp only [hgo, habort, Bool.false_eq_true, false_and, if_false, Bool.not_true]
  rfl

theorem evacWrite_of_abort (hgo : bit v 17 = false) (habort : bit v 16 = true) : m.evacWrite v =
    if (m.evacNoted v).evacState = 1 ∨ (m.evacNoted v).evacState = 2 then (m.evacNoted v).evacEnd else m.evacNoted v := by
  unfold Mach.evacWrite
  simp only [hgo, habort, true_and, if_true, Bool.not_false]
  rfl

theorem evacGo_takes {s : State} {who : Master} (h : Takes s who ⟨.blkEvac, 0, 0⟩) : exec (.evacGo who v) s =
    s.becomes (if (s.m.evacNoted v).evacGoOk (fld v 3 0) = true then (s.m.evacNoted v).evacStart (fld v 3 0)
      else (s.m.evacNoted v).wbit .blkEvac 11 true) := by
  obtain ⟨hgo, habort⟩ := evacGoValue_commands v
  have hfld : fld (evacGoValue v) 3 0 = fld v 3 0 := by simp [evacGoValue, fld_setBit_of_lt]
  refine (blkEvac_takes h _).trans (congrArg s.becomes ?_)
  rw [← evacGoValue, evacWrite_of_go hgo habort, evacNoted_goValue, hfld]

theorem evacAbort_takes {s : State} {who : Master} (h : Takes s who ⟨.blkEvac, 0, 0⟩) :
    let g := s.m.evacNoted (s.m.r .blkEvac &&& 0x100F ||| 0x10000)
    exec (.evacAbort who) s = s.becomes (if g.evacState = 1 ∨ g.evacState = 2 then g.evacEnd else g) := by
  refine (blkEvac_takes h _).trans (congrArg s.becomes (evacWrite_of_abort ?_ ?_)) <;> simp [bit]

end

/-! ## BLK_MOVE (R415) -/

section
variable {s : State} {who : Master} (h : Takes s who ⟨.blkMove, 0, 0⟩)
include h

theorem blkMove_takes (v : Cell) : rowWrite s ⟨.blkMove, 0, 0⟩ v who = s.becomes (s.m.moveWrite v) := by
  rw [rowWrite_stores h (by decide) (by decide), regStore_blk rfl (by decide)]
  rfl

end

section
variable {m : Mach} {thr : BitVec 7} {e : Evac}

/-- BLK_MOVE with a thread number and one command bit. -/
def moveValue (c : Nat) (thr : BitVec 7) : Cell := BitVec.ofNat 18 (c + thr.toNat)

/-- The thread that BLK_MOVE names, kept in the register. -/
def Mach.moveNoted (m : Mach) (thr : BitVec 7) : Mach := m.w .blkMove (setFld (m.r .blkMove) 6 0 thr.toNat)

/-- The two threads of a move, of the victim and of the spare lock. -/
def Evac.pair (e : Evac) (thr : BitVec 7) : Tid × Tid :=
  (mkTid e.victim.val (fld thr 6 3) (fld thr 2 0), mkTid e.spare.val (fld thr 6 3) (fld thr 2 0))

theorem moveValue_fields {c k : Nat} (hc : c = 2 ^ k) (hk : k = 16 ∨ k = 17) (thr : BitVec 7) :
    fld (moveValue c thr) 6 0 = thr.toNat ∧ fld (moveValue c thr) 6 3 = fld thr 6 3 ∧ fld (moveValue c thr) 2 0 = fld thr 2 0 ∧
    bit (moveValue c thr) 14 = false ∧ bit (moveValue c thr) 16 = decide (k = 16) ∧ bit (moveValue c thr) 17 = decide (k = 17) := by
  have hlt := thr.isLt
  have hval : (moveValue c thr).toNat = 2 ^ k + thr.toNat := by
    rw [moveValue, BitVec.toNat_ofNat, hc]
    obtain rfl | rfl := hk <;> omega
  have hbit : ∀ i, bit (moveValue c thr) i = decide ((2 ^ k + thr.toNat) / 2 ^ i % 2 = 1) := fun i => by
    rw [bit, BitVec.getLsbD, hval, Nat.testBit_eq_decide_div_mod_eq]
  simp only [hbit, fld, hval]
  obtain rfl | rfl := hk <;>
    exact ⟨by omega, by omega, by omega, decide_eq_false (by omega), decide_eq_decide.mpr (by omega), decide_eq_decide.mpr (by omega)⟩

theorem moveHalt_takes {s : State} {who : Master} (h : Takes s who ⟨.blkMove, 0, 0⟩) (he : s.m.evac = some e) :
    exec (.moveHalt who thr) s = s.becomes (((s.m.moveNoted thr).moveHalt (e.pair thr).1).moveHalt (e.pair thr).2) := by
  obtain ⟨hthr, hcore, hnum, h14, h16, h17⟩ := moveValue_fields (c := 0x20000) (k := 17) rfl (.inr rfl) thr
  refine (blkMove_takes h _).trans (congrArg s.becomes ?_)
  show s.m.moveWrite (moveValue 0x20000 thr) = _
  unfold Mach.moveWrite
  simp only [hthr, hcore, hnum, h14, h16, h17, he, Mach.w_evac, Bool.false_eq_true, if_false]
  rfl

theorem moveGo_takes {s : State} {who : Master} (h : Takes s who ⟨.blkMove, 0, 0⟩) (he : s.m.evac = some e) :
    exec (.moveGo who thr) s = s.becomes (if (s.m.moveNoted thr).moveOk (e.pair thr).1 (e.pair thr).2 = true
      then (s.m.moveNoted thr).moveDone (e.pair thr).1 (e.pair thr).2 else (s.m.moveNoted thr).wbit .blkMove 14 true) := by
  obtain ⟨hthr, hcore, hnum, h14, h16, h17⟩ := moveValue_fields (c := 0x10000) (k := 16) rfl (.inl rfl) thr
  refine (blkMove_takes h _).trans (congrArg s.becomes ?_)
  show s.m.moveWrite (moveValue 0x10000 thr) = _
  unfold Mach.moveWrite
  simp only [hthr, hcore, hnum, h14, h16, h17, he, Mach.w_evac, Bool.false_eq_true, if_false]
  rfl

end

/-! ## The end of the copy and of the drain (R411, R414) -/

section
variable {s : State} {e : Evac} (he : s.m.evac = some e)
include he

theorem evacCopyDone_of_copying (h : s.m.evacState = 1) :
    exec .evacCopyDone s = s.becomes ((s.m.copyBasin e.victim.val e.spare.val).setEvac 2) := by
  refine congrArg s.becomes ?_
  simp only [he]
  exact if_pos h

theorem evacDrainDone_of_drained (h : 3 ≤ s.m.evacState) (hd : s.m.drained = true) : exec .evacDrainDone s =
    s.becomes (((Mach.parkLock { s.m with evac := none } e.victim.val).setEvac 0).count 0x7B00 1) := by
  refine congrArg s.becomes ?_
  unfold Mach.evacFinish
  simp only [he]
  exact if_pos ⟨h, hd⟩

theorem drainPast_eq : s.m.drainPast = s.m.past e.switched (1000 * fld (s.m.r .blkEvdrain) 13 0) := by
  rw [Mach.drainPast, he]
  rfl

end

section
variable {s : State}

theorem evacDrainExpire_of_late (h : s.m.evacState = 3) (hh : s.m.evacHolders ≠ []) (hp : s.m.drainPast = true) :
    exec .evacDrainExpire s = s.becomes
      ((s.m.evacHolders.filter s.m.faultsLate).foldl (fun m t => (m.threadFault t 4).count 0x7B00 3) (s.m.setEvac 4)) :=
  congrArg s.becomes (if_pos ⟨h, by simpa using hh, hp⟩)

theorem evacDrainExpire_of_early (h : s.m.evacState ≠ 3 ∨ s.m.evacHolders = [] ∨ s.m.drainPast = false) :
    exec .evacDrainExpire s = s.becomes s.m :=
  congrArg s.becomes (if_neg (by
    rintro ⟨h3, hh, hp⟩
    obtain h | h | h := h
    · exact h h3
    · simp [h] at hh
    · simp [h] at hp))

/-! ## The periodic test (R417) -/

theorem periodicTest_of_next (hfw : s.m.fwRuns = true) (hon : s.m.odVarNat 0x500304 24 ≠ 0) {n : Nat} (hn : s.m.nextTest = some n) :
    exec .periodicTest s =
      s.becomes (s.m.evacWrite (BitVec.ofNat 18 (0x20000 + b2n (bit (s.m.r .blkEvac) 12) * 0x1000 + n))) := by
  refine congrArg s.becomes ((if_neg (by simp [hfw, hon])).trans ?_)
  simp only [hn]

end

/-! ## The statement -/

/-- Settles O51: each write by whether GO is accepted, each end by the state of the evacuation that it finds. That the periodic test orders
the GO alone is the model's choice (log entry 85; entry 66 for what a GO clears). -/
theorem evacuation : Obligations.Evacuation := by
  unfold Obligations.Evacuation
  intro s who v thr e m n set g x y w late
  refine ⟨fun h => ⟨fun ho => ?_, fun ho => ?_, fun hs => ?_, fun h1 h2 => ?_⟩, fun he => ⟨evacCopyDone_of_copying he,
    evacDrainDone_of_drained he, fun h => ⟨moveHalt_takes h he, fun ho => ?_, fun ho => ?_⟩, fun h3 hh hl => ?_, fun hl => ?_⟩, fun h => ?_,
    fun hfw hon n hn => periodicTest_of_next hfw hon hn⟩
  · exact (evacGo_takes h).trans (congrArg s.becomes (if_pos ho))
  · exact (evacGo_takes h).trans (congrArg s.becomes (if_neg (ne_true_of_eq_false ho)))
  · exact (evacAbort_takes h).trans (congrArg s.becomes (if_pos hs))
  · exact (evacAbort_takes h).trans (congrArg s.becomes (if_neg (not_or.mpr ⟨h1, h2⟩)))
  · exact (moveGo_takes h he).trans (congrArg s.becomes (if_pos ho))
  · exact (moveGo_takes h he).trans (congrArg s.becomes (if_neg (ne_true_of_eq_false ho)))
  · exact evacDrainExpire_of_late h3 hh ((drainPast_eq he).trans hl)
  · exact evacDrainExpire_of_early (.inr (.inr ((drainPast_eq he).trans hl)))
  · exact evacDrainExpire_of_early (h.imp_right .inl)

end Sys2Proof.Machine

/-!
PROOFS. The exchange of images, failover and the watchdogs (O52, R420 to R427, R429).
-/
namespace Sys2Proof.Machine

/-! ## The exchange of images (R420 to R422) -/

section
variable {s : State} {who : Master}

theorem blkXchg_takes (h : Takes s who ⟨.blkXchg, 0, 0⟩) (v : Cell) :
    rowWrite s ⟨.blkXchg, 0, 0⟩ v who = s.becomes (s.m.xchgWrite v) := by
  rw [rowWrite_stores h (by decide) (by decide), regStore_blk rfl (by decide)]
  rfl

/-- One exchange is ordered by its bit while none is under way. -/
theorem xchgOrders_take (h : Takes s who ⟨.blkXchg, 0, 0⟩) (hx : s.m.xchg = none) :
    exec (.xchgFw who) s = s.becomes { s.m with xchg := some 0 } ∧ exec (.xchgPp who) s = s.becomes { s.m with xchg := some 1 } ∧
    exec (.xchgMc who) s = s.becomes { s.m with xchg := some 2 } := by
  have hnone : ¬(s.m.xchg.isSome = true) := by simp [hx]
  exact ⟨(blkXchg_takes h _).trans (congrArg s.becomes (if_neg hnone)), (blkXchg_takes h _).trans (congrArg s.becomes (if_neg hnone)),
    (blkXchg_takes h _).trans (congrArg s.becomes (if_neg hnone))⟩

end

section
variable {m : Mach} {k : BitVec 2}

theorem xchgCheck_of_refused (h : m.xchg = some k) (hr : Mach.xchgRefused { m with xchg := none } k.toNat = true) :
    m.xchgCheck = Mach.wbit { m with xchg := none } .blkXchg 14 true := by
  unfold Mach.xchgCheck
  simp only [h]
  exact if_pos hr

theorem xchgCheck_of_accepted (h : m.xchg = some k) (hr : Mach.xchgRefused { m with xchg := none } k.toNat = false) :
    (k = 0 → m.xchgCheck = ((Mach.flipAct { m with xchg := none } 0).dropCode 0 fun _ => true).failover) ∧
    (k = 1 → m.xchgCheck = Mach.xchgPp { m with xchg := none }) ∧ (k = 2 → m.xchgCheck = Mach.flipAct { m with xchg := none } 2) := by
  unfold Mach.xchgCheck
  simp only [h]
  rw [if_neg (ne_true_of_eq_false hr)]
  refine ⟨?_, ?_, ?_⟩ <;>
    · rintro rfl
      rfl

end

/-! ## Tollkeepers (R423 to R427) -/

section
variable {s : State} {who : Master}

theorem tkSwitch_takes (h : Takes s who ⟨.blkTkctl, 0, 0⟩) : exec (.tkSwitch who) s = s.becomes s.m.tkTrigger := by
  show rowWrite s ⟨.blkTkctl, 0, 0⟩ 0x20000 who = _
  rw [rowWrite_stores h (by decide) (by decide), regStore_blk rfl (by decide)]
  rfl

end

section
variable {m : Mach}

/-- BLK_TKWD with its period brought into its range (R427). -/
def Mach.tkwdLimited (m : Mach) : Mach := m.w .blkTkwd (BitVec.ofNat 18 (max 10 (fld (m.r .blkTkwd) 15 0)))

/-- The bits below SVC of a cell with SVC set. -/
theorem fld_or_svc (c : Cell) : fld (c ||| 0x20000) 15 0 = fld c 15 0 := by
  have hmod : (c.toNat ||| 0x20000) % 2 ^ 16 = c.toNat % 2 ^ 16 := by
    rw [Nat.or_mod_two_pow]
    simp
  rw [fld_bottom, fld_bottom, BitVec.toNat_or]
  exact hmod

theorem tkwdWrite_svc (m : Mach) (t : Tid) : m.tkwdWrite (m.r .blkTkwd ||| 0x20000) (.thread t) = m.tkwdLimited.tkService (Tid.core t) := by
  have hsvc : bit (m.r .blkTkwd ||| 0x20000) 17 = true := by simp [bit]
  unfold Mach.tkwdWrite
  simp only [fld_or_svc, hsvc, if_true]
  rfl

theorem tkWdService_takes {s : State} {t : Tid} (h : Takes s (.thread t) ⟨.blkTkwd, 0, 0⟩) :
    exec (.tkWdService (.thread t)) s = s.becomes (s.m.tkwdLimited.tkService (Tid.core t)) := by
  show rowWrite s ⟨.blkTkwd, 0, 0⟩ (s.m.r .blkTkwd ||| 0x20000) (.thread t) = _
  rw [rowWrite_stores h (by decide) (by decide), regStore_blk rfl (by decide), ← tkwdWrite_svc]
  rfl

end

section
variable {s : State} {b : Bool}

theorem tkwdPast_iff (m : Mach) (b : Bool) : m.tkwdPast (b2n b) = true ↔
    8 ≤ m.bootStep ∧ m.past (if b then m.d0.tkSvcB else m.d0.tkSvcA) (1000 * fld (m.r .blkTkwd) 15 0) = true := by
  rw [Mach.tkwdPast, Bool.and_eq_true, decide_eq_true_iff]
  cases b <;> rfl

theorem tkWatchdogExpire_of_running (h : s.m.tkRuns (b2n b) = false ∨ s.m.tkFrozen (b2n b) = true ∨ s.m.tkwdPast (b2n b) = false) :
    exec (.tkWatchdogExpire b) s = s.becomes s.m :=
  congrArg s.becomes (if_pos (by simpa using h))

theorem tkWatchdogExpire_of_due (hr : s.m.tkRuns (b2n b) = true) (hf : s.m.tkFrozen (b2n b) = false)
    (hp : s.m.tkwdPast (b2n b) = true) : exec (.tkWatchdogExpire b) s = s.becomes (if s.m.activeTk = b2n b then s.m.tkTrigger
      else ((s.m.restartTk (b2n b)).wbit .blkTkstat 14 false).tkOk (b2n b) false) :=
  congrArg s.becomes (if_neg (by simp [hr, hf, hp]))

theorem mirrorComplete_of_on (h : s.m.isOn 1 = true) :
    let o := 1 - s.m.activeTk
    let up := if s.m.mirrorStow.tkRuns o then s.m.mirrorStow.tkOk o true else s.m.mirrorStow.holdTk o false
    exec .mirrorComplete s =
      s.becomes (up.wbit .blkTkstat 14 (up.ru .wlVer (272 + up.activeTk) == up.ru .wlVer (272 + o))) :=
  congrArg s.becomes (if_neg (by simp [h]))

end

/-! ## The block watchdog (R429) -/

section
variable {s : State} {who : Master} {v : Cell}

theorem bwdService_takes (h : Takes s who ⟨.pwrBwdsvc, 0, 0⟩) : exec (.bwdService who v) s = s.becomes (s.m.bwdService v who) := by
  show rowWrite s ⟨.pwrBwdsvc, 0, 0⟩ v who = _
  rw [rowWrite_stores h (by decide) (by decide), regStore_ctl rfl (by decide)]
  rfl

theorem bwdService_of_server {m : Mach} (h : who = .host ∨ m.isActiveTk who = true) : m.bwdService v who =
    if v = 0x05A5A then { m with d0 := { m.d0 with bwdAt := m.tb.mono } } else m.count 0x7B00 5 :=
  if_neg (by
    rintro ⟨hhost, htk⟩
    obtain h | h := h
    · exact hhost h
    · simp [h] at htk)

theorem bwdService_of_other {m : Mach} (h : who ≠ .host) (htk : m.isActiveTk who = false) : m.bwdService v who = m :=
  if_pos ⟨h, by simp [htk]⟩

end

section
variable {s : State}

theorem bwdExpire_of_running (h : bit (s.m.r .pwrBwd) 17 = false ∨ s.m.bwdFrozen = true ∨ s.m.bwdLeft ≠ 0) :
    exec .bwdExpire s = s.becomes s.m :=
  congrArg s.becomes (if_pos (by simpa using h))

/-- The block with its watchdog expired: BLK_FLT.BWD, and the count begun again. -/
def Mach.bwdTripped (m : Mach) : Mach := { m.fltCause 3 with d0 := { (m.fltCause 3).d0 with bwdAt := (m.fltCause 3).tb.mono } }

theorem bwdExpire_of_due (he : bit (s.m.r .pwrBwd) 17 = true) (hf : s.m.bwdFrozen = false) (hl : s.m.bwdLeft = 0) :
    exec .bwdExpire s = s.becomes (if !bit (s.m.bwdTripped.r .pwrBwd) 16 ∨ !s.m.bwdTripped.isOn 1 then s.m.bwdTripped
      else if s.m.bwdTripped.tkRestart.tkRuns (1 - s.m.bwdTripped.tkRestart.activeTk) then
        s.m.bwdTripped.tkRestart.restartTk (1 - s.m.bwdTripped.tkRestart.activeTk)
      else s.m.bwdTripped.tkRestart) :=
  congrArg s.becomes (if_neg (by simp [he, hf, hl]))

end

/-! ## The statement -/

/-- Settles O52: each order, trigger and watchdog by its own lemma. -/
theorem failover : Obligations.Failover := by
  unfold Obligations.Failover
  intro s who t v b k m n wd served due o mir up go late again restart r
  refine ⟨xchgOrders_take, fun hk => ⟨fun hr => ?_, fun hr h0 => ?_, fun hr h1 => ?_, fun hr h2 => ?_⟩, tkSwitch_takes,
    fun h => ?_, fun hr hf hd => ?_, fun h => ?_, mirrorComplete_of_on, fun h => ?_, fun he hf hl => ⟨fun ha => ?_, fun ha hon => ?_⟩,
    bwdExpire_of_running⟩
  · exact congrArg (fun g : Mach => s.becomes g.bootGo) (xchgCheck_of_refused hk hr)
  · exact congrArg (fun g : Mach => s.becomes g.bootGo) ((xchgCheck_of_accepted hk hr).1 h0)
  · exact congrArg (fun g : Mach => s.becomes g.bootGo) ((xchgCheck_of_accepted hk hr).2.1 h1)
  · exact congrArg (fun g : Mach => s.becomes g.bootGo) ((xchgCheck_of_accepted hk hr).2.2 h2)
  · exact tkWdService_takes h
  · rw [tkWatchdogExpire_of_due hr hf ((tkwdPast_iff m b).mpr hd)]
    exact ⟨fun ha => by rw [if_pos ha], fun ha => by rw [if_neg ha]⟩
  · exact tkWatchdogExpire_of_running (h.imp_right (Or.imp_right fun hd => by simpa using mt (tkwdPast_iff m b).mp hd))
  · rw [bwdService_takes h]
    refine ⟨fun hw hv => ?_, fun hw hv => ?_, fun hh htk => congrArg s.becomes (bwdService_of_other hh htk)⟩
    · rw [bwdService_of_server hw, if_pos hv]
    · rw [bwdService_of_server hw, if_neg hv]
  · exact (bwdExpire_of_due he hf hl).trans (congrArg s.becomes (if_pos (ha.imp (congrArg not) (congrArg not))))
  · exact (bwdExpire_of_due he hf hl).trans (congrArg s.becomes (if_neg (by simpa using ⟨ha, hon⟩)))

end Sys2Proof.Machine

/-!
PROOFS. Pulses and timers of the debug wire (O55, R435 to R438, R443, R461). That an empty read slot makes no pulse, and what END does in
it, is the model's choice (log entry 83).
-/
namespace Sys2Proof.Machine

/-! ## The session -/

section
variable {m : Mach} {e : Session}

@[simp] theorem updSession_session (m : Mach) (f : Session → Session) : (m.updSession f).d0.session = m.d0.session.map f := rfl

/-- A change of the session is what it does to the session that is open. -/
theorem updSession_congr (h : m.d0.session = some e) {f g : Session → Session} (hfg : f e = g e) : m.updSession f = m.updSession g := by
  simp only [Mach.updSession, h, Option.map_some, hfg]

theorem endSession_session (m : Mach) : m.endSession.d0.session = none := by
  unfold Mach.endSession
  split
  next h => exact Option.isNone_iff_eq_none.mp h
  next => rfl

end

/-! ## Pulses (R435, R438) -/

section
variable {s : State}

theorem oxBreak_of_power (h : s.m.d0.porst = false) : exec .oxBreak s = s.becomes s.m.openSession :=
  congrArg s.becomes (if_neg (ne_true_of_eq_false h))

theorem blockResetLow_of_power (h : s.m.d0.porst = false) : exec .blockResetLow s = s.becomes s.m.blockReset :=
  congrArg s.becomes (if_neg (ne_true_of_eq_false h))

theorem breset_takes {who : Master} (h : Takes s who ⟨.dbgCtl, 0, 0⟩) :
    exec (.breset who) s = s.becomes (s.m.w .dbgCtl ((s.m.r .dbgCtl ||| 0x2000) &&& 0x3C000)).blockReset := by
  show rowWrite s ⟨.dbgCtl, 0, 0⟩ (s.m.r .dbgCtl ||| 0x2000) who = _
  rw [rowWrite_stores h (by decide) (by decide), regStore_ctl rfl (by decide)]
  exact congrArg s.becomes (if_pos (by simp [bit]))

end

/-! ## Timers (R437, R443) -/

section
variable {s : State} {e : Session}

theorem sessionTimeout_of_session (h : s.m.d0.session = some e) :
    exec .sessionTimeout s = s.becomes (if s.m.past e.slotAt 10000000000 = true then s.m.endSession else s.m) := by
  have hany : ∀ p : Session → Bool, s.m.d0.session.any p = p e := fun p => by rw [h, Option.any_some]
  refine congrArg s.becomes ?_
  rw [hany]

theorem packetGapExpire_of_command (h : s.m.d0.session = some e) :
    exec (.packetGapExpire true) s = s.becomes ((s.m.wbit .dbgStat 11 true).count 0x7C00 3) :=
  congrArg s.becomes ((if_neg (by simp [h])).trans (if_pos rfl))

theorem packetGapExpire_of_response (h : s.m.d0.session = some e) (he : e.endAfter = false) :
    exec (.packetGapExpire false) s = s.becomes (s.m.updSession fun e => { e with tx := [], txBit := 0 }) :=
  congrArg s.becomes ((if_neg (by simp [h])).trans ((if_neg Bool.false_ne_true).trans (if_neg (by simp [h, he]))))

theorem dbgCmdTimeout_of_session (h : s.m.wirePoll.d0.session = some e) : exec .dbgCmdTimeout s =
    s.becomes (if (e.cmdBusy && s.m.wirePoll.past e.cmdAt 100000) = true then s.m.wirePoll.respond 7 [] else s.m.wirePoll) := by
  refine congrArg s.becomes ?_
  simp only [h]

end

/-! ## Read slots (R436, R437, R443) -/

section
variable {s : State} {e : Session} {o : BitVec 8} {rest : List (BitVec 8)}

/-- The block as a read slot finds it: a run command that is done is answered, and the slot's time noted. -/
def Mach.atSlot (m : Mach) : Mach := m.wirePoll.updSession fun e => { e with slotAt := m.now }

/-- What the block drives in a slot: a bit, or no pulse. -/
def Mach.driven (m : Mach) (p : Option Bool) : Mach := { m with d0 := { m.d0 with pulse := p } }

/-- A bit of the octet at the front sent, with what remains of `tx`. -/
def Mach.bitSent (m : Mach) (e : Session) (tx : List (BitVec 8)) (o : BitVec 8) (rest : List (BitVec 8)) : Mach :=
  (m.driven (some (bit o (7 - e.txBit)))).updSession fun e => { e with tx := if e.txBit = 7 then rest else tx, txBit := (e.txBit + 1) % 8 }

theorem readSlot_of_none (h : s.m.atSlot.d0.session = none) : exec .readSlot s = s.becomes (s.m.atSlot.driven none) := by
  refine congrArg s.becomes ?_
  dsimp only
  split
  · rfl
  next e' he' => exact absurd (he'.symm.trans h) (Option.some_ne_none e')

section
variable (h : s.m.atSlot.d0.session = some e)
include h

/-- A slot with nothing to send is a write slot. -/
theorem readSlot_of_nothing (htx : (if (e.tx.isEmpty && e.cmdBusy) = true then [0xFF#8] else e.tx) = []) :
    exec .readSlot s = s.becomes (s.m.atSlot.driven none) := by
  refine congrArg s.becomes ?_
  dsimp only
  split
  next hn => exact absurd (h.symm.trans hn) (Option.some_ne_none e)
  next e' he' =>
    obtain rfl : e' = e := Option.some_inj.mp (he'.symm.trans h)
    rw [htx]
    rfl

/-- In another a bit is sent: of the response, or of 0xFF while it is not ready. -/
theorem readSlot_of_octet {tx : List (BitVec 8)} (htx : (if (e.tx.isEmpty && e.cmdBusy) = true then [0xFF#8] else e.tx) = tx)
    (hcons : tx = o :: rest) : exec .readSlot s =
    s.becomes (if e.txBit = 7 ∧ rest.isEmpty = true ∧ (!e.cmdBusy) = true ∧ e.endAfter = true
      then (s.m.atSlot.bitSent e tx o rest).endSession.driven (s.m.atSlot.bitSent e tx o rest).d0.pulse
      else s.m.atSlot.bitSent e tx o rest) := by
  subst hcons
  refine congrArg s.becomes ?_
  dsimp only
  split
  next hn => exact absurd (h.symm.trans hn) (Option.some_ne_none e)
  next e' he' =>
    obtain rfl : e' = e := Option.some_inj.mp (he'.symm.trans h)
    rw [htx]
    rfl

end

theorem readSlot_of_empty (h : s.m.atSlot.d0.session = some e) (ht : e.tx = []) (hb : e.cmdBusy = false) :
    exec .readSlot s = s.becomes (s.m.atSlot.driven none) :=
  readSlot_of_nothing h (by simp [ht, hb])

end

/-! ## The statement -/

/-- Settles O55: each pulse by whether PORST_N is low, each timer by the session, a read slot by what there is to send (that an empty slot
makes no pulse, and what END does, is the model's choice: log entry 83). -/
theorem wirePulses : Obligations.WirePulses := by
  unfold Obligations.WirePulses
  intro s e who o rest m closed open_ poll w sent still
  refine ⟨fun hp => ⟨oxBreak_of_power hp, blockResetLow_of_power hp⟩, rfl, endSession_session m, fun h => ⟨fun ht => ?_, fun ht => ?_⟩,
    packetGapExpire_of_command, packetGapExpire_of_response, fun h hb ht => ?_, fun h hb => ?_, fun h ht he => ?_,
    fun h ht hbit hb he => ?_, fun h ht hb => ?_, readSlot_of_empty, readSlot_of_none, breset_takes⟩
  · exact (sessionTimeout_of_session h).trans (congrArg s.becomes (if_pos ht))
  · exact (sessionTimeout_of_session h).trans (congrArg s.becomes (if_neg (ne_true_of_eq_false ht)))
  · exact (dbgCmdTimeout_of_session h).trans (congrArg s.becomes (if_pos (Bool.and_eq_true_iff.mpr ⟨hb, ht⟩)))
  · exact (dbgCmdTimeout_of_session h).trans (congrArg s.becomes (if_neg (ne_true_of_eq_false (Bool.and_eq_false_iff.mpr hb))))
  · refine (readSlot_of_octet h (if_neg (by simp [ht])) ht).trans (congrArg s.becomes ((if_neg (by simp [he])).trans ?_))
    exact updSession_congr (m := sent _) h rfl
  · have hsent : w.bitSent e [o] o [] = (sent (bit o 0)).updSession fun e => { e with tx := [], txBit := 0 } := by
      rw [Mach.bitSent, hbit]
      exact updSession_congr (m := sent _) h (by simp only [hbit]; rfl)
    refine (readSlot_of_octet h (if_neg (by simp [ht])) ht).trans (congrArg s.becomes ((if_pos (by simp [hbit, hb, he])).trans ?_))
    rw [ht]
    show (w.bitSent e [o] o []).endSession.driven (w.bitSent e [o] o []).d0.pulse = _
    rw [hsent]
    rfl
  · exact (readSlot_of_octet h (if_pos (by simp [ht, hb])) rfl).trans (congrArg s.becomes (if_neg (by simp [hb])))

end Sys2Proof.Machine

/-!
PROOFS. Packets of the debug wire (O56, R440 to R444, R449, R454, R464): a packet is judged by its CRC, its arguments and its level, and
each command is what its row makes of a packet that passes. The order of CHAL's refusals and AUTH's highest level are the model's choice
(log entries 72 and 83).
-/
namespace Sys2Proof.Machine

/-! ## A packet that is received (R437, R440 to R442) -/

/-- The session as the packets find it: an earlier response abandoned, the time of the slot and of the command noted. -/
def Session.received (e : Session) (now : Nat) : Session :=
  { e with tx := [], txBit := 0, cmdBusy := false, endAfter := false, slotAt := now, cmdAt := now }

/-- The block with a packet received. -/
def Mach.received (m : Mach) : Mach := m.updSession fun e => e.received m.now

/-- A packet is refused with the first of STATUS 1, 2 and 3 that applies, else it makes the block `f`. -/
def JudgesPacket (s : State) (e : Session) (crc : BitVec 8) (i : Instr) (body : List (BitVec 8)) (ok : Bool) (level : Nat) (f : Mach) : Prop :=
  (crc8 body ≠ crc → exec i s = s.becomes (s.m.received.respond 1 [])) ∧
  (crc8 body = crc → ok = false → exec i s = s.becomes (s.m.received.respond 2 [])) ∧
  (crc8 body = crc → ok = true → e.level.toNat < level → exec i s = s.becomes (s.m.received.respond 3 [])) ∧
  (crc8 body = crc → ok = true → level ≤ e.level.toNat → exec i s = s.becomes f)

section
variable {s : State} {e : Session}

theorem received_session (h : s.m.d0.session = some e) : s.m.received.d0.session = some (e.received s.m.now) := by
  rw [Mach.received, updSession_session, h, Option.map_some]

theorem received_level (h : s.m.d0.session = some e) : s.m.received.sessionLevel = e.level.toNat := by
  unfold Mach.sessionLevel
  rw [received_session h]
  rfl

theorem packet_of_session (h : s.m.d0.session = some e) (hp : s.m.d0.porst = false) (body : List (BitVec 8)) (crc : BitVec 8) (ok : Bool)
    (level : Nat) (f : Mach → Mach) : s.m.packet body crc ok level f =
      if crc8 body ≠ crc then s.m.received.respond 1 []
      else if (!ok) = true then s.m.received.respond 2 []
      else if e.level.toNat < level then s.m.received.respond 3 []
      else f s.m.received := by
  rw [← received_level h]
  exact if_neg (by simp [h, hp])

/-- A row that is a packet judges it so. -/
theorem judgesPacket_of_packet (h : s.m.d0.session = some e) (hp : s.m.d0.porst = false) {i : Instr} {body : List (BitVec 8)} {crc : BitVec 8}
    {ok : Bool} {level : Nat} {f : Mach → Mach} (hi : exec i s = s.becomes (s.m.packet body crc ok level f)) {g : Mach}
    (hf : f s.m.received = g) : JudgesPacket s e crc i body ok level g := by
  rw [packet_of_session h hp] at hi
  subst hf
  refine ⟨fun hc => ?_, fun hc ho => ?_, fun hc ho hl => ?_, fun hc ho hl => ?_⟩
  · rw [hi, if_pos hc]
  · rw [hi, if_neg (not_not.mpr hc), if_pos (by simp [ho])]
  · rw [hi, if_neg (not_not.mpr hc), if_neg (by simp [ho]), if_pos hl]
  · rw [hi, if_neg (not_not.mpr hc), if_neg (by simp [ho]), if_neg (Nat.not_lt.mpr hl)]

end

/-! ## The statement -/

/-- Settles O56: each packet is its row's, in the session as the packet finds it (the order of CHAL's refusals, and that AUTH keeps the
highest level, are the model's choice: log entries 72 and 83). -/
theorem wirePackets : Obligations.WirePackets := by
  unfold Obligations.WirePackets
  intro s e target space count term1 n crc term tag addr items octets hs hp m lv sum nonce judged level t read wrote put
  have hlevel : m.sessionLevel = lv := received_level hs
  have hsession : m.d0.session = some (e.received s.m.now) := received_session hs
  have hjudges {i : Instr} {body : List (BitVec 8)} {ok : Bool} {least : Nat} {f : Mach → Mach} :
      exec i s = s.becomes (s.m.packet body crc ok least f) → ∀ {g : Mach}, f m = g → sum i body ok least g :=
    judgesPacket_of_packet hs hp
  refine ⟨hjudges rfl (by rw [hlevel]), fun hl hon => hjudges rfl ?_, fun hl => hjudges rfl ?_, fun hl hon => hjudges rfl ?_,
    hjudges rfl ?_, hjudges rfl ?_, hjudges rfl rfl, hjudges rfl rfl, hjudges rfl rfl, hjudges rfl ?_, hjudges rfl rfl⟩
  · exact (if_neg (ne_true_of_eq_false hl)).trans (if_neg (by simp [hon]))
  · exact if_pos hl
  · exact (if_neg (ne_true_of_eq_false hl)).trans (if_pos (by simp [hon]))
  · rw [hlevel, hsession]
    rfl
  · show (match read with | (m, .ok os) => m.respond 0 os | (m, .error c) => m.respond c []) = _
    rcases read with ⟨g, os | c⟩ <;> rfl
  · rw [hsession]
    rfl

end Sys2Proof.Machine

/-!
PROOFS. Run control (O57, R456 to R460): a run command of the wire is a packet that needs FULL access, one by DBG_RUN a write of that
register; what each does on one thread. The meaning of ALL, and that HALT and STEP complete when the threads are halted, are the model's
choice (log entry 70).
-/
namespace Sys2Proof.Machine

/-! ## By the wire (R456) -/

section
variable {s : State} {e : Session} {crc : BitVec 8} {tk all : Bool} {t : Tid}

/-- What the wire answers to a run command: REFUSED, nothing yet, or done. -/
def Mach.runAnswer (r : Mach × Bool) : Mach :=
  if r.2 then r.1.respond 6 [] else if r.1.runBusy then r.1.updSession fun e => { e with cmdBusy := true } else r.1.respond 0 []

theorem packet_accepted (hs : s.m.d0.session = some e) (hp : s.m.d0.porst = false) {level : Nat} (hl : level ≤ e.level.toNat)
    {body : List (BitVec 8)} (hc : crc8 body = crc) (f : Mach → Mach) : s.m.packet body crc true level f = f s.m.received := by
  rw [packet_of_session hs hp, if_neg (not_not.mpr hc), if_neg (by simp), if_neg (Nat.not_lt.mpr hl)]

theorem runVia_wire (hs : s.m.d0.session = some e) (hp : s.m.d0.porst = false) (hl : 2 ≤ e.level.toNat) {op : Nat} {a : DAddr}
    (hc : crc8 ([6, BitVec.ofNat 8 op] ++ beOctets (b2n tk * 0x8000 + b2n all * 0x4000 + t.toNat) 2 ++ beOctets a.toNat 4) = crc) :
    s.m.runVia (.wire crc) op tk all t a = Mach.runAnswer (s.m.received.run op tk all t true a.toNat) :=
  packet_accepted hs hp hl hc fun m => Mach.runAnswer (m.run op tk all t true a.toNat)

end

/-! ## By DBG_RUN (R456) -/

/-- DBG_RUN as a run command writes it. -/
def runValue (op : Nat) (tk all : Bool) (t : Tid) : Cell := BitVec.ofNat 18 (op * 0x8000 + b2n tk * 0x4000 + b2n all * 0x2000 + t.toNat)

theorem runValue_fields {op : Nat} (hop : op < 8) (tk all : Bool) (t : Tid) :
    fld (runValue op tk all t) 17 15 = op ∧ bit (runValue op tk all t) 14 = tk ∧ bit (runValue op tk all t) 13 = all ∧
    fld (runValue op tk all t) 11 0 = t.toNat := by
  have hlt := t.isLt
  have hval : (runValue op tk all t).toNat = op * 0x8000 + b2n tk * 0x4000 + b2n all * 0x2000 + t.toNat := by
    rw [runValue, BitVec.toNat_ofNat, Nat.mod_eq_of_lt]
    cases tk <;> cases all <;> simp only [b2n, Bool.false_eq_true, if_true, if_false] <;> omega
  have hbit : ∀ i, bit (runValue op tk all t) i = decide ((runValue op tk all t).toNat / 2 ^ i % 2 = 1) := fun i => by
    rw [bit, BitVec.getLsbD, Nat.testBit_eq_decide_div_mod_eq]
  simp only [hbit, fld, hval]
  cases tk <;> cases all <;> simp only [b2n, Bool.false_eq_true, if_true, if_false] <;>
    exact ⟨by omega, by simp; omega, by simp; omega, by omega⟩

section
variable {m : Mach} {who : Master}

theorem dbgRunWrite_value {op : Nat} (h0 : 0 < op) (hop : op < 8) (tk all : Bool) (t : Tid) :
    m.dbgRunWrite (runValue op tk all t) = (m.run op tk all t false m.dbgArg).1 := by
  obtain ⟨hfop, htk, hall, ht⟩ := runValue_fields hop tk all t
  unfold Mach.dbgRunWrite
  rw [hfop, htk, hall, ht, BitVec.ofNat_toNat, BitVec.setWidth_eq, if_neg (by omega)]

theorem regWrite_dbgRun (hon : m.isOn 0 = true) (hw : m.mayWrite ⟨.dbgRun, 0, 0⟩ who = true) (v : Cell) :
    m.regWrite ⟨.dbgRun, 0, 0⟩ v who = m.dbgRunWrite v := by
  rw [regWrite_of_mayWrite (by decide) hon hw, regStore_ctl rfl (by decide)]
  rfl

/-- The two cells of an address in DBG_ARG. -/
def Mach.argPut (m : Mach) (area : DAddr) : Mach := (m.w .dbgArg (area.setWidth 18) 0).w .dbgArg ((area >>> 18).setWidth 18) 1

theorem argPut_dbgArg (m : Mach) (area : DAddr) : (m.argPut area).dbgArg = area.toNat := by
  have hlt := area.isLt
  have hlow : (m.argPut area).r .dbgArg 0 = area.setWidth 18 := (Mach.rset_rget_ne _ _ (by decide)).trans (Mach.w_r_self ..)
  have hhigh : (m.argPut area).r .dbgArg 1 = (area >>> 18).setWidth 18 := Mach.w_r_self ..
  rw [Mach.dbgArg, hlow, hhigh, fld_bottom, BitVec.toNat_setWidth, BitVec.toNat_setWidth, BitVec.toNat_ushiftRight, Nat.shiftRight_eq_div_pow]
  omega

theorem regWrite_dbgArg (hon : m.isOn 0 = true) (hw : m.mayWrite ⟨.dbgRun, 0, 0⟩ who = true) (v : Cell) :
    m.regWrite ⟨.dbgArg, 0, 0⟩ v who = m.w .dbgArg v 0 ∧ m.regWrite ⟨.dbgArg, 0, 1⟩ v who = m.w .dbgArg (v &&& 0x3FF) 1 := by
  have hstore : ∀ i u, m.plainWrite ⟨.dbgArg, 0, i⟩ u = m.w .dbgArg u i := fun i u =>
    (plainWrite_of_rw rfl).trans (congrArg (m.rset _) (blend_full _ u))
  constructor
  · rw [regWrite_of_mayWrite (r := ⟨.dbgArg, 0, 0⟩) (by decide) hon hw, regStore_ctl rfl (by decide)]
    exact hstore 0 v
  · rw [regWrite_of_mayWrite (r := ⟨.dbgArg, 0, 1⟩) (by decide) hon hw, regStore_ctl rfl (by decide)]
    exact hstore 1 (v &&& 0x3FF)

theorem high_and_mask (area : DAddr) : (area >>> 18).setWidth 18 &&& (0x3FF : Cell) = (area >>> 18).setWidth 18 := by
  have hlt := area.isLt
  apply BitVec.eq_of_toNat_eq
  rw [BitVec.toNat_and, BitVec.toNat_setWidth, BitVec.toNat_ushiftRight, Nat.shiftRight_eq_div_pow]
  show _ &&& (2 ^ 10 - 1) = _
  rw [Nat.and_two_pow_sub_one_eq_mod]
  omega

/-- LOAD stores its address in DBG_ARG first: whoever may write DBG_RUN may write both cells. -/
theorem regWrites_dbgArg (hon : m.isOn 0 = true) (hw : m.mayWrite ⟨.dbgRun, 0, 0⟩ who = true) (area : DAddr) :
    (m.regWrite ⟨.dbgArg, 0, 0⟩ (area.setWidth 18) who).regWrite ⟨.dbgArg, 0, 1⟩ ((area >>> 18).setWidth 18) who = m.argPut area := by
  rw [(regWrite_dbgArg hon hw _).1, (regWrite_dbgArg (m := m.w .dbgArg (area.setWidth 18) 0) hon hw _).2, high_and_mask, Mach.argPut]

section
variable {s : State} {tk all : Bool} {t : Tid} (h : Takes s who ⟨.dbgRun, 0, 0⟩)
include h

theorem runVia_reg {op : Nat} (h0 : 0 < op) (hop : op < 5) (a : DAddr) :
    s.m.runVia (.reg who) op tk all t a = (s.m.run op tk all t false s.m.dbgArg).1 := by
  obtain ⟨hon, hw, hn⟩ := h
  rw [← dbgRunWrite_value h0 (by omega), ← regWrite_dbgRun hon hw]
  refine (if_neg (ne_true_of_eq_false hn)).trans ?_
  rw [if_neg (by omega)]
  rfl

theorem runVia_reg_load (area : DAddr) :
    s.m.runVia (.reg who) 5 tk all t area = ((s.m.argPut area).run 5 tk all t false area.toNat).1 := by
  obtain ⟨hon, hw, hn⟩ := h
  have harg : (s.m.argPut area).dbgRunWrite (runValue 5 tk all t) = ((s.m.argPut area).run 5 tk all t false area.toNat).1 := by
    rw [dbgRunWrite_value (by decide) (by decide), argPut_dbgArg]
  rw [← harg, ← regWrite_dbgRun (m := s.m.argPut area) hon hw, ← regWrites_dbgArg hon hw]
  exact (if_neg (ne_true_of_eq_false hn)).trans rfl

end

end

/-! ## On one thread (R456 to R460) -/

section
variable {m : Mach} {t : Tid}

theorem runOne_halt (hf : (m.thr t).faulted = false) (hr : m.coreRuns t = true) (hh : (m.thr t).halted = false) (w : Bool) (a : Nat) :
    m.runOne 1 w a t = some (m.updThr t fun x => { x with haltReq := some 1, bySession := w }) := by
  simp [Mach.runOne, hf, hr, hh]

theorem releaseThread_of_free (h : m.shovOn t = none) : m.releaseThread t = m.resumeThread t := by
  simp only [Mach.releaseThread, h]

section
variable (hf : (m.thr t).faulted = false) (hr : m.coreRuns t = true) (hh : (m.thr t).halted = true)
include hf hr hh

theorem runOne_resume (w : Bool) (a : Nat) : m.runOne 2 w a t = some (m.releaseThread t) := by
  simp [Mach.runOne, hf, hr, hh]

theorem runOne_step (w : Bool) (a : Nat) : m.runOne 3 w a t =
    some (m.updThr t fun x => { x with halted := false, cause := 0, stepping := true, bySession := w }) := by
  simp [Mach.runOne, hf, hr, hh]

theorem runOne_load (hs : (m.thr t).shadow = none) (w : Bool) (a : Nat) : m.runOne 5 w a t = m.loadHalf t a := by
  simp [Mach.runOne, hf, hr, hh, hs]

end

theorem runOne_load_refused (h : ¬((m.thr t).halted = true ∧ (m.thr t).faulted = false ∧ m.coreRuns t = true)) (w : Bool) (a : Nat) :
    m.runOne 5 w a t = none := by
  have hheld : ((m.thr t).halted && !(m.thr t).faulted && m.coreRuns t) = false := by
    rw [← Bool.not_eq_true]
    simpa [and_assoc] using h
  simp only [Mach.runOne, hheld, Bool.false_and, Bool.false_eq_true, if_false]

/-- A faulted thread accepts no halt, release or step. -/
theorem runOne_of_faulted (h : (m.thr t).faulted = true) (w : Bool) (a : Nat) :
    m.runOne 1 w a t = none ∧ m.runOne 2 w a t = none ∧ m.runOne 3 w a t = none := by
  simp [Mach.runOne, h]

end

/-! ## The statement -/

/-- Settles O57: a run command by the way it arrives, and what it does on a thread by the thread's state (the meaning of ALL, and when HALT
and STEP complete, are the model's choice: log entry 70). -/
theorem runControl : Obligations.RunControl := by
  unfold Obligations.RunControl
  intro s e who tk all t crc area m x open_ dest wired written arg held
  refine ⟨fun hs hp hl => ?_, fun h => ?_, fun hf hr => ⟨runOne_halt hf hr, fun hh w a => ⟨fun hsh => ?_, runOne_step hf hr hh w a⟩⟩,
    fun w a => rfl, fun ⟨hh, hf, hr⟩ => runOne_load hf hr hh, runOne_load_refused, runOne_of_faulted⟩
  · exact ⟨fun hc => congrArg s.becomes (runVia_wire hs hp hl hc), fun hc => congrArg s.becomes (runVia_wire hs hp hl hc),
      fun hc => congrArg s.becomes (runVia_wire hs hp hl hc), fun hc => congrArg s.becomes (runVia_wire hs hp hl hc),
      fun hc => congrArg s.becomes (runVia_wire hs hp hl hc)⟩
  · exact ⟨congrArg s.becomes (runVia_reg h (by decide) (by decide) 0), congrArg s.becomes (runVia_reg h (by decide) (by decide) 0),
      congrArg s.becomes (runVia_reg h (by decide) (by decide) 0), congrArg s.becomes (runVia_reg h (by decide) (by decide) 0),
      congrArg s.becomes (runVia_reg_load h area)⟩
  · rw [runOne_resume hf hr hh, releaseThread_of_free hsh]

end Sys2Proof.Machine

/-!
PROOFS. The life-cycle registers and the virtual terminals (O58, R446 to R452, R464). CODE 3 for a level, slot 2 loaded at LC_KDATA, the
order of the checks, and what a master without a core reads, are the model's choice (log entries 72 and 101).
-/
namespace Sys2Proof.Machine

/-! ## Cells that hold an octet or 16 bits -/

theorem ofNat_fld_setWidth {n : Nat} (hn : n + 1 ≤ 18) (v : BitVec (n + 1)) :
    BitVec.ofNat (n + 1) (fld (v.setWidth 18) n 0) = v := by
  have hlt : v.toNat < 2 ^ 18 := lt_of_lt_of_le v.isLt (Nat.pow_le_pow_right (by decide) hn)
  rw [fld_bottom, BitVec.toNat_setWidth, Nat.mod_eq_of_lt hlt, Nat.mod_eq_of_lt v.isLt, BitVec.ofNat_toNat, BitVec.setWidth_eq]

/-! ## Challenges and transitions (R448, R449) -/

section
variable {s : State} {who : Master}

theorem lcChal_takes (h : Takes s who ⟨.lcChal, 0, 0⟩) (g : BitVec 8) :
    exec (.lcChal who g) s = s.becomes (s.m.lcChalWrite (g.setWidth 18)) := by
  show rowWrite s ⟨.lcChal, 0, 0⟩ (g.setWidth 18) who = _
  rw [rowWrite_stores h (by decide) (by decide), regStore_ctl rfl (by decide)]
  rfl

theorem lcTransition_takes (h : Takes s who ⟨.lcCmd, 0, 0⟩) : exec (.lcTransition who) s = s.becomes (s.m.lcCmdWrite 0x20000) := by
  show rowWrite s ⟨.lcCmd, 0, 0⟩ 0x20000 who = _
  rw [rowWrite_stores h (by decide) (by decide), regStore_ctl rfl (by decide)]
  rfl

theorem lcKeyWrite_takes (h : Takes s who ⟨.lcKdata, 0, 0⟩) (w : BitVec 16) :
    exec (.lcKeyWrite who w) s = s.becomes (s.m.lcKdataWrite (w.setWidth 18)) := by
  show rowWrite s ⟨.lcKdata, 0, 0⟩ (w.setWidth 18) who = _
  rw [rowWrite_stores h (by decide) (by decide), regStore_ctl rfl (by decide)]
  rfl

end

section
variable {m : Mach}

/-- The checks of LC_CHAL in their order: the lockout, the power of the seal, the target. -/
theorem lcChalWrite_octet (m : Mach) (g : BitVec 8) : m.lcChalWrite (g.setWidth 18) =
    if m.d0.lockout = true then m.lcCode 8
    else if (!m.isOn 5) = true then m.lcCode 9
    else if (!targetOk g) = true then m.lcCode 2
    else Mach.lcCode { m.take with d0 := { m.d0 with lcNonce := some (g, Config.nonce m.free) } } 0 := by
  unfold Mach.lcChalWrite
  rw [ofNat_fld_setWidth (by decide) g]

/-- The customer key with one more word of 16 bits (R452). -/
def Mach.keyStaged (m : Mach) (w : BitVec 16) : List (BitVec 16) := m.d0.stagedKey ++ [w]

theorem lcKdataWrite_word (m : Mach) (w : BitVec 16) : m.lcKdataWrite (w.setWidth 18) =
    if m.d0.lcState ≠ 1 ∨ m.d0.ckey = true ∨ m.d0.lcBad = true then m.lcCode 6
    else if (m.keyStaged w).length < 8 then { m with d0 := { m.d0 with stagedKey := m.keyStaged w } }
    else
      let k : BitVec 128 := BitVec.ofNat 128 ((m.keyStaged w).foldl (fun a x => a * 65536 + x.toNat) 0)
      let n := Mach.lcSave { m with d0 := { m.d0 with stagedKey := [], custKey := k, ckey := true } }
      if n.isOn 5 then n.setCmacKey 2 k else n := by
  unfold Mach.lcKdataWrite
  rw [ofNat_fld_setWidth (by decide) w]
  rfl

end

/-! ## Virtual terminals (R464) -/

section
variable {s : State} {t : Tid} {o : BitVec 8}

theorem setWidth_octet (o : BitVec 8) : (o.setWidth 18).setWidth 8 = o :=
  (BitVec.setWidth_setWidth_of_le _ (by decide)).trans (BitVec.setWidth_eq o)

section
variable (hok : Tid.ok t = true) (hon : s.m.isOn 0 = true) (hh : (s.m.thr t).helm = true)
include hok hon hh

theorem vtTx_of_helm : exec (.vtTx t o) s = s.becomes (s.m.vtOut (Tid.coreNo t) o) := by
  show onThread t s (fun m => m.regWrite ⟨.dbgVtTx, 0, 0⟩ (o.setWidth 18) (.thread t)) = _
  refine (onThread_of_ok hok).trans (congrArg s.becomes ?_)
  have hw : s.m.mayWrite ⟨.dbgVtTx, 0, 0⟩ (.thread t) = true := hh
  rw [regWrite_of_mayWrite (by decide) hon hw, regStore_ctl rfl (by decide)]
  exact congrArg (s.m.vtOut (Tid.coreNo t)) (setWidth_octet o)

theorem vtRx_of_helm : exec (.vtRx t) s =
    s.reads (s.m.updVt (Tid.coreNo t) fun v => { v with inp := v.inp.tail }) (vtHead (s.m.vt (Tid.coreNo t)).inp) := by
  have hdom : s.m.isOn (RegRef.domain ⟨.dbgVtRx, 0, 0⟩) = true := hon
  have hread : s.m.regRead ⟨.dbgVtRx, 0, 0⟩ (.thread t) =
      (s.m.updVt (Tid.coreNo t) fun v => { v with inp := v.inp.tail }, vtHead (s.m.vt (Tid.coreNo t)).inp) :=
    if_neg (by simp [hdom])
  show onThread t s (fun m => if (m.thr t).helm then Mach.keepRead (m.regRead ⟨.dbgVtRx, 0, 0⟩ (.thread t)) else m) = _
  rw [onThread_of_ok hok, if_pos hh, hread]
  rfl

end

section
variable {who : Master} {k : Nat} (hk : s.m.vtSel = some k)
include hk

theorem vtoutRead_answers (h : Answers s who ⟨.dbgVtout, 0, 0⟩) : exec (.vtoutRead who) s =
    s.reads (if s.m.quiet who then s.m else s.m.updVt k fun v => { v with out := v.out.tail }) (vtHead (s.m.vt k).out) := by
  have hget : s.m.regFetch ⟨.dbgVtout, 0, 0⟩ who (s.m.quiet who) =
      (if s.m.quiet who then s.m else s.m.updVt k fun v => { v with out := v.out.tail }, vtHead (s.m.vt k).out) := by
    show s.m.vtoutGet (s.m.quiet who) = _
    simp only [Mach.vtoutGet, hk]
  show rowRead s ⟨.dbgVtout, 0, 0⟩ who = _
  rw [rowRead_fetches h (by decide), hget]

theorem vtinWrite_takes (h : Takes s who ⟨.dbgVtin, 0, 0⟩) : exec (.vtinWrite who o) s = s.becomes (s.m.vtIn k [o]).1 := by
  show rowWrite s ⟨.dbgVtin, 0, 0⟩ (o.setWidth 18) who = _
  rw [rowWrite_stores h (by decide) (by decide), regStore_ctl rfl (by decide)]
  refine congrArg s.becomes ?_
  show (match s.m.vtSel with | some n => (s.m.vtIn n [(o.setWidth 18).setWidth 8]).1 | none => s.m) = _
  rw [hk, setWidth_octet]

end
end

/-! ## The statement -/

/-- Settles O58: each register by its checks in their order, a terminal by its queue (the order of the checks, CODE 3 for a level, slot 2
loaded at LC_KDATA, and the terminals of a master without a core, are the model's choice: log entries 72 and 101). -/
theorem lifeCycleAndTerminals : Obligations.LifeCycleAndTerminals := by
  unfold Obligations.LifeCycleAndTerminals
  intro s who g o w t k m nonce tag c r st key free
  refine ⟨fun hp => congrArg s.becomes (if_pos hp), fun hp => congrArg s.becomes (if_neg (ne_true_of_eq_false hp)), fun h => ?_,
    fun h => ?_, fun h => ?_, fun hok hon => ⟨vtTx_of_helm hok hon, vtRx_of_helm hok hon⟩, fun h hk => vtoutRead_answers hk h,
    fun h hk => vtinWrite_takes hk h⟩
  · rw [lcChal_takes h, lcChalWrite_octet]
    refine ⟨fun hl => ?_, fun hl hon => ?_, fun hl hon ht => ?_, fun hl hon ht => ?_⟩
    · rw [if_pos hl]
    · rw [if_neg (ne_true_of_eq_false hl), if_pos (by simpa using hon)]
    · rw [if_neg (ne_true_of_eq_false hl), if_neg (by simpa using hon), if_pos (by simpa using ht)]
    · rw [if_neg (ne_true_of_eq_false hl), if_neg (by simpa using hon), if_neg (by simpa using ht)]
      rfl
  · exact (lcTransition_takes h).trans (congrArg s.becomes (if_neg (by decide)))
  · rw [lcKeyWrite_takes h, lcKdataWrite_word]
    refine ⟨fun hb => ?_, fun h1 hc hb => ?_⟩
    · rw [if_pos hb]
    · rw [if_neg (not_or.mpr ⟨not_not.mpr h1, not_or.mpr ⟨ne_true_of_eq_false hc, ne_true_of_eq_false hb⟩⟩)]
      exact ⟨fun hlen => congrArg s.becomes (if_pos hlen), fun hlen => congrArg s.becomes (if_neg (Nat.not_lt.mpr hlen))⟩

end Sys2Proof.Machine

/-!
PROOFS. The object dictionary, its window, its calls and its refusals (O53, R373 to R383, R389, R407). That requests wait while no
firmware runs, and are performed whole at their command, is the model's choice (log entry 76).
-/
namespace Sys2Proof.Machine

/-! ## The window's commands (R382) -/

section
variable {s : State} {who : Master} {v : Cell}

/-- OD_CMD has no core of a tollkeeper behind it: a write that it takes is the command. -/
theorem rowWrite_odCmd (h : Takes s who ⟨.odCmd, 0, 0⟩) : rowWrite s ⟨.odCmd, 0, 0⟩ v who = s.becomes (s.m.odCommand v) := by
  obtain ⟨hon, hmay, hnarrow⟩ := h
  have hspace : ¬ (Reg.odCmd.info.space = .core) := by decide
  unfold rowWrite
  rw [if_neg (by simp [hspace, hnarrow]), Mach.regWrite, if_neg (by simp [hon]), if_pos rfl, if_pos hmay]
  rfl

/-- The word of a segment (operation 2) or of a commit (operation 3) of a value's type. -/
def odWord (op : Nat) (ty : BitVec 4) : Cell := BitVec.ofNat 18 (op * 0x10000 + ty.toNat)

theorem odWord_toNat {op : Nat} (hop : op < 4) (ty : BitVec 4) : (odWord op ty).toNat = op * 0x10000 + ty.toNat := by
  have hty := ty.isLt
  simp only [odWord, BitVec.toNat_ofNat]
  omega

theorem odWord_op {op : Nat} (hop : op < 4) (ty : BitVec 4) : fld (odWord op ty) 17 16 = op := by
  have hty := ty.isLt
  simp only [fld, odWord_toNat hop]
  omega

theorem odWord_type {op : Nat} (hop : op < 4) (ty : BitVec 4) : fld (odWord op ty) 3 0 = ty.toNat := by
  have hty := ty.isLt
  simp only [fld, odWord_toNat hop]
  omega

end

/-! ## Requests (R382, log entry 76) -/

section
variable {m : Mach} {v : Cell} {r : OdReq}

/-- The block with another queue of requests. -/
def Mach.odQueue (m : Mach) (q : List OdReq) : Mach := { m with dict := { m.dict with waits := q } }

/-- The block after the requests that wait. -/
def Mach.odCaughtUp (m : Mach) : Mach := m.dict.waits.foldl Mach.odServe (m.odQueue [])

theorem odCommand_of_busy (h : bit (m.r .odStat) 17 = true) : m.odCommand v = m := if_pos (Or.inl h)

theorem odCommand_of_idle (h : bit (m.r .odStat) 17 = false) (hv : fld v 17 16 ≠ 0) : m.odCommand v = m.odRequest (.window v) :=
  if_neg (not_or.mpr ⟨ne_true_of_eq_false h, hv⟩)

theorem odRequest_of_fw (h : m.fwRuns = true) : m.odRequest r = m.odCaughtUp.odServe r :=
  (if_pos h).trans (congrArg (Mach.odServe · r) (if_pos h))

theorem odRequest_waits (h : m.fwRuns ≠ true) (hlen : m.dict.waits.length < 16) :
    m.odRequest r = match r with
      | .window _ => (m.odQueue (m.dict.waits ++ [r])).wbit .odStat 17 true
      | .call _ _ => m.odQueue (m.dict.waits ++ [r]) := by
  refine (if_neg h).trans ((if_pos hlen).trans ?_)
  cases r <;> rfl

theorem odRequest_busy (h : m.fwRuns ≠ true) (hlen : 16 ≤ m.dict.waits.length) : m.odRequest r = m.odBusy r :=
  (if_neg h).trans (if_neg (Nat.not_lt.mpr hlen))

end

/-! ## The window performed (R381, R382) -/

section
variable {m : Mach} {i j c ty vt : Nat} {last : Bool} {os : List (BitVec 8)}

theorem odWindowRead_of_error (h : m.odGet (m.r .odIdx).toNat (m.r .odSub).toNat = .error c) : m.odWindowRead = m.odDone c false 0 := by
  simp only [Mach.odWindowRead, h]

theorem odWindowRead_of_ok (h : m.odGet (m.r .odIdx).toNat (m.r .odSub).toNat = .ok (vt, os)) :
    m.odWindowRead = ((m.odShow ((os.drop (m.r .odOff).toNat).take 256)).w .odLen
      (BitVec.ofNat 18 ((os.drop (m.r .odOff).toNat).take 256).length)).odDone 0
      (decide (256 < (os.drop (m.r .odOff).toNat).length)) vt := by
  simp only [Mach.odWindowRead, h]

theorem odWindowWrite_of_error (h : m.odStage = .error c) : m.odWindowWrite ty last = (m.odStaged []).odDone c false 0 := by
  simp only [Mach.odWindowWrite, h]

theorem odWindowWrite_of_segment (h : m.odStage = .ok os) : m.odWindowWrite ty false = (m.odStaged os).odDone 0 false 0 := by
  simp only [Mach.odWindowWrite, h, Bool.false_eq_true, if_false]

theorem odWindowWrite_of_commit (h : m.odStage = .ok os) : m.odWindowWrite ty true =
    ((m.odStaged []).odPut (m.r .odIdx).toNat (m.r .odSub).toNat ty os).1.odDone
      ((m.odStaged []).odPut (m.r .odIdx).toNat (m.r .odSub).toNat ty os).2 false 0 := by
  simp only [Mach.odWindowWrite, h, if_true]

theorem odWindow_read (m : Mach) : m.odWindow 0x10000 = m.odWindowRead := if_pos (by decide)

theorem odWindow_segment (m : Mach) (ty : BitVec 4) : m.odWindow (odWord 2 ty) = m.odWindowWrite ty.toNat false := by
  simp [Mach.odWindow, odWord_op, odWord_type]

theorem odWindow_commit (m : Mach) (ty : BitVec 4) : m.odWindow (odWord 3 ty) = m.odWindowWrite ty.toNat true := by
  simp [Mach.odWindow, odWord_op, odWord_type]

end

/-! ## Window commands -/

section
variable {s : State} {who : Master} {ty : BitVec 4}

theorem odRead_takes (h : Takes s who ⟨.odCmd, 0, 0⟩) : exec (.odRead who) s = s.becomes (s.m.odCommand 0x10000) := rowWrite_odCmd h

theorem odWriteSegment_takes (h : Takes s who ⟨.odCmd, 0, 0⟩) :
    exec (.odWriteSegment who ty) s = s.becomes (s.m.odCommand (odWord 2 ty)) := rowWrite_odCmd h

theorem odWriteCommit_takes (h : Takes s who ⟨.odCmd, 0, 0⟩) :
    exec (.odWriteCommit who ty) s = s.becomes (s.m.odCommand (odWord 3 ty)) := rowWrite_odCmd h

variable (h : Takes s who ⟨.odCmd, 0, 0⟩)
include h

section
variable (hidle : bit (s.m.r .odStat) 17 = false)
include hidle

theorem odRead_requests : exec (.odRead who) s = s.becomes (s.m.odRequest (.window 0x10000)) :=
  (odRead_takes h).trans (congrArg s.becomes (odCommand_of_idle hidle (by decide)))

variable (hfw : s.m.fwRuns = true)
include hfw

/-- With the firmware running the command is the window operation on the block after the requests that wait. -/
theorem odRead_performs : exec (.odRead who) s = s.becomes s.m.odCaughtUp.odWindowRead :=
  (odRead_requests h hidle).trans (congrArg s.becomes ((odRequest_of_fw hfw).trans (odWindow_read _)))

theorem odWriteSegment_performs : exec (.odWriteSegment who ty) s = s.becomes (s.m.odCaughtUp.odWindowWrite ty.toNat false) :=
  (odWriteSegment_takes h).trans (congrArg s.becomes
    ((odCommand_of_idle hidle (by simp [odWord_op])).trans ((odRequest_of_fw hfw).trans (odWindow_segment _ ty))))

theorem odWriteCommit_performs : exec (.odWriteCommit who ty) s = s.becomes (s.m.odCaughtUp.odWindowWrite ty.toNat true) :=
  (odWriteCommit_takes h).trans (congrArg s.becomes
    ((odCommand_of_idle hidle (by simp [odWord_op])).trans ((odRequest_of_fw hfw).trans (odWindow_commit _ ty))))

end

end

/-! ## Calls (R383) -/

section
variable {s : State} {l : LLock} {x : Fin 16}

theorem dictCall_performs (hfw : s.m.fwRuns = true) :
    exec (.dictCall l x) s = s.becomes (s.m.odCaughtUp.dictCall l.val x.val) :=
  congrArg s.becomes (odRequest_of_fw hfw)

theorem dictCall_of_off {m : Mach} {l x : Nat} (h : m.placeOff (.stow (16 * m.plockOf l + x) 0) = true) : m.dictCall l x = m := if_pos h

theorem dictCall_of_on {m : Mach} {l x : Nat} (h : m.placeOff (.stow (16 * m.plockOf l + x) 0) = false) :
    m.dictCall l x = (m.callRequest (16 * m.plockOf l + x)).1.callDone (m.plockOf l) (16 * m.plockOf l + x)
      (fld (m.callCell (16 * m.plockOf l + x) 0) 17 16) (m.callRequest (16 * m.plockOf l + x)).2.1
      (m.callRequest (16 * m.plockOf l + x)).2.2 :=
  if_neg (ne_true_of_eq_false h)

end

/-! ## The refusals of a write and of a read (R373 to R376) -/

section
variable {m : Mach} {i j ty c : Nat} {os : List (BitVec 8)} {e : OdEntry}

theorem odPut_of_noEntry (h : m.odEntry i j = .error c) : m.odPut i j ty os = (m, c) := by
  simp only [Mach.odPut, h]

theorem odGet_of_noEntry (h : m.odEntry i j = .error c) : m.odGet i j = .error c := by
  simp only [Mach.odGet, h]

section
variable (h : m.odEntry i j = .ok e)
include h

theorem odPut_of_readOnly (hacc : e.acc = .ro ∨ e.acc = .const) : m.odPut i j ty os = (m, 0x30003) := by
  simp only [Mach.odPut, h]
  exact if_pos hacc

theorem odPut_of_misfit (hro : e.acc ≠ .ro) (hconst : e.acc ≠ .const) (hfit : e.fits ty os = false) :
    m.odPut i j ty os = (m, 0x30005) := by
  simp only [Mach.odPut, h]
  exact (if_neg (not_or.mpr ⟨hro, hconst⟩)).trans (if_pos (congrArg not hfit))

theorem odPut_of_outOfRange (hro : e.acc ≠ .ro) (hconst : e.acc ≠ .const) (hfit : e.fits ty os = true)
    (hrange : m.odInRange (256 * i + j) e os = false) : m.odPut i j ty os = (m, 0x30006) := by
  simp only [Mach.odPut, h]
  exact (if_neg (not_or.mpr ⟨hro, hconst⟩)).trans ((if_neg (by simp [hfit])).trans (if_pos (congrArg not hrange)))

theorem odGet_of_writeOnly (hacc : e.acc = .wo) : m.odGet i j = .error 0x30004 := by
  simp only [Mach.odGet, h]
  exact if_pos hacc

theorem odGet_of_off (hacc : e.acc ≠ .wo) (hlc : m.lcRefuses false i j = false) (hoff : m.odPowered e = false) :
    m.odGet i j = .error 0x30009 := by
  simp only [Mach.odGet, h]
  exact (if_neg hacc).trans ((if_neg (ne_true_of_eq_false hlc)).trans (if_pos (congrArg not hoff)))

end

end

/-! ## The statement -/

/-- Settles O53: a window command and a call by whether the firmware runs, then by what the window operation finds; a refused access by
the first test that refuses it (that requests wait while no firmware runs, and come whole and in order, is the model's choice: log entry
76). -/
theorem dictionaryCommands : Obligations.DictionaryCommands := by
  unfold Obligations.DictionaryCommands
  refine ⟨?_, ?_⟩
  · intro s who ty l x d n v c vt os m queue g i j fw idle rest p k
    refine ⟨fun h => ⟨fun hidle hfw => ⟨fun hget => ?_, fun hget => ?_, fun hst => ⟨?_, ?_⟩, fun hst => ⟨?_, ?_⟩⟩, fun hbusy => ?_,
      fun hidle hfw => ⟨fun hlen => ?_, fun hlen => ?_⟩⟩, fun hfw => ⟨fun hon => ?_, fun hoff => ?_⟩, fun hfw hlen => ?_, fun hfw => ?_,
      fun hfw => ?_⟩
    · exact (odRead_performs h hidle hfw).trans (congrArg s.becomes (odWindowRead_of_error hget))
    · exact (odRead_performs h hidle hfw).trans (congrArg s.becomes (odWindowRead_of_ok hget))
    · exact (odWriteSegment_performs h hidle hfw).trans (congrArg s.becomes (odWindowWrite_of_error hst))
    · exact (odWriteCommit_performs h hidle hfw).trans (congrArg s.becomes (odWindowWrite_of_error hst))
    · exact (odWriteSegment_performs h hidle hfw).trans (congrArg s.becomes (odWindowWrite_of_segment hst))
    · exact (odWriteCommit_performs h hidle hfw).trans (congrArg s.becomes (odWindowWrite_of_commit hst))
    · have hbit : bit (m.r .odStat) 17 = true := by simpa [idle] using hbusy
      exact ⟨(odRead_takes h).trans (congrArg s.becomes (odCommand_of_busy hbit)),
        (odWriteSegment_takes h).trans (congrArg s.becomes (odCommand_of_busy hbit)),
        (odWriteCommit_takes h).trans (congrArg s.becomes (odCommand_of_busy hbit))⟩
    · exact (odRead_requests h hidle).trans (congrArg s.becomes (odRequest_waits hfw hlen))
    · exact (odRead_requests h hidle).trans (congrArg s.becomes (odRequest_busy hfw hlen))
    · exact (dictCall_performs hfw).trans (congrArg s.becomes (dictCall_of_on hon))
    · exact (dictCall_performs hfw).trans (congrArg s.becomes (dictCall_of_off hoff))
    · exact congrArg s.becomes (odRequest_waits hfw hlen)
    · exact ⟨congrArg s.becomes (if_pos hfw), congrArg s.becomes (if_pos hfw), congrArg s.becomes (if_pos hfw)⟩
    · exact ⟨congrArg s.becomes (if_neg hfw), congrArg s.becomes (if_neg hfw), congrArg s.becomes (if_neg hfw)⟩
  · intro m i j ty c os e
    exact ⟨fun h => ⟨odPut_of_noEntry h, odGet_of_noEntry h⟩,
      fun h => ⟨odPut_of_readOnly h, odPut_of_misfit h, odPut_of_outOfRange h, odGet_of_writeOnly h, odGet_of_off h⟩⟩

end Sys2Proof.Machine

/-!
PROOFS. LPP requests, the registers of their queue and their timers (O54, R385 to R393). That an open request sets the session's SEQ to its
own, and that a drawn number 0 is stepped over, are the model's choices (log entries 78 and 3); the lowest free slot is taken.
-/
namespace Sys2Proof.Machine

/-! ## A request taken (R382, R385) -/

section
variable {m : Mach} {mf : DAddr} {f : LppFrame} {x : LppMsg} {is : LppMsg → Bool}

/-- The block with a request off the queue. -/
def Mach.lppTaken (m : Mach) (mf : DAddr) : Mach :=
  { m with dict := { m.dict with lppQueue := m.dict.lppQueue.filter fun a => a != mf } }

section
variable (hfw : m.fwRuns = true) (hframe : m.lppFrame mf.toNat = some f)
include hfw hframe

theorem lppTake_of_message (hmsg : lppParse f.os = some x) :
    m.lppTake mf is = if is x = true then (m.lppTaken mf).lppServe f x else m := by
  simp only [Mach.lppTake, hfw, hframe, hmsg, Bool.not_true, Bool.false_eq_true, if_false]
  rfl

theorem lppTake_of_noMessage (hmsg : lppParse f.os = none) :
    m.lppTake mf is = ((m.lppTaken mf).lppSilent f.mf).count 0x7460 3 := by
  simp only [Mach.lppTake, hfw, hframe, hmsg, Bool.not_true, Bool.false_eq_true, if_false]
  rfl

theorem lppTake_serves (hmsg : lppParse f.os = some x) (his : is x = true) : m.lppTake mf is = (m.lppTaken mf).lppServe f x :=
  (lppTake_of_message hfw hframe hmsg).trans (if_pos his)

theorem lppTake_leaves (hmsg : lppParse f.os = some x) (his : is x = false) : m.lppTake mf is = m :=
  (lppTake_of_message hfw hframe hmsg).trans (if_neg (ne_true_of_eq_false his))

end

end

/-! ## Each message's command (R387 to R390) -/

section
variable {s : State} {mf : DAddr} {f : LppFrame} {x : LppMsg}
  (hfw : s.m.fwRuns = true) (hframe : s.m.lppFrame mf.toNat = some f) (hmsg : lppParse f.os = some x)
include hfw hframe hmsg

theorem lppRead_serves (h : x.msg = 1) : exec (.lppRead mf) s = s.becomes ((s.m.lppTaken mf).lppServe f x) :=
  congrArg s.becomes (lppTake_serves hfw hframe hmsg (by rw [h]; rfl))

theorem lppRead_leaves (h : x.msg = 3) : exec (.lppRead mf) s = s.becomes s.m :=
  congrArg s.becomes (lppTake_leaves hfw hframe hmsg (by rw [h]; rfl))

theorem lppWrite_serves (h : x.msg = 2) (ho : x.opens = false) :
    exec (.lppWrite mf) s = s.becomes ((s.m.lppTaken mf).lppServe f x) :=
  congrArg s.becomes (lppTake_serves hfw hframe hmsg (by rw [h, ho]; rfl))

theorem sessionOpen_serves (h : x.opens = true) : exec (.sessionOpen mf) s = s.becomes ((s.m.lppTaken mf).lppServe f x) :=
  congrArg s.becomes (lppTake_serves hfw hframe hmsg h)

theorem lppReadBlock_serves (h : x.msg = 3) : exec (.lppReadBlock mf) s = s.becomes ((s.m.lppTaken mf).lppServe f x) :=
  congrArg s.becomes (lppTake_serves hfw hframe hmsg (beq_iff_eq.mpr h))

theorem lppWriteBlock_serves (h : x.msg = 4) : exec (.lppWriteBlock mf) s = s.becomes ((s.m.lppTaken mf).lppServe f x) :=
  congrArg s.becomes (lppTake_serves hfw hframe hmsg (beq_iff_eq.mpr h))

theorem lppSubscribe_serves (h : x.msg = 5) : exec (.lppSubscribe mf) s = s.becomes ((s.m.lppTaken mf).lppServe f x) :=
  congrArg s.becomes (lppTake_serves hfw hframe hmsg (beq_iff_eq.mpr h))

theorem lppAbort_serves (h : x.msg = 7) : exec (.lppAbort mf) s = s.becomes ((s.m.lppTaken mf).lppServe f x) :=
  congrArg s.becomes (lppTake_serves hfw hframe hmsg (beq_iff_eq.mpr h))

end

/-! ## A request of a session (R391, R392) -/

/-- A tagged request in a right form, to the block alone. -/
structure LppMsg.Proper (x : LppMsg) : Prop where
  request : x.rsp = false
  tagged : x.auth = true
  single : x.bcast = false
  formed : x.badForm = 0

/-- A request that a session of role OPERATE in a slot accepts. -/
structure Mach.Accepts (m : Mach) (x : LppMsg) (n : Nat) (e : LppSession) : Prop where
  numbered : x.session ≠ 0
  found : m.sessionOf x.session = some (n, e)
  tag : m.lppTag (16 + n) (x.head ++ x.body) = x.tag
  later : e.rxSeq < x.seq
  operate : e.role = 1

/-- The block with a session that accepted a request. -/
def Mach.lppHeard (m : Mach) (x : LppMsg) (n : Nat) (e : LppSession) : Mach :=
  m.putSession n { e with rxSeq := x.seq, heard := m.now }

section
variable {m : Mach} {f : LppFrame} {x : LppMsg} {n : Nat} {e : LppSession}

theorem opens_of_session (h : x.session ≠ 0) : x.opens = false := by
  simp only [LppMsg.opens, beq_false_of_ne h, Bool.and_false, Bool.false_and]

theorem rolePermits_operate (h : e.role = 1) : rolePermits e.role x = true := by
  rw [h]; rfl

theorem lppServe_of_session (hx : x.Proper) (h : m.Accepts x n e) : m.lppServe f x = m.lppInSession f x n e := by
  simp only [Mach.lppServe, hx.request, hx.tagged, opens_of_session h.numbered, h.found, Bool.false_eq_true, if_false, if_true]
  exact if_neg h.numbered

/-- An accepted request that does not end the session is performed on the session as it stands after it, and answered. -/
theorem lppInSession_performs (hx : x.Proper) (hcmac : m.cmacRuns = true) (h : m.Accepts x n e)
    (hend : ¬ (x.msg = 2 ∧ x.body = [0x12, 0, 1, 9, 0])) : m.lppInSession f x n e =
      ((m.lppHeard x n e).lppRequest f x n).1.lppAnswer f x (some n) ((m.lppHeard x n e).lppRequest f x n).2 := by
  have hform : ¬ x.badForm ≠ 0 := not_not_intro hx.formed
  have htag : ¬ ((!m.cmacRuns) = true ∨ m.lppTag (16 + n) (x.head ++ x.body) ≠ x.tag) := by simp [hcmac, h.tag]
  unfold Mach.lppInSession
  rw [if_neg htag, if_neg (BitVec.not_le.mpr h.later), if_neg (ne_true_of_eq_false hx.single), if_neg hform,
    if_neg (by simp [rolePermits_operate h.operate]), if_neg hend]
  rfl

theorem lppServe_performs (hx : x.Proper) (hcmac : m.cmacRuns = true) (h : m.Accepts x n e)
    (hend : ¬ (x.msg = 2 ∧ x.body = [0x12, 0, 1, 9, 0])) : m.lppServe f x =
      ((m.lppHeard x n e).lppRequest f x n).1.lppAnswer f x (some n) ((m.lppHeard x n e).lppRequest f x n).2 :=
  (lppServe_of_session hx h).trans (lppInSession_performs hx hcmac h hend)

end

section
variable {s : State} {mf : DAddr} {f : LppFrame} {x : LppMsg} {n : Nat} {e : LppSession}

/-- A request on the queue whose session accepts it, by what performing it comes to. -/
theorem lppServe_of_accepted (hx : x.Proper) (hcmac : s.m.cmacRuns = true) (h : s.m.Accepts x n e)
    (hend : ¬ (x.msg = 2 ∧ x.body = [0x12, 0, 1, 9, 0])) {w : Mach} {reply : Reply}
    (hdone : (((s.m.lppTaken mf).lppHeard x n e).lppRequest f x n) = (w, reply)) :
    s.becomes ((s.m.lppTaken mf).lppServe f x) = s.becomes (w.lppAnswer f x (some n) reply) := by
  have htaken : (s.m.lppTaken mf).Accepts x n e := ⟨h.numbered, h.found, h.tag, h.later, h.operate⟩
  rw [lppServe_performs (m := s.m.lppTaken mf) hx hcmac htaken hend, hdone]

end

/-! ## What a request draws (R387 to R389) -/

section
variable {m g : Mach} {f : LppFrame} {x : LppMsg} {n k ty : Nat} {src : BitVec 12} {b os : List (BitVec 8)}

theorem lppRequest_read (h : x.msg = 1) : m.lppRequest f x n = (m, m.lppRead x.body) := by
  simp only [Mach.lppRequest, h]

theorem lppRequest_write (h : x.msg = 2) : m.lppRequest f x n = m.lppWrite x.body := by
  simp only [Mach.lppRequest, h]

theorem lppRequest_readBlock (h : x.msg = 3) : m.lppRequest f x n = m.lppReadBlock n x.body := by
  simp only [Mach.lppRequest, h]

theorem lppRequest_writeBlock (h : x.msg = 4) : m.lppRequest f x n = m.lppWriteBlock n x.body := by
  simp only [Mach.lppRequest, h]

theorem lppRequest_subscribe (h : x.msg = 5) : m.lppRequest f x n = m.lppSubscribe n f x.src x.body := by
  simp only [Mach.lppRequest, h]

theorem lppRequest_abort (h : x.msg = 7) : m.lppRequest f x n = (m.putTransfer n none, .silent) := by
  simp only [Mach.lppRequest, h]

theorem lppRead_of_ok (h : m.odGet (numAt b 0 2) (numAt b 2 1) = .ok (ty, os)) (hlen : os.length ≤ 1000) :
    m.lppRead b = .body (b.take 3 ++ beOctets ty 1 ++ os) := by
  simp only [Mach.lppRead, h]
  exact if_neg (Nat.not_lt.mpr hlen)

theorem lppWrite_of_done (h : m.odPut (numAt b 0 2) (numAt b 2 1) (numAt b 3 1) (b.drop 4) = (g, 0)) :
    m.lppWrite b = (g, .body (b.take 4)) := by
  simp only [Mach.lppWrite, h, if_true]

/-- The snapshot that a READ-BLOCK takes of a value. -/
def Mach.lppSnapshot (m : Mach) (b : List (BitVec 8)) (ty : Nat) (os : List (BitVec 8)) : Transfer :=
  ⟨false, BitVec.ofNat 16 (numAt b 0 2), BitVec.ofNat 8 (numAt b 2 1), BitVec.ofNat 8 ty, os, m.now⟩

theorem lppReadBlock_of_first (hoff : numAt b 4 4 = 0) (hpos : 0 < numAt b 8 2) (hmax : numAt b 8 2 ≤ 1000)
    (hmore : numAt b 8 2 < os.length) (h : m.odGet (numAt b 0 2) (numAt b 2 1) = .ok (ty, os)) : m.lppReadBlock n b =
      ((m.putTransfer n (some (m.lppSnapshot b ty os))).putTransfer n (some (m.lppSnapshot b ty os)),
        .body (b.take 3 ++ [BitVec.ofNat 8 ty] ++ (b.drop 4).take 4 ++ beOctets 0 1 ++ os.take (numAt b 8 2))) := by
  have hcnt : ¬ (numAt b 8 2 = 0 ∨ 1000 < numAt b 8 2) := by omega
  have hfin : decide (os.length ≤ 0 + numAt b 8 2) = false := decide_eq_false (by omega)
  simp only [Mach.lppReadBlock, hoff, h, if_neg hcnt, if_true, Nat.not_lt_zero, if_false, hfin, Bool.false_eq_true, List.drop_zero]
  rfl

/-- The transfer that the first segment of a WRITE-BLOCK begins. -/
def Mach.lppPart (m : Mach) (b : List (BitVec 8)) : Transfer :=
  ⟨true, BitVec.ofNat 16 (numAt b 0 2), BitVec.ofNat 8 (numAt b 2 1), BitVec.ofNat 8 (numAt b 3 1), b.drop 9, m.now⟩

theorem lppWriteBlock_of_first (hoff : numAt b 4 4 = 0) (hfin : numAt b 8 1 ≠ 1) :
    m.lppWriteBlock n b = (m.putTransfer n (some (m.lppPart b)), .body (b.take 8)) := by
  have hfin' : (numAt b 8 1 == 1) = false := beq_eq_false_iff_ne.mpr hfin
  simp only [Mach.lppWriteBlock, if_pos hoff, hfin', Bool.false_eq_true, if_false]
  rfl

/-- The subscription that a SUBSCRIBE asks for. -/
def Mach.lppSubscr (m : Mach) (n : Nat) (f : LppFrame) (src : BitVec 12) (b os : List (BitVec 8)) : Subscr :=
  ⟨n, BitVec.ofNat 16 (numAt b 0 2), BitVec.ofNat 8 (numAt b 2 1), BitVec.ofNat 16 (numAt b 4 2), BitVec.ofNat 8 (numAt b 6 1), f.iq, src,
    (swapAddrs f.head).map nonet, os, m.now⟩

/-- A subscription stored in a place. -/
def Mach.putSub (m : Mach) (k : Nat) (x : Subscr) : Mach := { m with dict := { m.dict with subs := mput m.dict.subs k x } }

theorem lppSubscribe_of_new (hperiod : numAt b 4 2 < 0xFFFF) (h : m.odGet (numAt b 0 2) (numAt b 2 1) = .ok (ty, os))
    (hmine : m.dict.subs.find? (fun e => e.2.session == n && e.2.id == BitVec.ofNat 8 (numAt b 6 1)) = none)
    (hfree : m.freeSub = some k) : m.lppSubscribe n f src b =
      (m.putSub k (m.lppSubscr n f src b os), .body (b.take 3 ++ beOctets ty 1 ++ [BitVec.ofNat 8 (numAt b 6 1)])) := by
  have hkeep : BitVec.ofNat 16 (numAt b 4 2) ≠ 0xFFFF := fun e => by
    have hval : numAt b 4 2 % 2 ^ 16 = 0xFFFF := congrArg BitVec.toNat e
    omega
  simp only [Mach.lppSubscribe, h, if_neg hkeep, hmine, hfree]
  rfl

end

/-! ## The open request (R390, log entries 3 and 78) -/

section
variable {m : Mach} {f : LppFrame} {x : LppMsg}

/-- The session number that an open request takes where no session is open: 0 is stepped over. -/
def Mach.firstNumber (m : Mach) : BitVec 16 :=
  if Config.sessionNumber m.free = 0 then Config.sessionNumber m.free + 1 else Config.sessionNumber m.free

/-- The nonce that the open request's answer carries. -/
def Mach.openNonce (m : Mach) : List (BitVec 8) := beOctets (Config.sessionNonce m.free).toNat 8

/-- The session key derived from an open request. -/
def Mach.openKey (m : Mach) (x : LppMsg) : List (BitVec 8) :=
  aesCmac (m.cmacKey (numAt x.body 4 1))
    ([0x4C, 0x50, 0x50, 0x01] ++ x.body.drop 5 ++ m.openNonce ++ beOctets m.firstNumber.toNat 2)

/-- The block with the session that an open request makes in slot 0. -/
def Mach.lppOpened (m : Mach) (x : LppMsg) : Mach :=
  (m.take.setCmacKey 16 (BitVec.ofNat 128 (beNat (m.openKey x)))).putSession 0
    ⟨m.firstNumber, BitVec.ofNat 8 (numAt x.body 4 1), 16, x.seq, 0, m.now⟩

/-- How far the first number from a drawn one on lies that is not 0. -/
theorem find_nonzero_from (a : BitVec 16) :
    (List.range 17).find? (fun d => !(a + BitVec.ofNat 16 d == 0 || false)) = some (if a = 0 then 1 else 0) := by
  by_cases h : a = 0
  · subst h; decide
  · rw [List.range_succ_eq_map, List.find?_cons_of_pos, if_neg h]
    simpa using h

theorem firstNumber_eq (m : Mach) :
    Config.sessionNumber m.free + BitVec.ofNat 16 (if Config.sessionNumber m.free = 0 then 1 else 0) = m.firstNumber := by
  unfold Mach.firstNumber
  split
  · rfl
  · exact BitVec.add_zero _

theorem sessionOf_of_none (h : m.dict.sessions = []) (num : BitVec 16) : m.sessionOf num = none := by
  simp [Mach.sessionOf, h]

theorem lppServe_of_open (hx : x.Proper) (h : x.opens = true) : m.lppServe f x = m.lppOpen f x := by
  simp only [Mach.lppServe, hx.request, hx.tagged, h, Bool.false_eq_true, if_false, if_true]

theorem numAt_drop (b : List (BitVec 8)) (i off n : Nat) : numAt (b.drop i) off n = numAt b (i + off) n := by
  simp only [numAt, List.drop_drop]

/-- The open request accepted where no session is open. -/
theorem lppOpen_first (hx : x.Proper) (hcmac : m.cmacRuns = true) (hrole : numAt x.body 4 1 < 2) (hlen : x.body.length = 13)
    (hty : numAt x.body 3 1 = 9) (hseq : x.seq ≠ 0) (htag : m.lppTag (numAt x.body 4 1) (x.head ++ x.body) = x.tag)
    (hnone : m.dict.sessions = []) (hlc : m.lcRefuses true 0x1200 1 = false) : m.lppOpen f x =
      (m.lppOpened x).lppAnswer f x (some 0) (.body (x.body.take 4 ++ beOctets m.firstNumber.toNat 2 ++ m.openNonce)) := by
  have hrest : (x.body.drop 4).length = 9 := by rw [List.length_drop, hlen]
  have hsome : (x.body.drop 4).isEmpty = false := by
    rw [List.isEmpty_eq_false_iff, ← List.length_pos_iff, hrest]; decide
  have hdrop : ¬ (2 ≤ numAt x.body 4 1 ∨ (x.body.drop 4).isEmpty = true ∨ (!m.cmacRuns) = true ∨
      m.lppTag (numAt x.body 4 1) (x.head ++ x.body) ≠ x.tag) := by
    simpa [hcmac, htag, hsome] using Nat.le_of_lt_succ hrole
  have hfree : (List.range 16).find? (fun n => !(([] : Map LppSession).any fun e => e.1 == n)) = some 0 := by decide
  have hbad : (if x.badForm ≠ 0 then x.badForm else if numAt x.body 3 1 ≠ 9 ∨ (x.body.drop 4).length ≠ 9 then 0x30005 else 0) = 0 := by
    rw [if_neg (not_not_intro hx.formed), if_neg (by simp [hty, hrest])]
  unfold Mach.lppOpen
  simp only [numAt_drop, Nat.add_zero, if_neg hdrop, if_neg hseq, hx.single, Bool.false_eq_true, if_false, hnone, hfree, hbad,
    ne_eq, not_true_eq_false, hlc, sessionOf_of_none hnone, Option.isSome_none, find_nonzero_from, firstNumber_eq, List.drop_drop]
  rfl

end

/-! ## Subscriptions that are due (R389) -/

section
variable {m g : Mach} {i k ty : Nat} {u : Subscr} {os : List (BitVec 8)}

/-- A value noted as sent to a subscription. -/
def Mach.subSent (m : Mach) (i : Nat) (u : Subscr) (os : List (BitVec 8)) : Mach := m.putSub i { u with last := os, sent := m.now }

/-- The body of a NOTIFY. -/
def notifyBody (u : Subscr) (ty : Nat) (os : List (BitVec 8)) : List (BitVec 8) :=
  beOctets u.index.toNat 2 ++ [u.sub] ++ beOctets ty 1 ++ [u.id] ++ os

variable (hsub : m.dict.subs.find? (fun e => e.1 == i) = some (i, u)) (hget : m.odGet u.index.toNat u.sub.toNat = .ok (ty, os))
include hsub hget

theorem notify_of_quiet
    (h : (u.period = 0 ∧ os = u.last) ∨ 1000 < os.length ∨ (!m.past u.sent (1000000 * max 1 u.period.toNat)) = true) :
    m.notify i = m := by
  simp only [Mach.notify, hsub, hget]
  exact if_pos h

theorem notify_of_due
    (h : ¬ ((u.period = 0 ∧ os = u.last) ∨ 1000 < os.length ∨ (!m.past u.sent (1000000 * max 1 u.period.toNat)) = true))
    (halloc : (m.subSent i u os).lppAlloc (fld (m.r .blkLppnew1) 16 13) = some (g, k)) : m.notify i =
      ((g.lppBuild 6 u.dst (some u.session) 0 (notifyBody u ty os)).1.count 0x7460 7).lppOut (fld (m.r .blkLppnew1) 16 13) k u.iq
        (u.head.map octet ++ (g.lppBuild 6 u.dst (some u.session) 0 (notifyBody u ty os)).2) := by
  simp only [Mach.notify, hsub, hget]
  refine (if_neg h).trans ?_
  split
  next hn => exact absurd (halloc.symm.trans hn) (Option.some_ne_none _)
  next g' k' hs =>
    obtain ⟨rfl, rfl⟩ := Prod.mk.inj (Option.some.inj (halloc.symm.trans hs))
    rfl

end

/-! ## Timers of sessions and transfers (R388, R390) -/

section
variable {s : State} {n : BitVec 4} {t : Transfer}

theorem notifyDue_of_fw {i : BitVec 6} (h : s.m.fwRuns = true) : exec (.notifyDue i) s = s.becomes (s.m.notify i.toNat) :=
  congrArg s.becomes (if_pos h)

theorem sessionIdleExpire_of_idle (hfw : s.m.fwRuns = true)
    (h : s.m.dict.sessions.any (fun e => e.1 == n.toNat && s.m.idlePast e.2) = true) :
    exec (.sessionIdleExpire n) s = s.becomes ((s.m.endLpp n.toNat).count 0x7460 8) :=
  congrArg s.becomes (if_pos (Bool.and_eq_true_iff.mpr ⟨hfw, h⟩))

theorem sessionIdleExpire_of_heard (h : s.m.dict.sessions.any (fun e => e.1 == n.toNat && s.m.idlePast e.2) = false) :
    exec (.sessionIdleExpire n) s = s.becomes s.m :=
  congrArg s.becomes (if_neg (ne_true_of_eq_false (Bool.and_eq_false_iff.mpr (Or.inr h))))

theorem blockTransferExpire_of_transfer (h : s.m.transfer n.toNat = some t) : exec (.blockTransferExpire n) s =
    s.becomes (if s.m.past t.since 100000000 = true then s.m.putTransfer n.toNat none else s.m) := by
  have hany : ∀ p : Transfer → Bool, (s.m.transfer n.toNat).any p = p t := fun p => by rw [h, Option.any_some]
  refine congrArg s.becomes ?_
  rw [hany]

end

/-! ## The registers of the queue (R386) -/

section
variable {s : State} {m g : Mach} {who : Master} {a : DAddr} {r : List DAddr} {k : Nat} {quiet : Bool} {v : Cell}

theorem lppPop_of_loud (h : m.dict.lppQueue = a :: r) : m.lppPop false =
    (Mach.w { m with dict := { m.dict with lppQueue := r } } .blkLpppop1 (BitVec.ofNat 18 (0x20000 + a.toNat / 0x40000)),
      a.setWidth 18) := by
  unfold Mach.lppPop
  split
  next hn => exact absurd (h.symm.trans hn) (List.cons_ne_nil a r)
  next a' r' hc =>
    obtain ⟨rfl, rfl⟩ := List.cons.inj (h.symm.trans hc)
    rfl

theorem lppPop_of_quiet (h : m.dict.lppQueue = a :: r) : m.lppPop true = (m, a.setWidth 18) := by
  simp only [Mach.lppPop, h, if_true]

theorem lppNew_of_room (h : m.lppAlloc (fld (m.r .blkLppnew1) 16 13) = some (g, k)) : m.lppNew false =
    (g.w .blkLppnew1 (setFld (setBit (m.r .blkLppnew1) 17 true) 9 0 (k / 0x40000)), BitVec.ofNat 18 k) := by
  simp only [Mach.lppNew, h, Bool.false_eq_true, if_false]

theorem lppNew_of_full (h : m.lppAlloc (fld (m.r .blkLppnew1) 16 13) = none) : m.lppNew false =
    (m.w .blkLppnew1 (setFld (setBit (m.r .blkLppnew1) 17 false) 9 0 0), 0) := by
  simp only [Mach.lppNew, h, Bool.false_eq_true, if_false]

theorem lppPop_answers (h : Answers s who ⟨.blkLpppop0, 0, 0⟩) :
    exec (.lppPop who) s = s.reads (s.m.lppPop (s.m.quiet who)).1 (s.m.lppPop (s.m.quiet who)).2 :=
  rowRead_fetches h (by decide)

theorem lppNew_answers (h : Answers s who ⟨.blkLppnew0, 0, 0⟩) :
    exec (.lppNew who) s = s.reads (s.m.lppNew (s.m.quiet who)).1 (s.m.lppNew (s.m.quiet who)).2 :=
  rowRead_fetches h (by decide)

theorem blkWrite_lppship (m : Mach) (v : Cell) (who : Master) : m.blkWrite ⟨.blkLppship, 0, 2⟩ v who = m.lppShip v := by
  simp only [Mach.blkWrite, if_true]

theorem lppShip_takes (h : Takes s who ⟨.blkLppship, 0, 2⟩) : exec (.lppShip who v) s = s.becomes (s.m.lppSend s.m.lppMf v) := by
  show rowWrite s ⟨.blkLppship, 0, 2⟩ v who = _
  rw [rowWrite_stores h (by decide) (by decide), regStore_blk rfl (by decide), blkWrite_lppship]
  rfl

end

/-! ## The statement -/

/-- Settles O54: each command takes the request of its message; a request that its session accepts is performed by the row of its message,
and an open request makes a session where none is open; a NOTIFY, the timers and the registers each by what they find (that the session's SEQ
is the open request's, and that a drawn number 0 is stepped over, are the model's choices: log entries 78 and 3). -/
theorem lppRequests : Obligations.LppRequests := by
  unfold Obligations.LppRequests
  intro s who mf a v f x r i n g k ty ns u os e m idleFor left taken c served
  refine ⟨fun hfw hf hx => ⟨lppRead_serves hfw hf hx, lppWrite_serves hfw hf hx, sessionOpen_serves hfw hf hx,
      lppReadBlock_serves hfw hf hx, lppWriteBlock_serves hfw hf hx, lppSubscribe_serves hfw hf hx, lppAbort_serves hfw hf hx,
      lppRead_leaves hfw hf hx⟩, fun hfw hf hx hrsp hauth hbcast hform hcmac => ⟨fun hnum hfound htag hlater hrole => ?_,
      fun hopen hrole hlen hty hseq htag hnone hlc => ?_⟩, fun hfw hf hx => congrArg s.becomes (lppTake_of_noMessage hfw hf hx),
    fun hfw hsub hget => ⟨fun hlen hdue hpast => ?_, fun hquiet => ?_⟩, fun hfw => ⟨sessionIdleExpire_of_idle hfw,
      sessionIdleExpire_of_heard⟩, fun t ht => ⟨fun hp => ?_, fun hp => ?_⟩, fun h => ⟨fun hq hloud => ?_, fun hq hquiet => ?_⟩,
    fun h hloud => ⟨fun halloc => ?_, fun halloc => ?_⟩, lppShip_takes⟩
  · have hproper : x.Proper := ⟨hrsp, hauth, hbcast, hform⟩
    have hacc : m.Accepts x ns e := ⟨hnum, hfound, htag, hlater, hrole⟩
    have hend : ∀ {k}, x.msg = k → k ≠ 2 → ¬ (x.msg = 2 ∧ x.body = [0x12, 0, 1, 9, 0]) := fun h hk hc => hk (h.symm.trans hc.1)
    refine ⟨fun h hget hlen => ?_, fun h hb hput => ?_, fun h hoff hpos hmax hmore hget => ?_, fun h hoff hfin => ?_,
      fun h hper hget hmine hfree => ?_, fun h => ?_⟩
    · exact (lppRead_serves hfw hf hx h).trans (lppServe_of_accepted hproper hcmac hacc (hend h (by decide))
        ((lppRequest_read h).trans (congrArg _ (lppRead_of_ok hget hlen))))
    · exact (lppWrite_serves hfw hf hx h (opens_of_session hnum)).trans (lppServe_of_accepted hproper hcmac hacc (fun hc => hb hc.2)
        ((lppRequest_write h).trans (lppWrite_of_done hput)))
    · exact (lppReadBlock_serves hfw hf hx h).trans (lppServe_of_accepted hproper hcmac hacc (hend h (by decide))
        ((lppRequest_readBlock h).trans (lppReadBlock_of_first hoff hpos hmax hmore hget)))
    · exact (lppWriteBlock_serves hfw hf hx h).trans (lppServe_of_accepted hproper hcmac hacc (hend h (by decide))
        ((lppRequest_writeBlock h).trans (lppWriteBlock_of_first hoff hfin)))
    · exact (lppSubscribe_serves hfw hf hx h).trans (lppServe_of_accepted hproper hcmac hacc (hend h (by decide))
        ((lppRequest_subscribe h).trans (lppSubscribe_of_new hper hget hmine hfree)))
    · exact (lppAbort_serves hfw hf hx h).trans (lppServe_of_accepted hproper hcmac hacc (hend h (by decide)) (lppRequest_abort h))
  · exact (sessionOpen_serves hfw hf hx hopen).trans (congrArg s.becomes ((lppServe_of_open ⟨hrsp, hauth, hbcast, hform⟩ hopen).trans
      (lppOpen_first (m := taken) ⟨hrsp, hauth, hbcast, hform⟩ hcmac hrole hlen hty hseq htag hnone hlc)))
  · intro d halloc
    have hgo : ¬ ((u.period = 0 ∧ os = u.last) ∨ 1000 < os.length ∨
        (!m.past u.sent (1000000 * max 1 u.period.toNat)) = true) := by
      rintro (⟨hzero, hsame⟩ | hlong | hearly)
      · exact hdue.elim (fun h => h hzero) fun h => h hsame
      · exact absurd hlong (Nat.not_lt.mpr hlen)
      · rw [hpast] at hearly
        exact Bool.noConfusion hearly
    exact (notifyDue_of_fw hfw).trans (congrArg s.becomes (notify_of_due hsub hget hgo halloc))
  · exact (notifyDue_of_fw hfw).trans (congrArg s.becomes (notify_of_quiet hsub hget
      (hquiet.imp_right fun h => Or.inr (congrArg not h))))
  · exact (blockTransferExpire_of_transfer ht).trans (congrArg s.becomes (if_pos hp))
  · exact (blockTransferExpire_of_transfer ht).trans (congrArg s.becomes (if_neg (ne_true_of_eq_false hp)))
  · rw [lppPop_answers h, hloud, lppPop_of_loud hq]
  · rw [lppPop_answers h, hquiet, lppPop_of_quiet hq]
  · rw [lppNew_answers h, hloud, lppNew_of_room halloc]
  · rw [lppNew_answers h, hloud, lppNew_of_full halloc]

end Sys2Proof.Machine
